-- ==== Sys2Proof/Word.lean ====
section
/-!
DEFINITION. Word types of the Voade 6: the widths the manual gives its registers and words (00 R8, 04 R113, 05 R149).
-/
namespace Sys2Proof

/-- A byte of memory. -/
abbrev Byte := BitVec 8
/-- A scalar register, a slot word, a control register: 64 bits (04 R113, 03 R95). -/
abbrev Word := BitVec 64
/-- A vector register: 1024 bits (05 R146). -/
abbrev Vec := BitVec 1024
/-- A mask register: 128 bits (05 R149). -/
abbrev Mask := BitVec 128
/-- A scale register: 32 codes of 8 bits (02 R55). -/
abbrev Scale := BitVec 256

end Sys2Proof
end

