-- ==== Sys2Proof/Config.lean ====
section
/-!
DEFINITION. What the manual leaves open and the model does not choose: free values. Each is opaque, so a statement about
one holds for every value. What an implementation fixes is listed as plain definitions.
-/
namespace Sys2Proof.Config

/-- A temperature sensor's reading: an input that the manual does not give (17 R501; log 9). -/
opaque sensorTemperature (draw : Nat) (sensor : Nat) : Word
/-- The package power averaged over 1 ms (17 R501; log 9). -/
opaque sensorPower (draw : Nat) : Word
/-- The identity key's signature over a report, 96 bytes as a number (17 R493, R494; log 14). -/
opaque identitySignature (report : List Byte) : BitVec 768
/-- SHA-384 as a function of bytes: the manual names it and leaves it to its standard (17 R494; log 14). -/
opaque sha384 (bytes : List Byte) : BitVec 384
/-- Whether a signature (r, s) over a digest verifies with a key on P-384 (17 R489 to R491; log 14). -/
opaque ecdsaOk (key : List Byte) (digest : BitVec 384) (signature : List Byte) : Bool
/-- The digest of the Obziur root key that the boot ROM holds, and the root key itself (17 R491; log 14). -/
opaque rootKey : List Byte
/-- The digest of the boot ROM (17 R494; log 14). -/
opaque bootRomDigest : BitVec 384
/-- Whether the boot flash answers the boot ROM's read at a boot (17 R482 code 5, R491; log 75). -/
opaque flashAnswers (draw : Nat) : Bool
/-- The cycles that a stage of the boot ROM takes (17 R491, R495; log 75). -/
opaque romTime (draw : Nat) : Nat
/-- A digest of something that the boot ROM could not read (17 R494; log 117). -/
opaque unreadDigest (draw : Nat) : BitVec 384
/-- The outcome of a self-test of one unit: 0 pass, 1 repaired, 2 failed (17 R496; log 15). -/
opaque selfTestResult (draw : Nat) (unit : Nat) : BitVec 8
/-- The margins or failing rows of a self-test entry (17 R496; log 15). -/
opaque selfTestDetail (draw : Nat) (unit : Nat) : BitVec 448
/-- The levels of the package's pins (17 R501; log 10). -/
opaque pinLevels (draw : Nat) : List Bool
/-- Whether the next hop has a credit for a buffer of an output link in a cycle: the neighbour gives it (11 R350; log 101). -/
opaque credit (link : Nat) (buffer : Nat) (cycle : Nat) : Bool
/-- Whether the far end of a link acknowledges its oldest packet in a cycle (11 R362; log 101). -/
opaque acked (link : Nat) (cycle : Nat) : Bool
/-- Whether the host takes the posted write at a position of the host port's queue in a cycle (08 R270; log 105). -/
opaque hostTakes (position : Nat) (cycle : Nat) : Bool

/-- Whether a context's read of host memory takes its data from the posted write at a position of the host port's queue (08 R270; log 105). -/
opaque hostEarly (position : Nat) (cycle : Nat) : Bool
/-- A word that the manual leaves open: the bytes of a flash erase or program that a power loss cuts (17 R485; log 8), and
the HBM4 bytes of lines that Tarn held at a warm reset (17 R500; log 25). -/
opaque freeWord (draw : Nat) : Word

end Sys2Proof.Config
end

