-- ==== Sys2Proof/Machine/Formats.lean ====
section
/-!
DEFINITION. The sixteen number formats by their codes, with the parameters of 02 R47 and the classes the manual
names (float lanes, integer lanes, MX formats).
-/
namespace Sys2Proof.Machine

/-- A format of 02 R47, in code order. -/
inductive Fmt where
  | fp32 | bf16 | fp16 | e4m3 | e5m2 | mxe4m3 | mxe5m2 | mxe3m2 | mxe2m3 | mxe2m1
  | mxi8 | mxi6 | mxi4 | int8 | int32 | fp64
  deriving DecidableEq, Repr, Inhabited

/-- The format of a 4-bit code (02 R47). -/
def fmtOfCode (c : BitVec 4) : Fmt :=
  match c.toNat with
  | 0 => .fp32 | 1 => .bf16 | 2 => .fp16 | 3 => .e4m3 | 4 => .e5m2 | 5 => .mxe4m3 | 6 => .mxe5m2
  | 7 => .mxe3m2 | 8 => .mxe2m3 | 9 => .mxe2m1 | 10 => .mxi8 | 11 => .mxi6 | 12 => .mxi4
  | 13 => .int8 | 14 => .int32 | _ => .fp64

/-- The code of a format (02 R47). -/
def fmtCode (f : Fmt) : Nat :=
  match f with
  | .fp32 => 0 | .bf16 => 1 | .fp16 => 2 | .e4m3 => 3 | .e5m2 => 4 | .mxe4m3 => 5 | .mxe5m2 => 6
  | .mxe3m2 => 7 | .mxe2m3 => 8 | .mxe2m1 => 9 | .mxi8 => 10 | .mxi6 => 11 | .mxi4 => 12
  | .int8 => 13 | .int32 => 14 | .fp64 => 15

/-- Element width in bits (column Width of 02 R47). -/
def fmtWidth (f : Fmt) : Nat :=
  match f with
  | .fp32 => 32 | .bf16 => 16 | .fp16 => 16 | .e4m3 => 8 | .e5m2 => 8 | .mxe4m3 => 8 | .mxe5m2 => 8
  | .mxe3m2 => 6 | .mxe2m3 => 6 | .mxe2m1 => 4 | .mxi8 => 8 | .mxi6 => 6 | .mxi4 => 4
  | .int8 => 8 | .int32 => 32 | .fp64 => 64

/-- Lane width in a vector register: a 6-bit element takes a byte lane (02 R49, 05 R148). -/
def laneWidth (f : Fmt) : Nat := if fmtWidth f = 6 then 8 else fmtWidth f

/-- Elements of a vector register (05 R148). -/
def laneCount (f : Fmt) : Nat := 1024 / laneWidth f

/-- Exponent bits E of 02 R47; 0 for the integer and MXINT formats. -/
def fmtE (f : Fmt) : Nat :=
  match f with
  | .fp32 => 8 | .bf16 => 8 | .fp16 => 5 | .e4m3 => 4 | .e5m2 => 5 | .mxe4m3 => 4 | .mxe5m2 => 5
  | .mxe3m2 => 3 | .mxe2m3 => 2 | .mxe2m1 => 2 | .fp64 => 11 | _ => 0

/-- Mantissa bits M of 02 R47. -/
def fmtM (f : Fmt) : Nat :=
  match f with
  | .fp32 => 23 | .bf16 => 7 | .fp16 => 10 | .e4m3 => 3 | .e5m2 => 2 | .mxe4m3 => 3 | .mxe5m2 => 2
  | .mxe3m2 => 2 | .mxe2m3 => 3 | .mxe2m1 => 1 | .fp64 => 52 | _ => 0

/-- Exponent bias of 02 R47. -/
def fmtBias (f : Fmt) : Nat :=
  match f with
  | .fp32 => 127 | .bf16 => 127 | .fp16 => 15 | .e4m3 => 7 | .e5m2 => 15 | .mxe4m3 => 7 | .mxe5m2 => 15
  | .mxe3m2 => 3 | .mxe2m3 => 1 | .mxe2m1 => 1 | .fp64 => 1023 | _ => 0

/-- Column Inf of 02 R47. -/
def hasInf (f : Fmt) : Bool :=
  match f with
  | .fp32 | .bf16 | .fp16 | .e5m2 | .mxe5m2 | .fp64 => true
  | _ => false

/-- Column NaN of 02 R47. -/
def hasNaN (f : Fmt) : Bool :=
  match f with
  | .fp32 | .bf16 | .fp16 | .e4m3 | .e5m2 | .mxe4m3 | .mxe5m2 | .fp64 => true
  | _ => false

/-- MX formats: codes 5 to 12 (02 R47). -/
def isMX (f : Fmt) : Bool := 5 ≤ fmtCode f && fmtCode f ≤ 12

/-- The MXINT formats (02 R53). -/
def isMXInt (f : Fmt) : Bool := 10 ≤ fmtCode f && fmtCode f ≤ 12

/-- INT8 and INT32. -/
def isInt (f : Fmt) : Bool := fmtCode f == 13 || fmtCode f == 14

/-- Float lanes of the vector slots: codes 0, 1, 2 (05 R152). -/
def isFloatLane (f : Fmt) : Bool := fmtCode f ≤ 2

/-- Lane formats: float lanes and integer lanes (05 R152). -/
def isLane (f : Fmt) : Bool := isFloatLane f || isInt f

/-- The W8 class of array operands (02 R68). -/
def isW8 (f : Fmt) : Bool := [3, 4, 5, 6, 7, 8, 10, 11, 13].contains (fmtCode f)

/-- The W4 class of array operands (02 R68). -/
def isW4 (f : Fmt) : Bool := fmtCode f == 9 || fmtCode f == 12

/-- The operand pairs the array accepts (02 R68). -/
def arrayPair (fa fb : Fmt) : Bool :=
  ((isW8 fa || isW4 fa) && (isW8 fb || isW4 fb)) || (fa == .bf16 && fb == .bf16) || (fa == .fp16 && fb == .fp16)

end Sys2Proof.Machine
end

