-- ==== Sys2Proof/Syntax.lean ====
section
/-!
DEFINITION. The one inductive `Instr`: a constructor for each of the 275 rows of the opcode table. The rows are
of two kinds. Slot operations carry the operand form of 03 R95 that encodes them. Events (the steps of the cores,
of Spring, of the walkers, engines, ports and of the host) carry what identifies the step and, where the world outside
the package decides it, the data it brings.
-/
namespace Sys2Proof

/-! ## Slots and operand forms (03 R80, R95) -/

/-- The slots of a bundle in index order (03 R80). -/
inductive Slot where
  | br | sa | sb | va | vb | ls | sx | xf | mx | cp | sy
  deriving DecidableEq, Repr, Inhabited

/-- Slot classes: SA and SB share one opcode map, and so do VA and VB (03 R100). -/
inductive SlotClass where
  | br | sab | vab | ls | sx | xf | mx | cp | sy
  deriving DecidableEq, Repr, Inhabited

/-- Form BT of `tree`, with the branch-extension word of the bundle when it has one (03 R92). -/
structure BT where
  shape : BitVec 4
  ta : BitVec 5
  tb : BitVec 5
  tc : BitVec 5
  td : BitVec 5
  fall : BitVec 5
  fresh : BitVec 5
  leaf1 : BitVec 16
  ext : Option (BitVec 64)
  deriving DecidableEq, Repr, Inhabited

/-- Form BJ: a signed offset in 8-byte units. -/
structure BJ where
  off : BitVec 32
  deriving DecidableEq, Repr, Inhabited

/-- Form BG: one scalar register. -/
structure BG where
  a : BitVec 6
  deriving DecidableEq, Repr, Inhabited

/-- Form BI: a 16-bit immediate. -/
structure BI where
  imm : BitVec 16
  deriving DecidableEq, Repr, Inhabited

/-- Form SR of the scalar slots. -/
structure SR where
  d : BitVec 6
  a : BitVec 6
  b : BitVec 6
  e : BitVec 6
  x : BitVec 12
  f : BitVec 4
  rm : BitVec 3
  deriving DecidableEq, Repr, Inhabited

/-- Form SI of the scalar slots. -/
structure SI where
  d : BitVec 6
  a : BitVec 6
  x : BitVec 8
  imm : BitVec 32
  deriving DecidableEq, Repr, Inhabited

/-- Form VR of the vector slots. -/
structure VR where
  d : BitVec 10
  a : BitVec 10
  b : BitVec 10
  c : BitVec 10
  m : BitVec 4
  f : BitVec 4
  rm : BitVec 3
  deriving DecidableEq, Repr, Inhabited

/-- Form VX of the vector slots. -/
structure VX where
  d : BitVec 10
  a : BitVec 10
  b : BitVec 10
  m : BitVec 4
  f : BitVec 4
  g : BitVec 4
  rm : BitVec 3
  x : BitVec 7
  deriving DecidableEq, Repr, Inhabited

/-- Form XR of the transform slot. -/
structure XR where
  d : BitVec 10
  a : BitVec 10
  b : BitVec 10
  k : BitVec 6
  f : BitVec 4
  g : BitVec 4
  rm : BitVec 3
  x : BitVec 5
  deriving DecidableEq, Repr, Inhabited

/-- Form LM of the LS slot. -/
structure LM where
  ss : BitVec 4
  pm : BitVec 16
  d : BitVec 10
  a : BitVec 6
  st : BitVec 8
  m : BitVec 4
  x : BitVec 4
  deriving DecidableEq, Repr, Inhabited

/-- Form LG of the LS slot. -/
structure LG where
  ss : BitVec 4
  pm : BitVec 16
  d : BitVec 10
  a : BitVec 6
  b : BitVec 10
  m : BitVec 4
  x : BitVec 2
  deriving DecidableEq, Repr, Inhabited

/-- Form LA of the LS slot. -/
structure LA where
  ss : BitVec 4
  pm : BitVec 16
  d : BitVec 6
  a : BitVec 6
  b : BitVec 6
  e : BitVec 6
  x : BitVec 8
  deriving DecidableEq, Repr, Inhabited

/-- Form KM of the scale slot. -/
structure KM where
  ss : BitVec 4
  pm : BitVec 16
  d : BitVec 6
  a : BitVec 6
  st : BitVec 8
  deriving DecidableEq, Repr, Inhabited

/-- Form KR of the scale slot. -/
structure KR where
  d : BitVec 6
  a : BitVec 10
  x : BitVec 16
  deriving DecidableEq, Repr, Inhabited

/-- Form MM of the matrix slot. -/
structure MM where
  ss : BitVec 4
  pm : BitVec 16
  acc : BitVec 2
  ka : BitVec 1
  ra : BitVec 6
  ha : BitVec 5
  kb : BitVec 1
  rb : BitVec 6
  hb : BitVec 5
  sg : BitVec 6
  deriving DecidableEq, Repr, Inhabited

/-- Form MC of the matrix slot. -/
structure MC where
  ss : BitVec 4
  pm : BitVec 16
  acc : BitVec 2
  ra : BitVec 6
  rb : BitVec 6
  x : BitVec 12
  sg : BitVec 6
  deriving DecidableEq, Repr, Inhabited

/-- Form CD of the copy slot. -/
structure CD where
  ss : BitVec 4
  pm : BitVec 16
  v : BitVec 10
  sg : BitVec 6
  st : BitVec 8
  x : BitVec 8
  deriving DecidableEq, Repr, Inhabited

/-- Form Y of the SY slot. For an operation without suffix, ss and pm are reserved (03 R96). -/
structure YF where
  ss : BitVec 4
  pm : BitVec 16
  d : BitVec 6
  a : BitVec 6
  b : BitVec 6
  x : BitVec 14
  deriving DecidableEq, Repr, Inhabited

/-! ## What events name and carry -/

/-- A context position: cluster, core (even for a joined pair) and context number (06 R192). -/
structure CtxId where
  cl : Nat
  core : Nat
  ctx : Nat
  deriving DecidableEq, Repr, Inhabited

/-- An iteration: launch entry, task index, ordinal (01 R13, R23). -/
structure IterId where
  entry : Nat
  task : Nat
  ord : Nat
  deriving DecidableEq, Repr, Inhabited

/-- The packet kinds of 11 R351; `unsent` is a kind of 14 or 15, which a port that receives it discards. -/
inductive PktKind where
  | read | write | atomic | reduction | readData | ack | nack | fifoWord
  | collOpen | collBlock | collClose | error | purge | purgeAck | unsent
  deriving DecidableEq, Repr, Inhabited

/-- A packet (11 R351). Header fields are named as the manual names them; `ss` and `pm` are its operation's stream and mask
(08 R266). `ok` says whether its header passes its check, `via` by which link it comes in. `rid` and `ext` are the model's own names for what the manual has no field for (log 11): the request an answer
belongs to, and what a target must know besides of a collective or of a `vlds`. -/
structure Packet where
  dst : Nat
  src : Nat
  tc : Nat
  kind : PktKind
  tag : Nat
  op : BitVec 8
  addr : BitVec 56
  spec : BitVec 128
  data : List Byte
  rid : Nat
  ss : Nat := 0
  pm : BitVec 16 := 0
  ext : List Byte := []
  vc : Bool := false
  esc : Bool := false
  ok : Bool := true
  via : Option Nat := none
  /-- Whether the sending port had accepted the store, which a purge then leaves (08 R256, 12 R419). -/
  kept : Bool := false
  deriving DecidableEq, Repr, Inhabited

/-- Where a FIFO word moves: out of this package's send FIFO, or into its receive FIFO (11 R353). -/
inductive FifoMove where
  | depart (cl link : Nat)
  | arrive (cl link : Nat) (w : Word)
  deriving DecidableEq, Repr, Inhabited

/-- The place of a packet in its RDMA message (11 R376). -/
inductive RdmaPart where
  | only | first | middle | last
  deriving DecidableEq, Repr, Inhabited

/-- What arrives on a scale-out port (11 R376, R378): a packet of a write, whose address, key and length an Only or a First one
gives; a read request, each with its sequence number; the answers of a `cpn`, a read response in packets; the ECN mark on a packet of a queue pair; a congestion
notification packet; a pause or its end of the priority that flow control serves; and what is not supported. -/
inductive RdmaOp where
  | write (part : RdmaPart) (qp psn : Nat) (va : Nat) (rkey : BitVec 32) (len : Nat) (data : List Byte)
  | read (qp psn : Nat) (va : Nat) (rkey : BitVec 32) (len : Nat)
  | ack (c : CtxId) (seq : Nat)
  | nak (c : CtxId) (seq : Nat)
  | readResponse (part : RdmaPart) (c : CtxId) (seq : Nat) (data : List Byte)
  | marked (qp : Nat)
  | congestion (qp : Nat)
  | pause (on : Bool)
  | unsupported
  deriving DecidableEq, Repr, Inhabited

/-- Causes of a purge, with the codes of notice 1 (17 R485). -/
inductive PurgeCause where
  | poison | instr | abort | drain | shTrap | mismatch | host | remote
  deriving DecidableEq, Repr, Inhabited

/-- Where a bit flips of itself (SOFT_ERROR; 07 R225, 09 R279, 12 R422): of a containment table, the bit of a word of 64 data bits and
8 check bits in one of its two copies. -/
inductive FlipAt where
  | mere (cl off : Nat) (bit : Nat)
  | hbm (pa : Nat) (bit : Nat)
  | carved (off : Nat) (bit : Nat)
  | bankElem (cl bank row col bit : Nat)
  | bankSrow (cl bank row bit : Nat)
  | bankArow (cl bank row bit : Nat)
  | bankScol (cl bank col bit : Nat)
  | bankAcol (cl bank col bit : Nat)
  | table (t word copy bit : Nat)
  deriving DecidableEq, Repr, Inhabited

/-- A host access: a read of BAR0 (17 R481), or an access to device global memory through the BAR2 window (offset in it) or,
where `hdm` is set, through the CXL range (physical address; R480). Atomics: 0 add, 1 swap, 2 compare (with `u`) and swap
(R479). -/
inductive HostAccess where
  | bar0 (off len : Nat)
  | read (hdm : Bool) (addr len : Nat)
  | write (hdm : Bool) (addr : Nat) (data : List Byte)
  | atomic (hdm : Bool) (addr op size u v : Nat)
  deriving DecidableEq, Repr, Inhabited

/-! ## The instructions and events: one constructor per row of the opcode table -/

inductive Instr where
  -- core events
  | presentBundle (cl core : Nat)
  | blockClears (c : CtxId)
  | interlockedWrite (c : CtxId)
  | landing (c : CtxId)
  | operationPerformed (c : CtxId) (seq : Nat)
  | watchdog (c : CtxId)
  | fifoTimeout (c : CtxId)
  | leaseTimeout (c : CtxId)
  | leaseWaitEvent (c : CtxId)
  | sleepWake (c : CtxId)
  | signatureMatch (cl pair : Nat) (equal : Bool)
  | pairModeChange (cl pair : Nat)
  -- Spring and the nest walkers
  | releaseTask (e t : Nat)
  | placeIteration (e t : Nat)
  | placementComplete (it : IterId)
  | preempt (e t : Nat)
  | preemptDrainTimeout (it : IterId)
  | resumeIteration (it : IterId)
  | completionPost (it : IterId)
  -- array
  | leaseGrant (cl : Nat)
  | leaseEnd (cl : Nat)
  | mxQueueTransfer (cl : Nat)
  | arrayCommandStart (cl : Nat)
  | arrayCommandComplete (cl : Nat)
  | rowRetire (cl : Nat)
  -- copy engine
  | cpCommandStart (cl : Nat)
  | engineAccessResume (c : CtxId) (seq : Nat)
  | cpCommandComplete (c : CtxId) (seq : Nat)
  -- ports, links, collectives
  | packetReceive (p : Packet)
  | responseReceive (p : Packet)
  | logEntryReplayed (i : Nat)
  | logEntryAbandoned (i : Nat)
  | fifoWordArrive (mv : FifoMove)
  | flitReplay (link : Nat)
  | linkRetrain (link : Nat)
  | linkDown (link : Nat)
  | linkRestored (link : Nat)
  | deadlockTimer (link vc : Nat)
  | collOpenReceive (p : Packet)
  | collBlockReceive (p : Packet) (crcOk : Bool)
  | collCloseReceive (p : Packet)
  | rdmaReceive (port : Nat) (op : RdmaOp)
  -- containment, translation, migration
  | purgeStart (tag : Nat) (cause : PurgeCause)
  | purgePacketReceive (p : Packet)
  | purgeAckReceive (p : Packet)
  -- power, thermal, reset
  | droopAlarm (region : Nat)
  | resetreqWrite (v : Word) (bytes : Nat)
  -- host
  | doorbellArm (e : Nat) (v : Word)
  | doorbellDisarm (e : Nat) (v : Word)
  | hostInvalidate (w : Word)
  | hostPurgeRequest (w : Word)
  | mgmtcfgWrite (w : Word)
  | pairmodeWrite (cl : Nat) (w : Word)
  | devtimeLWrite (w : Word)
  | bootFlashErase (w : Word)
  | bootFlashProgram (off : Nat) (w : Word)
  | hostMemoryAccess (a : HostAccess)
  | registerWrite (off : Nat) (w : Word)
  | smbusReadTemperature (n : Nat)
  | smbusWarmReset (v : Word)
  | jtagSamplePreload (pins : List Bool)
  -- slot operations
  | nop (s : Slot)
  | tree (o : BT)
  | jmp (o : BJ)
  | jmpr (o : BG)
  | call (o : BJ)
  | callr (o : BG)
  | trap (o : BI)
  | add (o : SR)
  | sub (o : SR)
  | mul (o : SR)
  | mulh (o : SR)
  | mulhz (o : SR)
  | div (o : SR)
  | divz (o : SR)
  | rem (o : SR)
  | remz (o : SR)
  | and (o : SR)
  | or (o : SR)
  | xor (o : SR)
  | andn (o : SR)
  | shl (o : SR)
  | shr (o : SR)
  | sar (o : SR)
  | rot (o : SR)
  | min (o : SR)
  | max (o : SR)
  | minz (o : SR)
  | maxz (o : SR)
  | abs (o : SR)
  | clz (o : SR)
  | ctz (o : SR)
  | popc (o : SR)
  | sext (o : SR)
  | bfx (o : SR)
  | bfxz (o : SR)
  | bfi (o : SR)
  | lea (o : SR)
  | addi (o : SI)
  | andi (o : SI)
  | ori (o : SI)
  | xori (o : SI)
  | movi (o : SI)
  | movhi (o : SI)
  | cmpi (o : SI)
  | mov (o : SR)
  | sel (o : SR)
  | cmp (o : SR)
  | cset (o : SR)
  | fadd (o : SR)
  | fsub (o : SR)
  | fmul (o : SR)
  | ffma (o : SR)
  | fdiv (o : SR)
  | fsqrt (o : SR)
  | fmin (o : SR)
  | fmax (o : SR)
  | fcmp (o : SR)
  | fcvt (o : SR)
  | fclass (o : SR)
  | vadd (o : VX)
  | vsub (o : VX)
  | vmul (o : VX)
  | vmin (o : VX)
  | vmax (o : VX)
  | vcopysgn (o : VX)
  | vabs (o : VX)
  | vneg (o : VX)
  | vround (o : VX)
  | vrcp (o : VX)
  | vrsq (o : VX)
  | vsqrt (o : VX)
  | vfn (o : VX)
  | vfma (o : VR)
  | vfms (o : VR)
  | vclamp (o : VR)
  | vdot (o : VR)
  | vcmp (o : VX)
  | vsel (o : VX)
  | vand (o : VX)
  | vor (o : VX)
  | vxor (o : VX)
  | vnot (o : VX)
  | vshl (o : VX)
  | vshr (o : VX)
  | vsar (o : VX)
  | vcvt (o : VX)
  | vpack (o : VX)
  | vunpk (o : VX)
  | vperm (o : VX)
  | vshuf (o : VX)
  | vbcast (o : VX)
  | vmovs (o : VX)
  | vins (o : VX)
  | vidx (o : VX)
  | vredSum (o : VX)
  | vredMin (o : VX)
  | vredMax (o : VX)
  | vredVsum (o : VX)
  | vredRsum (o : VX)
  | vscan (o : VX)
  | vnfchk (o : VX)
  | mand (o : VX)
  | mor (o : VX)
  | mxor (o : VX)
  | mnot (o : VX)
  | mpop (o : VX)
  | mfirst (o : VX)
  | mset (o : VX)
  | vrand (o : VX)
  | kld (o : KM)
  | kst (o : KM)
  | kmov (o : KR)
  | kset (o : KR)
  | kmax (o : KR)
  | xtr (o : XR)
  | xexp (o : XR)
  | xcvt (o : XR)
  | xqnt (o : XR)
  | xamx (o : XR)
  | xswz (o : XR)
  | ld (o : LM)
  | st (o : LM)
  | vld (o : LM)
  | vst (o : LM)
  | vlds (o : LM)
  | vgth (o : LG)
  | vsct (o : LG)
  | amo (o : LA)
  | cas (o : LA)
  | red (o : LA)
  | vredm (o : LG)
  | pref (o : LM)
  | mma (o : MM)
  | mmao (o : MM)
  | mzero (o : MC)
  | mload (o : MC)
  | mchk (o : MC)
  | mdrain (o : MC)
  | mrel (o : MC)
  | cpy (o : CD)
  | cpyt (o : CD)
  | cpst (o : CD)
  | cpz (o : CD)
  | cpzTile (o : CD)
  | cpxOut (o : CD)
  | cpxIn (o : CD)
  | cpnWr (o : CD)
  | cpnRd (o : CD)
  | coll (o : CD)
  | give (o : YF)
  | take (o : YF)
  | waits (o : YF)
  | phreg (o : YF)
  | phdrop (o : YF)
  | pharr (o : YF)
  | phwait (o : YF)
  | phaw (o : YF)
  | tbinit (o : YF)
  | tbexp (o : YF)
  | tbarr (o : YF)
  | tbwait (o : YF)
  | done (o : YF)
  | jraise (o : YF)
  | launchOn (o : YF)
  | launchOff (o : YF)
  | evrd (o : YF)
  | csrr (o : YF)
  | csrw (o : YF)
  | csrs (o : YF)
  | csrc (o : YF)
  | hpinOn (o : YF)
  | hpinOff (o : YF)
  | hpri (o : YF)
  | hdem (o : YF)
  | hevict (o : YF)
  | hmov (o : YF)
  | purge (o : YF)
  | qflushCp (o : YF)
  | qflushMx (o : YF)
  | rdtime (o : YF)
  | sleep (o : YF)
  -- late rows of the table
  | droopAlarmCleared (region : Nat)
  | softError (f : FlipAt)
  -- rows that carry no data: branch operations without operands, and events of the whole part. Where such an event
  -- concerns one of several candidates, `State.which` names it (log 2)
  | launchStart
  | timeSlot
  | instanceComplete
  | lossyClose
  | scrub
  | invalidationPerformed
  | hmovMigrate
  | holdEnter
  | holdExit
  | supplyRetentionLoss
  | throttleEnter
  | throttleExit
  | thermalTrip
  | powerOnReset
  | warmReset
  | functionLevelReset
  | droppedCountRead
  | attestationRequest
  | attestationReady
  | smbusReadDevstat
  | smbusReadPower
  | smbusReadDropped
  | jtagBypass
  | jtagIdcode
  | jtagExtest
  | ret
  | eret
  | halt
  | yield
  | rdmaAckTimeout
  | bootFlashOperationComplete
  deriving DecidableEq, Repr, Inhabited

end Sys2Proof
end

