-- ==== Sys2Proof/Machine/Legal.lean ====
section
/-!
DEFINITION. The checks that a slot operation's own fields must pass at decode: reserved bits, operand limits and
formats. Each answers the sub-cause of ILLEGAL_OP (06 R202) that the first violated rule gives, or none. Where several
rules are violated at once the manual does not order their sub-causes: reserved bits come first here, then the rest in
the order written (log 12). A field an operation does not use is reserved (03 R95), so it gives sub-cause 1 unless a rule
names another (log 13).
-/
namespace Sys2Proof.Machine

/-- The sub-cause of the first violated check. -/
def firstBad : List (Bool × Nat) → Option Nat
  | [] => none
  | (bad, sub) :: rest => if bad then some sub else firstBad rest

/-- A reserved field holds a nonzero bit. -/
def nz {w : Nat} (b : BitVec w) : Bool := b != 0

/-- Operand width n of an integer size code (03 R99). -/
def sizeBits (c : BitVec 2) : Nat := 64 >>> c.toNat

/-- Access size in bytes of a size code (07 R243). -/
def sizeBytes (c : BitVec 2) : Nat := 8 >>> c.toNat

/-- The size field f[1:0] of form SR, x[1:0] of form SI (03 R99, 04 R120). -/
def srN (o : SR) : Nat := sizeBits (o.f.extractLsb' 0 2)
def siN (o : SI) : Nat := sizeBits (o.x.extractLsb' 0 2)

/-- Reserved fields of every integer instruction of form SR, and `.s` with `.d` (03 R99, 04 R119). -/
def badInt (o : SR) : List (Bool × Nat) :=
  [(nz o.rm, 1), (nz o.e, 1), (o.f.getLsbD 3, 1), (o.f.getLsbD 2 && o.f.extractLsb' 0 2 == 0, 2)]

/-- Two-source integer instructions (04 R122). -/
def badInt2 (o : SR) : Option Nat := firstBad ((nz o.x, 1) :: badInt o)

/-- One-source integer instructions (04 R124). -/
def badInt1 (o : SR) : Option Nat := firstBad ((nz o.x, 1) :: (nz o.b, 1) :: badInt o)

/-- Position and length of the bit-field instructions (04 R125). -/
def srPos (o : SR) : Nat := (o.x.extractLsb' 0 6).toNat
def srLen (o : SR) : Nat := (o.x.extractLsb' 6 6).toNat + 1

def badSext (o : SR) : Option Nat :=
  firstBad ((nz (o.x.extractLsb' 6 6), 1) :: (nz o.b, 1) :: (badInt o ++ [(decide (srN o ≤ srPos o), 2)]))

def badBf (o : SR) : Option Nat :=
  firstBad ((nz o.b, 1) :: (badInt o ++ [(decide (srN o ≤ srPos o) || decide (srN o < srPos o + srLen o), 2)]))

def badLea (o : SR) : Option Nat := firstBad ((nz (o.x.extractLsb' 3 9), 1) :: badInt o)

/-- Register classes of `mov` (04 R128): 0 s, 1 c, 2 h, 3 cc. A register number of a class must fit the class. -/
def movRegBad (cls : Nat) (r : BitVec 6) : Bool :=
  match cls with
  | 0 => false
  | 1 => nz (r.extractLsb' 4 2)
  | 2 => nz (r.extractLsb' 5 1)
  | _ => nz r

/-- The pairs of classes `mov` accepts, destination first (04 R128). -/
def movPair (dc ac : Nat) : Bool :=
  [(0, 0), (1, 0), (0, 1), (1, 1), (2, 0), (0, 2), (2, 2), (0, 3), (3, 0)].contains (dc, ac)

def srMovD (o : SR) : Nat := (o.x.extractLsb' 0 2).toNat
def srMovA (o : SR) : Nat := (o.x.extractLsb' 2 2).toNat

def badMov (o : SR) : Option Nat :=
  firstBad [(nz (o.x.extractLsb' 4 8), 1), (nz o.b, 1), (nz o.e, 1), (nz o.rm, 1), (o.f.getLsbD 3, 1),
    (movRegBad (srMovD o) o.d, 1), (movRegBad (srMovA o) o.a, 1),
    (!((srMovD o) == 0 && (srMovA o) == 0) && o.f.getLsbD 2, 2),
    (!((srMovD o) == 0 && (srMovA o) == 0) && nz (o.f.extractLsb' 0 2), 1),
    ((srMovD o) == 0 && (srMovA o) == 0 && o.f.getLsbD 2 && o.f.extractLsb' 0 2 == 0, 2),
    (!movPair (srMovD o) (srMovA o), 2)]

def badSel (o : SR) : Option Nat :=
  firstBad [(nz o.x, 1), (nz o.rm, 1), (nz (o.e.extractLsb' 4 2), 1), (o.f.getLsbD 3, 1),
    (o.f.getLsbD 2 && o.f.extractLsb' 0 2 == 0, 2)]

def badCmp (o : SR) : Option Nat :=
  firstBad [(nz (o.d.extractLsb' 4 2), 1), (nz (o.x.extractLsb' 4 8), 1), (nz o.e, 1), (nz o.rm, 1), (o.f.getLsbD 3, 1),
    (o.f.getLsbD 2, 2), (10 ≤ (o.x.extractLsb' 0 4).toNat, 2)]

def badCset (o : SR) : Option Nat :=
  firstBad [(nz (o.d.extractLsb' 4 2), 1), (nz (o.a.extractLsb' 4 2), 1), (nz (o.b.extractLsb' 4 2), 1),
    (nz (o.x.extractLsb' 4 8), 1), (nz o.e, 1), (nz o.rm, 1), (o.f.getLsbD 3, 1), (o.f.getLsbD 2, 2),
    (nz (o.f.extractLsb' 0 2), 1),
    (8 ≤ (o.x.extractLsb' 0 4).toNat && (o.x.extractLsb' 0 4).toNat ≤ 9 && nz o.b, 1),
    (10 ≤ (o.x.extractLsb' 0 4).toNat, 2)]

/-- Immediate arithmetic (04 R120, R127). -/
def badSI (o : SI) : Option Nat :=
  firstBad [(nz (o.x.extractLsb' 3 5), 1), (o.x.getLsbD 2 && o.x.extractLsb' 0 2 == 0, 2)]

def badMovi (o : SI) : Option Nat :=
  firstBad [(nz (o.x.extractLsb' 3 5), 1), (nz o.a, 1), (nz (o.x.extractLsb' 0 2), 1)]

def badMovhi (o : SI) : Option Nat := firstBad [(nz o.x, 1), (nz o.a, 1)]

def badCmpi (o : SI) : Option Nat :=
  firstBad [(nz (o.d.extractLsb' 4 2), 1), (o.x.getLsbD 3, 1), (o.x.getLsbD 2, 2), (10 ≤ (o.x.extractLsb' 4 4).toNat, 2)]

/-- Static rounding modes a scalar instruction may name (02 R57, R59). -/
def badRmScalar (rm : BitVec 3) : Bool := 4 ≤ rm.toNat && rm.toNat ≤ 6

/-- Static rounding modes a vector, transform or engine operation may name (02 R57). -/
def badRm (rm : BitVec 3) : Bool := rm.toNat == 5 || rm.toNat == 6

/-- FP32 and FP64, the formats of scalar float arithmetic (04 R132). -/
def badScalarFmt (f : BitVec 4) : Bool := !(f.toNat == 0 || f.toNat == 15)

def badF2 (o : SR) : Option Nat :=
  firstBad [(nz o.x, 1), (nz o.e, 1), (badScalarFmt o.f, 3), (badRmScalar o.rm, 2)]

def badFfma (o : SR) : Option Nat :=
  firstBad [(nz o.x, 1), (badScalarFmt o.f, 3), (badRmScalar o.rm, 2)]

def badFsqrt (o : SR) : Option Nat :=
  firstBad [(nz o.x, 1), (nz o.e, 1), (nz o.b, 1), (badScalarFmt o.f, 3), (badRmScalar o.rm, 2)]

def badFminmax (o : SR) : Option Nat :=
  firstBad [(nz o.x, 1), (nz o.e, 1), (nz o.rm, 1), (badScalarFmt o.f, 3)]

/-- Codes 0 to 4 and 15 (04 R135, R137). -/
def badFcmpFmt (f : BitVec 4) : Bool := !(f.toNat ≤ 4 || f.toNat == 15)

/-- The float comparison codes of 04 R135. -/
def badFcond (c : Nat) : Bool := !(c ≤ 5 || c == 10 || c == 11)

def badFcmp (o : SR) : Option Nat :=
  firstBad [(nz (o.d.extractLsb' 4 2), 1), (nz (o.x.extractLsb' 4 8), 1), (nz o.e, 1), (nz o.rm, 1),
    (badFcmpFmt o.f, 3), (badFcond (o.x.extractLsb' 0 4).toNat, 2)]

def badFcvt (o : SR) : Option Nat :=
  let s := (o.x.extractLsb' 0 4).toNat
  let d := o.f.toNat
  firstBad [(nz (o.x.extractLsb' 5 7), 1), (nz o.e, 1), (nz o.b, 1),
    ((5 ≤ d && d ≤ 12) || (5 ≤ s && s ≤ 12), 3),
    ((d == 13 || d == 14) && (s == 13 || s == 14), 2),
    (o.x.getLsbD 4 && !(d == 14 || s == 14), 2), (badRmScalar o.rm, 2)]

def badFclass (o : SR) : Option Nat :=
  firstBad [(nz o.x, 1), (nz o.e, 1), (nz o.b, 1), (nz o.rm, 1), (badFcmpFmt o.f, 3)]

/-! ## Vector slots (05 R152 to R174) -/

def vxFmt (o : VX) : Fmt := fmtOfCode o.f
def vrFmt (o : VR) : Fmt := fmtOfCode o.f

/-- rm of an operation that rounds in float lanes and not in integer lanes (05 R153). -/
def badLaneRm (f : Fmt) (rm : BitVec 3) : Bool := if isInt f then nz rm else badRm rm

def badVaddsub (o : VX) : Option Nat :=
  firstBad [(nz o.g, 1), (if isInt (vxFmt o) then nz (o.x.extractLsb' 1 6) else nz o.x, 1), (!isLane (vxFmt o), 3),
    (badLaneRm (vxFmt o) o.rm, 2)]

def badVmul (o : VX) : Option Nat :=
  firstBad [(nz o.g, 1), (nz o.x, 1), (!isLane (vxFmt o), 3), (badLaneRm (vxFmt o) o.rm, 2)]

def badVminmax (o : VX) : Option Nat := firstBad [(nz o.g, 1), (nz o.x, 1), (!isLane (vxFmt o), 3), (nz o.rm, 2)]

def badVcopysgn (o : VX) : Option Nat := firstBad [(nz o.g, 1), (nz o.x, 1), (!isFloatLane (vxFmt o), 3), (nz o.rm, 2)]

def badVabsneg (o : VX) : Option Nat :=
  firstBad [(nz o.b, 1), (nz o.g, 1), (nz o.x, 1), (!isLane (vxFmt o), 3), (nz o.rm, 2)]

def badVround (o : VX) : Option Nat :=
  firstBad [(nz o.b, 1), (nz o.g, 1), (nz o.x, 1), (!isFloatLane (vxFmt o), 3), (badRm o.rm, 2)]

def badVfn (o : VX) : Option Nat :=
  firstBad [(nz o.b, 1), (nz o.x, 1), (!isFloatLane (vxFmt o), 3), (4 < o.g.toNat, 2), (badRm o.rm, 2)]

def badVfma (o : VR) : Option Nat := firstBad [(!isLane (vrFmt o), 3), (badLaneRm (vrFmt o) o.rm, 2)]

def badVclamp (o : VR) : Option Nat := firstBad [(!isLane (vrFmt o), 3), (nz o.rm, 2)]

def badVdot (o : VR) : Option Nat :=
  firstBad [(!(o.f.toNat == 1 || o.f.toNat == 2 || o.f.toNat == 13), 3), (badLaneRm (vrFmt o) o.rm, 2)]

/-- Codes 0 to 4, 13 and 14 (05 R159, R163). -/
def badCvtFmt (f : BitVec 4) : Bool := !(f.toNat ≤ 4 || f.toNat == 13 || f.toNat == 14)

def badVcmp (o : VX) : Option Nat :=
  let c := (o.x.extractLsb' 0 4).toNat
  firstBad [(nz (o.d.extractLsb' 4 6), 1), (nz (o.x.extractLsb' 4 3), 1), (nz o.g, 1), (badCvtFmt o.f, 3), (nz o.rm, 2),
    (if isInt (vxFmt o) then decide (10 ≤ c) else badFcond c, 2)]

/-- Code 15 is no format of a vector operation (02 R48). -/
def badAny (f : BitVec 4) : Bool := f.toNat == 15

def badVsel (o : VX) : Option Nat := firstBad [(nz o.g, 1), (nz o.x, 1), (badAny o.f, 3), (nz o.rm, 2)]

def badVlogic (o : VX) : Option Nat := firstBad [(nz o.g, 1), (nz o.x, 1), (nz o.f, 1), (nz o.rm, 2)]

def badVnot (o : VX) : Option Nat := firstBad [(nz o.b, 1), (nz o.g, 1), (nz o.x, 1), (nz o.f, 1), (nz o.rm, 2)]

def badVshift (o : VX) : Option Nat :=
  firstBad [(nz o.g, 1), (o.x.getLsbD 5, 1), (if o.x.getLsbD 6 then nz o.b else nz (o.x.extractLsb' 0 5), 1),
    (!isInt (vxFmt o), 3), (nz o.rm, 2)]

/-- The ratio R of a conversion between lane widths (05 R163). -/
def cvtRatio (fd fs : Fmt) : Nat :=
  Nat.max (laneWidth fd) (laneWidth fs) / Nat.min (laneWidth fd) (laneWidth fs)

def badVcvt (o : VX) : Option Nat :=
  firstBad [(nz o.b, 1), (nz (o.x.extractLsb' 2 5), 1), (badCvtFmt o.f || badCvtFmt o.g, 3),
    (cvtRatio (vxFmt o) (fmtOfCode o.g) ≤ (o.x.extractLsb' 0 2).toNat, 2),
    (if isInt (vxFmt o) && isInt (fmtOfCode o.g) then nz o.rm else badRm o.rm, 2)]

def badVpack (o : VX) : Option Nat :=
  firstBad [(nz o.b, 1), (nz o.g, 1), (nz o.x, 1), (nz o.m, 1), (!(fmtWidth (vxFmt o) == 6), 3), (nz o.rm, 2)]

/-- Formats of 8-, 16- or 32-bit lanes (05 R165, R179). -/
def badWide (f : BitVec 4) : Bool := f.toNat == 15 || laneWidth (fmtOfCode f) == 4

def badVperm (o : VX) : Option Nat :=
  firstBad [(nz (o.x.extractLsb' 1 6), 1), (nz o.g, 1), (badWide o.f, 3), (nz o.rm, 2)]

def badVshuf (o : VX) : Option Nat :=
  firstBad [(4 ≤ o.g.toNat && nz o.b, 1), (o.g.toNat != 5 && nz o.x, 1), (badAny o.f, 3), (nz o.rm, 2),
    (5 < o.g.toNat, 2), (o.g.toNat == 5 && decide (laneCount (vxFmt o) ≤ o.x.toNat), 2)]

def badVbcast (o : VX) : Option Nat :=
  firstBad [(nz o.b, 1), (o.g.toNat == 1 && (nz o.x || nz (o.a.extractLsb' 6 4)), 1), (badAny o.f, 3), (nz o.rm, 2),
    (1 < o.g.toNat, 2), (o.g.toNat == 0 && decide (laneCount (vxFmt o) ≤ o.x.toNat), 2)]

def badVmovs (o : VX) : Option Nat :=
  firstBad [(nz o.b, 1), (nz o.g, 1), (nz o.m, 1), (nz (o.d.extractLsb' 6 4), 1), (badAny o.f, 3), (nz o.rm, 2),
    (laneCount (vxFmt o) ≤ o.x.toNat, 2)]

def badVins (o : VX) : Option Nat :=
  firstBad [(nz o.b, 1), (nz o.g, 1), (nz o.m, 1), (nz (o.a.extractLsb' 6 4), 1), (badAny o.f, 3), (nz o.rm, 2),
    (laneCount (vxFmt o) ≤ o.x.toNat, 2)]

def badVidx (o : VX) : Option Nat :=
  firstBad [(nz o.b, 1), (nz o.g, 1), (nz o.m, 1), (nz (o.a.extractLsb' 6 4), 1), (!isInt (vxFmt o), 3), (nz o.rm, 2)]

def badVredH (g : Nat) (rounds : Bool) (o : VX) : Option Nat :=
  firstBad [(nz o.b, 1), (nz o.x, 1), (!isLane (vxFmt o), 3), (o.g.toNat != g, 2),
    (if rounds then badLaneRm (vxFmt o) o.rm else nz o.rm, 2)]

/-- The register count N of a vertical reduction (05 R170). -/
def vxRegs (o : VX) : Nat := (o.x.extractLsb' 0 6).toNat + 1

def badVredV (g : Nat) (o : VX) : Option Nat :=
  firstBad [(nz o.b, 1), (o.x.getLsbD 6, 1), (if g = 4 then nz o.f else !isLane (vxFmt o), 3), (o.g.toNat != g, 2),
    (1023 < o.a.toNat + vxRegs o - 1, 2), (badLaneRm (vxFmt o) o.rm, 2)]

def badVscan (o : VX) : Option Nat :=
  firstBad [(nz o.b, 1), (nz o.g, 1), (nz o.x, 1), (!isLane (vxFmt o), 3), (badLaneRm (vxFmt o) o.rm, 2)]

def badVnfchk (o : VX) : Option Nat :=
  firstBad [(nz (o.d.extractLsb' 4 6), 1), (nz o.b, 1), (nz o.g, 1), (nz o.x, 1), (4 < o.f.toNat, 3), (nz o.rm, 2)]

/-- High bits of a field that names a mask register, or a scalar register (05 R173). -/
def hiM (r : BitVec 10) : Bool := nz (r.extractLsb' 4 6)
def hiS (r : BitVec 10) : Bool := nz (r.extractLsb' 6 4)

/-- The mask instructions (05 R173): their nonzero rm is the sub-cause 2 of R153, not the reserved bit of 06 R202 (log 94). -/
def badMlogic (o : VX) : Option Nat :=
  firstBad [(hiM o.d || hiM o.a || hiM o.b, 1), (nz o.m || nz o.f || nz o.g || nz o.x, 1), (nz o.rm, 2)]

def badMnot (o : VX) : Option Nat :=
  firstBad [(hiM o.d || hiM o.a || nz o.b, 1), (nz o.m || nz o.f || nz o.g || nz o.x, 1), (nz o.rm, 2)]

def badMpop (o : VX) : Option Nat :=
  firstBad [(hiS o.d || hiM o.a || nz o.b, 1), (nz o.m || nz o.g || nz o.x, 1), (badAny o.f, 3), (nz o.rm, 2)]

def badMset (o : VX) : Option Nat :=
  firstBad [(hiM o.d || hiS o.a || nz o.b, 1), (nz o.m || nz o.f || nz o.g || nz (o.x.extractLsb' 1 6), 1), (nz o.rm, 2)]

def badVrand (o : VX) : Option Nat :=
  firstBad [(hiS o.b, 1), (nz o.f || nz o.g || nz o.x, 1), (nz o.rm, 2)]

/-! ## Scale and transform slots (05 R175 to R184) -/

def badKmov (o : KR) : Option Nat := firstBad [(hiS o.a, 1), (nz o.x, 1)]

def badKset (o : KR) : Option Nat :=
  firstBad [(nz o.a, 1), (nz (o.x.extractLsb' 14 2), 1), (!o.x.getLsbD 8 && nz (o.x.extractLsb' 9 5), 1)]

def xrFd (o : XR) : Fmt := fmtOfCode o.f
def xrFs (o : XR) : Fmt := fmtOfCode o.g

def badXtr (o : XR) : Option Nat :=
  firstBad [(nz o.b, 1), (nz o.k || nz o.g || nz o.rm, 1), (nz (o.x.extractLsb' 2 3), 1), (badWide o.f, 3),
    (laneCount (xrFd o) < 2 ^ ((o.x.extractLsb' 0 2).toNat + 1), 2)]

def badXexp (o : XR) : Option Nat :=
  firstBad [(nz o.k || nz o.g || nz o.rm, 1), (nz (o.x.extractLsb' 1 4), 1), (badWide o.f, 3)]

def badXcvt (o : XR) : Option Nat :=
  firstBad [(nz o.b, 1), (!isMX (xrFs o) && (nz o.k || nz (o.x.extractLsb' 3 2)), 1), (badCvtFmt o.f || badAny o.g, 3),
    (cvtRatio (xrFd o) (xrFs o) ≤ (o.x.extractLsb' 0 3).toNat, 2),
    (if isInt (xrFd o) && isInt (xrFs o) then nz o.rm else badRm o.rm, 2)]

/-- Blocks B of an `xqnt` or `xamx` source (05 R182). -/
def srcBlocks (f : Fmt) : Nat := laneCount f / 32

def badXqnt (o : XR) : Option Nat :=
  firstBad [(nz (o.x.extractLsb' 3 2), 1), (nz (o.b.extractLsb' 5 5), 1), (!isMX (xrFd o) || 2 < o.g.toNat, 3),
    (laneCount (xrFd o) / 32 < (o.x.extractLsb' 0 3).toNat + srcBlocks (xrFs o), 2),
    (32 < (o.b.extractLsb' 0 5).toNat + srcBlocks (xrFs o), 2), (badRm o.rm, 2)]

def badXamx (o : XR) : Option Nat :=
  firstBad [(nz o.b || nz o.k || nz o.rm || nz o.x || nz o.f, 1), (2 < o.g.toNat, 3)]

def badXswz (o : XR) : Option Nat :=
  firstBad [(nz o.f || nz o.k || nz o.b || nz o.rm, 1), (3 < o.g.toNat, 2), (32 / 2 ^ o.g.toNat ≤ o.x.toNat, 2)]

/-! ## LS slot (07 R241 to R252) -/

/-- Scope codes 6 and 7 (07 R242). -/
def badScope (c : BitVec 3) : Bool := 5 < c.toNat

def badLd (o : LM) : Option Nat :=
  firstBad [(nz (o.d.extractLsb' 6 4), 1), (o.m.getLsbD 3, 1), (o.x.getLsbD 3, 1),
    (o.m.getLsbD 2 && o.m.extractLsb' 0 2 == 0, 2), (badScope (o.x.extractLsb' 0 3), 2)]

def badSt (o : LM) : Option Nat :=
  firstBad [(nz (o.d.extractLsb' 6 4), 1), (o.m.getLsbD 3, 1), (o.x.getLsbD 3, 1), (o.m.getLsbD 2, 2),
    (badScope (o.x.extractLsb' 0 3), 2)]

def badVls (o : LM) : Option Nat := firstBad [(o.x.getLsbD 3, 1), (badScope (o.x.extractLsb' 0 3), 2)]

def badVlds (o : LM) : Option Nat :=
  firstBad [(nz (o.m.extractLsb' 2 2), 1), (o.x.getLsbD 3, 1), (o.m.extractLsb' 0 2 == 0, 2), (o.a.toNat == 63, 2),
    (badScope (o.x.extractLsb' 0 3), 2)]

def badVgs (o : LG) : Option Nat := firstBad [(o.x == 0, 2)]

def badAmoX (o : LA) : List (Bool × Nat) :=
  [(2 ≤ (o.x.extractLsb' 3 2).toNat, 2), (o.x.getLsbD 5 && o.x.extractLsb' 3 2 == 0, 2), (badScope (o.x.extractLsb' 0 3), 2)]

def badAmo (o : LA) : Option Nat := firstBad ((nz (o.x.extractLsb' 6 2), 1) :: (12 ≤ o.e.toNat, 0) :: badAmoX o)

def badCas (o : LA) : Option Nat := firstBad ((nz (o.x.extractLsb' 6 2), 1) :: badAmoX o)

def badRed (o : LA) : Option Nat :=
  firstBad ((nz (o.x.extractLsb' 5 3), 1) :: (nz o.d, 1) :: (12 ≤ o.e.toNat, 0) :: (o.e.toNat == 8, 2) :: badAmoX o)

def badVredm (o : LG) : Option Nat :=
  let f := (o.b.extractLsb' 0 4).toNat
  firstBad [(nz o.x, 1), (!(f ≤ 2 || f == 13 || f == 14), 3), ((o.b.extractLsb' 4 2).toNat == 3, 2),
    (o.b.getLsbD 6 && (f != 0 || nz (o.b.extractLsb' 4 2)), 2), (badScope (o.b.extractLsb' 7 3), 2),
    (o.b.getLsbD 6 && o.a.toNat == 63, 2)]

def badPref (o : LM) : Option Nat :=
  firstBad [(nz (o.d.extractLsb' 2 8) || nz o.m || nz o.x, 1), ((o.d.extractLsb' 0 2).toNat == 3, 2)]

/-! ## MX and CP slots (03 R97, R98, 09 R290 to R298, 10 R318 to R333) -/

/-- sg values 1 and 63 (03 R97). -/
def badSg (sg : BitVec 6) : Bool := sg.toNat == 1 || sg.toNat == 63

def badMma (o : MM) : Option Nat :=
  firstBad [((o.ka == 0 && nz o.ha) || (o.kb == 0 && nz o.hb), 1), (badSg o.sg, 2)]

def badMmao (o : MM) : Option Nat :=
  firstBad [((o.ka == 0 && nz o.ha) || (o.kb == 0 && nz o.hb), 1), (badSg o.sg, 2), (o.ra.toNat == 63, 2)]

def badMzero (o : MC) : Option Nat := firstBad [(nz o.ra || nz o.rb || nz o.x, 1), (badSg o.sg, 2)]

def badMload (o : MC) : Option Nat := firstBad [(nz o.rb || nz o.x, 1), (badSg o.sg, 2)]

def badMdrain (o : MC) : Option Nat :=
  let fmt := (o.x.extractLsb' 0 4).toNat
  let rm := o.x.extractLsb' 4 3
  firstBad [(badSg o.sg, 2), (badRm rm, 2), (fmt == 15 && (nz (o.x.extractLsb' 7 5) || nz rm), 2),
    (o.x.getLsbD 11 && !(5 ≤ fmt && fmt ≤ 12), 2),
    (o.rb.toNat == 0 && (o.x.getLsbD 8 || o.x.getLsbD 9 || o.x.getLsbD 11 || rm.toNat == 4), 2), (62 ≤ o.rb.toNat, 2)]

def badMrel (o : MC) : Option Nat :=
  firstBad [(nz o.acc || nz o.ra || nz o.rb || nz (o.x.extractLsb' 5 7), 1), (badSg o.sg, 2), (o.x.extractLsb' 0 5 == 0, 2)]

def badCpy (o : CD) : Option Nat := firstBad [(nz o.x, 1), (badSg o.sg, 2)]

def badCpyt (o : CD) : Option Nat :=
  firstBad [(o.x.getLsbD 7, 1), (o.x.getLsbD 5 && nz (o.x.extractLsb' 0 5), 1), (badSg o.sg, 2)]

def badCpst (o : CD) : Option Nat := firstBad [(badSg o.sg, 2), (badRm (o.x.extractLsb' 5 3), 2)]

def badCpz (o : CD) : Option Nat := firstBad [(nz (o.x.extractLsb' 1 7), 1), (o.x.getLsbD 0, 2), (badSg o.sg, 2)]

def badCpzTile (o : CD) : Option Nat :=
  firstBad [(nz (o.x.extractLsb' 5 3), 1), (!o.x.getLsbD 0, 2), (badAny (o.x.extractLsb' 1 4), 3), (badSg o.sg, 2)]

def badCpx (dir : Bool) (o : CD) : Option Nat :=
  firstBad [(nz (o.x.extractLsb' 6 2), 1), (o.x.getLsbD 5 != dir, 2), (badSg o.sg, 2)]

def badCpn (dir : Bool) (o : CD) : Option Nat :=
  firstBad [(nz (o.x.extractLsb' 1 7), 1), (o.x.getLsbD 0 != dir, 2), (badSg o.sg, 2)]

/-! ## SY slot -/

/-- Bits [51:32] are reserved in an operation without suffix (03 R96). -/
def hasSuffix (o : YF) : Bool := nz o.ss || nz o.pm

def badGive (o : YF) : Option Nat :=
  firstBad [(nz o.d || nz o.b || nz (o.x.extractLsb' 10 4), 1), (768 < (o.x.extractLsb' 0 10).toNat + 1, 2)]

def badWaits (o : YF) : Option Nat := firstBad [(hasSuffix o, 1), (nz o.d || nz (o.x.extractLsb' 6 4), 1)]

def badPhreg (o : YF) : Option Nat :=
  firstBad [(hasSuffix o, 1), (nz (o.x.extractLsb' 2 12), 1), ((o.x.extractLsb' 0 2).toNat != 3 && nz o.b, 1)]

def badPhdrop (o : YF) : Option Nat :=
  firstBad [(hasSuffix o, 1), (nz (o.x.extractLsb' 1 13), 1), (!o.x.getLsbD 0 && nz o.b, 1)]

def badDA (o : YF) : Option Nat := firstBad [(nz o.b || nz o.x, 1)]
def badDAB (o : YF) : Option Nat := firstBad [(nz o.x, 1)]
def badTbinit (o : YF) : Option Nat := firstBad [(nz o.x, 1), (nz o.d, 2)]
def badTbexp (o : YF) : Option Nat := firstBad [(nz (o.x.extractLsb' 1 13), 1)]
def badDone (o : YF) : Option Nat := firstBad [(hasSuffix o, 1), (nz o.d || nz o.a || nz o.b || nz o.x, 1)]
def badJraise (o : YF) : Option Nat := firstBad [(nz o.d || nz o.b || nz o.x, 1)]

def badLaunch (off : Bool) (o : YF) : Option Nat :=
  firstBad [(nz o.b || nz (o.x.extractLsb' 1 13), 1), (o.x.getLsbD 0 != off, 2)]

def badEvrd (o : YF) : Option Nat :=
  firstBad [(hasSuffix o, 1), (nz o.a || nz (o.x.extractLsb' 1 13), 1), (nz o.b && o.b == o.d, 2)]

/-- The control register number of a csr instruction (06 R188). -/
def yCsr (o : YF) : Nat := (o.x.extractLsb' 0 12).toNat

/-- The assigned control register numbers (06 R187). -/
def csrAssigned (n : Nat) : Bool :=
  [0x000, 0x001, 0x002, 0x003, 0x010, 0x011, 0x012, 0x013, 0x014, 0x020, 0x021, 0x022, 0x023, 0x024, 0x025,
   0x028, 0x029, 0x02A, 0x02B, 0x030, 0x040, 0x041, 0x042, 0x048, 0x050, 0x051, 0x052, 0x058, 0x059, 0x060].contains n
  || (0x070 ≤ n && n ≤ 0x07F) || (0x080 ≤ n && n ≤ 0x084)

/-- The registers that have an RW, W1C or WO field (06 R188 and the maps it names). -/
def csrWritable (n : Nat) : Bool :=
  [0x010, 0x011, 0x013, 0x024, 0x028, 0x029, 0x02A, 0x02B, 0x030, 0x048, 0x051, 0x052, 0x058, 0x059, 0x060].contains n
  || (0x070 ≤ n && n ≤ 0x07F) || (0x080 ≤ n && n ≤ 0x084)

def badCsrr (o : YF) : Option Nat :=
  firstBad [(hasSuffix o, 1), (nz o.a || nz o.b || nz (o.x.extractLsb' 12 2), 1), (!csrAssigned (yCsr o), 2)]

def badCsrw (o : YF) : Option Nat :=
  firstBad [(hasSuffix o, 1), (nz o.b || nz (o.x.extractLsb' 12 2), 1), (!csrAssigned (yCsr o), 2), (!csrWritable (yCsr o), 2)]

def badHpin (off : Bool) (o : YF) : Option Nat :=
  firstBad [(nz o.b || nz (o.x.extractLsb' 1 13) || o.a.getLsbD 5, 1), (o.x.getLsbD 0 != off, 2)]

def badHpri (o : YF) : Option Nat := firstBad [(nz o.x || o.a.getLsbD 5, 1)]
def badHdem (o : YF) : Option Nat := firstBad [(nz o.b || nz o.x || o.a.getLsbD 5, 1)]

def badHmov (o : YF) : Option Nat :=
  firstBad [(nz o.x || o.a.getLsbD 5, 1), (o.b.toNat == 0 || o.b.toNat == 63, 2)]

def badQflush (mx : Bool) (o : YF) : Option Nat :=
  firstBad [(hasSuffix o, 1), (nz o.b || nz (o.x.extractLsb' 1 13), 1), (o.x.getLsbD 0 != mx, 2)]

def badRdtime (o : YF) : Option Nat :=
  firstBad [(hasSuffix o, 1), (nz o.a || nz o.x, 1), (nz o.b && o.b == o.d, 2)]

def badSleep (o : YF) : Option Nat :=
  firstBad [(hasSuffix o, 1), (nz o.d || nz o.b || nz (o.x.extractLsb' 1 13), 1)]

/-- Leaf offsets 2 to 5 of a tree (03 R92). -/
def btOff (o : BT) (leaf : Nat) : BitVec 16 :=
  match leaf with
  | 1 => o.leaf1
  | n => match o.ext with
    | none => 0
    | some w => w.extractLsb' (16 * (n - 2)) 16

/-- A fall-through leaf has offset 0; a leaf that is not fall-through has its offset present (03 R92). -/
def badLeaf (o : BT) (leaf : Nat) : Bool :=
  if o.fall.getLsbD (leaf - 1) then nz (btOff o leaf) else leaf != 1 && o.ext.isNone

def badTree (o : BT) : Option Nat :=
  firstBad [(13 < o.shape.toNat, 2), ([1, 2, 3, 4, 5].any (badLeaf o), 2)]

/-- The static decode check of a slot operation: none where it is legal, else the sub-cause of ILLEGAL_OP. Events are
no slot operations and have nothing to check. -/
def illegal : Instr → Option Nat
  | .tree o => badTree o
  | .add o | .sub o | .mul o | .mulh o | .mulhz o | .div o | .divz o | .rem o | .remz o | .and o | .or o | .xor o
  | .andn o | .shl o | .shr o | .sar o | .rot o | .min o | .max o | .minz o | .maxz o => badInt2 o
  | .abs o | .clz o | .ctz o | .popc o => badInt1 o
  | .sext o => badSext o
  | .bfx o | .bfxz o | .bfi o => badBf o
  | .lea o => badLea o
  | .addi o | .andi o | .ori o | .xori o => badSI o
  | .movi o => badMovi o
  | .movhi o => badMovhi o
  | .cmpi o => badCmpi o
  | .mov o => badMov o
  | .sel o => badSel o
  | .cmp o => badCmp o
  | .cset o => badCset o
  | .fadd o | .fsub o | .fmul o | .fdiv o => badF2 o
  | .ffma o => badFfma o
  | .fsqrt o => badFsqrt o
  | .fmin o | .fmax o => badFminmax o
  | .fcmp o => badFcmp o
  | .fcvt o => badFcvt o
  | .fclass o => badFclass o
  | .vadd o | .vsub o => badVaddsub o
  | .vmul o => badVmul o
  | .vmin o | .vmax o => badVminmax o
  | .vcopysgn o => badVcopysgn o
  | .vabs o | .vneg o => badVabsneg o
  | .vround o | .vrcp o | .vrsq o | .vsqrt o => badVround o
  | .vfn o => badVfn o
  | .vfma o | .vfms o => badVfma o
  | .vclamp o => badVclamp o
  | .vdot o => badVdot o
  | .vcmp o => badVcmp o
  | .vsel o => badVsel o
  | .vand o | .vor o | .vxor o => badVlogic o
  | .vnot o => badVnot o
  | .vshl o | .vshr o | .vsar o => badVshift o
  | .vcvt o => badVcvt o
  | .vpack o | .vunpk o => badVpack o
  | .vperm o => badVperm o
  | .vshuf o => badVshuf o
  | .vbcast o => badVbcast o
  | .vmovs o => badVmovs o
  | .vins o => badVins o
  | .vidx o => badVidx o
  | .vredSum o => badVredH 0 true o
  | .vredMin o => badVredH 1 false o
  | .vredMax o => badVredH 2 false o
  | .vredVsum o => badVredV 3 o
  | .vredRsum o => badVredV 4 o
  | .vscan o => badVscan o
  | .vnfchk o => badVnfchk o
  | .mand o | .mor o | .mxor o => badMlogic o
  | .mnot o => badMnot o
  | .mpop o | .mfirst o => badMpop o
  | .mset o => badMset o
  | .vrand o => badVrand o
  | .kmov o | .kmax o => badKmov o
  | .kset o => badKset o
  | .xtr o => badXtr o
  | .xexp o => badXexp o
  | .xcvt o => badXcvt o
  | .xqnt o => badXqnt o
  | .xamx o => badXamx o
  | .xswz o => badXswz o
  | .ld o => badLd o
  | .st o => badSt o
  | .vld o | .vst o => badVls o
  | .vlds o => badVlds o
  | .vgth o | .vsct o => badVgs o
  | .amo o => badAmo o
  | .cas o => badCas o
  | .red o => badRed o
  | .vredm o => badVredm o
  | .pref o => badPref o
  | .mma o => badMma o
  | .mmao o => badMmao o
  | .mzero o | .mchk o => badMzero o
  | .mload o => badMload o
  | .mdrain o => badMdrain o
  | .mrel o => badMrel o
  | .cpy o | .coll o => badCpy o
  | .cpyt o => badCpyt o
  | .cpst o => badCpst o
  | .cpz o => badCpz o
  | .cpzTile o => badCpzTile o
  | .cpxOut o => badCpx false o
  | .cpxIn o => badCpx true o
  | .cpnWr o => badCpn false o
  | .cpnRd o => badCpn true o
  | .give o | .take o => badGive o
  | .waits o => badWaits o
  | .phreg o => badPhreg o
  | .phdrop o => badPhdrop o
  | .pharr o | .phaw o | .tbarr o => badDA o
  | .phwait o | .tbwait o => badDAB o
  | .tbinit o => badTbinit o
  | .tbexp o => badTbexp o
  | .done o => badDone o
  | .jraise o => badJraise o
  | .launchOn o => badLaunch false o
  | .launchOff o => badLaunch true o
  | .evrd o => badEvrd o
  | .csrr o => badCsrr o
  | .csrw o | .csrs o | .csrc o => badCsrw o
  | .hpinOn o => badHpin false o
  | .hpinOff o => badHpin true o
  | .hpri o => badHpri o
  | .hdem o | .hevict o => badHdem o
  | .hmov o => badHmov o
  | .purge o => badDA o
  | .qflushCp o => badQflush false o
  | .qflushMx o => badQflush true o
  | .rdtime o => badRdtime o
  | .sleep o => badSleep o
  | _ => none

end Sys2Proof.Machine
end

