-- ==== Sys2Proof/WellFormed.lean ====
section
/-!
DEFINITION. Well-formed instructions: a slot operation whose fields pass the decode checks of its rule (03 R95, R99, R106);
an event whose positions exist on the part (00 R5).
-/
namespace Sys2Proof

/-- Positions of contexts: 80 clusters of eight cores of four contexts (00 R5, 01 R16). -/
def CtxId.ok (c : CtxId) : Bool := c.cl < 80 && c.core < 8 && c.ctx < 4

/-- The positions an event names. -/
def eventOk : Instr → Bool
  | .presentBundle cl core => cl < 80 && core < 8
  | .blockClears c | .interlockedWrite c | .landing c | .operationPerformed c _ | .watchdog c | .fifoTimeout c
  | .leaseTimeout c | .leaseWaitEvent c | .sleepWake c | .engineAccessResume c _ | .cpCommandComplete c _ => c.ok
  | .signatureMatch cl p _ | .pairModeChange cl p => cl < 80 && p < 4
  | .leaseGrant cl | .leaseEnd cl | .mxQueueTransfer cl | .arrayCommandStart cl | .arrayCommandComplete cl | .rowRetire cl
  | .cpCommandStart cl | .pairmodeWrite cl _ => cl < 80
  | .doorbellArm e _ | .doorbellDisarm e _ => e < 256
  | .releaseTask e t | .placeIteration e t | .preempt e t => e < 256 && t < 16
  | .placementComplete i | .preemptDrainTimeout i | .resumeIteration i | .completionPost i => i.entry < 256 && i.task < 16
  | .fifoWordArrive (.depart cl l) | .fifoWordArrive (.arrive cl l _) => cl < 80 && l < 6
  | .flitReplay l | .linkRetrain l | .linkDown l | .linkRestored l | .deadlockTimer l _ => l < 6
  | .logEntryReplayed i | .logEntryAbandoned i => i < 1024
  | _ => true

/-- A well-formed instruction: its own fields are legal and what it names exists. -/
def Instr.wf (i : Instr) : Bool := (Machine.illegal i).isNone && eventOk i

end Sys2Proof
end

