-- ==== Sys2Proof/Decode.lean ====
section
/-!
DEFINITION. The decoder of bundles and slot words (03 R79 to R106) and the encoder beside it, both from the same
tables. Decoding answers the first violated rule by name: the case of R82, or a slot with its sub-cause of ILLEGAL_OP.
-/
namespace Sys2Proof

/-! ## Operand forms (03 R95) -/

/-- Form BT with the branch-extension word. -/
def getBT (w : Word) (ext : Option Word) : BT :=
  { shape := w.extractLsb' 48 4, ta := w.extractLsb' 43 5, tb := w.extractLsb' 38 5, tc := w.extractLsb' 33 5,
    td := w.extractLsb' 28 5, fall := w.extractLsb' 23 5, fresh := w.extractLsb' 18 5,
    leaf1 := w.extractLsb' 0 16, ext := ext }
def putBT (o : BT) : BitVec 52 := o.shape ++ o.ta ++ o.tb ++ o.tc ++ o.td ++ o.fall ++ o.fresh ++ 0#2 ++ o.leaf1
def rsvBT : Word := 0x30000

/-- Form BJ. -/
def getBJ (w : Word) : BJ :=
  { off := w.extractLsb' 20 32 }
def putBJ (o : BJ) : BitVec 52 := o.off ++ 0#20
def rsvBJ : Word := 0xFFFFF

/-- Form BG. -/
def getBG (w : Word) : BG :=
  { a := w.extractLsb' 46 6 }
def putBG (o : BG) : BitVec 52 := o.a ++ 0#46
def rsvBG : Word := 0x3FFFFFFFFFFF

/-- Form BI. -/
def getBI (w : Word) : BI :=
  { imm := w.extractLsb' 36 16 }
def putBI (o : BI) : BitVec 52 := o.imm ++ 0#36
def rsvBI : Word := 0xFFFFFFFFF

/-- Form SR. -/
def getSR (w : Word) : SR :=
  { d := w.extractLsb' 46 6, a := w.extractLsb' 40 6, b := w.extractLsb' 34 6, e := w.extractLsb' 28 6,
    x := w.extractLsb' 16 12, f := w.extractLsb' 12 4, rm := w.extractLsb' 9 3 }
def putSR (o : SR) : BitVec 52 := o.d ++ o.a ++ o.b ++ o.e ++ o.x ++ o.f ++ o.rm ++ 0#9
def rsvSR : Word := 0x1FF

/-- Form SI. -/
def getSI (w : Word) : SI :=
  { d := w.extractLsb' 46 6, a := w.extractLsb' 40 6, x := w.extractLsb' 32 8, imm := w.extractLsb' 0 32 }
def putSI (o : SI) : BitVec 52 := o.d ++ o.a ++ o.x ++ o.imm

/-- Form VR. -/
def getVR (w : Word) : VR :=
  { d := w.extractLsb' 42 10, a := w.extractLsb' 32 10, b := w.extractLsb' 22 10, c := w.extractLsb' 12 10,
    m := w.extractLsb' 8 4, f := w.extractLsb' 4 4, rm := w.extractLsb' 1 3 }
def putVR (o : VR) : BitVec 52 := o.d ++ o.a ++ o.b ++ o.c ++ o.m ++ o.f ++ o.rm ++ 0#1
def rsvVR : Word := 0x1

/-- Form VX. -/
def getVX (w : Word) : VX :=
  { d := w.extractLsb' 42 10, a := w.extractLsb' 32 10, b := w.extractLsb' 22 10, m := w.extractLsb' 18 4,
    f := w.extractLsb' 14 4, g := w.extractLsb' 10 4, rm := w.extractLsb' 7 3, x := w.extractLsb' 0 7 }
def putVX (o : VX) : BitVec 52 := o.d ++ o.a ++ o.b ++ o.m ++ o.f ++ o.g ++ o.rm ++ o.x

/-- Form XR. -/
def getXR (w : Word) : XR :=
  { d := w.extractLsb' 42 10, a := w.extractLsb' 32 10, b := w.extractLsb' 22 10, k := w.extractLsb' 16 6,
    f := w.extractLsb' 12 4, g := w.extractLsb' 8 4, rm := w.extractLsb' 5 3, x := w.extractLsb' 0 5 }
def putXR (o : XR) : BitVec 52 := o.d ++ o.a ++ o.b ++ o.k ++ o.f ++ o.g ++ o.rm ++ o.x

/-- Form LM. -/
def getLM (w : Word) : LM :=
  { ss := w.extractLsb' 48 4, pm := w.extractLsb' 32 16, d := w.extractLsb' 22 10, a := w.extractLsb' 16 6,
    st := w.extractLsb' 8 8, m := w.extractLsb' 4 4, x := w.extractLsb' 0 4 }
def putLM (o : LM) : BitVec 52 := o.ss ++ o.pm ++ o.d ++ o.a ++ o.st ++ o.m ++ o.x

/-- Form LG. -/
def getLG (w : Word) : LG :=
  { ss := w.extractLsb' 48 4, pm := w.extractLsb' 32 16, d := w.extractLsb' 22 10, a := w.extractLsb' 16 6,
    b := w.extractLsb' 6 10, m := w.extractLsb' 2 4, x := w.extractLsb' 0 2 }
def putLG (o : LG) : BitVec 52 := o.ss ++ o.pm ++ o.d ++ o.a ++ o.b ++ o.m ++ o.x

/-- Form LA. -/
def getLA (w : Word) : LA :=
  { ss := w.extractLsb' 48 4, pm := w.extractLsb' 32 16, d := w.extractLsb' 26 6, a := w.extractLsb' 20 6,
    b := w.extractLsb' 14 6, e := w.extractLsb' 8 6, x := w.extractLsb' 0 8 }
def putLA (o : LA) : BitVec 52 := o.ss ++ o.pm ++ o.d ++ o.a ++ o.b ++ o.e ++ o.x

/-- Form KM. -/
def getKM (w : Word) : KM :=
  { ss := w.extractLsb' 48 4, pm := w.extractLsb' 32 16, d := w.extractLsb' 26 6, a := w.extractLsb' 20 6,
    st := w.extractLsb' 12 8 }
def putKM (o : KM) : BitVec 52 := o.ss ++ o.pm ++ o.d ++ o.a ++ o.st ++ 0#12
def rsvKM : Word := 0xFFF

/-- Form KR. -/
def getKR (w : Word) : KR :=
  { d := w.extractLsb' 26 6, a := w.extractLsb' 16 10, x := w.extractLsb' 0 16 }
def putKR (o : KR) : BitVec 52 := 0#20 ++ o.d ++ o.a ++ o.x
def rsvKR : Word := 0xFFFFF00000000

/-- Form MM. -/
def getMM (w : Word) : MM :=
  { ss := w.extractLsb' 48 4, pm := w.extractLsb' 32 16, acc := w.extractLsb' 30 2, ka := w.extractLsb' 29 1,
    ra := w.extractLsb' 23 6, ha := w.extractLsb' 18 5, kb := w.extractLsb' 17 1, rb := w.extractLsb' 11 6,
    hb := w.extractLsb' 6 5, sg := w.extractLsb' 0 6 }
def putMM (o : MM) : BitVec 52 := o.ss ++ o.pm ++ o.acc ++ o.ka ++ o.ra ++ o.ha ++ o.kb ++ o.rb ++ o.hb ++ o.sg

/-- Form MC. -/
def getMC (w : Word) : MC :=
  { ss := w.extractLsb' 48 4, pm := w.extractLsb' 32 16, acc := w.extractLsb' 30 2, ra := w.extractLsb' 24 6,
    rb := w.extractLsb' 18 6, x := w.extractLsb' 6 12, sg := w.extractLsb' 0 6 }
def putMC (o : MC) : BitVec 52 := o.ss ++ o.pm ++ o.acc ++ o.ra ++ o.rb ++ o.x ++ o.sg

/-- Form CD. -/
def getCD (w : Word) : CD :=
  { ss := w.extractLsb' 48 4, pm := w.extractLsb' 32 16, v := w.extractLsb' 22 10, sg := w.extractLsb' 16 6,
    st := w.extractLsb' 8 8, x := w.extractLsb' 0 8 }
def putCD (o : CD) : BitVec 52 := o.ss ++ o.pm ++ o.v ++ o.sg ++ o.st ++ o.x

/-- Form Y. -/
def getYF (w : Word) : YF :=
  { ss := w.extractLsb' 48 4, pm := w.extractLsb' 32 16, d := w.extractLsb' 26 6, a := w.extractLsb' 20 6,
    b := w.extractLsb' 14 6, x := w.extractLsb' 0 14 }
def putYF (o : YF) : BitVec 52 := o.ss ++ o.pm ++ o.d ++ o.a ++ o.b ++ o.x

/-! ## Opcode maps (03 R100 to R105) -/

/-- Bits of a word that its form reserves: none of the forms that use all 52. -/
def rsvBN : Word := 0xFFFFFFFFFFFFF

/-- A slot word's fields (03 R95). -/
def wordTag (w : Word) : Nat := (w.extractLsb' 61 3).toNat
def wordOp (w : Word) : Nat := (w.extractLsb' 52 9).toNat

/-- Bit i of a form field chooses the row of the opcode table. -/
def pick {w : Nat} (x : BitVec w) (i : Nat) (off on : Instr) : Instr := if x.getLsbD i then on else off

/-- The variants of `vred` by g; a value of g above 4 is an operand limit, which the decode check finds (05 R168). -/
def pickVred (o : VX) : Instr :=
  match o.g.toNat with
  | 1 => .vredMin o
  | 2 => .vredMax o
  | 3 => .vredVsum o
  | 4 => .vredRsum o
  | _ => .vredSum o

/-- BR opcodes; none where the opcode is not assigned. -/
def decBr (ext : Option Word) (w : Word) : Option Instr :=
  match wordOp w with
  | 0x000 => some (.nop .br)
  | 0x001 => some (.tree (getBT w ext))
  | 0x002 => some (.jmp (getBJ w))
  | 0x003 => some (.jmpr (getBG w))
  | 0x004 => some (.call (getBJ w))
  | 0x005 => some (.callr (getBG w))
  | 0x006 => some .ret
  | 0x007 => some (.trap (getBI w))
  | 0x008 => some .eret
  | 0x009 => some .halt
  | 0x00A => some .yield
  | _ => none

/-- SAB opcodes; none where the opcode is not assigned. -/
def decSab (s : Slot) (w : Word) : Option Instr :=
  match wordOp w with
  | 0x000 => some (.nop s)
  | 0x001 => some (.add (getSR w))
  | 0x002 => some (.addi (getSI w))
  | 0x003 => some (.sub (getSR w))
  | 0x004 => some (.mul (getSR w))
  | 0x005 => some (.mulh (getSR w))
  | 0x006 => some (.mulhz (getSR w))
  | 0x007 => some (.div (getSR w))
  | 0x008 => some (.divz (getSR w))
  | 0x009 => some (.rem (getSR w))
  | 0x00A => some (.remz (getSR w))
  | 0x00B => some (.and (getSR w))
  | 0x00C => some (.andi (getSI w))
  | 0x00D => some (.or (getSR w))
  | 0x00E => some (.ori (getSI w))
  | 0x00F => some (.xor (getSR w))
  | 0x010 => some (.xori (getSI w))
  | 0x011 => some (.andn (getSR w))
  | 0x012 => some (.shl (getSR w))
  | 0x013 => some (.shr (getSR w))
  | 0x014 => some (.sar (getSR w))
  | 0x015 => some (.rot (getSR w))
  | 0x016 => some (.min (getSR w))
  | 0x017 => some (.max (getSR w))
  | 0x018 => some (.minz (getSR w))
  | 0x019 => some (.maxz (getSR w))
  | 0x01A => some (.abs (getSR w))
  | 0x01B => some (.clz (getSR w))
  | 0x01C => some (.ctz (getSR w))
  | 0x01D => some (.popc (getSR w))
  | 0x01E => some (.sext (getSR w))
  | 0x01F => some (.bfx (getSR w))
  | 0x020 => some (.bfxz (getSR w))
  | 0x021 => some (.bfi (getSR w))
  | 0x022 => some (.lea (getSR w))
  | 0x023 => some (.movi (getSI w))
  | 0x024 => some (.movhi (getSI w))
  | 0x025 => some (.mov (getSR w))
  | 0x026 => some (.sel (getSR w))
  | 0x027 => some (.cmp (getSR w))
  | 0x028 => some (.cmpi (getSI w))
  | 0x029 => some (.cset (getSR w))
  | 0x040 => some (.fadd (getSR w))
  | 0x041 => some (.fsub (getSR w))
  | 0x042 => some (.fmul (getSR w))
  | 0x043 => some (.ffma (getSR w))
  | 0x044 => some (.fdiv (getSR w))
  | 0x045 => some (.fsqrt (getSR w))
  | 0x046 => some (.fmin (getSR w))
  | 0x047 => some (.fmax (getSR w))
  | 0x048 => some (.fcmp (getSR w))
  | 0x049 => some (.fcvt (getSR w))
  | 0x04A => some (.fclass (getSR w))
  | _ => none

/-- VAB opcodes; none where the opcode is not assigned. -/
def decVab (s : Slot) (w : Word) : Option Instr :=
  match wordOp w with
  | 0x000 => some (.nop s)
  | 0x001 => some (.vadd (getVX w))
  | 0x002 => some (.vsub (getVX w))
  | 0x003 => some (.vmul (getVX w))
  | 0x004 => some (.vfma (getVR w))
  | 0x005 => some (.vfms (getVR w))
  | 0x006 => some (.vmin (getVX w))
  | 0x007 => some (.vmax (getVX w))
  | 0x008 => some (.vabs (getVX w))
  | 0x009 => some (.vneg (getVX w))
  | 0x00A => some (.vcopysgn (getVX w))
  | 0x00B => some (.vrcp (getVX w))
  | 0x00C => some (.vrsq (getVX w))
  | 0x00D => some (.vfn (getVX w))
  | 0x00E => some (.vcmp (getVX w))
  | 0x00F => some (.vsel (getVX w))
  | 0x010 => some (.vand (getVX w))
  | 0x011 => some (.vor (getVX w))
  | 0x012 => some (.vxor (getVX w))
  | 0x013 => some (.vnot (getVX w))
  | 0x014 => some (.vshl (getVX w))
  | 0x015 => some (.vshr (getVX w))
  | 0x016 => some (.vsar (getVX w))
  | 0x017 => some (.vcvt (getVX w))
  | 0x018 => some (.vsqrt (getVX w))
  | 0x019 => some (.vpack (getVX w))
  | 0x01A => some (.vunpk (getVX w))
  | 0x01B => some (.vperm (getVX w))
  | 0x01C => some (.vshuf (getVX w))
  | 0x01D => some (.vbcast (getVX w))
  | 0x01E => some (pickVred (getVX w))
  | 0x01F => some (.vscan (getVX w))
  | 0x020 => some (.vrand (getVX w))
  | 0x021 => some (.vmovs (getVX w))
  | 0x022 => some (.vins (getVX w))
  | 0x023 => some (.vidx (getVX w))
  | 0x025 => some (.vdot (getVR w))
  | 0x026 => some (.vclamp (getVR w))
  | 0x027 => some (.vround (getVX w))
  | 0x028 => some (.vnfchk (getVX w))
  | 0x029 => some (.mand (getVX w))
  | 0x02A => some (.mor (getVX w))
  | 0x02B => some (.mxor (getVX w))
  | 0x02C => some (.mnot (getVX w))
  | 0x02D => some (.mpop (getVX w))
  | 0x02E => some (.mset (getVX w))
  | 0x02F => some (.mfirst (getVX w))
  | _ => none

/-- LS opcodes; none where the opcode is not assigned. -/
def decLs (w : Word) : Option Instr :=
  match wordOp w with
  | 0x000 => some (.nop .ls)
  | 0x001 => some (.ld (getLM w))
  | 0x002 => some (.st (getLM w))
  | 0x003 => some (.vld (getLM w))
  | 0x004 => some (.vst (getLM w))
  | 0x005 => some (.vlds (getLM w))
  | 0x006 => some (.vgth (getLG w))
  | 0x007 => some (.vsct (getLG w))
  | 0x008 => some (.amo (getLA w))
  | 0x009 => some (.cas (getLA w))
  | 0x00A => some (.red (getLA w))
  | 0x00B => some (.vredm (getLG w))
  | 0x00C => some (.pref (getLM w))
  | _ => none

/-- SX opcodes; none where the opcode is not assigned. -/
def decSx (w : Word) : Option Instr :=
  match wordOp w with
  | 0x000 => some (.nop .sx)
  | 0x001 => some (.kld (getKM w))
  | 0x002 => some (.kst (getKM w))
  | 0x003 => some (.kmov (getKR w))
  | 0x004 => some (.kset (getKR w))
  | 0x005 => some (.kmax (getKR w))
  | _ => none

/-- XF opcodes; none where the opcode is not assigned. -/
def decXf (w : Word) : Option Instr :=
  match wordOp w with
  | 0x000 => some (.nop .xf)
  | 0x001 => some (.xtr (getXR w))
  | 0x002 => some (.xexp (getXR w))
  | 0x003 => some (.xcvt (getXR w))
  | 0x004 => some (.xqnt (getXR w))
  | 0x005 => some (.xamx (getXR w))
  | 0x006 => some (.xswz (getXR w))
  | _ => none

/-- MX opcodes; none where the opcode is not assigned. -/
def decMx (w : Word) : Option Instr :=
  match wordOp w with
  | 0x000 => some (.nop .mx)
  | 0x001 => some (.mma (getMM w))
  | 0x002 => some (.mmao (getMM w))
  | 0x003 => some (.mzero (getMC w))
  | 0x004 => some (.mload (getMC w))
  | 0x005 => some (.mdrain (getMC w))
  | 0x006 => some (.mchk (getMC w))
  | 0x007 => some (.mrel (getMC w))
  | _ => none

/-- CP opcodes; none where the opcode is not assigned. -/
def decCp (w : Word) : Option Instr :=
  match wordOp w with
  | 0x000 => some (.nop .cp)
  | 0x001 => some (.cpy (getCD w))
  | 0x002 => some (.cpyt (getCD w))
  | 0x003 => some (.cpst (getCD w))
  | 0x004 => some (pick (getCD w).x 0 (.cpz (getCD w)) (.cpzTile (getCD w)))
  | 0x005 => some (pick (getCD w).x 5 (.cpxOut (getCD w)) (.cpxIn (getCD w)))
  | 0x006 => some (.coll (getCD w))
  | 0x007 => some (pick (getCD w).x 0 (.cpnWr (getCD w)) (.cpnRd (getCD w)))
  | _ => none

/-- SY opcodes; none where the opcode is not assigned. -/
def decSy (w : Word) : Option Instr :=
  match wordOp w with
  | 0x000 => some (.nop .sy)
  | 0x001 => some (.give (getYF w))
  | 0x002 => some (.take (getYF w))
  | 0x003 => some (.waits (getYF w))
  | 0x004 => some (.phreg (getYF w))
  | 0x005 => some (.phdrop (getYF w))
  | 0x006 => some (.pharr (getYF w))
  | 0x007 => some (.phwait (getYF w))
  | 0x008 => some (.phaw (getYF w))
  | 0x009 => some (.tbinit (getYF w))
  | 0x00A => some (.tbexp (getYF w))
  | 0x00B => some (.tbarr (getYF w))
  | 0x00C => some (.tbwait (getYF w))
  | 0x00D => some (.done (getYF w))
  | 0x00E => some (.jraise (getYF w))
  | 0x00F => some (pick (getYF w).x 0 (.launchOn (getYF w)) (.launchOff (getYF w)))
  | 0x010 => some (.evrd (getYF w))
  | 0x011 => some (.csrr (getYF w))
  | 0x012 => some (.csrw (getYF w))
  | 0x013 => some (.csrs (getYF w))
  | 0x014 => some (.csrc (getYF w))
  | 0x015 => some (pick (getYF w).x 0 (.hpinOn (getYF w)) (.hpinOff (getYF w)))
  | 0x016 => some (.hpri (getYF w))
  | 0x017 => some (.hdem (getYF w))
  | 0x018 => some (.hevict (getYF w))
  | 0x019 => some (.hmov (getYF w))
  | 0x01A => some (.purge (getYF w))
  | 0x01B => some (pick (getYF w).x 0 (.qflushCp (getYF w)) (.qflushMx (getYF w)))
  | 0x01C => some (.rdtime (getYF w))
  | 0x01D => some (.sleep (getYF w))
  | _ => none

/-- The slots by index (03 R80). -/
def slotOfIdx (i : Nat) : Slot :=
  match i with
  | 0 => .br | 1 => .sa | 2 => .sb | 3 => .va | 4 => .vb | 5 => .ls | 6 => .sx | 7 => .xf | 8 => .mx | 9 => .cp | _ => .sy

def slotIdx (s : Slot) : Nat :=
  match s with
  | .br => 0 | .sa => 1 | .sb => 2 | .va => 3 | .vb => 4 | .ls => 5 | .sx => 6 | .xf => 7 | .mx => 8 | .cp => 9 | .sy => 10

def classOf (s : Slot) : SlotClass :=
  match s with
  | .br => .br | .sa => .sab | .sb => .sab | .va => .vab | .vb => .vab | .ls => .ls | .sx => .sx | .xf => .xf
  | .mx => .mx | .cp => .cp | .sy => .sy

/-- The operation a slot word names. -/
def decodeOp (s : Slot) (ext : Option Word) (w : Word) : Option Instr :=
  match classOf s with
  | .br => decBr ext w
  | .sab => decSab s w
  | .vab => decVab s w
  | .ls => decLs w
  | .sx => decSx w
  | .xf => decXf w
  | .mx => decMx w
  | .cp => decCp w
  | .sy => decSy w

/-- The reserved bits of an operation's form (03 R95, R100). -/
def rsvBits : Instr → Word
  | .nop _ | .ret | .eret | .halt | .yield => rsvBN
  | .tree _ => rsvBT
  | .jmp _ | .call _ => rsvBJ
  | .jmpr _ | .callr _ => rsvBG
  | .trap _ => rsvBI
  | .add _ | .sub _ | .mul _ | .mulh _ | .mulhz _ | .div _ | .divz _ | .rem _ | .remz _ | .and _ | .or _
  | .xor _ | .andn _ | .shl _ | .shr _ | .sar _ | .rot _ | .min _ | .max _ | .minz _ | .maxz _ | .abs _ | .clz _
  | .ctz _ | .popc _ | .sext _ | .bfx _ | .bfxz _ | .bfi _ | .lea _ | .mov _ | .sel _ | .cmp _ | .cset _
  | .fadd _ | .fsub _ | .fmul _ | .ffma _ | .fdiv _ | .fsqrt _ | .fmin _ | .fmax _ | .fcmp _ | .fcvt _
  | .fclass _ => rsvSR
  | .vfma _ | .vfms _ | .vdot _ | .vclamp _ => rsvVR
  | .kld _ | .kst _ => rsvKM
  | .kmov _ | .kset _ | .kmax _ => rsvKR
  | _ => 0

/-! ## Slot words and bundles -/

/-- Why a bundle is not decoded: the case of ILLEGAL_BUNDLE (03 R82), or the slot and sub-cause of ILLEGAL_OP. -/
inductive DecodeErr where
  | bundle (case_ : Nat)
  | op (slot sub : Nat)
  deriving DecidableEq, Repr, Inhabited

/-- The path tag a slot may carry (03 R89). -/
def badTag (s : Slot) (w : Word) : Bool := 6 ≤ wordTag w || (s == .br && wordTag w != 0)

/-- A slot word, decoded and checked; on error the sub-cause of ILLEGAL_OP. -/
def decodeSlot (s : Slot) (ext : Option Word) (w : Word) : Instr ⊕ Nat :=
  match decodeOp s ext w with
  | none => .inr 0
  | some i =>
    if w &&& rsvBits i ≠ 0 then .inr 1
    else if badTag s w then .inr 2
    else match Machine.illegal i with
      | some sub => .inr sub
      | none => .inl i

/-- A slot's operation in a bundle, with its path tag and its word. -/
structure SlotDec where
  slot : Nat
  tag : Nat
  word : Word
  op : Instr
  deriving DecidableEq, Repr, Inhabited

/-- A decoded bundle (03 R79 to R81). -/
structure Bundle where
  pres : BitVec 12
  rep : Nat
  sten : BitVec 12
  clr : Bool
  words : Nat
  ops : List SlotDec
  deriving DecidableEq, Repr, Inhabited

/-! Header fields (03 R79). -/
def hdrPres (h : Word) : BitVec 12 := h.extractLsb' 52 12
def hdrRep (h : Word) : Nat := (h.extractLsb' 44 8).toNat
def hdrSten (h : Word) : BitVec 12 := h.extractLsb' 32 12
def hdrCnt (h : Word) : Nat := (h.extractLsb' 28 4).toNat
def hdrBext (h : Word) : Bool := h.getLsbD 27
def hdrClr (h : Word) : Bool := h.getLsbD 26
def hdrRsvd (h : Word) : BitVec 26 := h.extractLsb' 0 26

/-- The slot indices whose presence bit is set. -/
def presSlots (p : BitVec 12) : List Nat := (List.range 12).filter (fun j => p.getLsbD j)

/-- Cases 1 to 3 of 03 R82, which the header alone decides; of several the lowest, as among all of 1 to 7 (log 94). -/
def headerCase (h : Word) : Option Nat :=
  if (hdrPres h).getLsbD 11 then some 1
  else if hdrCnt h ≠ (presSlots (hdrPres h)).length + (hdrBext h).toNat then some 2
  else if hdrRsvd h ≠ 0 then some 3
  else none

/-- The slots with their words, and the branch-extension word (03 R81). -/
def splitWords (h : Word) (ws : List Word) : List (Nat × Word) × Option Word :=
  if hdrBext h && (hdrPres h).getLsbD 0 then ((presSlots (hdrPres h)).zip (ws.take 1 ++ ws.drop 2), some (ws.getD 1 0))
  else ((presSlots (hdrPres h)).zip ws, none)

/-- Whether the bundle has a BR word that is a `tree`. -/
def hasTree (sw : List (Nat × Word)) : Bool := sw.any (fun p => p.1 == 0 && wordOp p.2 == 1)

/-- The steppable slots: LS, SX and CP (03 R80). -/
def steppable : BitVec 12 := 0x260

/-- Cases 4 to 7 of 03 R82. -/
def wordsCase (h : Word) (sw : List (Nat × Word)) : Option Nat :=
  if hdrBext h && !hasTree sw then some 4
  else if hdrSten h &&& ~~~steppable ≠ 0 then some 5
  else if hdrRep h ≠ 0 && (hdrPres h).getLsbD 0 && !hasTree sw then some 6
  else if !hasTree sw && sw.any (fun p => p.1 != 0 && wordTag p.2 != 0) then some 7
  else none

/-- Decodes the slot words in increasing slot index; the first error is reported (03 R106). -/
def decodeSlots (ext : Option Word) : List (Nat × Word) → List SlotDec ⊕ (Nat × Nat)
  | [] => .inl []
  | (j, w) :: rest =>
    match decodeSlot (slotOfIdx j) ext w with
    | .inr sub => .inr (j, sub)
    | .inl i => match decodeSlots ext rest with
      | .inr e => .inr e
      | .inl l => .inl ({ slot := j, tag := wordTag w, word := w, op := i } :: l)

/-- Decodes a header with the words after it (03 R82, R106). -/
def decodeBundle (h : Word) (ws : List Word) : Bundle ⊕ DecodeErr :=
  match headerCase h with
  | some c => .inr (.bundle c)
  | none =>
    let sw := splitWords h ws
    match wordsCase h sw.1 with
    | some c => .inr (.bundle c)
    | none => match decodeSlots sw.2 sw.1 with
      | .inr e => .inr (.op e.1 e.2)
      | .inl l => .inl { pres := hdrPres h, rep := hdrRep h, sten := hdrSten h, clr := hdrClr h, words := 1 + hdrCnt h, ops := l }

/-! ## The encoder -/

/-- The slot an operation is encoded in; the first of two for the doubled classes. None for an event. -/
def slotOf : Instr → Option Slot
  | .nop s => some s
  | .ret | .eret | .halt | .yield => some .br
  | .tree _ | .jmp _ | .jmpr _ | .call _ | .callr _ | .trap _ => some .br
  | .add _ | .addi _ | .sub _ | .mul _ | .mulh _ | .mulhz _ | .div _ | .divz _ | .rem _ | .remz _ | .and _
  | .andi _ | .or _ | .ori _ | .xor _ | .xori _ | .andn _ | .shl _ | .shr _ | .sar _ | .rot _ | .min _ | .max _
  | .minz _ | .maxz _ | .abs _ | .clz _ | .ctz _ | .popc _ | .sext _ | .bfx _ | .bfxz _ | .bfi _ | .lea _
  | .movi _ | .movhi _ | .mov _ | .sel _ | .cmp _ | .cmpi _ | .cset _ | .fadd _ | .fsub _ | .fmul _ | .ffma _
  | .fdiv _ | .fsqrt _ | .fmin _ | .fmax _ | .fcmp _ | .fcvt _ | .fclass _ => some .sa
  | .vadd _ | .vsub _ | .vmul _ | .vfma _ | .vfms _ | .vmin _ | .vmax _ | .vabs _ | .vneg _ | .vcopysgn _
  | .vrcp _ | .vrsq _ | .vfn _ | .vcmp _ | .vsel _ | .vand _ | .vor _ | .vxor _ | .vnot _ | .vshl _ | .vshr _
  | .vsar _ | .vcvt _ | .vsqrt _ | .vpack _ | .vunpk _ | .vperm _ | .vshuf _ | .vbcast _ | .vredSum _
  | .vredMin _ | .vredMax _ | .vredVsum _ | .vredRsum _ | .vscan _ | .vrand _ | .vmovs _ | .vins _ | .vidx _
  | .vdot _ | .vclamp _ | .vround _ | .vnfchk _ | .mand _ | .mor _ | .mxor _ | .mnot _ | .mpop _ | .mset _
  | .mfirst _ => some .va
  | .ld _ | .st _ | .vld _ | .vst _ | .vlds _ | .vgth _ | .vsct _ | .amo _ | .cas _ | .red _ | .vredm _
  | .pref _ => some .ls
  | .kld _ | .kst _ | .kmov _ | .kset _ | .kmax _ => some .sx
  | .xtr _ | .xexp _ | .xcvt _ | .xqnt _ | .xamx _ | .xswz _ => some .xf
  | .mma _ | .mmao _ | .mzero _ | .mload _ | .mdrain _ | .mchk _ | .mrel _ => some .mx
  | .cpy _ | .cpyt _ | .cpst _ | .cpz _ | .cpzTile _ | .cpxOut _ | .cpxIn _ | .coll _ | .cpnWr _ | .cpnRd _ => some .cp
  | .give _ | .take _ | .waits _ | .phreg _ | .phdrop _ | .pharr _ | .phwait _ | .phaw _ | .tbinit _ | .tbexp _
  | .tbarr _ | .tbwait _ | .done _ | .jraise _ | .launchOn _ | .launchOff _ | .evrd _ | .csrr _ | .csrw _
  | .csrs _ | .csrc _ | .hpinOn _ | .hpinOff _ | .hpri _ | .hdem _ | .hevict _ | .hmov _ | .purge _
  | .qflushCp _ | .qflushMx _ | .rdtime _ | .sleep _ => some .sy
  | _ => none

/-- The opcode of an operation. -/
def opcodeOf : Instr → BitVec 9
  | .nop _ => 0x000
  | .tree _ => 0x001
  | .jmp _ => 0x002
  | .jmpr _ => 0x003
  | .call _ => 0x004
  | .callr _ => 0x005
  | .ret => 0x006
  | .trap _ => 0x007
  | .eret => 0x008
  | .halt => 0x009
  | .yield => 0x00A
  | .add _ => 0x001
  | .addi _ => 0x002
  | .sub _ => 0x003
  | .mul _ => 0x004
  | .mulh _ => 0x005
  | .mulhz _ => 0x006
  | .div _ => 0x007
  | .divz _ => 0x008
  | .rem _ => 0x009
  | .remz _ => 0x00A
  | .and _ => 0x00B
  | .andi _ => 0x00C
  | .or _ => 0x00D
  | .ori _ => 0x00E
  | .xor _ => 0x00F
  | .xori _ => 0x010
  | .andn _ => 0x011
  | .shl _ => 0x012
  | .shr _ => 0x013
  | .sar _ => 0x014
  | .rot _ => 0x015
  | .min _ => 0x016
  | .max _ => 0x017
  | .minz _ => 0x018
  | .maxz _ => 0x019
  | .abs _ => 0x01A
  | .clz _ => 0x01B
  | .ctz _ => 0x01C
  | .popc _ => 0x01D
  | .sext _ => 0x01E
  | .bfx _ => 0x01F
  | .bfxz _ => 0x020
  | .bfi _ => 0x021
  | .lea _ => 0x022
  | .movi _ => 0x023
  | .movhi _ => 0x024
  | .mov _ => 0x025
  | .sel _ => 0x026
  | .cmp _ => 0x027
  | .cmpi _ => 0x028
  | .cset _ => 0x029
  | .fadd _ => 0x040
  | .fsub _ => 0x041
  | .fmul _ => 0x042
  | .ffma _ => 0x043
  | .fdiv _ => 0x044
  | .fsqrt _ => 0x045
  | .fmin _ => 0x046
  | .fmax _ => 0x047
  | .fcmp _ => 0x048
  | .fcvt _ => 0x049
  | .fclass _ => 0x04A
  | .vadd _ => 0x001
  | .vsub _ => 0x002
  | .vmul _ => 0x003
  | .vfma _ => 0x004
  | .vfms _ => 0x005
  | .vmin _ => 0x006
  | .vmax _ => 0x007
  | .vabs _ => 0x008
  | .vneg _ => 0x009
  | .vcopysgn _ => 0x00A
  | .vrcp _ => 0x00B
  | .vrsq _ => 0x00C
  | .vfn _ => 0x00D
  | .vcmp _ => 0x00E
  | .vsel _ => 0x00F
  | .vand _ => 0x010
  | .vor _ => 0x011
  | .vxor _ => 0x012
  | .vnot _ => 0x013
  | .vshl _ => 0x014
  | .vshr _ => 0x015
  | .vsar _ => 0x016
  | .vcvt _ => 0x017
  | .vsqrt _ => 0x018
  | .vpack _ => 0x019
  | .vunpk _ => 0x01A
  | .vperm _ => 0x01B
  | .vshuf _ => 0x01C
  | .vbcast _ => 0x01D
  | .vredSum _ | .vredMin _ | .vredMax _ | .vredVsum _ | .vredRsum _ => 0x01E
  | .vscan _ => 0x01F
  | .vrand _ => 0x020
  | .vmovs _ => 0x021
  | .vins _ => 0x022
  | .vidx _ => 0x023
  | .vdot _ => 0x025
  | .vclamp _ => 0x026
  | .vround _ => 0x027
  | .vnfchk _ => 0x028
  | .mand _ => 0x029
  | .mor _ => 0x02A
  | .mxor _ => 0x02B
  | .mnot _ => 0x02C
  | .mpop _ => 0x02D
  | .mset _ => 0x02E
  | .mfirst _ => 0x02F
  | .ld _ => 0x001
  | .st _ => 0x002
  | .vld _ => 0x003
  | .vst _ => 0x004
  | .vlds _ => 0x005
  | .vgth _ => 0x006
  | .vsct _ => 0x007
  | .amo _ => 0x008
  | .cas _ => 0x009
  | .red _ => 0x00A
  | .vredm _ => 0x00B
  | .pref _ => 0x00C
  | .kld _ => 0x001
  | .kst _ => 0x002
  | .kmov _ => 0x003
  | .kset _ => 0x004
  | .kmax _ => 0x005
  | .xtr _ => 0x001
  | .xexp _ => 0x002
  | .xcvt _ => 0x003
  | .xqnt _ => 0x004
  | .xamx _ => 0x005
  | .xswz _ => 0x006
  | .mma _ => 0x001
  | .mmao _ => 0x002
  | .mzero _ => 0x003
  | .mload _ => 0x004
  | .mdrain _ => 0x005
  | .mchk _ => 0x006
  | .mrel _ => 0x007
  | .cpy _ => 0x001
  | .cpyt _ => 0x002
  | .cpst _ => 0x003
  | .cpz _ | .cpzTile _ => 0x004
  | .cpxOut _ | .cpxIn _ => 0x005
  | .coll _ => 0x006
  | .cpnWr _ | .cpnRd _ => 0x007
  | .give _ => 0x001
  | .take _ => 0x002
  | .waits _ => 0x003
  | .phreg _ => 0x004
  | .phdrop _ => 0x005
  | .pharr _ => 0x006
  | .phwait _ => 0x007
  | .phaw _ => 0x008
  | .tbinit _ => 0x009
  | .tbexp _ => 0x00A
  | .tbarr _ => 0x00B
  | .tbwait _ => 0x00C
  | .done _ => 0x00D
  | .jraise _ => 0x00E
  | .launchOn _ | .launchOff _ => 0x00F
  | .evrd _ => 0x010
  | .csrr _ => 0x011
  | .csrw _ => 0x012
  | .csrs _ => 0x013
  | .csrc _ => 0x014
  | .hpinOn _ | .hpinOff _ => 0x015
  | .hpri _ => 0x016
  | .hdem _ => 0x017
  | .hevict _ => 0x018
  | .hmov _ => 0x019
  | .purge _ => 0x01A
  | .qflushCp _ | .qflushMx _ => 0x01B
  | .rdtime _ => 0x01C
  | .sleep _ => 0x01D
  | _ => 0

/-- The operand bits of an operation. -/
def operandsOf : Instr → BitVec 52
  | .tree o => putBT o
  | .jmp o | .call o => putBJ o
  | .jmpr o | .callr o => putBG o
  | .trap o => putBI o
  | .add o | .sub o | .mul o | .mulh o | .mulhz o | .div o | .divz o | .rem o | .remz o | .and o | .or o
  | .xor o | .andn o | .shl o | .shr o | .sar o | .rot o | .min o | .max o | .minz o | .maxz o | .abs o | .clz o
  | .ctz o | .popc o | .sext o | .bfx o | .bfxz o | .bfi o | .lea o | .mov o | .sel o | .cmp o | .cset o
  | .fadd o | .fsub o | .fmul o | .ffma o | .fdiv o | .fsqrt o | .fmin o | .fmax o | .fcmp o | .fcvt o
  | .fclass o => putSR o
  | .addi o | .andi o | .ori o | .xori o | .movi o | .movhi o | .cmpi o => putSI o
  | .vadd o | .vsub o | .vmul o | .vmin o | .vmax o | .vabs o | .vneg o | .vcopysgn o | .vrcp o | .vrsq o
  | .vfn o | .vcmp o | .vsel o | .vand o | .vor o | .vxor o | .vnot o | .vshl o | .vshr o | .vsar o | .vcvt o
  | .vsqrt o | .vpack o | .vunpk o | .vperm o | .vshuf o | .vbcast o | .vredSum o | .vredMin o | .vredMax o
  | .vredVsum o | .vredRsum o | .vscan o | .vrand o | .vmovs o | .vins o | .vidx o | .vround o | .vnfchk o
  | .mand o | .mor o | .mxor o | .mnot o | .mpop o | .mset o | .mfirst o => putVX o
  | .vfma o | .vfms o | .vdot o | .vclamp o => putVR o
  | .ld o | .st o | .vld o | .vst o | .vlds o | .pref o => putLM o
  | .vgth o | .vsct o | .vredm o => putLG o
  | .amo o | .cas o | .red o => putLA o
  | .kld o | .kst o => putKM o
  | .kmov o | .kset o | .kmax o => putKR o
  | .xtr o | .xexp o | .xcvt o | .xqnt o | .xamx o | .xswz o => putXR o
  | .mma o | .mmao o => putMM o
  | .mzero o | .mload o | .mdrain o | .mchk o | .mrel o => putMC o
  | .cpy o | .cpyt o | .cpst o | .cpz o | .cpzTile o | .cpxOut o | .cpxIn o | .coll o | .cpnWr o | .cpnRd o => putCD o
  | .give o | .take o | .waits o | .phreg o | .phdrop o | .pharr o | .phwait o | .phaw o | .tbinit o | .tbexp o
  | .tbarr o | .tbwait o | .done o | .jraise o | .launchOn o | .launchOff o | .evrd o | .csrr o | .csrw o
  | .csrs o | .csrc o | .hpinOn o | .hpinOff o | .hpri o | .hdem o | .hevict o | .hmov o | .purge o
  | .qflushCp o | .qflushMx o | .rdtime o | .sleep o => putYF o
  | _ => 0

/-- A slot word with path tag 0. -/
def encodeWord (i : Instr) : Word := (0#3 ++ opcodeOf i) ++ operandsOf i

/-- The branch-extension word of a `tree`. -/
def extOf : Instr → Option Word
  | .tree o => o.ext
  | _ => none

/-- The header of a bundle that holds one operation in slot j. -/
def header1 (j : Nat) (bext : Bool) : Word :=
  BitVec.ofNat 64 (2 ^ (52 + j) + (1 + bext.toNat) * 2 ^ 28 + bext.toNat * 2 ^ 27)

/-- The words of the bundle that holds one operation and nothing else; nothing for an event. -/
def encode (i : Instr) : List Word :=
  match slotOf i with
  | none => []
  | some s => header1 (slotIdx s) (extOf i).isSome :: encodeWord i :: (extOf i).toList

/-- Decodes a list of words as a bundle of one operation. -/
def decodeOne (ws : List Word) : Option Instr :=
  match ws with
  | [] => none
  | h :: rest => match decodeBundle h rest with
    | .inr _ => none
    | .inl b => match b.ops with
      | [d] => some d.op
      | _ => none

/-! ## Table words -/

/-- The bytes of an instruction word of the opcode table, as 64-bit words: the first is the header (bits 63 to 0). -/
def tableWords (nbits w : Nat) : List Word :=
  (List.range (Nat.max 1 ((nbits + 63) / 64))).map (fun i => BitVec.ofNat 64 (w / 2 ^ (64 * i)))

/-- The instruction the decoder reads from a bundle: its operation where it holds one and is plain (no repeat, no clear),
else the presentation of the whole bundle, since the opcode table's words are bundles (log 1). Where the table gives fewer
bits than the bundle has, the further words are zero. -/
def decodeTableWord (nbits w : Nat) : Option Instr :=
  let ws := tableWords nbits w
  let h := ws.headD 0
  match decodeBundle h ((ws.drop 1 ++ List.replicate 16 0).take (hdrCnt h)) with
  | .inr _ => none
  | .inl b => match b.ops with
    | [d] => if b.rep = 0 && !b.clr then some d.op else some (.presentBundle 0 0)
    | _ => some (.presentBundle 0 0)

end Sys2Proof
end

