-- ==== Sys2Proof/Machine/SMap.lean ====
section
/-!
DEFINITION. Sparse maps: lists of key and value pairs, keys strictly rising, no entry equal to what an unlisted key
reads as. Memory, register files and tables are held this way, so that equal contents are equal data.
-/
namespace Sys2Proof.Machine

/-- A sparse map from numbers. -/
abbrev SMap (α : Type) := List (Nat × α)

/-- The value listed at key k, if one is. -/
def smFind {α : Type} (m : SMap α) (k : Nat) : Option α :=
  match m with
  | [] => none
  | (j, v) :: rest => if j = k then some v else smFind rest k

/-- The value at key k, an unlisted key reading as d. -/
def smGet {α : Type} (m : SMap α) (k : Nat) (d : α) : α := (smFind m k).getD d

/-- Puts v at key k, keeping the keys strictly rising. -/
def smPut {α : Type} (m : SMap α) (k : Nat) (v : α) : SMap α :=
  match m with
  | [] => [(k, v)]
  | (j, w) :: rest => if k < j then (k, v) :: (j, w) :: rest else if k = j then (k, v) :: rest else (j, w) :: smPut rest k v

/-- Removes key k. -/
def smDel {α : Type} (m : SMap α) (k : Nat) : SMap α :=
  match m with
  | [] => []
  | (j, w) :: rest => if j = k then smDel rest k else (j, w) :: smDel rest k

/-- Puts v at key k in canonical form: the value an unlisted key reads as is not listed. -/
def smSet {α : Type} [DecidableEq α] (m : SMap α) (k : Nat) (v d : α) : SMap α := if v = d then smDel m k else smPut m k v

/-- Keys strictly rising and all at least lo. -/
def smRising {α : Type} (lo : Nat) (m : SMap α) : Bool :=
  match m with
  | [] => true
  | (k, _) :: rest => decide (lo ≤ k) && smRising (k + 1) rest

/-- The canonical form with default d. -/
def smWf {α : Type} [DecidableEq α] (d : α) (m : SMap α) : Bool := smRising 0 m && m.all (fun p => decide (p.2 ≠ d))

end Sys2Proof.Machine
end

