-- ==== Sys2Proof/Machine/State.lean ====
section
/-!
DEFINITION. The state of the machine, its fault and refusal reasons, and the state after reset. Each record's docstring
names the rules it follows. Fields marked MODEL are the model's own (INVENTORY.md).
-/
namespace Sys2Proof.Machine

/-! ## Contexts -/

/-- A held operation of a sticky slot with its step count (03 R83, R87). -/
structure Sticky where
  word : Word
  k : Int
  deriving DecidableEq, Repr, Inhabited

/-- A result of exposed latency in flight (03 R93, 06 R210): it becomes visible to the issue at position `vis`. -/
structure Landing where
  vreg : Option Nat
  vval : Vec
  kreg : Option Nat
  kval : Scale
  vis : Nat
  poison : Bool
  /-- The `kld` whose data has not arrived (05 R177). -/
  wait : Option Nat
  /-- The address that a poisoned `kld` read; a record restored from a frame has none (log 20). -/
  addr : Nat
  /-- The poisoned units it read (12 R417). -/
  units : List (Nat × Nat) := []
  deriving DecidableEq, Repr, Inhabited

/-- A register that a slot operation reads or writes. -/
inductive RegId where
  | s (n : Nat) | c (n : Nat) | m (n : Nat) | h (n : Nat) | k (n : Nat) | v (n : Nat)
  deriving DecidableEq, Repr, Inhabited

/-- An interlocked write (03 R93): its value, once ready, is written as of position `vis`. `seq` names the memory
operation that brings the value, none for a result that is ready at issue. -/
structure Pend where
  reg : RegId
  val : Option Nat
  vis : Nat
  seq : Option Nat
  deriving DecidableEq, Repr, Inhabited

/-- What a memory operation does when it is performed (08 R255 to R257). -/
inductive OpKind where
  /-- `ld`: destination, address, bytes, sign extension (07 R244). -/
  | loadS (d addr size : Nat) (sx : Bool)
  /-- `vld`: destination, address, byte mask (07 R245). -/
  | loadV (d addr : Nat) (mask : Mask)
  /-- `vlds`, `vgth`: destination, bytes of a lane, lanes with their addresses (07 R246, R247). -/
  | loadL (d size : Nat) (lanes : List (Nat × Nat)) (one : Bool)
  /-- `st`, `vst`, `vsct`, `kst`: runs of bytes, in order (07 R244 to R247, 05 R176); of a `vst`, whose runs are one access
  of a 128-byte line, `line` is set. -/
  | store (line : Bool) (writes : List (Nat × List Byte))
  /-- `amo` and `red`: destination (none for `red`), operation, address, bytes, operand, sign extension (07 R248, R250). -/
  | amo (d : Option Nat) (e addr size : Nat) (u : Nat) (sx : Bool)
  /-- `cas` (07 R249). -/
  | cas (d addr size exp new : Nat) (sx : Bool)
  /-- `vredm`: address, format code, operation, lanes with their codes (07 R251). -/
  | vredm (addr fmt op : Nat) (lanes : List (Nat × Nat))
  /-- `pref`: kind and address (07 R252). -/
  | pref (kind addr : Nat)
  /-- `kld`: destination and address (05 R176). -/
  | kld (d addr : Nat)
  /-- `st.d` to a link FIFO (11 R353). -/
  | push (n : Nat) (w : Word)
  /-- `st.d` to the invalidation window (12 R387). -/
  | inval (w : Word)
  /-- `give` of the gang's granules from `first`, with the accesses it waits for: position key, iteration and sequence number
  (07 R239). -/
  | give (first n : Nat) (after : List (Nat × Nat × Nat))
  /-- `tbinit` (13 R433). -/
  | tbinit (addr n : Nat)
  /-- `tbarr` (13 R433). -/
  | tbarr (d addr : Nat)
  /-- The arrival of `pharr` at a phaser; the phase to report (13 R442). -/
  | pharr (d n phase : Nat)
  /-- `launch` (12 R408). -/
  | launch (d e : Nat) (on : Bool)
  /-- `jraise` (13 R448). -/
  | jraise (addr amount : Nat)
  /-- Handle instructions: destination, opcode, x[0], entry, operand, second operand (12 R395, R396). -/
  | handle (d code x idx : Nat) (op1 op2 : Word)
  /-- `purge` (12 R421). -/
  | purge (d tag : Nat)
  /-- An engine command, with the byte ranges it may touch in the context's address space (10, 09; 08 R259). -/
  | cmd (ranges : List (Nat × Nat))
  deriving DecidableEq, Repr, Inhabited

/-- A memory operation outstanding (08 R255). `done` is the widest scope at which it is performed, `order` its acceptance
order, `awaiting` its remote requests not yet answered (11 R356). `gathered` holds the data that came, by piece; for a write
accepted at a holder of 08 R256, its bytes by physical place. `seenBy` lists the contexts that read it from the holder. -/
structure MemOp where
  seq : Nat
  ss : Nat
  pm : BitVec 16
  scope : Nat
  slot : Nat
  bundle : BitVec 48
  lvl : Nat
  kind : OpKind
  done : Option Nat
  order : Nat
  started : Bool
  awaiting : List Nat
  gathered : List (Nat × List Byte)
  seenBy : List Nat
  /-- The places behind its ranges, as keys of bytes (11 R357). -/
  phys : List (Nat × Nat) := []
  /-- The cycle of its issue (07 R239). -/
  issued : Nat := 0
  /-- A release of its context has published it while it was on its way home (08 R271; log 114). -/
  released : Bool := false
  deriving DecidableEq, Repr, Inhabited

/-- A failure held unconsumed (06 R206), with what identifies its consumers (R204). -/
structure Failure where
  seq : Nat
  bundle : BitVec 48
  slot : Nat
  cause : Nat
  addr : Word
  ss : Nat
  regs : List RegId
  sig : Word
  grans : List Nat
  /-- The poisoned units it met: place code and first byte (12 R417). -/
  units : List (Nat × Nat) := []
  deriving DecidableEq, Repr, Inhabited

/-- Why a bundle blocks (01 R29). -/
inductive BlockWhy where
  | queue
  | fifo (n : Nat)
  | streamLimit
  | lease
  | bank (b : Nat)
  | waits
  | take
  | phaser
  | barrier
  | done
  | sleep
  deriving DecidableEq, Repr, Inhabited

/-- Scheduling state of a resident context (01 R29, R30): a blocked one with the slots that block it. -/
inductive Status where
  | ready
  | blocked (w : List (Nat × BlockWhy))
  /-- Stopped by pre-emption while its operations drain (01 R42, R44). -/
  | stopped
  deriving DecidableEq, Repr, Inhabited

/-- A repeat in progress: issues left and the recorded leaf (04 R145, 06 R209). -/
structure Rep where
  left : Nat
  leaf : Nat
  deriving DecidableEq, Repr, Inhabited

/-- What a context takes from its launch, task and iteration at placement (01 R28, 12 R379, R407). -/
structure Env where
  iter : Nat
  gang : Nat
  rank : Nat
  tag : BitVec 16
  prio : Nat
  root : Nat
  asn : Nat
  jcb : Nat
  bind : Nat
  roles : List Word
  deriving DecidableEq, Repr, Inhabited

/-- A context: the state of 01 R16 and the registers of 06 R191 to R198. Scalar, handle, scale and vector registers not
listed read zero; `m` not listed reads zero, and `m0` and `c0` read ones by their accessors. -/
structure Ctx where
  id : CtxId
  joined : Bool
  env : Env
  pc : BitVec 48
  s : SMap Word
  c : BitVec 16
  m : SMap Mask
  h : SMap Word
  k : SMap Scale
  v : SMap Vec
  winBase : Nat
  win : Nat
  cnt : SMap Nat
  lastSeq : SMap Nat
  issueSeq : BitVec 48
  streamCfg : Word
  fpctl : Word
  fpflags : BitVec 6
  sticky : SMap Sticky
  rep : Option Rep
  pos : Nat
  pend : List Pend
  land : List Landing
  ops : List MemOp
  fails : List Failure
  failsLost : Bool
  /-- The poisoned units of the landings that frames hold, by 16 × slot + index (12 R417). -/
  landUnits : SMap (List (Nat × Nat)) := []
  lvl : Nat
  use0 : Bool
  use1 : Bool
  cause : Word
  info : Word
  taddr : Word
  uvec : Word
  ctxsave : Word
  vsaved : BitVec 16
  status : Status
  /-- Cycles blocked on one bundle, counted for WDOG_LIMIT, FIFO_MAX and LEASE_MAX (06 R200, 09 R284). -/
  blockedFor : Nat
  fifoFor : Nat
  leaseFor : Nat
  leaseNoted : Bool
  sleepAt : Option Nat
  events : List (BitVec 128)
  /-- Cycle at which the context's pre-emption stop began (01 R44). -/
  stopAt : Nat
  /-- A `trap` whose bundle has acted and whose entry waits for interlocked results (04 R141, 06 R208): its TRAP_INFO and
  the saved program counter. -/
  trapWait : Option (Word × BitVec 48)
  /-- An `eret` whose bundle has acted waits for the bundle's own accesses to the parts of the save area that it reads (06 R212). -/
  eretWait : Bool := false
  deriving DecidableEq, Repr, Inhabited

/-! ## Engines -/

/-- An engine command in a queue (10 R309, R314, R343, R344). -/
structure Cmd where
  ctx : CtxId
  seq : Nat
  iter : Nat
  tag : BitVec 16
  lvl : Nat
  prio : Nat
  word : Word
  slot : Nat
  bundle : BitVec 48
  entries : Nat
  rm : Nat
  sat : Bool
  hidx : Nat
  hidxB : Nat
  wait : Word
  sig : Word
  ops : List Word
  desc : BitVec 640
  kval : Scale
  /-- Accepted order across the cluster (10 R311). -/
  order : Nat
  /-- Banks of an `mrel` whose release a later command of the gang has cancelled (09 R280). -/
  keep : List Nat
  inArr : Bool
  started : Bool
  waitOk : Bool
  prog : Nat
  /-- The address of the access at which a started command stopped (10 R313). -/
  stop : Option Nat
  /-- Remote or collective requests still unanswered. -/
  awaiting : List Nat
  /-- 0 before the command's remote requests, 1 after its reads are sent, 2 after its writes are sent (MODEL). -/
  phase : Nat
  /-- Counts gathered from answers: non-finite blocks, blocks without a valid contribution, the first such block. -/
  nonfin : Nat
  novalid : Nat
  firstNv : Nat
  failed : Option (Nat × Word)
  /-- The context whose `qflush` stops it at its next boundary (10 R342). -/
  flush : Option CtxId := none
  deriving DecidableEq, Repr, Inhabited

/-- A reference to a command by its issuing core and identity. -/
structure CmdRef where
  ctx : CtxId
  seq : Nat
  iter : Nat
  deriving DecidableEq, Repr, Inhabited

/-- A `qflush` that has begun at a core (10 R342): its queue, the context, iteration and position of its issue, and the flushed
commands that have left. -/
structure Flush where
  mx : Bool
  ctx : CtxId
  iter : Nat
  pos : Nat
  left : List CmdRef
  deriving DecidableEq, Repr, Inhabited

/-- Control core (06 R199, R200; 13 R452; 10 R309). -/
structure Core where
  cur : Nat
  trapRoute : Word
  svec : Word
  wdog : Word
  fifoMax : Word
  curLimit : Nat
  freeze : BitVec 48
  /-- Issues of the last 16 cycles: cycle and weight (13 R450). -/
  weights : List (Nat × Nat)
  mxq : List Cmd
  cpq : List Cmd
  /-- Cached handle entries: the sixteen words of each (12 R398). -/
  hcache : SMap (List Word)
  flushes : List Flush := []
  deriving DecidableEq, Repr, Inhabited

/-- A pair (06 R201, R215, R216). -/
structure Pair where
  cur : Bool
  req : Bool
  pend : Bool
  dis : Bool
  /-- The context whose presented issue awaits its signature match. -/
  unmatched : Option Nat
  /-- Mismatches with no match between them, and the issue they occurred at: context number, iteration, position. -/
  mismatches : Nat
  missAt : Option (Nat × Nat × Nat)
  deriving DecidableEq, Repr, Inhabited

/-- An accumulator bank (09 R279, R280). Elements are FP32 codes at 256 i + j. -/
structure Bank where
  el : SMap Nat
  srow : SMap Nat
  arow : SMap Nat
  scol : SMap Nat
  acol : SMap Nat
  ksteps : BitVec 48
  poison : Bool
  /-- The gang bound to: iteration and gang index. -/
  bound : Option (Nat × Nat)
  deriving DecidableEq, Repr, Inhabited

/-- Retired-row map (12 R414): spares, mode, retired mask. -/
structure RowMap where
  spares : List (BitVec 9)
  mode : BitVec 2
  retired : BitVec 320
  deriving DecidableEq, Repr, Inhabited

/-- The array lease (09 R283). -/
structure Lease where
  holder : Option Nat
  used : Nat
  since : Nat
  last : Nat
  /-- The holder's class at the grant. -/
  cls : Nat
  deriving DecidableEq, Repr, Inhabited

/-- A Mere granule held by a gang (07 R218, R236). -/
structure Gran where
  iter : Nat
  gang : Nat
  num : Nat
  engine : Bool
  /-- The bit before its changes in a cycle; that cycle + 1, or 0; and the context that made them: within a cycle the checks
  of every other agent come before them (07 R236). -/
  was : Bool := false
  changed : Nat := 0
  changer : Nat := 0
  deriving DecidableEq, Repr, Inhabited

/-- A translation held by a TLB (12 R386): ASN, page base, page size as a power of two, leaf. -/
structure TlbEntry where
  asn : Nat
  va : Nat
  bits : Nat
  leaf : Word
  deriving DecidableEq, Repr, Inhabited

/-- A word in a send FIFO with the push it belongs to (11 R353, R355). -/
structure FifoWord where
  w : Word
  ctx : CtxId
  seq : Nat
  iter : Nat
  deriving DecidableEq, Repr, Inhabited

structure Cluster where
  cores : SMap Core
  pairs : SMap Pair
  leaseMax : Word
  lease : Lease
  arrq : List CmdRef
  running : Option CmdRef
  banks : SMap Bank
  rowMap : RowMap
  /-- Cycle of the last located fault of each physical row, and the rows that await retirement, each with the command that
  located the fault (09 R306, R307). -/
  faultAt : SMap Nat
  retire : List (Nat × CmdRef)
  grans : SMap Gran
  /-- Metadata codes of Mere sectors (07 R232). -/
  sectors : SMap Nat
  sendF : SMap (List FifoWord)
  recvF : SMap (List Word)
  /-- Cycle and core of the last pop (n) and the last push (8 + n) of each FIFO (11 R353). -/
  fifoAt : SMap (Nat × Nat) := []
  tlb : List TlbEntry
  lastCp : Nat
  deriving DecidableEq, Repr, Inhabited

/-! ## Spring and the walkers -/

/-- State of one task of a launch run (12 R405, 13 R445). -/
inductive TaskState where
  | idle | released | complete | rejected | purged
  deriving DecidableEq, Repr, Inhabited

/-- A captured task record (12 R399, R405, R406). -/
structure Task where
  words : List Word
  /-- The captured binding group; none where it could not be read (12 R404, R411). -/
  roles : Option (List Word)
  bindOk : Bool
  state : TaskState
  jcb : Nat
  next : Nat
  scan : Option Nat
  walker : Nat
  /-- The mark of its last turn in the walker's round-robin, 0 before its first (01 R22). -/
  served : Nat
  /-- Its place in the order of releases, by which the tasks of a walker take the record positions (01 R22; log 96). -/
  order : Nat
  deriving DecidableEq, Repr, Inhabited

/-- An active launch run (12 R399 to R409). -/
structure Inst where
  entry : Nat
  words : List Word
  tag : BitVec 16
  prio : Nat
  tasks : SMap Task
  rejected : Bool
  purged : Bool
  deriving DecidableEq, Repr, Inhabited

/-- A gang slot of an iteration: cluster, context positions in rank order, physical granules in order of allocation. -/
structure GangSlot where
  cl : Nat
  ctxs : List CtxId
  wins : List Nat
  grans : List Nat
  deriving DecidableEq, Repr, Inhabited

inductive IterState where
  /-- Some gangs of a span have their slots, others wait for theirs (01 R24). -/
  | reserving
  | filling | running | stopping | preempted
  deriving DecidableEq, Repr, Inhabited

/-- A bank saved at pre-emption (09 R281): cluster, number, gang, poison bit. -/
structure SavedBank where
  cl : Nat
  bank : Nat
  gang : Nat
  poison : Bool
  deriving DecidableEq, Repr, Inhabited

/-- A granule saved at pre-emption (01 R43, 07 R236): cluster, physical number, and how the gang held it; the metadata codes
of its eight sectors (07 R232), and its poisoned units by their offset. -/
structure SavedGran where
  cl : Nat
  phys : Nat
  gran : Gran
  codes : List Nat
  poison : List Nat
  deriving DecidableEq, Repr, Inhabited

/-- A placed iteration (01 R24 to R27, R41 to R46). `uid` is MODEL: a number given at placement. -/
structure Iter where
  uid : Nat
  id : IterId
  idx : List Nat
  gangs : List GangSlot
  state : IterState
  posted : Bool
  /-- The context that executed `done`, and its ISSUESEQ then, while the post waits for its operations to reach their homes
  (01 R37). -/
  postDue : Option (CtxId × Nat)
  fillLeft : Nat
  placedAt : Nat
  /-- Memory operations of its stopped contexts were not performed within 4 µs of the stop (01 R44). -/
  lost : Bool
  tag : BitVec 16
  prio : Nat
  savedBanks : List SavedBank
  savedGrans : List SavedGran
  /-- Contexts with a live frame in slot 2 (01 R46) and what the frame does not hold of them. -/
  frames : List Ctx
  /-- Engine commands in the frames, in record order, with what a record does not hold of them (01 R43). -/
  cmds : List Cmd
  /-- Contexts that had retired before the stop and whose engine commands remain (01 R46; log 113). -/
  retired : List Ctx := []
  deriving DecidableEq, Repr, Inhabited

/-! ## Package -/

inductive LinkHealth where
  | up | retraining | down
  deriving DecidableEq, Repr, Inhabited

/-- One link (11 R362 to R364): its health and the cycle at which it took it. -/
structure Link where
  health : LinkHealth
  since : Nat
  deriving DecidableEq, Repr, Inhabited

/-- A packet under way from this package (11 R348, R362, R365): in a buffer of its output link, since `head` at the head of it,
its class's or the escape channel's; or sent over the link `sent` and not acknowledged by its far end. `pkt` holds the header with
which it came here, and once it is sent the one with which it went; `came` the virtual channel on which it came. -/
structure OutPkt where
  pkt : Packet
  head : Option Nat := none
  sent : Option Nat := none
  came : Bool := false
  deriving DecidableEq, Repr, Inhabited

/-- What an outstanding remote request belongs to. -/
structure Req where
  rid : Nat
  ctx : CtxId
  seq : Nat
  iter : Nat
  cmd : Bool
  addr : Nat
  len : Nat
  write : Bool
  lane : Nat
  /-- The node asked, and the address there. -/
  node : Nat := 0
  target : Nat := 0
  /-- The lanes of a `vlds` whose elements one request asks for, by their byte offset in the vector (11 R356). -/
  lanes : List Nat := []
  deriving DecidableEq, Repr, Inhabited

/-- A collective command being received (11 R367, R371 to R373): its origin, options and per-block state
(1 applied, 2 failed or refused; a block not listed has not arrived). -/
structure CollRx where
  src : Nat
  rid : Nat
  tag : BitVec 16
  spec : List Word
  blocks : SMap Nat
  nb : Nat
  t0 : Nat
  lossy : Bool
  nonfin : Nat
  novalid : Nat
  firstNv : Nat
  /-- A block was refused with a NACK. -/
  refused : Bool
  deriving DecidableEq, Repr, Inhabited

/-- A block that came before its open packet (11 R367). -/
structure EarlyBlock where
  src : Nat
  rid : Nat
  pkt : Packet
  ok : Bool
  /-- When it arrived, in nanoseconds (11 R367). -/
  since : Nat
  deriving DecidableEq, Repr, Inhabited

/-- A phaser member (13 R436). Modes: 0 SIG, 1 WAIT, 2 SIGWAIT. -/
structure Member where
  ctx : CtxId
  iter : Nat
  mode : Nat
  first : Nat
  arrived : Bool
  waiting : Bool
  waitPhase : Nat
  leaving : Bool
  /-- Whether its first phase has not come: a signaller still counted in join (13 R439, R440). -/
  joining : Bool
  deriving DecidableEq, Repr, Inhabited

/-- A phaser (13 R436). -/
structure Phaser where
  phase : BitVec 32
  pend : Nat
  nsig : Nat
  nanon : Nat
  join : Nat
  leave : Nat
  err : Bool
  members : List Member
  deriving DecidableEq, Repr, Inhabited

/-- A poison record (12 R416). -/
structure PoisonRec where
  addr : BitVec 52
  place : BitVec 3
  consumed : Bool
  tag : BitVec 16
  at_ : BitVec 48
  deriving DecidableEq, Repr, Inhabited

/-- A purge in progress (12 R419 to R421): nodes whose acknowledgement is awaited, and the `purge` instructions merged. -/
structure Purge where
  tag : BitVec 16
  cause : Nat
  awaiting : List Nat
  deriving DecidableEq, Repr, Inhabited

/-- A migration in progress (12 R396): the entry, its previous state, the `hmov`, the old ranges, and the address space and
level the `hmov` was issued in. -/
structure Migration where
  idx : Nat
  prev : Nat
  ctx : CtxId
  seq : Nat
  iter : Nat
  base : Nat
  len : Nat
  metaBase : Nat
  metaLen : Nat
  cl : Nat
  asn : Nat
  root : Nat
  lvl : Nat
  deriving DecidableEq, Repr, Inhabited

/-- An invalidation accepted and not yet performed (12 R388): the store's context and operation, none for the host's. -/
structure Inval where
  word : Word
  src : Option (CtxId × Nat)
  deriving DecidableEq, Repr, Inhabited

/-- A latent flipped bit (07 R225): place 0 Mere, 2 HBM4, 3 carved; key is the unit's first byte; bit in the unit. -/
structure Flip where
  place : Nat
  addr : Nat
  bit : Nat
  deriving DecidableEq, Repr, Inhabited

/-- Tables, counters and containment of the package (12, 13, 07 R225). -/
structure Pkg where
  units : Word
  unitsA : Word
  unitsB : Word
  carve : Nat
  hBase : Word
  lBase : Word
  logBase : Word
  notifyPh : Nat
  devtime : BitVec 80
  stagedH : BitVec 16
  rate : BitVec 48
  rateFrac : Nat
  lossyDeadline : BitVec 32
  chktol : SMap Word
  errCorr : BitVec 48
  errRowret : BitVec 48
  errReplay : BitVec 48
  errLossy : BitVec 48
  errPair : BitVec 48
  phasers : SMap Phaser
  tlb : List TlbEntry
  /-- Lines Tarn holds, least recently used first: line number of HBM4, and the handle it belongs to as index + 1, 0 for
  an unhandled line (07 R221, 12 R391 to R393). -/
  lines : List (Nat × Nat)
  frozen : List Nat
  migrations : List Migration
  poisonRecs : SMap PoisonRec
  poisonOver : Bool
  purges : List Purge
  invals : List Inval
  /-- Flipped bits of the containment tables (12 R422): `place` is the table's number of 17 R485 kind 5, `addr` the word and copy as
  2 × word + copy. -/
  damage : List Flip
  /-- Order numbers given to phaser member and command acceptances (MODEL). -/
  orderNo : Nat
  deriving DecidableEq, Repr, Inhabited

/-- Memory contents (07 R217 to R225): cells by physical address, carved offset, cluster × 2^22 + Mere byte, and host
address; marks of poisoned units by their first byte. -/
structure Mem where
  hbm : List Host.Cell
  carved : List Host.Cell
  mere : List Host.Cell
  host : List Host.Cell
  poisonHbm : List Nat
  poisonCarved : List Nat
  poisonMere : List Nat
  flips : List Flip
  /-- Single-bit errors corrected on a read (07 R225). -/
  corrected : Nat := 0
  /-- Lines written since Tarn took them (12 R393, 17 R500). -/
  dirty : List Nat := []
  deriving DecidableEq, Repr, Inhabited

/-- A packet sent on a scale-out port (11 R376): kind 0 write, 1 read, 2 acknowledgement, 3 negative acknowledgement, 4 read
response, 5 congestion notification. -/
structure RdmaMsg where
  port : Nat
  qp : Nat
  kind : Nat
  va : Nat
  rkey : Nat
  len : Nat
  data : List Byte
  part : RdmaPart := .only
  /-- Its sequence number (11 R377). -/
  psn : Nat := 0
  deriving DecidableEq, Repr, Inhabited

/-- A write that arrives in packets (11 R376): its memory region, the address of the next packet, and the bytes still to come. -/
structure RdmaRx where
  region : Nat
  va : Nat
  left : Nat
  deriving DecidableEq, Repr, Inhabited

/-- An RDMA operation sent and not answered (10 R332, 11 R377): its command, queue pair, port, the cycle of its last
sending, the retries made, and the message. -/
structure RdmaWait where
  ctx : CtxId
  seq : Nat
  iter : Nat
  since : Nat
  tries : Nat
  msg : RdmaMsg
  deriving DecidableEq, Repr, Inhabited

/-- A write accepted by a receiving port's queue and not yet at its home (08 R256): the port, the packet, and its runs by
virtual address, physical key, whether EXPANDED_VIEW expands it as it arrived (07 R235), and bytes. -/
structure PortWrite where
  port : Nat
  /-- The address space in which it was translated, as it arrived. -/
  asn : Nat := 0
  pkt : Packet
  runs : List (Nat × Nat × Bool × List Byte)
  deriving DecidableEq, Repr, Inhabited

/-- A write that the host port has transmitted and the host has not yet taken (08 R256, R270): its context, host address, bytes. -/
structure Posted where
  ctx : CtxId
  iter : Nat
  addr : Nat
  data : List Byte
  ss : Nat := 0
  /-- The contexts that have read it before the host took it, and whether a release of its context has published it (08 R268, R271). -/
  seenBy : List Nat := []
  released : Bool := false
  deriving DecidableEq, Repr, Inhabited

/-- Ports and links (11). -/
structure Net where
  links : SMap Link
  /-- Packets in the buffers of the output links and in their replay buffers, oldest first. -/
  out : List OutPkt
  reqs : List Req
  nextRid : Nat
  colls : List CollRx
  early : List EarlyBlock
  /-- Remote-fault log origin of each entry: the request it answers (11 R360, R361). -/
  logRid : SMap (Nat × Nat)
  rdma : List RdmaWait
  rdmaOut : List RdmaMsg
  /-- Packets that wait while their port is paused, oldest first (11 R376). -/
  rdmaHeld : List RdmaMsg := []
  /-- Writes that arrive in packets, by queue pair, and the ports whose sending is paused (11 R376). -/
  rdmaRx : SMap RdmaRx := []
  paused : List Nat := []
  dropped : Nat
  portq : List PortWrite := []
  /-- Posted writes under way to the host, in the order of their transmission (08 R270). -/
  hostq : List Posted := []
  /-- The class whose turn it is on each output link (11 R350). -/
  turn : SMap Nat := []
  deriving DecidableEq, Repr, Inhabited

/-- Host interface, management and power (17). -/
structure Dev where
  boot : BitVec 8
  st : Bool
  hold : Bool
  fatal : Bool
  form : BitVec 4
  part : BitVec 16
  expanded : Bool
  tx : Nat
  ty : Nat
  tz : Nat
  txn : Nat
  tyn : Nat
  tzn : Nat
  launched : Bool
  qpBase : Word
  mrBase : Word
  bar2 : Word
  flashWin : Word
  flash : List Host.Cell
  flashBusy : Option (Nat × List Byte)
  ringBase : Word
  ringSize : Word
  ringHead : Word
  ringTail : Word
  droppedN : Word
  /-- The 64 MSI-X vectors that have been raised (17 R479, R485). -/
  msix : BitVec 64
  nonce : List Byte
  /-- The nonce of the report that is being built (17 R494). -/
  attNonce : List Byte
  attBusy : Bool
  attReport : List Byte
  selfTest : List Byte
  /-- Alarmed regions with the cycle at which each alarm rose (13 R450, 17 R497). -/
  alarms : SMap Nat
  /-- The cycle until which a region's freeze lasts at least (13 R450), and the cycle of the last alarm that fell. -/
  freezeUntil : SMap Nat
  okSince : Nat
  holdSince : Nat
  throttle : Bool
  powered : Bool
  imageDigest : BitVec 384
  cfgDigest : BitVec 384
  mapsDigest : BitVec 384
  /-- Whether the boot in progress follows a power-on reset, and the cycle at which the ROM's stage ends (17 R491, R495, R500). -/
  bootCold : Bool
  romUntil : Nat
  debugUnlock : Bool
  smbusOut : List Byte
  jtagIr : BitVec 2
  jtagOut : List Bool
  /-- The boundary register, which drives the pins under EXTEST (17 R501). -/
  jtagBsr : List Bool
  /-- What the last read or atomic of the host returned, and whether its last access ended in an error completion (MODEL). -/
  hostOut : List Byte
  hostErr : Bool
  deriving DecidableEq, Repr, Inhabited

/-- Spring and the four walkers (01 R19 to R27, 12 R399 to R409). -/
structure Spring where
  insts : List Inst
  iters : List Iter
  nextUid : Nat
  /-- Entries whose slot starts once a purge of their tag is performed (12 R403, R419). -/
  deferred : List Nat
  deriving DecidableEq, Repr, Inhabited

/-- Where an operation executed on its own stands: its slot, step count and the bytes of its bundle (MODEL). -/
structure Iss where
  slot : Nat
  k : Int
  len : Nat
  deriving DecidableEq, Repr, Inhabited

/-- The whole machine. -/
structure State where
  cyc : Nat
  /-- Cycles that passed outside HOLD: the clock of what HOLD must not change (17 R498). -/
  ran : Nat
  ctxs : SMap Ctx
  /-- Retired contexts whose operations still drain (04 R143). -/
  ghosts : List Ctx
  clusters : SMap Cluster
  mem : Mem
  pkg : Pkg
  net : Net
  dev : Dev
  spring : Spring
  /-- MODEL: the steps the environment schedules next, each with the cycles that pass before it and the candidate it
  concerns (log 2). -/
  agenda : List (Nat × Nat × Instr)
  /-- MODEL: which of several candidates a step without operands concerns (log 2). -/
  which : Nat
  /-- MODEL: the context and issue of an operation executed on its own (log 2). -/
  cur : CtxId
  iss : Iss
  /-- MODEL: the number of free values drawn (log 3). -/
  draws : Nat
  deriving DecidableEq, Repr, Inhabited

/-! ## Outcomes -/

/-- Reasons the machine stops with a fault. -/
inductive Fault where
  /-- Raised by any step while the package has no power (17 R476, R477, R499): nothing runs until a power-on reset. Safe:
  the model stops where the part is off. -/
  | noPower
  /-- Raised by a core, engine or Spring step while the device is FATAL, in HOLD or not booted (12 R422, 17 R491, R497).
  Safe: the unit takes no step. -/
  | halted
  deriving DecidableEq, Repr

/-- Reasons a step is refused. -/
inductive Refusal where
  /-- Raised by an arm of `exec` that has no meaning yet. Safe. -/
  | notModelled (mnemonic : String)
  /-- Raised by an event whose enabling condition does not hold in the state: the step does not occur there. Safe. -/
  | notEnabled (mnemonic : String)
  /-- Raised by `step` when the agenda is empty and no agent has a step to take. Safe: the machine is idle. -/
  | idle
  deriving DecidableEq, Repr

/-! ## Reset -/

/-- A core at reset (06 R199, R200, 13 R452). -/
def Core.atReset : Core :=
  { cur := 0, trapRoute := 0, svec := 0, wdog := 0x0001_0000_0000, fifoMax := 0x0010_0000, curLimit := 0x200, freeze := 0,
    weights := [], mxq := [], cpq := [], hcache := [] }

/-- A pair at reset (06 R201). -/
def Pair.atReset : Pair := { cur := true, req := true, pend := false, dis := false, unmatched := none, mismatches := 0, missAt := none }

/-- A free bank (09 R280). -/
def Bank.free : Bank :=
  { el := [], srow := [], arow := [], scol := [], acol := [], ksteps := 0, poison := false, bound := none }

/-- Full mode, all spares free, no row retired (09 R278, 12 R414). -/
def RowMap.initial : RowMap := { spares := List.replicate 8 511, mode := 0, retired := 0 }

/-- A cluster at reset (09 R284, 11 R353). Records not listed are those of reset. The lease's last holder is 0, so core 1 comes first
(log 119). -/
def Cluster.atReset : Cluster :=
  { cores := [], pairs := [], leaseMax := 0x0040_0000, lease := { holder := none, used := 0, since := 0, last := 0, cls := 0 },
    arrq := [], running := none, banks := [], rowMap := RowMap.initial, faultAt := [], retire := [], grans := [], sectors := [],
    sendF := [], recvF := [], tlb := [], lastCp := 0 }

/-- An idle phaser (13 R436). -/
def Phaser.idle : Phaser :=
  { phase := 0, pend := 0, nsig := 0, nanon := 0, join := 0, leave := 0, err := false, members := [] }

/-- The tolerance table at reset (02 R76): entry 15 reads 0 and is not listed. -/
def chktolReset : SMap Word :=
  (0, 0x3A80_0000_0080_0000) :: (List.range 14).map (fun i => (i + 1, 0x3880_0000_0080_0000))

/-- Package state at reset, for the form OBZ-V6-P (06 R193; log 5). -/
def Pkg.atReset : Pkg :=
  { units := 0x3FFFF, unitsA := 0xFFFF_FFFF_FFFF_FFFF, unitsB := 0xFFFF, carve := 0, hBase := 0, lBase := 0, logBase := 0,
    notifyPh := 0, devtime := 0, stagedH := 0, rate := 0xD5_5555_5555, rateFrac := 0, lossyDeadline := 0xC350,
    chktol := chktolReset, errCorr := 0, errRowret := 0, errReplay := 0, errLossy := 0, errPair := 0, phasers := [],
    tlb := [], lines := [], frozen := [], migrations := [], poisonRecs := [], poisonOver := false, purges := [],
    invals := [], damage := [], orderNo := 0 }

/-- Memory with nothing listed (log 4). -/
def Mem.empty : Mem :=
  { hbm := [], carved := [], mere := [], host := [], poisonHbm := [], poisonCarved := [], poisonMere := [], flips := [] }

def Net.atReset : Net :=
  { links := [], out := [], reqs := [], nextRid := 1, colls := [], early := [], logRid := [], rdma := [], rdmaOut := [], dropped := 0 }

/-- Host interface at reset (17 R482, R483; logs 6 to 10). -/
def Dev.atReset : Dev :=
  { boot := 0, st := false, hold := false, fatal := false, form := 0, part := 0x0B06, expanded := false, tx := 0, ty := 0,
    tz := 0, txn := 0, tyn := 0, tzn := 0, launched := false, qpBase := 0, mrBase := 0, bar2 := 0, flashWin := 0,
    flash := [], flashBusy := none, ringBase := 0, ringSize := 0, ringHead := 0, ringTail := 0, droppedN := 0,
    msix := 0, nonce := [], attNonce := [], attBusy := false, attReport := [], selfTest := [], alarms := [], freezeUntil := [], okSince := 0,
    holdSince := 0, throttle := false, powered := true, imageDigest := 0, cfgDigest := 0, mapsDigest := 0, bootCold := false, romUntil := 0,
    debugUnlock := false, smbusOut := [], jtagIr := 1, jtagOut := [], jtagBsr := [], hostOut := [], hostErr := false }

def Spring.atReset : Spring := { insts := [], iters := [], nextUid := 0, deferred := [] }

/-- The machine right after reset. -/
def State.reset : State :=
  { cyc := 0, ran := 0, ctxs := [], ghosts := [], clusters := [], mem := Mem.empty, pkg := Pkg.atReset, net := Net.atReset,
    dev := Dev.atReset, spring := Spring.atReset, agenda := [], which := 0, cur := { cl := 0, core := 0, ctx := 0 },
    iss := { slot := 1, k := 0, len := 16 }, draws := 0 }

end Sys2Proof.Machine
end

