-- ==== Sys2Proof/Machine/Access.lean ====
section
/-!
DEFINITION. Reads and updates of the parts of State: contexts, cores, clusters, register files; and runs of bytes in
sparse memory. Every read and write of a register goes through here.
-/
namespace Sys2Proof.Machine

/-! ## Contexts, cores, clusters -/

/-- The key of a context position: contexts 0 to 2559 in cluster, core, context order. -/
def ctxKey (c : CtxId) : Nat := (c.cl * 8 + c.core) * 4 + c.ctx

def getCtx (s : State) (c : CtxId) : Option Ctx := smFind s.ctxs (ctxKey c)

def putCtx (s : State) (x : Ctx) : State := { s with ctxs := smPut s.ctxs (ctxKey x.id) x }

def dropCtx (s : State) (c : CtxId) : State := { s with ctxs := smDel s.ctxs (ctxKey c) }

/-- Applies f to the resident context at c, if there is one. -/
def modCtx (s : State) (c : CtxId) (f : Ctx → Ctx) : State :=
  match getCtx s c with
  | none => s
  | some x => putCtx s (f x)

def getCl (s : State) (cl : Nat) : Cluster := smGet s.clusters cl Cluster.atReset
def putCl (s : State) (cl : Nat) (x : Cluster) : State := { s with clusters := smPut s.clusters cl x }
def modCl (s : State) (cl : Nat) (f : Cluster → Cluster) : State := putCl s cl (f (getCl s cl))

def coreOf (x : Cluster) (core : Nat) : Core := smGet x.cores core Core.atReset
def getCore (s : State) (cl core : Nat) : Core := coreOf (getCl s cl) core
def putCore (s : State) (cl core : Nat) (y : Core) : State :=
  modCl s cl (fun x => { x with cores := smPut x.cores core y })
def modCore (s : State) (cl core : Nat) (f : Core → Core) : State := putCore s cl core (f (getCore s cl core))

def pairOf (x : Cluster) (p : Nat) : Pair := smGet x.pairs p Pair.atReset
def getPair (s : State) (cl p : Nat) : Pair := pairOf (getCl s cl) p
def modPair (s : State) (cl p : Nat) (f : Pair → Pair) : State :=
  modCl s cl (fun x => { x with pairs := smPut x.pairs p (f (pairOf x p)) })

def bankOf (x : Cluster) (b : Nat) : Bank := smGet x.banks b Bank.free
def getBank (s : State) (cl b : Nat) : Bank := bankOf (getCl s cl) b
def putBank (s : State) (cl b : Nat) (y : Bank) : State :=
  modCl s cl (fun x => { x with banks := smSet x.banks b y Bank.free })

/-- A core and its state: the even core of a joined pair stands for both (01 R32). -/
def coreJoined (s : State) (cl core : Nat) : Bool := (getPair s cl (core / 2)).cur

def modPkg (s : State) (f : Pkg → Pkg) : State := { s with pkg := f s.pkg }
def modDev (s : State) (f : Dev → Dev) : State := { s with dev := f s.dev }
def modNet (s : State) (f : Net → Net) : State := { s with net := f s.net }
def modMem (s : State) (f : Mem → Mem) : State := { s with mem := f s.mem }
def modSpring (s : State) (f : Spring → Spring) : State := { s with spring := f s.spring }

/-- The context whose operation is being executed. -/
def curCtx (s : State) : Ctx := (getCtx s s.cur).getD default

/-- Applies f to the context whose operation is being executed. -/
def modCur (s : State) (f : Ctx → Ctx) : State := modCtx s s.cur f

/-- All resident contexts. -/
def allCtxs (s : State) : List Ctx := s.ctxs.map (·.2)

/-- A context, resident or retired, whose operation seq of iteration iter is outstanding. -/
def findOwner (s : State) (c : CtxId) (seq : Nat) : Option Ctx :=
  match getCtx s c with
  | some x => if x.ops.any (fun o => o.seq == seq) then some x
    else s.ghosts.find? (fun g => g.id == c && g.ops.any (fun o => o.seq == seq))
  | none => s.ghosts.find? (fun g => g.id == c && g.ops.any (fun o => o.seq == seq))

/-- Whether x is the resident context at its position (a retired one is not). -/
def isResident (s : State) (x : Ctx) : Bool :=
  match getCtx s x.id with
  | some y => y.env.iter == x.env.iter
  | none => false

/-- Puts back a context, resident or retired. -/
def putOwner (s : State) (x : Ctx) : State :=
  if isResident s x then putCtx s x
  else { s with ghosts := s.ghosts.map (fun g => if g.id == x.id && g.env.iter == x.env.iter then x else g) }

/-- The context of an iteration at a position, resident or retired. -/
def getOwner (s : State) (c : CtxId) (iter : Nat) : Option Ctx :=
  match getCtx s c with
  | some x => if x.env.iter == iter then some x else s.ghosts.find? (fun g => g.id == c && g.env.iter == iter)
  | none => s.ghosts.find? (fun g => g.id == c && g.env.iter == iter)

/-! ## Registers (04 R113 to R115, 05 R146, R149, R151) -/

/-- `s0` reads as zero (04 R113). -/
def rdS (x : Ctx) (n : Nat) : Word := if n = 0 then 0 else smGet x.s n 0
/-- `c0` reads as 1 (04 R114). -/
def rdC (x : Ctx) (n : Nat) : Bool := n == 0 || x.c.getLsbD n
/-- The condition bank: bit 0 reads as 1 (04 R114). -/
def rdCC (x : Ctx) : BitVec 16 := x.c ||| 1
/-- `m0` reads as all ones (05 R149). -/
def rdM (x : Ctx) (n : Nat) : Mask := if n = 0 then BitVec.allOnes 128 else smGet x.m n 0
def rdH (x : Ctx) (n : Nat) : Word := smGet x.h n 0
def rdK (x : Ctx) (n : Nat) : Scale := smGet x.k n 0
def rdV (x : Ctx) (n : Nat) : Vec := smGet x.v n 0

/-- A write to `s0` is discarded (04 R117). -/
def wrS (x : Ctx) (n : Nat) (w : Word) : Ctx := if n = 0 then x else { x with s := smSet x.s n w 0 }
/-- A write to `c0` is discarded (04 R117). -/
def wrC (x : Ctx) (n : Nat) (b : Bool) : Ctx :=
  if n = 0 then x
  else { x with c := if b then x.c ||| (1#16 <<< n) else x.c &&& ~~~(1#16 <<< n) }
/-- A write to `m0` is discarded (05 R149). -/
def wrM (x : Ctx) (n : Nat) (w : Mask) : Ctx := if n = 0 then x else { x with m := smSet x.m n w 0 }
/-- Bits [62:12] of a handle register are written 0 (04 R115). -/
def wrH (x : Ctx) (n : Nat) (w : Word) : Ctx := { x with h := smSet x.h n (w &&& 0x8000_0000_0000_0FFF) 0 }
def wrK (x : Ctx) (n : Nat) (w : Scale) : Ctx := { x with k := smSet x.k n w 0 }
def wrV (x : Ctx) (n : Nat) (w : Vec) : Ctx := { x with v := smSet x.v n w 0 }

/-- A register's value as a number. -/
def rdReg (x : Ctx) (r : RegId) : Nat :=
  match r with
  | .s n => (rdS x n).toNat
  | .c n => (rdC x n).toNat
  | .m n => (rdM x n).toNat
  | .h n => (rdH x n).toNat
  | .k n => (rdK x n).toNat
  | .v n => (rdV x n).toNat

/-- Writes a register from a number. -/
def wrReg (x : Ctx) (r : RegId) (v : Nat) : Ctx :=
  match r with
  | .s n => wrS x n (BitVec.ofNat 64 v)
  | .c n => wrC x n (v % 2 == 1)
  | .m n => wrM x n (BitVec.ofNat 128 v)
  | .h n => wrH x n (BitVec.ofNat 64 v)
  | .k n => wrK x n (BitVec.ofNat 256 v)
  | .v n => wrV x n (BitVec.ofNat 1024 v)

/-- Destinations whose writes are discarded: they count as no write (04 R117). -/
def discards (r : RegId) : Bool :=
  match r with
  | .s n => n == 0
  | .c n => n == 0
  | .m n => n == 0
  | _ => false

/-- A write of visibility position vis supersedes older writes of the register still pending, and landings due at or
before vis (03 R94). -/
def supersede (x : Ctx) (r : RegId) (vis : Nat) : Ctx :=
  { x with
    pend := x.pend.filter (fun p => !(p.reg == r && p.vis < vis))
    land := x.land.filterMap (fun l =>
      if l.vis ≤ vis then
        match r with
        | .v n => if l.vreg == some n then (if l.kreg.isSome then some { l with vreg := none } else none) else some l
        | .k n => if l.kreg == some n then (if l.vreg.isSome then some { l with kreg := none } else none) else some l
        | _ => some l
      else some l) }

/-- The pending writes whose results are written now, in issue order: those with a value, but none behind an earlier one of
its register that still waits (03 R93, R94). `b` lists the registers of the writes that wait. -/
def readyPend (b : List RegId) : List Pend → List Pend
  | [] => []
  | p :: rest => if p.val.isSome && !b.contains p.reg then p :: readyPend b rest else readyPend (p.reg :: b) rest

/-- The pending writes that wait. -/
def waitingPend (b : List RegId) : List Pend → List Pend
  | [] => []
  | p :: rest => if p.val.isSome && !b.contains p.reg then waitingPend b rest else p :: waitingPend (p.reg :: b) rest

/-- Writes one result; landings due at or before it are superseded (03 R94). -/
def writePend (y : Ctx) (p : Pend) : Ctx :=
  wrReg { y with land := (supersede { y with pend := [] } p.reg p.vis).land } p.reg (p.val.getD 0)

/-- Writes the results of pending interlocked operations that are ready, in issue order (03 R93, R94). -/
def flushPend (x : Ctx) : Ctx := (readyPend [] x.pend).foldl writePend { x with pend := waitingPend [] x.pend }

/-- Writes a landing (06 R210). -/
def landOne (x : Ctx) (l : Landing) : Ctx :=
  let x1 := match l.vreg with
    | none => x
    | some n => wrV { x with pend := x.pend.filter (fun p => !(p.reg == .v n && p.vis < l.vis)) } n l.vval
  match l.kreg with
  | none => x1
  | some n => wrK { x1 with pend := x1.pend.filter (fun p => !(p.reg == .k n && p.vis < l.vis)) } n l.kval

/-- Whether a landing is due at the issue at position pos and has its data, unpoisoned. -/
def landsAt (pos : Nat) (l : Landing) : Bool := decide (l.vis ≤ pos) && !l.poison && l.wait.isNone

/-- Lands every due landing: those visible to the issue at position pos (03 R93), in order of issue. Poisoned ones stay. -/
def landDue (x : Ctx) : Ctx :=
  (x.land.filter (landsAt x.pos)).foldl landOne { x with land := x.land.filter (fun l => !landsAt x.pos l) }

/-! ## Runs of bytes -/

/-- The byte at address a; an unlisted byte reads 0 (log 4). -/
def cellGet (m : List Host.Cell) (a : Nat) : Byte := smGet m a 0

/-- The nonzero bytes of a run, as cells from address a. -/
def cellsFrom (a : Nat) (bs : List Byte) : List Host.Cell :=
  match bs with
  | [] => []
  | b :: rest => if b = 0 then cellsFrom (a + 1) rest else (a, b) :: cellsFrom (a + 1) rest

/-- Writes a run of bytes from address a, keeping the canonical form. -/
def cellsPut (m : List Host.Cell) (a : Nat) (bs : List Byte) : List Host.Cell :=
  m.filter (fun p => decide (p.1 < a)) ++ cellsFrom a bs ++ m.filter (fun p => decide (a + bs.length ≤ p.1))

/-- Reads n bytes from address a. -/
def cellsGet (m : List Host.Cell) (a n : Nat) : List Byte := (List.range n).map (fun i => cellGet m (a + i))

/-- The canonical form of a memory. -/
def cellsWf (m : List Host.Cell) : Bool := smWf (0 : Byte) m

/-- Little-endian value of a run of bytes (00 R8). -/
def leNat (bs : List Byte) : Nat :=
  match bs with
  | [] => 0
  | b :: rest => b.toNat + 256 * leNat rest

/-- The n low bytes of a number, least significant first (00 R8). -/
def natLe (n x : Nat) : List Byte :=
  match n with
  | 0 => []
  | m + 1 => BitVec.ofNat 8 x :: natLe m (x / 256)

/-- Bits [hi:lo] of a number. -/
def bits (x hi lo : Nat) : Nat := (x >>> lo) % 2 ^ (hi + 1 - lo)

/-- Bit i of a number. -/
def bit (x i : Nat) : Bool := x.testBit i

/-- ceil(a / b) -/
def ceilDiv (a b : Nat) : Nat := (a + b - 1) / b

/-- Signed value of a word. -/
def wInt (w : Word) : Int := w.toInt

end Sys2Proof.Machine
end

