-- ==== Sys2Proof/Machine/Memory.lean ====
section
/-!
DEFINITION. The bytes behind a translated address, poison and latent errors (07 R217 to R225, R232, R233; 12 R416), device
time, and notices to the host ring (17 R485).
-/
namespace Sys2Proof.Machine

/-! ## Places -/

/-- The places a translated address names (07 R217). -/
inductive Space where
  | mere | hbm | carved | peer | host
  deriving DecidableEq, Repr, Inhabited

/-- A translated address: Mere as cluster × 2^22 + byte, HBM4 by physical address, carved Tarn by offset, a peer's device
virtual address with its node, a host physical address. -/
structure Place where
  space : Space
  addr : Nat
  node : Nat
  deriving DecidableEq, Repr, Inhabited

/-- Bytes of an error unit (07 R225). -/
def unitBytes (p : Space) : Nat := if p = .mere then 8 else 32

def spaceCells (s : State) (p : Space) : List Host.Cell :=
  match p with
  | .mere => s.mem.mere
  | .hbm => s.mem.hbm
  | .carved => s.mem.carved
  | .host => s.mem.host
  | .peer => []

def setSpaceCells (s : State) (p : Space) (m : List Host.Cell) : State :=
  match p with
  | .mere => modMem s (fun x => { x with mere := m })
  | .hbm => modMem s (fun x => { x with hbm := m })
  | .carved => modMem s (fun x => { x with carved := m })
  | .host => modMem s (fun x => { x with host := m })
  | .peer => s

def poisonList (s : State) (p : Space) : List Nat :=
  match p with
  | .mere => s.mem.poisonMere
  | .hbm => s.mem.poisonHbm
  | .carved => s.mem.poisonCarved
  | _ => []

def setPoisonList (s : State) (p : Space) (l : List Nat) : State :=
  match p with
  | .mere => modMem s (fun x => { x with poisonMere := l })
  | .hbm => modMem s (fun x => { x with poisonHbm := l })
  | .carved => modMem s (fun x => { x with poisonCarved := l })
  | _ => s

def spaceCode (p : Space) : Nat :=
  match p with
  | .mere => 0 | .hbm => 2 | .carved => 3 | _ => 4

/-! ## Device time and notices (13 R453, 17 R485) -/

/-- DEVTIME in whole nanoseconds. -/
def devNs (s : State) : Nat := s.pkg.devtime.toNat / 65536

/-- The package's node number (11 R346). -/
def nodeNo (s : State) : Nat := 256 * s.dev.tz + 16 * s.dev.ty + s.dev.tx

/-- Sends packets to their nodes (11 R351). -/
def sendPkts (s : State) (l : List Packet) : State :=
  modNet s (fun n => { n with out := n.out ++ l.map (fun p => { pkt := p }) })

/-- Records of the notice ring; none while the host has set no valid size (17 R485). -/
def ringRecords (s : State) : Option Nat :=
  let n := s.dev.ringSize.toNat
  if 6 ≤ n && n ≤ 16 then some (2 ^ n) else none

/-- The bytes of a notice record (17 R485). -/
def noticeBytes (s : State) (kind : Nat) (tag : Nat) (data : Nat) : List Byte :=
  natLe 8 (kind + 2 ^ 8 * nodeNo s + 2 ^ 24 * (tag % 65536)) ++ natLe 8 data ++ natLe 8 (devNs s) ++ natLe 8 0

/-- NOTICE_POST: writes a record to the host ring and raises MSI-X vector 0, or counts it dropped (17 R485). Head and tail
count records; the ring is full when they differ by its size (log 16). -/
def postNotice (s : State) (kind tag data : Nat) : State :=
  match ringRecords s with
  | none => modDev s (fun d => { d with droppedN := d.droppedN + 1 })
  | some n =>
    if n ≤ (s.dev.ringTail - s.dev.ringHead).toNat then modDev s (fun d => { d with droppedN := d.droppedN + 1 })
    else
      let at_ := s.dev.ringBase.toNat / 4096 * 4096 + 32 * (s.dev.ringTail.toNat % n)
      let s1 := modMem s (fun m => { m with host := cellsPut m.host at_ (noticeBytes s kind tag data) })
      modDev s1 (fun d => { d with ringTail := d.ringTail + 1, msix := d.msix ||| 1 })

/-! ## The containment tables (12 R422) -/

/-- A table whose copies cannot be told apart makes the device FATAL, and the host is told. -/
def goFatal (s : State) (t : Nat) : State :=
  if s.dev.fatal then s else postNotice (modDev s (fun d => { d with fatal := true })) 5 0 t

/-- Whether a copy of a table holds an uncorrectable error: two flipped bits in one word (log 102). -/
def tableBad (s : State) (t : Nat) : Bool :=
  s.pkg.damage.any (fun f => f.place == t && s.pkg.damage.any (fun g => g != f && g.place == t && g.addr == f.addr))

/-- A read of a table compares its copies: single flipped bits are corrected, an uncorrectable error makes the device FATAL. -/
def compared (s : State) (t : Nat) : State :=
  if s.pkg.damage.isEmpty then s
  else if tableBad s t then goFatal s t
  else modPkg s (fun g => { g with damage := g.damage.filter (fun f => f.place != t) })

/-! ## Poison (07 R225, 12 R416) -/

/-- The place code and address of a poison record (12 R416): Tarn cache where Tarn holds the line. -/
def recordOf (s : State) (p : Space) (u : Nat) : BitVec 3 × BitVec 52 :=
  match p with
  | .mere => (0, BitVec.ofNat 52 u)
  | .hbm => (if s.pkg.lines.any (fun l => l.1 == u / 128) then 1 else 2, BitVec.ofNat 52 u)
  | _ => (3, BitVec.ofNat 52 u)

/-- The lowest index below n that a map does not list. -/
def lowestFree {α : Type} (m : SMap α) (n : Nat) : Option Nat := (List.range n).find? (fun i => (smFind m i).isNone)

/-- Whether a valid record already names the unit: places 1 and 2 name the same unit of HBM4. -/
def hasRecord (s : State) (p : Space) (u : Nat) : Bool :=
  s.pkg.poisonRecs.any (fun r => r.2.addr == BitVec.ofNat 52 u &&
    (match p with
     | .mere => r.2.place == 0
     | .hbm => r.2.place == 1 || r.2.place == 2
     | _ => r.2.place == 3))

/-- POISON_RECORD: fills the lowest free record, or sets the overflow bit and tells the host (12 R416). The records are read (R422). -/
def makeRecord (s0 : State) (p : Space) (u : Nat) : State :=
  let s := compared s0 1
  if hasRecord s p u then s
  else match lowestFree s.pkg.poisonRecs 512 with
    | none => postNotice (modPkg s (fun g => { g with poisonOver := true })) 7 0 0xFFFF
    | some e =>
      let r := recordOf s p u
      postNotice (modPkg s (fun g => { g with
        poisonRecs := smPut g.poisonRecs e
          { addr := r.2, place := r.1, consumed := false, tag := 0, at_ := BitVec.ofNat 48 (devNs s) } })) 7 0 e

/-- Marks a unit poisoned and records it (07 R225). -/
def poisonUnit (s : State) (p : Space) (u : Nat) : State :=
  let l := poisonList s p
  makeRecord (if l.contains u then s else setPoisonList s p (u :: l)) p u

/-- The units that n bytes from a touch, by their first bytes. -/
def unitsOf (p : Space) (a n : Nat) : List Nat :=
  let w := unitBytes p
  if n = 0 then [] else (List.range ((a + n - 1) / w - a / w + 1)).map (fun i => (a / w + i) * w)

/-- Latent flipped bits of a unit. -/
def flipsAt (s : State) (p : Space) (u : Nat) : List Flip :=
  s.mem.flips.filter (fun f => f.place == spaceCode p && f.addr / unitBytes p * unitBytes p == u)

/-- Removes a unit's latent flips. -/
def clearFlips (s : State) (p : Space) (u : Nat) : State :=
  modMem s (fun m => { m with flips := m.flips.filter (fun f => !(f.place == spaceCode p && f.addr / unitBytes p * unitBytes p == u)) })

/-- Counts a corrected bit. -/
def countCorrected (s : State) : State := modMem s (fun m => { m with corrected := m.corrected + 1 })

/-- Reading a unit: one flipped bit is corrected and counted; with more the error is uncorrectable, and the unit is poisoned
(07 R225). -/
def probeUnit (s : State) (p : Space) (u : Nat) : State :=
  match (flipsAt s p u).length with
  | 0 => s
  | 1 => countCorrected s
  | _ => poisonUnit (clearFlips s p u) p u

/-- The error checks of a read of n bytes at a place. -/
def probeRange (s : State) (pl : Place) (n : Nat) : State :=
  (unitsOf pl.space pl.addr n).foldl (fun t u => probeUnit t pl.space u) s

/-- Whether any unit of a range is poisoned. -/
def isPoisoned (s : State) (pl : Place) (n : Nat) : Bool :=
  (unitsOf pl.space pl.addr n).any (fun u => (poisonList s pl.space).contains u)

/-- The first poisoned unit of a range. -/
def firstPoisoned (s : State) (pl : Place) (n : Nat) : Option Nat :=
  (unitsOf pl.space pl.addr n).find? (fun u => (poisonList s pl.space).contains u)

/-- The bytes at a place. -/
def readPlace (s : State) (pl : Place) (n : Nat) : List Byte := cellsGet (spaceCells s pl.space) pl.addr n

/-- The effect of a write of n bytes on the error state of one unit: a whole unit is refreshed; a part of one reads and
corrects it, and leaves poison (07 R225). -/
def writeUnit (s : State) (pl : Place) (n u : Nat) : State :=
  let w := unitBytes pl.space
  if pl.addr ≤ u && u + w ≤ pl.addr + n then
    setPoisonList (clearFlips s pl.space u) pl.space ((poisonList s pl.space).filter (fun x => x != u))
  else clearFlips (probeUnit s pl.space u) pl.space u

/-- Mere sectors that a context write touches become raw (07 R233). -/
def rawSectors (s : State) (pl : Place) (n : Nat) : State :=
  if pl.space = .mere && n != 0 then
    let cl := pl.addr / 2 ^ 22
    let o := pl.addr % 2 ^ 22
    modCl s cl (fun x => { x with sectors := x.sectors.filter (fun p => !(o / 512 ≤ p.1 && p.1 ≤ (o + n - 1) / 512)) })
  else s

/-- The 128-byte lines that n bytes from an address on touch. -/
def lineNos (a n : Nat) : List Nat := if n = 0 then [] else (List.range ((a + n - 1) / 128 - a / 128 + 1)).map (fun i => a / 128 + i)

/-- The lines of n bytes at a place that Tarn holds differ from HBM4 from now on (07 R221). -/
def markDirty (s : State) (pl : Place) (n : Nat) : State :=
  if pl.space = .hbm then
    modMem s (fun m => { m with dirty := m.dirty ++ (lineNos pl.addr n).filter (fun l =>
      s.pkg.lines.any (fun h => h.1 == l) && !m.dirty.contains l) })
  else s

/-- Writes bytes at a place with the error rules of 07 R225. -/
def writePlace (s : State) (pl : Place) (bs : List Byte) : State :=
  let s1 := (unitsOf pl.space pl.addr bs.length).foldl (fun t u => writeUnit t pl bs.length u) s
  markDirty (setSpaceCells (rawSectors s1 pl bs.length) pl.space (cellsPut (spaceCells s1 pl.space) pl.addr bs)) pl bs.length

/-! ## Posted writes to the host (08 R256, R270) -/

/-- Whether a posted write touches n bytes of host memory from an address on. -/
def postedMeets (a n : Nat) (w : Posted) : Bool := w.addr < a + n && a < w.addr + w.data.length

/-- The host takes a posted write. -/
def hostTake (s : State) (w : Posted) : State := modMem s (fun m => { m with host := cellsPut m.host w.addr w.data })

/-- The host takes every posted write up to the last one that is chosen. -/
def hostUpTo (s : State) (sel : Posted → Bool) : State :=
  let due := (s.net.hostq.reverse.dropWhile (fun w => !sel w)).reverse
  due.foldl hostTake (modNet s (fun n => { n with hostq := n.hostq.drop due.length }))

/-- Key of a context among the readers of a write on its way. -/
def readerKey (c : CtxId) (iter : Nat) : Nat := iter * 4096 + ctxKey c

/-- Whether an agent's access to a posted write's bytes comes after it: its own context's, one that has read it, every agent's once
a release has published it, and an agent's that is no context (08 R259, R268, R273; logs 105, 114). -/
def postedBefore (who : Option (CtxId × Nat)) (w : Posted) : Bool :=
  match who with
  | none => true
  | some (c, i) => (w.ctx == c && w.iter == i) || w.released || w.seenBy.contains (readerKey c i)

/-- What must have reached the host before an agent's access of n bytes there. -/
def hostSettled (s : State) (who : Option (CtxId × Nat)) (p : Place) (n : Nat) : State :=
  if p.space = .host then hostUpTo s (fun w => postedMeets p.addr n w && postedBefore who w) else s

/-- The host takes a posted write at a position of the queue in a cycle, or leaves it among those that stay: a free choice (log 105). -/
def hostPass (cyc : Nat) (t : State × List Posted) (w : Posted × Nat) : State × List Posted :=
  if Config.hostTakes w.2 cyc then (hostTake t.1 w.1, t.2) else (t.1, t.2 ++ [w.1])

/-- The posted write that a context's read of host memory may take its data from before the host has it: the last one there that
holds every byte of it. -/
def hostAhead (s : State) (p : Place) (n : Nat) : Option (Posted × Nat) :=
  s.net.hostq.zipIdx.reverse.find? (fun w => decide (w.1.addr ≤ p.addr ∧ p.addr + n ≤ w.1.addr + w.1.data.length))

/-- Notes that a context has read a posted write. -/
def notePosted (s : State) (k i : Nat) : State :=
  modNet s (fun n => { n with hostq := n.hostq.zipIdx.map (fun w => if w.2 = i then { w.1 with seenBy := k :: w.1.seenBy } else w.1) })

/-- What a context reads of the host's memory where `bs` stands: those bytes, or, by a free choice, a posted write's (08 R270). -/
def hostSees (s : State) (c : CtxId) (iter : Nat) (p : Place) (bs : List Byte) : State × List Byte :=
  if p.space = .host then
    match hostAhead s p bs.length with
    | none => (s, bs)
    | some (w, i) => if Config.hostEarly i s.cyc then
        (notePosted s (readerKey c iter) i, (w.data.drop (p.addr - w.addr)).take bs.length) else (s, bs)
  else (s, bs)

/-- The completion of an iteration publishes what its contexts have posted (01 R37). -/
def publishIter (s : State) (uid : Nat) : State :=
  if s.net.hostq.isEmpty then s
  else modNet s (fun n => { n with hostq := n.hostq.map (fun w => if w.iter == uid then { w with released := true } else w) })

/-- The host takes posted writes in any order: what must precede one to the same byte has been taken as it was posted (08 R268, R270). -/
def hostPasses (s : State) : State :=
  let r := s.net.hostq.zipIdx.foldl (hostPass s.cyc) (s, [])
  modNet r.1 (fun n => { n with hostq := r.2 })

/-! ## Tarn as a cache (07 R221, 12 R392, R393) -/

/-- Lines of Tarn that the carve leaves for caching: 1.5 GiB in all (00 R5, 07 R222). -/
def tarnLines (s : State) : Nat := (1536 * 2 ^ 20 - s.pkg.carve * 64 * 2 ^ 20) / 128

end Sys2Proof.Machine
end

