-- ==== Sys2Proof/Machine/Translate.lean ====
section
/-!
DEFINITION. Address translation (12 R379 to R388), the checks after it (R384), the fixed windows (07 R218, 11 R352, 12 R387,
R413), and the granules behind the Mere window.
-/
namespace Sys2Proof.Machine

/-- A trap cause found: code, sub-cause, register number and address (06 R202). -/
structure TrapC where
  cause : Nat
  sub : Nat
  reg : Nat
  addr : Nat
  deriving DecidableEq, Repr, Inhabited

def trapC (cause sub addr : Nat) : TrapC := { cause := cause, sub := sub, reg := 0, addr := addr }

/-- An access's outcome: the place, or the trap. -/
inductive Acc where
  | ok (p : Place)
  | bad (t : TrapC)
  deriving DecidableEq, Repr, Inhabited

/-! ## Page tables -/

/-- Page size of a leaf code as a power of two (12 R380). -/
def pageBits (sz : Nat) : Nat :=
  match sz with
  | 0 => 12 | 1 => 14 | 2 => 16 | 3 => 18 | 4 => 21 | 5 => 25 | 6 => 29 | _ => 34

/-- The level a leaf size belongs to, and its replicas (12 R380). -/
def leafLevel (sz : Nat) : Nat := if sz ≤ 3 then 0 else if sz ≤ 6 then 1 else 2
def leafReplicas (sz : Nat) : Nat :=
  match sz with
  | 0 => 1 | 1 => 4 | 2 => 16 | 3 => 64 | 4 => 1 | 5 => 16 | 6 => 256 | _ => 16

/-- HBM4 in all: 512 GiB (00 R5). -/
def hbmBytes : Nat := 512 * 2 ^ 30

/-- Whether an entry is valid: bit 0, and every bit that must be 0 (12 R381, R382). -/
def pteValid (e : Nat) : Bool :=
  bit e 0 &&
    (if bit e 1 then bits e 63 52 == 0 && bits e 11 2 == 0
     else bits e 11 10 == 0 &&
       (match bits e 63 61 with
        | 0 => bits e 60 52 == 0
        | 1 => bits e 60 30 == 0
        | _ => true))

/-- An entry of a page table, read at its home; a poisoned one counts as not valid and is recorded (12 R383). -/
def readPte (s : State) (pa : Nat) : State × Nat :=
  let pl : Place := { space := .hbm, addr := pa, node := 0 }
  if hbmBytes ≤ pa then (s, 0)
  else
    let s1 := probeRange s pl 8
    match firstPoisoned s1 pl 8 with
    | some u => (makeRecord s1 .hbm u, 0)
    | none => (s1, leNat (readPlace s1 pl 8))

/-- Index of a table at a level (12 R380). -/
def ptIndex (va l : Nat) : Nat := if l = 4 then bits va 55 48 else bits va (20 + 9 * l) (12 + 9 * l)

/-- `walk` from level l with table t: the first replica's leaf, or none for PAGE_NOTPRESENT (12 R383). -/
def walkFrom (s : State) (va t : Nat) : Nat → State × Option Nat
  | 0 =>
    let r := readPte s (t + 8 * ptIndex va 0)
    if !pteValid r.2 || bit r.2 1 then (r.1, none) else leafAt r.1 va t 0 r.2
  | l + 1 =>
    let r := readPte s (t + 8 * ptIndex va (l + 1))
    if !pteValid r.2 then (r.1, none)
    else if bit r.2 1 then walkFrom r.1 va (bits r.2 51 12 * 4096) l
    else leafAt r.1 va t (l + 1) r.2
where
  /-- Checks a leaf found at level l and reads its first replica (12 R383). -/
  leafAt (s : State) (va t l e : Nat) : State × Option Nat :=
    let sz := bits e 4 2
    if l ≠ leafLevel sz then (s, none)
    else
      let i := ptIndex va l
      let f := readPte s (t + 8 * (i - i % leafReplicas sz))
      if !pteValid f.2 || bit f.2 1 || bits f.2 4 2 != sz then (f.1, none) else (f.1, some f.2)

/-- A walk from the root (12 R383). -/
def walk (s : State) (va root : Nat) : State × Option Nat := walkFrom s va root 4

/-- Whether a TLB entry translates va in an address space. -/
def tlbHit (asn va : Nat) (e : TlbEntry) : Bool := e.asn == asn && e.va == va / 2 ^ e.bits

/-- Adds an entry; the oldest leaves when n are held: replacement is not architectural (12 R386). -/
def tlbAdd (l : List TlbEntry) (e : TlbEntry) (n : Nat) : List TlbEntry := (e :: l).take n

/-- The leaf that translates va for an agent of a cluster: its TLB, the shared TLB, or a walk that fills both (12 R386). -/
def lookupLeaf (s : State) (cl asn root va : Nat) : State × Option Nat :=
  match (getCl s cl).tlb.find? (tlbHit asn va) with
  | some e => (s, some e.leaf.toNat)
  | none =>
    match s.pkg.tlb.find? (tlbHit asn va) with
    | some e => (modCl s cl (fun x => { x with tlb := tlbAdd x.tlb e 1024 }), some e.leaf.toNat)
    | none =>
      match walk s va root with
      | (s1, none) => (s1, none)
      | (s1, some f) =>
        let b := pageBits (bits f 4 2)
        let e : TlbEntry := { asn := asn, va := va / 2 ^ b, bits := b, leaf := BitVec.ofNat 64 f }
        let s2 := modCl s1 cl (fun x => { x with tlb := tlbAdd x.tlb e 1024 })
        (modPkg s2 (fun g => { g with tlb := tlbAdd g.tlb e 16384 }), some f)

/-- The leaf that translates va for Spring, a walker or a port: the shared TLB or a walk that fills it (12 R386). -/
def lookupShared (s : State) (asn root va : Nat) : State × Option Nat :=
  match s.pkg.tlb.find? (tlbHit asn va) with
  | some e => (s, some e.leaf.toNat)
  | none =>
    match walk s va root with
    | (s1, none) => (s1, none)
    | (s1, some f) =>
      let b := pageBits (bits f 4 2)
      let e : TlbEntry := { asn := asn, va := va / 2 ^ b, bits := b, leaf := BitVec.ofNat 64 f }
      (modPkg s1 (fun g => { g with tlb := tlbAdd g.tlb e 16384 }), some f)

/-- The place a leaf gives an address; none where it lies at or beyond the carve (07 R222) or HBM4's end (log 17). -/
def leafPlace (s : State) (leaf va : Nat) : Option Place :=
  let z := pageBits (bits leaf 4 2)
  let off := va % 2 ^ z
  match bits leaf 63 61 with
  | 0 =>
    let pa := bits leaf 51 12 * 4096 / 2 ^ z * 2 ^ z + off
    if pa < hbmBytes then some { space := .hbm, addr := pa, node := 0 } else none
  | 1 =>
    let o := bits leaf 29 12 * 4096 / 2 ^ z * 2 ^ z + off
    if o < s.pkg.carve * 64 * 2 ^ 20 then some { space := .carved, addr := o, node := 0 } else none
  | 2 => some { space := .peer, addr := bits leaf 60 24 * 4096 / 2 ^ z * 2 ^ z + off, node := bits leaf 23 12 }
  | _ => some { space := .host, addr := bits leaf 60 12 * 4096 / 2 ^ z * 2 ^ z + off, node := 0 }

/-- An address in the range of a FROZEN tensor (12 R384, R397). -/
def inFrozen (s : State) (va : Nat) : Bool :=
  s.pkg.migrations.any (fun m => (m.base ≤ va && va < m.base + m.len) || (m.metaBase ≤ va && va < m.metaBase + m.metaLen))

/-- What an access is, for the checks of 12 R384 step 2: memory types it excludes, whether it is a write, and whether it
may touch compressed sectors. -/
structure AccReq where
  write : Bool
  noHost : Bool
  noPeer : Bool
  noComp : Bool
  /-- Whether FROZEN ranges trap (a context access) or are met otherwise (12 R397). -/
  frozen : Bool
  deriving DecidableEq, Repr, Inhabited

def accRead : AccReq := { write := false, noHost := false, noPeer := false, noComp := false, frozen := true }
def accWrite : AccReq := { write := true, noHost := false, noPeer := false, noComp := true, frozen := true }

/-- The checks of 12 R384 on a leaf, in order; none where all pass. -/
def leafCheck (s : State) (leaf va lvl : Nat) (r : AccReq) : Option TrapC :=
  let ty := bits leaf 63 61
  if lvl < 2 && !bit leaf 7 then some (trapC 8 4 va)
  else if 4 ≤ ty || (r.noHost && ty == 3) || (r.noPeer && ty == 2) || (r.noComp && bit leaf 9) then some (trapC 8 3 va)
  else if r.write && bit leaf 8 then some (trapC 8 1 va)
  else if r.write && !bit leaf 5 then some (trapC 8 0 va)
  else if r.frozen && inFrozen s va then some (trapC 8 2 va)
  else none

/-- The outcome of an access whose translation found a leaf: a leaf that gives no place counts as not present, before the
checks (07 R222, 12 R384). -/
def leafAcc (s : State) (leaf va lvl : Nat) (r : AccReq) : Acc :=
  match leafPlace s leaf va, leafCheck s leaf va lvl r with
  | none, _ => .bad (trapC 7 0 va)
  | some _, some t => .bad t
  | some p, none => .ok p

/-- Translates and checks one address (12 R383, R384). -/
def translate (s : State) (cl asn root lvl va : Nat) (r : AccReq) : State × Acc :=
  match lookupLeaf s cl asn root va with
  | (s1, none) => (s1, .bad (trapC 7 0 va))
  | (s1, some leaf) => (s1, leafAcc s1 leaf va lvl r)

/-- As `translate`, for Spring, the walkers and the ports, at supervisor level. -/
def translateShared (s : State) (asn root va : Nat) (r : AccReq) : State × Acc :=
  match lookupShared s asn root va with
  | (s1, none) => (s1, .bad (trapC 7 0 va))
  | (s1, some leaf) => (s1, leafAcc s1 leaf va 2 r)

/-- Reads n bytes at a virtual address for Spring or a walker, page by page in 8-byte units; none where a translation
faults or data is poisoned (12 R404). -/
def sharedRead (s : State) (asn root va : Nat) : Nat → State × Option (List Byte)
  | 0 => (s, some [])
  | n + 1 =>
    match translateShared s asn root va { accRead with frozen := false } with
    | (s1, .bad _) => (s1, none)
    | (s1, .ok p) =>
      let s2 := probeRange s1 p 8
      match firstPoisoned s2 p 8 with
      | some u => (makeRecord s2 p.space u, none)
      | none => match sharedRead s2 asn root (va + 8) n with
        | (s3, none) => (s3, none)
        | (s3, some bs) => (s3, some (readPlace s2 p 8 ++ bs))

/-- Writes an 8-byte word at a virtual address for Spring or a home; nothing where its translation faults. -/
def sharedWrite (s : State) (asn root va : Nat) (w : Nat) : State :=
  match translateShared s asn root va { accWrite with frozen := false } with
  | (s1, .bad _) => s1
  | (s1, .ok p) => writePlace s1 p (natLe 8 w)

/-! ## Fixed windows -/

def mereBase : Nat := 0xFF_FFFF_FF00_0000
def fifoBase : Nat := 0xFF_FFFF_FEFF_FF00
def invalAddr : Nat := 0xFF_FFFF_FEFF_FE00
def containBase : Nat := 0xFF_FFFF_FEFE_0000

def inMere (va : Nat) : Bool := mereBase ≤ va && va < 2 ^ 56
def inFifo (va : Nat) : Bool := fifoBase ≤ va && va < fifoBase + 256
def inInval (va n : Nat) : Bool := va < invalAddr + 8 && invalAddr < va + n
def inContain (va : Nat) : Bool := containBase ≤ va && va < containBase + 0x1_0000

/-! ## Mere (07 R218, R236) -/

/-- The physical granule behind granule num of a gang on a cluster. -/
def granOf (s : State) (cl iter gang num : Nat) : Option (Nat × Gran) :=
  (getCl s cl).grans.find? (fun p => p.2.iter == iter && p.2.gang == gang && p.2.num == num)

/-- Granules a gang holds on a cluster. -/
def granCount (s : State) (cl iter gang : Nat) : Nat :=
  ((getCl s cl).grans.filter (fun p => p.2.iter == iter && p.2.gang == gang)).length

/-- The place of a Mere window address for a gang; none outside its granules (07 R218). -/
def merePlace (s : State) (cl iter gang va : Nat) : Option (Place × Gran) :=
  let o := va - mereBase
  match granOf s cl iter gang (o / 4096) with
  | none => none
  | some (p, g) => some ({ space := .mere, addr := cl * 2 ^ 22 + p * 4096 + o % 4096, node := 0 }, g)

/-- The owner bit as an agent's check meets it in this cycle: before the changes that another context makes in it (07 R236). -/
def ownerSeen (s : State) (who : Option Nat) (g : Gran) : Bool :=
  if g.changed = s.cyc + 1 && who != some g.changer then g.was else g.engine

/-- A granule's owner bit changed by a context. -/
def setOwner (s : State) (who : Nat) (engine : Bool) (g : Gran) : Gran :=
  { g with engine := engine, was := ownerSeen s none g, changed := s.cyc + 1, changer := who }

/-- Sets the owner bit of n granules of a gang from number first, for a context (07 R239, R240). -/
def setOwners (s : State) (who cl iter gang first n : Nat) (engine : Bool) : State :=
  modCl s cl (fun x => { x with grans := x.grans.map (fun p =>
    if p.2.iter == iter && p.2.gang == gang && first ≤ p.2.num && p.2.num < first + n then (p.1, setOwner s who engine p.2)
    else p) })

/-- A context's data access to memory proper: Mere with its owner check, or a translated address (07 R237, 12 R384), which reads the
set of FROZEN ranges (R422). The
fixed windows take no access that comes here (11 R352, 12 R387, R413). -/
def ctxAccess (s : State) (x : Ctx) (va n : Nat) (r : AccReq) : State × Acc :=
  if inMere va then
    match merePlace s x.id.cl x.env.iter x.env.gang va with
    | none => (s, .bad (trapC 7 0 va))
    | some (p, g) => if ownerSeen s (some (ctxKey x.id)) g then (s, .bad (trapC 9 0 va)) else (s, .ok p)
  else if inFifo va then (s, .bad (trapC 8 3 va))
  else if inInval va n || inContain va then (s, .bad (trapC 8 (if x.lvl < 2 then 4 else 3) va))
  else translate (if r.frozen then compared s 3 else s) x.id.cl x.env.asn x.env.root x.lvl va r

/-- A context's access without the owner check: barriers ignore owner bits (13 R431). -/
def objAccess (s : State) (cl iter gang asn root lvl va : Nat) (r : AccReq) : State × Acc :=
  if inMere va then
    match merePlace s cl iter gang va with
    | none => (s, .bad (trapC 7 0 va))
    | some (p, _) => (s, .ok p)
  else if inFifo va then (s, .bad (trapC 8 3 va))
  else if inInval va 16 || inContain va then (s, .bad (trapC 8 (if lvl < 2 then 4 else 3) va))
  else translate s cl asn root lvl va r

/-! ## Bundle fetch (12 R385) -/

/-- The checks of a fetch of one word: PAGE_NOTPRESENT has sub-cause 1, X = 0 gives sub-cause 4, types 2 and 3 give 3. -/
def fetchWord (s : State) (x : Ctx) (va : Nat) : State × (Nat ⊕ TrapC) :=
  match lookupLeaf (compared s 3) x.id.cl x.env.asn x.env.root va with
  | (s1, none) => (s1, .inr (trapC 7 1 va))
  | (s1, some leaf) =>
    match leafPlace s1 leaf va with
    | none => (s1, .inr (trapC 7 1 va))
    | some p =>
      if x.lvl < 2 && !bit leaf 7 then (s1, .inr (trapC 8 4 va))
      else if 2 ≤ bits leaf 63 61 then (s1, .inr (trapC 8 3 va))
      else if !bit leaf 6 then (s1, .inr (trapC 8 4 va))
      else if inFrozen s1 va then (s1, .inr (trapC 8 2 va))
      else
        let s2 := probeRange s1 p 8
        if isPoisoned s2 p 8 then (s2, .inr (trapC 10 0 va)) else (s2, .inl (leNat (readPlace s2 p 8)))

/-- Fetches n words from address va, 8 bytes apart, wrapping at 2^48 (04 R116). -/
def fetchWords (s : State) (x : Ctx) (va : Nat) : Nat → State × (List Nat ⊕ TrapC)
  | 0 => (s, .inl [])
  | n + 1 =>
    match fetchWord s x va with
    | (s1, .inr t) => (s1, .inr t)
    | (s1, .inl w) =>
      match fetchWords s1 x ((va + 8) % 2 ^ 48) n with
      | (s2, .inr t) => (s2, .inr t)
      | (s2, .inl ws) => (s2, .inl (w :: ws))

end Sys2Proof.Machine
end

