-- ==== Sys2Proof/Machine/Objects.lean ====
section
/-!
DEFINITION. Objects that counters keep: transaction barriers (13 R430 to R435), phasers (13 R436 to R444), event records
(10 R334 to R338), error counters (13 R456), and the wait and signal objects of commands (10 R314 to R317, R502).
-/
namespace Sys2Proof.Machine

/-! ## Transaction barriers -/

/-- The fields of a barrier (13 R430). -/
structure Barrier where
  pld : Nat
  err : Bool
  reload : Nat
  sec : Nat
  arr : Nat
  phase : Nat
  rsvd : Nat
  deriving DecidableEq, Repr, Inhabited

def barrierOf (n : Nat) : Barrier :=
  { phase := bits n 3 0, arr := bits n 23 4, sec := bits n 55 24, reload := bits n 75 56, err := bit n 76,
    pld := bits n 96 77, rsvd := bits n 127 97 }

def barrierNat (b : Barrier) : Nat :=
  b.phase + b.arr * 2 ^ 4 + b.sec * 2 ^ 24 + b.reload * 2 ^ 56 + b.err.toNat * 2 ^ 76 + b.pld * 2 ^ 77 + b.rsvd * 2 ^ 97

/-- `tb_due` (13 R432). -/
def tbDue (b : Barrier) : Barrier :=
  let b1 : Barrier :=
    if b.sec = 0 ∧ b.pld ≠ 0 then
      if b.arr < b.pld then { b with err := true, arr := 0, pld := 0 } else { b with arr := b.arr - b.pld, pld := 0 }
    else b
  if b1.arr = 0 ∧ b1.sec = 0 then { b1 with phase := (b1.phase + 1) % 16, arr := b1.reload } else b1

/-- `tbinit` (13 R433). -/
def tbFresh (n : Nat) : Barrier := { pld := 0, err := false, reload := n, sec := 0, arr := n, phase := 0, rsvd := 0 }

/-- `tbarr` (13 R433). -/
def tbArrive (b : Barrier) : Barrier := tbDue (if b.arr = 0 then { b with err := true } else { b with arr := b.arr - 1 })

/-- `tbexp`: none where it is refused with TB_OVERFLOW (13 R434). -/
def tbExpect (b : Barrier) (n : Nat) (pay : Bool) : Option Barrier :=
  if 2 ^ 32 - 1 < b.sec + n || (pay && b.pld == 2 ^ 20 - 1) then none
  else some (tbDue { b with sec := b.sec + n, pld := if pay then b.pld + 1 else b.pld })

/-- A command's credit (10 R316); a failed command also sets the error bit (R317). -/
def tbCredit (b : Barrier) (credit : Nat) (failed : Bool) : Barrier :=
  let b1 : Barrier := if b.sec < credit then { b with sec := 0, err := true } else { b with sec := b.sec - credit }
  tbDue { b1 with err := b1.err || failed }

def readBarrier (s : State) (p : Place) : Barrier := barrierOf (leNat (readPlace s p 16))
def writeBarrier (s : State) (p : Place) (b : Barrier) : State := writePlace s p (natLe 16 (barrierNat b))

/-- The access of a barrier operation: peer and host memory and compressed pages are excluded (13 R431). -/
def tbReq (write : Bool) : AccReq := { write := write, noHost := true, noPeer := true, noComp := true, frozen := true }

/-! ## Phasers -/

def getPh (s : State) (n : Nat) : Phaser := smGet s.pkg.phasers n Phaser.idle
def putPh (s : State) (n : Nat) (p : Phaser) : State :=
  modPkg s (fun g => { g with phasers := smSet g.phasers n p Phaser.idle })

/-- `ph_due`: tested after an arrival or a drop only (13 R437). Members that left are removed at the change (R440). The counts
keep the 20 bits of R436. -/
def phDue (p : Phaser) : Phaser :=
  if p.pend = 0 then
    let n := (p.nsig + p.join - p.leave) % 2 ^ 20
    { p with phase := p.phase + 1, nsig := n, join := 0, leave := 0, pend := n,
             members := (p.members.filter (fun m => !m.leaving)).map (fun m => { m with arrived := false, joining := false }) }
  else p

/-- An arrival without a member (13 R437, R442). -/
def phAnon (p : Phaser) : Phaser := if p.pend = 0 then { p with err := true } else phDue { p with pend := p.pend - 1 }

def isMember (c : CtxId) (iter : Nat) (m : Member) : Bool := m.ctx == c && m.iter == iter
def phMember (p : Phaser) (c : CtxId) (iter : Nat) : Option Member := p.members.find? (isMember c iter)
def phSet (p : Phaser) (m : Member) : Phaser :=
  { p with members := p.members.map (fun x => if isMember m.ctx m.iter x then m else x) }
def phRemove (p : Phaser) (c : CtxId) (iter : Nat) : Phaser :=
  { p with members := p.members.filter (fun x => !isMember c iter x) }

/-- Whether (phase − p) mod 2^32 lies from 1 to 2^31 − 1 (10 R315, 13 R443). -/
def phPassed (phase p : BitVec 32) : Bool := 1 ≤ (phase - p).toNat && (phase - p).toNat ≤ 2 ^ 31 - 1

/-- Whether a member takes part in the phaser's current phase: its first phase has come (13 R439, R442). -/
def phTakesPart (m : Member) : Bool := !m.joining

/-- The drop of a membership (13 R440). -/
def phDropMember (p : Phaser) (m : Member) : Phaser :=
  if m.mode = 1 then phRemove p m.ctx m.iter
  else if m.arrived then phSet { p with leave := p.leave + 1 } { m with leaving := true, waiting := false }
  else if !phTakesPart m then phRemove { p with join := p.join - 1 } m.ctx m.iter
  else phDue (phRemove { p with pend := p.pend - 1, nsig := p.nsig - 1 } m.ctx m.iter)

/-- Whether an earlier arrival of the context at the phaser is not yet performed (13 R429). -/
def phBusy (x : Ctx) (n : Nat) : Bool := x.ops.any (fun e => match e.kind with
  | .pharr _ m _ => m == n
  | _ => false)

/-- Drops every membership of a context (13 R441), but those that wait for an arrival of its own. -/
def phDropAll (s : State) (c : CtxId) (iter : Nat) (later : Nat → Bool) : State :=
  modPkg s (fun g => { g with phasers := g.phasers.filterMap (fun e =>
    match e.2.members.find? (fun m => isMember c iter m && !m.leaving && !later e.1) with
    | none => some e
    | some m =>
      let p := phDropMember e.2 m
      if p = Phaser.idle then none else some (e.1, p)) })

/-- Member entries of a sync node (13 R436). -/
def nodeMembers (s : State) (node : Nat) : Nat :=
  ((s.pkg.phasers.filter (fun e => e.1 / 256 == node)).map (fun e => e.2.members.length)).sum

/-! ## Event records (10 R334 to R338) -/

/-- An event record's 128 bits (10 R334). -/
def eventRec (kind slot eng ctx : Nat) (addr : BitVec 48) (data : Nat) : BitVec 128 :=
  BitVec.ofNat 128 (data % 2 ^ 64 * 2 ^ 64 + eng % 4 * 2 ^ 58 + ctx % 4 * 2 ^ 56 + kind % 16 * 2 ^ 52 + slot % 16 * 2 ^ 48
    + addr.toNat)

/-- A lost-record record (10 R335): slot and address as R334 gives them for it. -/
def lostRec (ctx n : Nat) : BitVec 128 := eventRec 7 15 0 ctx 0 (min n (2 ^ 32 - 1))

def recKind (r : BitVec 128) : Nat := bits r.toNat 55 52

/-- A record's arrival at a context's positions (10 R336). -/
def queueEvent (x : Ctx) (r : BitVec 128) : Ctx :=
  if x.events.length < 15 then { x with events := x.events ++ [r] }
  else match x.events.getLast? with
    | some l =>
      if recKind l = 7 then { x with events := x.events.dropLast ++ [lostRec x.id.ctx (bits l.toNat 95 64 + 1)] }
      else { x with events := x.events ++ [lostRec x.id.ctx 1] }
    | none => { x with events := [lostRec x.id.ctx 1] }

/-- EVENT_POST to a context of an iteration; dropped after retirement (10 R336, R338). -/
def postEvent (s : State) (c : CtxId) (iter : Nat) (r : BitVec 128) : State :=
  modCtx s c (fun x => if x.env.iter == iter then queueEvent x r else x)

/-! ## Error counters (13 R456) -/

/-- A 48-bit count that saturates. -/
def satInc (c : BitVec 48) (n : Nat) : BitVec 48 := BitVec.ofNat 48 (min (c.toNat + n) (2 ^ 48 - 1))

def incCorr (s : State) (n : Nat) : State := modPkg s (fun g => { g with errCorr := satInc g.errCorr n })
def incRowret (s : State) : State := modPkg s (fun g => { g with errRowret := satInc g.errRowret 1 })
def incReplay (s : State) (n : Nat) : State := modPkg s (fun g => { g with errReplay := satInc g.errReplay n })
def incLossy (s : State) (n : Nat) : State := modPkg s (fun g => { g with errLossy := satInc g.errLossy n })
def incPair (s : State) : State := modPkg s (fun g => { g with errPair := satInc g.errPair 1 })

/-! ## Wait and signal objects (10 R314 to R317, R502) -/

/-- The kind of an object value. -/
def objKind (o : Word) : Nat := bits o.toNat 63 62
def objPhaser (o : Word) : Nat := bits o.toNat 11 0
def objPhase (o : Word) : BitVec 32 := o.extractLsb' 12 32
def objBarrier (o : Word) : Nat := bits o.toNat 55 4 * 16
def objBarrierPhase (o : Word) : Nat := bits o.toNat 3 0

/-- An object value that traps at issue (10 R314). -/
def objBad (o : Word) : Bool :=
  o != 0 && (objKind o == 0 || objKind o == 3 || bits o.toNat 61 56 != 0 || (objKind o == 1 && bits o.toNat 55 44 != 0))

/-- Whose translation and granules an object is reached through. -/
structure Agent where
  cl : Nat
  iter : Nat
  gang : Nat
  asn : Nat
  root : Nat
  lvl : Nat
  deriving DecidableEq, Repr, Inhabited

def agentOf (x : Ctx) (lvl : Nat) : Agent :=
  { cl := x.id.cl, iter := x.env.iter, gang := x.env.gang, asn := x.env.asn, root := x.env.root, lvl := lvl }

/-- Reaches a barrier: its place, or the failure's cause (10 R502). -/
def reachBarrier (s : State) (a : Agent) (va : Nat) (write : Bool) : State × Acc :=
  match objAccess s a.cl a.iter a.gang a.asn a.root a.lvl va (tbReq write) with
  | (s1, .bad t) => (s1, .bad t)
  | (s1, .ok p) =>
    let s2 := probeRange s1 p 16
    if isPoisoned s2 p 16 then (s2, .bad (trapC 10 0 va)) else (s2, .ok p)

/-- The test of a wait object: satisfied or not, or a failure (10 R315, R502). -/
def waitTest (s : State) (a : Agent) (o : Word) : State × (Bool ⊕ TrapC) :=
  if o = 0 then (s, .inl true)
  else if objKind o = 1 then (s, .inl (phPassed (getPh s (objPhaser o)).phase (objPhase o)))
  else match reachBarrier s a (objBarrier o) false with
    | (s1, .bad t) => (s1, .inr t)
    | (s1, .ok p) => (s1, .inl ((readBarrier s1 p).phase != objBarrierPhase o))

/-- SIGNAL_ARRIVAL: one arrival at an object with a credit (10 R316, R317); a failure where it cannot be reached. -/
def signalArrive (s : State) (a : Agent) (o : Word) (credit : Nat) (failed : Bool) : State × Option TrapC :=
  if o = 0 then (s, none)
  else if objKind o = 1 then (putPh s (objPhaser o) (phAnon (getPh s (objPhaser o))), none)
  else match reachBarrier s a (objBarrier o) true with
    | (s1, .bad t) => (s1, some t)
    | (s1, .ok p) => (writeBarrier s1 p (tbCredit (readBarrier s1 p) credit failed), none)

end Sys2Proof.Machine
end

