-- ==== Sys2Proof/Machine/Tables.lean ====
section
/-!
DEFINITION. The tensor-handle table and Tarn's residency states (12 R389 to R393), and the remote-fault log's place
(11 R360).
-/
namespace Sys2Proof.Machine

/-- A byte of a table whose base the configuration block names: [63] chooses carved Tarn (17 R489). -/
def tablePlace (base : Word) (off : Nat) : Place :=
  { space := if base.getLsbD 63 then .carved else .hbm, addr := bits base.toNat 51 0 + off, node := 0 }

def entryPlace (s : State) (i : Nat) : Place := tablePlace s.pkg.hBase (128 * i)

/-! ## Handle entries (12 R389) -/

/-- A handle entry's fields. -/
structure HEntry where
  valid : Bool
  res : Nat
  fmt : Nat
  comp : Bool
  prio : Nat
  tag : Nat
  base : Nat
  rows : Nat
  cols : Nat
  metaB : Nat
  baseOk : Bool
  deriving DecidableEq, Repr, Inhabited

def hEntryOf (ws : List Word) : HEntry :=
  let w (i : Nat) : Nat := (ws.getD i 0).toNat
  { valid := bit (w 0) 0, res := bits (w 0) 3 1, fmt := bits (w 0) 7 4, comp := bit (w 0) 8, prio := bits (w 0) 11 9,
    tag := bits (w 0) 31 16, base := bits (w 1) 55 0, rows := bits (w 2) 31 0, cols := bits (w 2) 63 32,
    metaB := bits (w 3) 55 0,
    baseOk := bits (w 1) 11 0 == 0 && bits (w 3) 6 0 == 0 }

/-- The sixteen words of an entry in memory. -/
def entryWords (s : State) (i : Nat) : List Word :=
  (List.range 16).map (fun j => BitVec.ofNat 64 (leNat (readPlace s (tablePlace s.pkg.hBase (128 * i + 8 * j)) 8)))

/-- The format of an entry; code 15 is no tensor format. -/
def hFmt (e : HEntry) : Fmt := fmtOfCode (BitVec.ofNat 4 e.fmt)

/-- Granules of a tile of a format (07 R226). -/
def tileGranules (f : Fmt) : Nat :=
  match laneWidth f with
  | 32 => 65
  | 16 => 33
  | 4 => 10
  | _ => if fmtWidth f = 6 then 14 else 18

/-- Bytes of a tile (07 R226). -/
def tileBytes (f : Fmt) : Nat :=
  match laneWidth f with
  | 32 => 266240
  | 16 => 135168
  | 4 => 38912
  | _ => if fmtWidth f = 6 then 55296 else 71680

/-- Tiles of a tensor (12 R390). -/
def hTiles (e : HEntry) : Nat := ceilDiv e.rows 256 * ceilDiv e.cols 256

/-- Bytes of the data range and of the metadata region (12 R390); format code 15 gives no tile, so no range. -/
def hDataLen (e : HEntry) : Nat := if e.fmt = 15 then 0 else hTiles e * tileGranules (hFmt e) * 4096
def hMetaLen (e : HEntry) : Nat := if e.comp && e.fmt != 15 then hTiles e * tileGranules (hFmt e) * 4 else 0

/-- An entry with V = 1 that is invalid (12 R389). -/
def hInvalid (e : HEntry) : Bool :=
  e.fmt == 15 || !e.baseOk || e.rows == 0 || e.cols == 0 || decide (2 ^ 32 - 1 < hTiles e) || (e.comp && e.metaB == 0)

/-- Writes the residency field of an entry (12 R392). -/
def setRes (s : State) (i res : Nat) : State :=
  let p := entryPlace s i
  let b := leNat (readPlace s p 1)
  writePlace s p [BitVec.ofNat 8 (b / 16 * 16 + b % 2 + 2 * res)]

/-! ## Launch entries (12 R400 to R403) -/

/-- The address of word w of launch-table entry e (12 R400). -/
def launchPlace (s : State) (e w : Nat) : Place := tablePlace s.pkg.lBase (128 * e + 8 * w)
def launchWord (s : State) (e w : Nat) : Nat := leNat (readPlace s (launchPlace s e w) 8)
def setLaunchWord (s : State) (e w v : Nat) : State := writePlace s (launchPlace s e w) (natLe 8 v)

/-- Sets bit b of a launch entry's control word. -/
def setCtl (s : State) (e b : Nat) (v : Bool) : State :=
  let c := launchWord s e 0
  let cleared := if bit c b then c - 2 ^ b else c
  setLaunchWord s e 0 (if v then cleared + 2 ^ b else cleared)

/-- The next slot when an entry becomes armed: the smallest k with T(k) ≥ DEVTIME, whose fraction counts (12 R403). -/
def firstSlot (s : State) (e : Nat) : Nat :=
  let period := launchWord s e 1
  let off := launchWord s e 2
  let now := ceilDiv s.pkg.devtime.toNat 65536
  if period = 0 || now ≤ off then 0 else ceilDiv (now - off) period

/-- What an entry's arming does: the next slot is set (12 R403). -/
def becomesArmed (s : State) (e : Nat) : State :=
  setLaunchWord s e 10 (launchWord s e 10 / 2 ^ 48 * 2 ^ 48 + firstSlot s e % 2 ^ 48)

/-- What the clearing of an entry's arm bit does: a deferred start is cancelled (12 R402). -/
def becomesDisarmed (s : State) (e : Nat) : State :=
  modSpring (setCtl s e 2 false) (fun p => { p with deferred := p.deferred.filter (fun x => x != e) })

/-- Writes an entry's arm bit: arming sets the next slot, disarming cancels a deferred start (12 R402, R403). -/
def setArm (s : State) (e : Nat) (on : Bool) : State :=
  if on then (if bit (launchWord s e 0) 0 then s else setCtl (becomesArmed s e) e 0 true)
  else becomesDisarmed (setCtl s e 0 false) e

/-! ## Writes by software -/

/-- The entries of a table of n entries of 128 bytes whose first byte lies in m bytes at a place. -/
def entriesIn (base : Word) (n : Nat) (p : Place) (m : Nat) : List Nat :=
  let t := tablePlace base 0
  let lo := ceilDiv (p.addr - t.addr) 128
  if p.space != t.space then []
  else ((List.range (m / 128 + 1)).map (fun j => lo + j)).filter (fun i =>
    i < n && decide (p.addr ≤ t.addr + 128 * i) && decide (t.addr + 128 * i < p.addr + m))

/-- The read-only residency of a handle entry after a write: an entry whose V the write sets takes 0, every other keeps it (12
R389). The lines of a tensor whose V the write clears belong to no handle (R391). -/
def keepRes (old : State) (s : State) (i : Nat) : State :=
  let was := leNat (readPlace old (entryPlace old i) 1)
  let now := leNat (readPlace s (entryPlace s i) 1)
  let s1 := setRes s i (if bit now 0 && !bit was 0 then 0 else bits was 3 1)
  if bit was 0 && !bit now 0 then
    modPkg s1 (fun g => { g with lines := g.lines.map (fun l => if l.2 = i + 1 then (l.1, 0) else l) })
  else s1

/-- A launch entry's control word after a write: act and dfr are read-only (12 R401); the arm bit that the write sets or
clears acts as R402 and R403 say. -/
def keepCtl (old : State) (s : State) (e : Nat) : State :=
  let was := launchWord old e 0
  let s1 := setCtl (setCtl s e 1 (bit was 1)) e 2 (bit was 2)
  if !bit (launchWord s1 e 0) 0 then becomesDisarmed s1 e else if bit was 0 then s1 else becomesArmed s1 e

/-- A write by software at its home, after what was posted to the same bytes of the host before it, with the fields of the tables that it leaves as they are. -/
def homeWrite (s0 : State) (p : Place) (bs : List Byte) : State :=
  let s := hostSettled s0 none p bs.length
  (entriesIn s.pkg.lBase 256 p bs.length).foldl (keepCtl s)
    ((entriesIn s.pkg.hBase 4096 p bs.length).foldl (keepRes s) (writePlace s p bs))

/-- A write of a context or of its command, on stream `ss`, at its place: one to the host is posted, after what must precede it there
(08 R256, R268). -/
def placeWrite (s : State) (x : Ctx) (ss : Nat) (p : Place) (bs : List Byte) : State :=
  if p.space = .host then
    modNet (hostSettled s (some (x.id, x.env.iter)) p bs.length) (fun n =>
      { n with hostq := n.hostq ++ [{ ctx := x.id, iter := x.env.iter, addr := p.addr, data := bs, ss := ss }] })
  else homeWrite s p bs

/-! ## The entries as the hardware reads them -/

/-- Whether an entry's bytes are poisoned: it then counts as invalid wherever it is read (12 R389). -/
def entryPoisoned (s : State) (i : Nat) : Bool := isPoisoned s (entryPlace s i) 128

/-- Reads an entry with the error checks; a poisoned one is recorded (12 R389). -/
def probeEntry (s : State) (i : Nat) : State :=
  let p := entryPlace s i
  let s1 := probeRange s p 128
  match firstPoisoned s1 p 128 with
  | some u => makeRecord s1 p.space u
  | none => s1

/-- The indices of the entries whose bit V is 1, found from the bytes that the table lists. -/
def setEntries (s : State) : List Nat :=
  let p := entryPlace s 0
  let cells := spaceCells s p.space
  (cells.filter (fun c => decide (p.addr ≤ c.1 ∧ c.1 < p.addr + 4096 * 128) && (c.1 - p.addr) % 128 == 0 && c.2.getLsbD 0)).map
    (fun c => (c.1 - p.addr) / 128)

/-- The entries with V = 1; a poisoned one names no tensor (12 R389, R391). -/
def validEntries (s : State) : List Nat := (setEntries s).filter (fun i => !entryPoisoned s i)

/-- The hardware reads the table's entries with V = 1 (log 103). -/
def probeTable (s : State) : State :=
  if s.mem.flips.isEmpty && (poisonList s (entryPlace s 0).space).isEmpty then s else (setEntries s).foldl probeEntry s

/-- The lowest handle, among the entries with V = 1, whose data range or metadata region contains va (12 R391). -/
def handleOf (s : State) (va : Nat) : Option Nat :=
  (validEntries s).find? (fun i =>
    let e := hEntryOf (entryWords s i)
    (e.base ≤ va && va < e.base + hDataLen e) || (e.comp && e.metaB ≤ va && va < e.metaB + hMetaLen e))

/-! ## Tarn (12 R392, R393) -/

def resOf (s : State) (i : Nat) : Nat := bits (leNat (readPlace s (entryPlace s i) 1)) 3 1
def prioOf (s : State) (i : Nat) : Nat := bits (leNat (readPlace s (entryPlace s i) 2)) 11 9

/-- Lines held for a handle leave Tarn. -/
def dropLines (s : State) (i : Nat) : State :=
  modPkg s (fun g => { g with lines := g.lines.filter (fun l => l.2 != i + 1) })

/-- Evicts a tensor: it enters HBM at once (12 R393). -/
def evictTensor (s : State) (i : Nat) : State := setRes (dropLines s i) i 0

/-- The handles of held lines in order of their last use, least recent first, without repeats. -/
def heldHandles (s : State) : List Nat :=
  ((s.pkg.lines.map (·.2)).filter (fun h => h != 0)).reverse.eraseDups.reverse.map (fun h => h - 1)

/-- The lowest-priority handle of a residency state among those held, but the one that asks for capacity; the first of equals is
the least recently used. -/
def evictChoice (s : State) (res keep : Nat) : Option Nat :=
  let hs := (heldHandles s).filter (fun i => resOf s i == res && i + 1 != keep)
  hs.foldl (fun best i => match best with
    | none => some i
    | some b => if prioOf s i < prioOf s b then some i else some b) none

/-- The entries of held lines are read: a poisoned one names no tensor, so its lines belong to no handle (12 R389, R391). -/
def looseLines (s : State) : State :=
  if s.mem.flips.isEmpty && (poisonList s (entryPlace s 0).space).isEmpty then s
  else
    let s1 := (heldHandles s).foldl probeEntry s
    modPkg s1 (fun g => { g with lines := g.lines.map (fun l => if l.2 != 0 && entryPoisoned s1 (l.2 - 1) then (l.1, 0) else l) })

/-- TARN_EVICT: frees one unit of capacity for a line of a handle (index + 1, or 0): another unhandled line, else a DEMOTED, else a
TARN tensor other than its own (12 R393). Where none can leave, the line itself is not held. -/
def evictOnce (s0 : State) (line h : Nat) : State :=
  let s := looseLines s0
  let free (l : Nat × Nat) : State := modPkg s (fun g => { g with lines := g.lines.erase l })
  match s.pkg.lines.find? (fun l => l.2 == 0 && l.1 != line) with
  | some l => free l
  | none => match (evictChoice s 3 h).or (evictChoice s 1 h) with
    | some i => evictTensor s i
    | none => free (line, h)

/-- A line that Tarn takes is as HBM4 holds it. -/
def cleanLine (s : State) (line : Nat) : State :=
  if s.pkg.lines.any (fun l => l.1 == line) then s else modMem s (fun m => { m with dirty := m.dirty.filter (fun l => l != line) })

/-- Puts a line of a handle (index + 1, or 0) most recently used, evicting one unit when Tarn is full. -/
def allocLine (s0 : State) (line h : Nat) : State :=
  let s := cleanLine s0 line
  let s1 := modPkg s (fun g => { g with lines := (g.lines.filter (fun l => l.1 != line)) ++ [(line, h)] })
  if tarnLines s1 < s1.pkg.lines.length then evictOnce s1 line h else s1

/-- Loads n lines of a tensor from an address on, through a translation; its failure where one cannot be reached. -/
def loadLines (h : Nat) (tr : State → Nat → State × Acc) (va : Nat) (s : State) : Nat → State × Option TrapC
  | 0 => (s, none)
  | n + 1 => match tr s va with
    | (s1, .bad t) => (s1, some t)
    | (s1, .ok p) => loadLines h tr (va + 128) (if p.space = .hbm then allocLine s1 (p.addr / 128) h else s1) n

/-- Loads every line of both ranges of a tensor (12 R392, R395). -/
def loadTensor (s : State) (i : Nat) (tr : State → Nat → State × Acc) (e : HEntry) : State × Option TrapC :=
  match loadLines (i + 1) tr e.base s (hDataLen e / 128) with
  | (s1, some t) => (s1, some t)
  | (s1, none) => loadLines (i + 1) tr e.metaB s1 (ceilDiv (hMetaLen e) 128)

/-- An access at the home Tarn slice touches its line: the residency of its tensor follows 12 R391, R392. -/
def homeTouch (s0 : State) (va : Nat) (p : Place) : State :=
  if p.space = .hbm then
    let s := probeTable s0
    match handleOf s va with
    | none => allocLine s (p.addr / 128) 0
    | some i =>
      let e := hEntryOf (entryWords s i)
      if tarnLines s * 128 < hDataLen e then allocLine s (p.addr / 128) 0
      else if e.res = 3 then
        (if s.pkg.lines.any (fun l => l.1 == p.addr / 128) then allocLine s (p.addr / 128) (i + 1) else s)
      else allocLine (if e.res = 0 then setRes s i 1 else s) (p.addr / 128) (i + 1)
  else s0

/-- A write at the home Tarn slice touches its line, which differs from HBM4 from then on where Tarn holds it. -/
def homeStored (s : State) (va : Nat) (p : Place) : State := markDirty (homeTouch s va p) p 1

end Sys2Proof.Machine
end

