-- ==== Sys2Proof/Machine/Purge.lean ====
section
/-!
DEFINITION. Failures held by contexts (06 R204, R206), the end of operations, the freeing of a gang's resources, and
purges (12 R418 to R421).
-/
namespace Sys2Proof.Machine

/-! ## Operations and failures -/

/-- The registers an operation was to write (06 R204). -/
def kindRegs (k : OpKind) : List RegId :=
  match k with
  | .loadS d _ _ _ => [.s d]
  | .loadV d _ _ => [.v d]
  | .loadL d _ _ _ => [.v d]
  | .amo d _ _ _ _ _ => match d with
    | some r => [.s r]
    | none => []
  | .cas d _ _ _ _ _ => [.s d]
  | .tbarr d _ => [.s d]
  | .pharr d _ _ => [.s d]
  | .launch d _ _ => [.s d]
  | .handle d _ _ _ _ _ => [.s d]
  | .purge d _ => [.s d]
  | _ => []

/-- The object an operation was to arrive at: a command's signal object, or the barrier of a `tbarr` (06 R204). -/
def kindObj (k : OpKind) (sig : Word) : Word :=
  match k with
  | .tbarr _ a => BitVec.ofNat 64 (2 ^ 63 + a)
  | _ => sig

/-- A failure joins the held ones; the 17th is dropped (06 R206). -/
def holdFailure (x : Ctx) (f : Failure) : Ctx :=
  if x.fails.length < 16 then { x with fails := x.fails ++ [f] } else { x with failsLost := true }

/-- A stream counter falls by 1, never below 0 (13 R423). -/
def countOut (x : Ctx) (ss : Nat) : Ctx := { x with cnt := smSet x.cnt ss (smGet x.cnt ss 0 - 1) 0 }

def findOp (x : Ctx) (seq : Nat) : Option MemOp := x.ops.find? (fun o => o.seq == seq)
def setOp (x : Ctx) (o : MemOp) : Ctx := { x with ops := x.ops.map (fun p => if p.seq == o.seq then o else p) }
def delOp (x : Ctx) (seq : Nat) : Ctx := { x with ops := x.ops.filter (fun p => p.seq != seq) }

/-- An operation counts out of its stream and leaves. A buffered write has counted out; a remote store that its sending port
has accepted has not (08 R266). -/
def opOut (x : Ctx) (o : MemOp) : Ctx :=
  let x1 := delOp x o.seq
  if o.done.isSome && !o.started then x1 else countOut x1 o.ss

/-- An operation fails (06 R204, R206): it counts out, its destinations keep their values, the failure is held. -/
def opFails (x : Ctx) (o : MemOp) (cause addr : Nat) (sig : Word) (grans : List Nat) : Ctx :=
  let x1 := opOut x o
  holdFailure { x1 with pend := x1.pend.filter (fun p => p.seq != some o.seq) }
    { seq := o.seq, bundle := o.bundle, slot := o.slot, cause := cause, addr := BitVec.ofNat 64 addr, ss := o.ss,
      regs := kindRegs o.kind, sig := kindObj o.kind sig, grans := grans }

/-- Keeps the poisoned units that an operation met with its held failure (12 R417). -/
def withUnits (us : List (Nat × Nat)) (seq : Nat) (x : Ctx) : Ctx :=
  { x with fails := x.fails.map (fun f => if f.seq == seq then { f with units := us } else f) }

/-- Gives a result to the interlocked write of an operation (03 R93). -/
def opResult (x : Ctx) (seq : Nat) (r : RegId) (v : Nat) : Ctx :=
  { x with pend := x.pend.map (fun p => if p.seq == some seq && p.reg == r then { p with val := some v } else p) }

/-! ## The end of a `qflush` (10 R342) -/

/-- A flushed command counts out of its stream. -/
def refOut (s : State) (r : CmdRef) : State :=
  match getOwner s r.ctx r.iter with
  | none => s
  | some x => match findOp x r.seq with
    | none => s
    | some o => putOwner s (opOut x o)

/-- A `qflush` of a core ends: the commands that it flushed count out. -/
def endFlush (cl core : Nat) (s : State) (f : Flush) : State :=
  f.left.foldl refOut (modCore s cl core (fun y => { y with flushes := y.flushes.erase f }))

/-- Ends those whose iteration is gone. -/
def endFlushes (s : State) : State :=
  s.clusters.foldl (fun t c => c.2.cores.foldl (fun u y =>
    (y.2.flushes.filter (fun f => !s.spring.iters.any (fun i => i.uid == f.iter))).foldl (endFlush c.1 y.1) u) t) s

/-! ## What a purge matches -/

/-- A purge by tag, or of one iteration (12 R420). -/
inductive Target where
  | tag (t : BitVec 16)
  | iter (uid : Nat)
  deriving DecidableEq, Repr, Inhabited

def hits (t : Target) (tag : BitVec 16) (iter : Nat) : Bool :=
  match t with
  | .tag g => tag == g
  | .iter u => iter == u

/-! ## Freeing resources -/

/-- Frees the banks bound to an iteration's gangs on every cluster (09 R280). -/
def freeBanks (x : Cluster) (iter : Nat) : Cluster :=
  { x with banks := x.banks.filter (fun b => match b.2.bound with
      | some (i, _) => i != iter
      | none => true) }

/-- Frees an iteration's granules on every cluster (01 R35). -/
def freeGrans (x : Cluster) (iter : Nat) : Cluster := { x with grans := x.grans.filter (fun g => g.2.iter != iter) }

/-- Metadata codes of freed granules are dropped with them. -/
def freeIterCl (iter : Nat) (x : Cluster) : Cluster := freeGrans (freeBanks x iter) iter

/-- Frees every granule and bank of an iteration. -/
def freeIter (s : State) (iter : Nat) : State :=
  { s with clusters := s.clusters.map (fun c => (c.1, freeIterCl iter c.2)) }

/-- Empties a core's queues of the commands a target matches. -/
def purgeCore (t : Target) (y : Core) : Core :=
  { y with mxq := y.mxq.filter (fun c => !hits t c.tag c.iter), cpq := y.cpq.filter (fun c => !hits t c.tag c.iter) }

/-- Commands of a cluster that a target matches. -/
def clusterCmds (x : Cluster) : List Cmd := (x.cores.map (fun c => c.2.mxq ++ c.2.cpq)).flatten

/-- Discards queued commands and stops started ones (12 R419). -/
def purgeCluster (t : Target) (x : Cluster) : Cluster :=
  let gone := (clusterCmds x).filter (fun c => hits t c.tag c.iter)
  let isGone (r : CmdRef) : Bool := gone.any (fun c => c.ctx == r.ctx && c.seq == r.seq && c.iter == r.iter)
  { x with
    cores := x.cores.map (fun c => (c.1, purgeCore t c.2))
    arrq := x.arrq.filter (fun r => !isGone r)
    running := match x.running with
      | some r => if isGone r then none else some r
      | none => none }

/-- The place of a physical key: HBM4 below 2^60, carved Tarn above. -/
def keyPlace (k : Nat) : Place :=
  if k < 2 ^ 60 then { space := .hbm, addr := k, node := 0 } else { space := .carved, addr := k - 2 ^ 60, node := 0 }

/-- Writes accepted at a holder reach their home (08 R256). -/
def drainWrites (s : State) (ws : List (Nat × List Byte)) : State :=
  ws.foldl (fun t w => homeWrite t (keyPlace w.1) w.2) s

/-! ### Holders of writes (08 R256) -/

/-- A write accepted at a core's store buffer or at a cluster's memory port. -/
structure Buffered where
  ctx : CtxId
  iter : Nat
  op : MemOp
  deriving DecidableEq, Repr, Inhabited

/-- Whether an operation is a write held on its way to its home. -/
def isBuffered (o : MemOp) : Bool := (o.done == some 1 || o.done == some 2) && o.awaiting.isEmpty && !o.gathered.isEmpty

/-- The buffered writes of a cluster. -/
def buffered (s : State) (cl : Nat) : List Buffered :=
  ((allCtxs s ++ s.ghosts).filter (fun x => x.id.cl == cl)).flatMap (fun x =>
    (x.ops.filter isBuffered).map (fun o => { ctx := x.id, iter := x.env.iter, op := o }))

/-- Buffered writes in the order in which later ones win: those at the port first, each in acceptance order. -/
def bufferOrder (l : List Buffered) : List Buffered :=
  let ins (acc : List Buffered) (b : Buffered) : List Buffered :=
    acc.takeWhile (fun c => c.op.order < b.op.order) ++ [b] ++ acc.dropWhile (fun c => c.op.order < b.op.order)
  (l.filter (fun b => b.op.done == some 2)).foldl ins [] ++ (l.filter (fun b => b.op.done != some 2)).foldl ins []

/-- A buffered write goes home. -/
def bufferHome (s : State) (b : Buffered) : State :=
  let s1 := drainWrites s b.op.gathered
  match getOwner s1 b.ctx b.iter with
  | none => s1
  | some x => putOwner s1 (delOp x b.op.seq)

/-- The accepted writes of a context go home: an accepted access is performed whatever becomes of its context (12 R419). What its
cluster's holders took before the last of them goes first, in acceptance order, so that each byte keeps its coherence
order (08 R256, R268). -/
def drainAccepted (s : State) (x : Ctx) : State :=
  let l := bufferOrder (buffered s x.id.cl)
  ((l.reverse.dropWhile (fun b => b.ctx != x.id || b.iter != x.env.iter)).reverse).foldl bufferHome s

/-! ## Job control blocks -/

/-- Address space of a captured entry (12 R400). -/
def instAsn (i : Inst) : Nat := bits (i.words.getD 5 0).toNat 63 52
def instRoot (i : Inst) : Nat := bits (i.words.getD 5 0).toNat 51 12 * 4096

def findInst (s : State) (e : Nat) : Option Inst := s.spring.insts.find? (fun i => i.entry == e)

/-- Writes the state field of a job control block (13 R445). -/
def setJcbState (s : State) (i : Inst) (jcb st : Nat) : State :=
  match sharedRead s (instAsn i) (instRoot i) (jcb + 16) 1 with
  | (s1, some bs) => let w := leNat bs; sharedWrite s1 (instAsn i) (instRoot i) (jcb + 16) (w / 8 * 8 + st)
  | (s1, none) => s1

/-- Marks tasks PURGED that have not ended, and tells the host (12 R419, 17 R485). -/
def purgeTasks (s : State) (i : Inst) (sel : Task → Bool) : State :=
  i.tasks.foldl (fun t k =>
    if sel k.2 && (k.2.state == .idle || k.2.state == .released) then
      postNotice (setJcbState t i k.2.jcb 4) 3 i.tag.toNat k.2.jcb
    else t) s

/-- A task's own tag (12 R405). -/
def taskTag (k : Task) : BitVec 16 := (k.words.getD 9 0).extractLsb' 16 16

/-- Ends or marks one launch run under a purge of a tag (12 R419). -/
def purgeInst (t : BitVec 16) (s : State) (i : Inst) : State :=
  if i.tag == t then
    let s1 := setCtl (purgeTasks s i (fun _ => true)) i.entry 1 false
    modSpring s1 (fun p => { p with insts := p.insts.filter (fun j => j.entry != i.entry) })
  else if i.tasks.any (fun k => taskTag k.2 == t && (k.2.state == .idle || k.2.state == .released)) then
    let s1 := purgeTasks s i (fun k => taskTag k == t)
    modSpring s1 (fun p => { p with insts := p.insts.map (fun j =>
      if j.entry == i.entry then
        { j with rejected := true,
                 tasks := j.tasks.map (fun k => if taskTag k.2 == t && (k.2.state == .idle || k.2.state == .released)
                   then (k.1, { k.2 with state := .purged }) else k) }
      else j) })
  else s

/-! ## Migrations, log entries and handles under a purge -/

/-- A migration is given up: the previous state returns and its `hmov` ends as `f` says (12 R396). -/
def giveUpMigration (s : State) (m : Migration) (f : Ctx → MemOp → Ctx) : State :=
  let s1 := setRes s m.idx m.prev
  let s2 := writePlace s1 (tablePlace s1.pkg.hBase (128 * m.idx + 0x20)) (natLe 16 0)
  let s3 := modPkg s2 (fun g => { g with migrations := g.migrations.filter (fun n => n.idx != m.idx),
                                         frozen := g.frozen.filter (fun n => n != m.idx) })
  match getOwner s3 m.ctx m.iter with
  | none => s3
  | some x => match findOp x m.seq with
    | none => s3
    | some o => putOwner s3 (f x o)

/-- A migration is abandoned: its `hmov` fails (12 R396). -/
def abandonMigration (s : State) (m : Migration) (cause addr : Nat) : State :=
  giveUpMigration s m (fun x o => opFails x o cause addr 0 [])

/-- Handle entries with the tag: PINNED enters TARN, a migration is abandoned (12 R419). -/
def purgeHandles (s : State) (t : BitVec 16) : State :=
  (validEntries (probeTable s)).foldl (fun u i =>
    let e := hEntryOf (entryWords u i)
    if BitVec.ofNat 16 e.tag == t then
      if e.res = 2 then setRes u i 1
      else match u.pkg.migrations.find? (fun m => m.idx == i) with
        | some m => abandonMigration u m 7 0
        | none => u
    else u) (probeTable s)

/-- Frees the remote-fault log entries that carry the tag, without a reply (11 R361, 12 R419). -/
def purgeLog (s : State) (t : BitVec 16) : State :=
  s.net.logRid.foldl (fun u e =>
    let p := tablePlace u.pkg.logBase (256 * e.1 + 8)
    let w := leNat (readPlace u p 8)
    if bits w 37 22 == t.toNat then
      modNet (writePlace u p (natLe 8 (w / 4 * 4))) (fun n => { n with logRid := smDel n.logRid e.1 })
    else u) s

/-! ## Packets -/

/-- Requests, which an answer or an error response ends. -/
def asks (k : PktKind) : Bool :=
  k == .read || k == .write || k == .atomic || k == .reduction || k == .collOpen || k == .collBlock

/-- The answers that the operations and commands a target matches wait for. -/
def targetReqs (s : State) (t : Target) : List Req :=
  s.net.reqs.filter (fun r => match t with
    | .iter u => r.iter == u
    | .tag _ => (allCtxs s ++ s.ghosts).any (fun x => x.env.iter == r.iter && hits t x.env.tag x.env.iter))

/-- Whether a purge discards a packet: not one whose store its sending port has accepted, nor a purge's own; with tag 0 the
requests of the iteration alone (12 R419, R420). -/
def dropsPacket (s : State) (t : Target) (p : Packet) : Bool :=
  !p.kept && p.kind != .purge && p.kind != .purgeAck && (match t with
    | .tag g => p.tag == g.toNat
    | .iter _ => p.src == nodeNo s && asks p.kind && (targetReqs s t).any (fun r => r.rid == p.rid))

/-! ## The purge -/

/-- Removes the contexts a target matches: buffered writes reach home, memberships are dropped (12 R419, 13 R441). -/
def purgeContexts (s : State) (t : Target) : State :=
  let gone := (allCtxs s ++ s.ghosts).filter (fun x => hits t x.env.tag x.env.iter)
  let s1 := gone.foldl (fun u x => phDropAll (drainAccepted u x) x.id x.env.iter (fun _ => false)) s
  { s1 with ctxs := s1.ctxs.filter (fun p => !hits t p.2.env.tag p.2.env.iter)
            ghosts := s1.ghosts.filter (fun x => !hits t x.env.tag x.env.iter) }

/-- Removes the iterations a target matches and frees what they hold (12 R419). -/
def purgeIters (s : State) (t : Target) : State :=
  let gone := s.spring.iters.filter (fun i => hits t i.tag i.uid)
  let s1 := gone.foldl (fun u i => i.frames.foldl (fun w x => phDropAll w x.id x.env.iter (fun _ => false)) (freeIter u i.uid)) s
  endFlushes (modSpring s1 (fun p => { p with iters := p.iters.filter (fun i => !hits t i.tag i.uid) }))

/-- PURGE_LOCAL (12 R419). -/
def purgeLocal (s : State) (t : Target) : State :=
  let s1 := { s with clusters := s.clusters.map (fun c => (c.1, purgeCluster t c.2)) }
  let s2 := purgeIters (purgeContexts s1 t) t
  let s3 := modNet s2 (fun n => { n with
    reqs := n.reqs.filter (fun r => !(targetReqs s t).any (fun q => q.rid == r.rid))
    out := n.out.filter (fun o => !dropsPacket s t o.pkt)
    colls := match t with
      | .tag g => n.colls.filter (fun c => c.tag != g)
      | .iter _ => n.colls
    early := n.early.filter (fun e => !dropsPacket s t e.pkt)
    rdma := n.rdma.filter (fun r => (getOwner s2 r.ctx r.iter).isSome) })
  match t with
  | .iter _ => s3
  | .tag g => purgeLog (purgeHandles (s.spring.insts.foldl (purgeInst g) s3) g) g

/-- The nodes of the torus other than this one (11 R346). -/
def otherNodes (s : State) : List Nat :=
  let all := (List.range (s.dev.tzn + 1)).flatMap (fun z => (List.range (s.dev.tyn + 1)).flatMap (fun y =>
    (List.range (s.dev.txn + 1)).map (fun x => 256 * z + 16 * y + x)))
  all.filter (fun n => n != nodeNo s)

def getLink (s : State) (l : Nat) : Link := smGet s.net.links l { health := .up, since := 0 }
def putLink (s : State) (l : Nat) (k : Link) : State := modNet s (fun n => { n with links := smPut n.links l k })

/-- Whether both links of a dimension are down, which cuts off the nodes that differ in it (11 R364). -/
def dimDown (s : State) (d : Nat) : Bool :=
  (getLink s (2 * d)).health == .down && (getLink s (2 * d + 1)).health == .down

/-- Whether a node can be reached over the links of this package (11 R347, R364). -/
def reachable (s : State) (n : Nat) : Bool :=
  !((n % 16 != s.dev.tx && dimDown s 0) || (n / 16 % 16 != s.dev.ty && dimDown s 1) || (n / 256 != s.dev.tz && dimDown s 2))

/-- A purge packet or its acknowledgement (11 R351). -/
def purgePacket (s : State) (dst : Nat) (k : PktKind) (tag cause starter : Nat) : Packet :=
  { dst := dst, src := nodeNo s, tc := 3, kind := k, tag := tag, op := 0, addr := 0,
    spec := BitVec.ofNat 128 (cause % 16 + 16 * (starter % 4096)), data := [], rid := 0 }

/-- The notice code of a purge cause (17 R485). -/
def purgeCode (c : PurgeCause) : Nat :=
  match c with
  | .poison => 1 | .instr => 2 | .abort => 3 | .drain => 4 | .shTrap => 5 | .mismatch => 6 | .host => 7 | .remote => 8

/-- A node acknowledges a purge, or cannot be reached: the purge ends with the last one (12 R420, R421). -/
def ackPurge (g : Pkg) (tag : BitVec 16) (node : Nat) : Pkg :=
  let mark (p : Purge) : Purge := if p.tag == tag then { p with awaiting := p.awaiting.filter (fun n => n != node) } else p
  { g with purges := (g.purges.map mark).filter (fun p => !p.awaiting.isEmpty) }

/-- A purge packet comes back undelivered: its node counts as acknowledged, and the host is told of it (12 R420; log 91). -/
def cutPurge (s : State) (p : Packet) : State :=
  if s.pkg.purges.any (fun q => q.tag.toNat == p.tag && q.awaiting.contains p.src) then
    let dim := (([(0, 1), (1, 16), (2, 256)] : List (Nat × Nat)).find? (fun d => p.src / d.2 % 16 != nodeNo s / d.2 % 16)).getD (0, 1)
    postNotice (modPkg s (fun g => ackPurge g (BitVec.ofNat 16 p.tag) p.src)) 8 p.tag (2 * dim.1)
  else s

/-- PURGE_START of a tag (12 R420): the set of purges is read (R422), the local purge, a packet to every node of the torus, a notice. A purge of the tag in
progress is merged with it (R421). Nodes that cannot be reached count as acknowledged and the host is told (log 91). -/
def startPurge (s : State) (tag : BitVec 16) (cause : Nat) : State :=
  let s1 := purgeLocal (compared s 2) (.tag tag)
  let far := (otherNodes s1).filter (reachable s1)
  let cut := (otherNodes s1).filter (fun n => !reachable s1 n)
  let s2 := sendPkts s1 (far.map (fun d => purgePacket s1 d .purge tag.toNat cause (nodeNo s1)))
  let s3 := match s2.pkg.purges.find? (fun p => p.tag == tag) with
    | some _ => modPkg s2 (fun g => { g with purges := g.purges.map (fun p =>
        if p.tag == tag then { p with awaiting := far } else p) })
    | none => if far = [] then s2 else modPkg s2 (fun g => { g with purges := g.purges ++
        [{ tag := tag, cause := cause, awaiting := far }] })
  let s4 := postNotice s3 1 tag.toNat cause
  if cut = [] then s4 else postNotice s4 8 tag.toNat (2 * (([0, 1, 2] : List Nat).find? (dimDown s4)).getD 0)

/-- A purge of the work of one iteration: by its tag, or with tag 0 of its own items alone (12 R420). -/
def purgeWork (s : State) (tag : BitVec 16) (iter cause : Nat) : State :=
  if tag = 0 then postNotice (purgeLocal s (.iter iter)) 1 0 cause else startPurge s tag cause

/-- POISON_CONSUMED: marks the record of a unit, by its place code, as consumed by a tag (12 R417). -/
def markUnit (s : State) (place u : Nat) (tag : BitVec 16) : State :=
  let same (r : PoisonRec) : Bool := r.addr == BitVec.ofNat 52 u
    && (r.place == BitVec.ofNat 3 place || (place == 2 && r.place == 1)) && !r.consumed
  modPkg (compared s 1) (fun g => { g with poisonRecs := g.poisonRecs.map (fun r =>
    if same r.2 then (r.1, { r.2 with consumed := true, tag := tag }) else r) })

def markConsumed (s : State) (p : Space) (u : Nat) (tag : BitVec 16) : State := markUnit s (spaceCode p) u tag

end Sys2Proof.Machine
end

