-- ==== Sys2Proof/Machine/Ops.lean ====
section
/-!
DEFINITION. Taking an exception and returning from one (06 R195 to R214), the frame, and how a slot operation stages what it
writes. Every trap of every instruction goes through `takeTrap`.
-/
namespace Sys2Proof.Machine

/-! ## The frame (06 R209, R210) -/

/-- Bytes of a frame slot of a window of w registers (06 R198). -/
def frameBytes (w : Nat) : Nat := 0x2800 + w * 128

/-- Address of frame slot j (06 R198). -/
def frameAddr (x : Ctx) (j : Nat) : Nat := x.ctxsave.toNat + j * frameBytes x.win

/-- VWIN (05 R147). -/
def vwinOf (x : Ctx) : Nat := x.winBase * 2 ^ 16 + x.win

/-- The remaining count of a landing: (p + L) − q with q the last issued position (06 R208). -/
def landR (x : Ctx) (l : Landing) : Nat := l.vis + 1 - x.pos

/-- A landing record (06 R210). -/
def landRec (x : Ctx) (l : Landing) : List Byte :=
  let kind := if l.kreg.isSome then (if l.vreg.isSome then 2 else 1) else 0
  natLe 8 (1 + l.poison.toNat * 2 + kind * 4 + (l.vreg.getD 0) * 16 + (l.kreg.getD 0) * 2 ^ 14 + landR x l * 2 ^ 20)
    ++ natLe 8 0 ++ natLe 128 l.vval.toNat ++ natLe 32 l.kval.toNat ++ natLe 16 0

/-- The sticky record of a slot (06 R209). -/
def stickyRec (x : Ctx) (slot : Nat) : List Byte :=
  match smFind x.sticky slot with
  | none => natLe 16 0
  | some t => natLe 8 t.word.toNat ++ natLe 8 ((t.k % (2 ^ 32 : Nat)).toNat + 2 ^ 32)

/-- A held failure record (06 R209). -/
def failRec (f : Failure) : List Byte :=
  natLe 8 (f.bundle.toNat + f.slot * 2 ^ 48 + f.cause * 2 ^ 52) ++ natLe 8 f.addr.toNat

/-- Pads with zero bytes to a length. -/
def padTo (n : Nat) (bs : List Byte) : List Byte := bs ++ List.replicate (n - bs.length) 0

/-- The bytes of a frame before its vector area (06 R209). -/
def frameImage (x : Ctx) (pc : BitVec 48) (issue : Nat) (cause info addr : Word) (vsaved : Nat) (engine : List Byte)
    (nEngine : Nat) (fails : Bool) : List Byte :=
  let nf := if fails then x.fails.length else 0
  natLe 8 pc.toNat ++ natLe 8 issue ++ natLe 8 cause.toNat ++ natLe 8 info.toNat ++ natLe 8 addr.toNat
    ++ natLe 8 (rdCC x).toNat ++ natLe 8 x.fpctl.toNat ++ natLe 8 x.fpflags.toNat ++ natLe 8 (vwinOf x) ++ natLe 8 vsaved
    ++ natLe 8 (x.land.length + nEngine * 2 ^ 16 + nf * 2 ^ 24 + (fails && x.failsLost).toNat * 2 ^ 29)
    ++ natLe 8 x.issueSeq.toNat ++ natLe 32 0
    ++ (List.range 64).flatMap (fun i => natLe 8 (rdS x i).toNat)
    ++ (List.range 16).flatMap (fun i => natLe 16 (rdM x i).toNat)
    ++ (List.range 32).flatMap (fun i => natLe 8 (rdH x i).toNat)
    ++ (List.range 16).flatMap (fun i => natLe 8 (smGet x.cnt i 0 + smGet x.lastSeq i 0 * 2 ^ 16))
    ++ (List.range 7).flatMap (fun i => stickyRec x (i + 3)) ++ natLe 16 0
    ++ (List.range 64).flatMap (fun i => natLe 32 (rdK x i).toNat)
    ++ padTo 3072 (x.land.flatMap (landRec x))
    ++ padTo 3072 engine
    ++ padTo 256 (if fails then x.fails.flatMap failRec else [])
    ++ List.replicate 384 0

/-- The issue-state word (06 R209). -/
def issueWord (x : Ctx) (useBits : Bool) : Nat :=
  (match x.rep with
   | none => 0
   | some r => r.left + r.leaf * 2 ^ 9) + x.lvl * 2 ^ 12
    + (if useBits then x.use0.toNat * 2 ^ 14 + x.use1.toNat * 2 ^ 15 else 0)

/-! ## Reads and writes of the save area -/

/-- The next page boundary above a. -/
def pageEnd (a : Nat) : Nat := (a / 4096 + 1) * 4096

/-- Writes bytes at a virtual address as the hardware does for a frame, page by page; none where a translation or
permission fails (06 R198, R213). `fuel` bounds the pages. -/
def areaWrite (s : State) (x : Ctx) (va : Nat) (bs : List Byte) : Nat → Option State
  | 0 => if bs = [] then some s else none
  | fuel + 1 =>
    if bs = [] then some s
    else
      match objAccess s x.id.cl x.env.iter x.env.gang x.env.asn x.env.root 2 va { accWrite with frozen := false } with
      | (_, .bad _) => none
      | (s1, .ok p) =>
        let n := pageEnd va - va
        areaWrite (writePlace s1 p (bs.take n)) x (va + n) (bs.drop n) fuel

/-- Reads n bytes at a virtual address; a trap where a translation fails. -/
def areaRead (s : State) (x : Ctx) (lvl va n : Nat) : Nat → State × (List Byte ⊕ TrapC)
  | 0 => (s, .inl [])
  | fuel + 1 =>
    if n = 0 then (s, .inl [])
    else
      match objAccess s x.id.cl x.env.iter x.env.gang x.env.asn x.env.root lvl va { accRead with frozen := false } with
      | (s1, .bad t) => (s1, .inr t)
      | (s1, .ok p) =>
        let k := min n (pageEnd va - va)
        match areaRead s1 x lvl (va + k) (n - k) fuel with
        | (s2, .inr t) => (s2, .inr t)
        | (s2, .inl bs) => (s2, .inl (readPlace s1 p k ++ bs))

/-- The pages a save area can span at most: three frames of the largest window. -/
def areaPages : Nat := 128

/-- The frame slot that is live at a level: slot 0 at UH, slot 1 at SH entered from UH, else slot 0. -/
def liveSlot (x : Ctx) : Nat := if x.lvl = 2 && x.use1 then 1 else 0

/-- VECTOR_GROUP_SAVE: before the first write to a group in a handler, the group's 64 values go to the live frame's vector
area and the group's bit is set (06 R211); none where the frame cannot be written (R213). -/
def saveGroup (s : State) (x : Ctx) (g : Nat) : Option (State × Ctx) :=
  if x.lvl = 0 || x.vsaved.getLsbD g then some (s, x)
  else
    let fa := frameAddr x (liveSlot x)
    let x1 := { x with vsaved := x.vsaved ||| (1#16 <<< g) }
    let vals := (List.range 64).flatMap (fun i => natLe 128 (rdV x (64 * g + i)).toNat)
    match areaWrite s x (fa + 0x2800 + 8192 * g) vals areaPages with
    | none => none
    | some s1 => match areaWrite s1 x (fa + 0x48) (natLe 8 x1.vsaved.toNat) areaPages with
      | none => none
      | some s2 => some (s2, x1)

/-- Vector groups that a list of registers lies in. -/
def groupsOf (rs : List RegId) : List Nat :=
  (rs.filterMap (fun r => match r with
    | .v n => some (n / 64)
    | _ => none)).eraseDups

/-- Saves the groups that are about to be written (06 R211); none where the frame cannot be written. -/
def saveGroups (s : State) (x : Ctx) : List Nat → Option (State × Ctx)
  | [] => some (s, x)
  | g :: rest => match saveGroup s x g with
    | none => none
    | some (s1, x1) => saveGroups s1 x1 rest

/-- The context with its ready results written, the groups they are written to saved first (06 R208, R211). -/
def flushSaved (s : State) (x : Ctx) : Option (State × Ctx) :=
  (saveGroups s x (groupsOf ((readyPend [] x.pend).map (·.reg)))).map (fun p => (p.1, flushPend p.2))

/-! ## Taking an exception (06 R208, R213) -/

/-- A trap to take: cause, TRAP_INFO and TRAP_ADDR (06 R196, R202). -/
structure TrapT where
  cause : Nat
  info : Word
  addr : Word
  deriving DecidableEq, Repr, Inhabited

/-- TRAP_INFO of a class B or W cause (06 R202). -/
def infoB (slot sub reg : Nat) : Word := BitVec.ofNat 64 (slot % 16 + sub % 16 * 16 + reg % 1024 * 256)

/-- A class B trap of a slot's operation. -/
def trapB (slot : Nat) (t : TrapC) : TrapT :=
  { cause := t.cause, info := infoB slot t.sub t.reg, addr := BitVec.ofNat 64 t.addr }

/-- TRAP_INFO and TRAP_ADDR of a held failure (06 R202). -/
def trapF (x : Ctx) (f : Failure) : TrapT :=
  { cause := f.cause, info := BitVec.ofNat 64 (f.bundle.toNat + f.slot * 2 ^ 48 + x.failsLost.toNat * 2 ^ 63),
    addr := f.addr }

/-- Stops a context and purges its iteration (06 R213). -/
def stopAndPurge (s : State) (x : Ctx) : State := purgeWork s x.env.tag x.env.iter 5

/-- Whether a cause is routed to the user handler (06 R199, R208). -/
def routed (s : State) (x : Ctx) (cause : Nat) : Bool :=
  (getCore s x.id.cl x.id.core).trapRoute.getLsbD cause && x.uvec != 0

/-- The level a trap enters (06 R208). -/
def trapLevel (s : State) (x : Ctx) (cause : Nat) : Nat := if x.lvl = 0 && routed s x cause then 1 else 2

/-- The handler's address at a level (06 R197). -/
def handlerPc (s : State) (x : Ctx) (nl : Nat) : BitVec 48 :=
  if nl = 1 then x.uvec.extractLsb' 0 48 else (getCore s x.id.cl x.id.core).svec.extractLsb' 0 48

/-- The context as it enters the handler (06 R208). -/
def enterHandler (s : State) (x : Ctx) (t : TrapT) : Ctx :=
  let nl := trapLevel s x t.cause
  { x with
    sticky := [], land := [], rep := none, status := .ready, blockedFor := 0, fifoFor := 0, leaseFor := 0, leaseNoted := false,
    sleepAt := none, cause := BitVec.ofNat 64 t.cause, info := t.info, taddr := t.addr,
    use0 := x.use0 || x.lvl == 0, use1 := x.use1 || x.lvl == 1, lvl := nl, vsaved := 0, pc := handlerPc s x nl }

/-- Keeps the poisoned units of the landings that the frame in slot j saves. -/
def keepUnits (j : Nat) (x : Ctx) : Ctx :=
  { x with landUnits := (List.range 16).foldl (fun m i => smSet m (16 * j + i) ((x.land.getD i default).units) []) x.landUnits }

/-- TRAP_ENTRY (06 R208): the context c takes a trap; pc is the saved program counter. At SH the context stops and its
iteration is purged; so it does where the frame cannot be written (R213). -/
def takeTrap (s : State) (c : CtxId) (t : TrapT) (pc : BitVec 48) : State :=
  match getCtx s c with
  | none => s
  | some x0 =>
    if x0.lvl = 2 then stopAndPurge s x0
    else match flushSaved s x0 with
      | none => stopAndPurge s x0
      | some (s0, x) =>
        let j := if x.lvl = 0 then 0 else 1
        let img := frameImage x pc (issueWord x false) (BitVec.ofNat 64 t.cause) t.info t.addr 0 [] 0 false
        match areaWrite s0 x (frameAddr x j) img areaPages with
        | none => stopAndPurge s x0
        | some s1 => putCtx s1 (enterHandler s1 (keepUnits j x) t)

/-- The poisoned units that ranges of a context's space touch: place code and first byte. -/
def poisonedIn (s : State) (x : Ctx) (l : List (Nat × Nat)) : List (Nat × Nat) :=
  (l.filter (fun r => r.1 < 2 ^ 56)).flatMap (fun r =>
    match (objAccess s x.id.cl x.env.iter x.env.gang x.env.asn x.env.root 2 r.1 { accRead with frozen := false }).2 with
    | .bad _ => []
    | .ok p => ((unitsOf p.space p.addr r.2).filter (fun u => (poisonList s p.space).contains u)).map (fun u => (spaceCode p.space, u)))

/-- A consumed POISON failure marks the records of its units and, for a nonzero tag, purges the tag instead of being delivered
(12 R417). -/
def takePoison (s : State) (c : CtxId) (us : List (Nat × Nat)) (t : TrapT) (pc : BitVec 48) : State :=
  match getCtx s c with
  | none => s
  | some x =>
    let s1 := us.foldl (fun u p => markUnit u p.1 p.2 x.env.tag) s
    if x.env.tag = 0 then takeTrap s1 c t pc else startPurge s1 x.env.tag 1

/-- Takes a held failure, which leaves the held ones (06 R204, R205; 12 R417). -/
def takeFailure (s : State) (c : CtxId) (f : Failure) : State :=
  match getCtx s c with
  | none => s
  | some x =>
    let t := trapF x f
    let x1 := { x with fails := x.fails.erase f, failsLost := false }
    let s1 := putCtx s x1
    if f.cause = 10 then takePoison s1 c f.units t x.pc else takeTrap s1 c t x.pc

/-! ## Returning from an exception (06 R212) -/

/-- A landing read back from a record; r counts from the next issue (01 R45, 06 R210). -/
def landBack (pos : Nat) (us : List (Nat × Nat)) (w : Nat) (vval kval : Nat) : Option Landing :=
  if bit w 0 then
    let kind := bits w 3 2
    some { vreg := if kind = 1 then none else some (bits w 13 4), vval := BitVec.ofNat 1024 vval,
           kreg := if kind = 0 then none else some (bits w 19 14), kval := BitVec.ofNat 256 kval,
           vis := pos + bits w 22 20 - 1, poison := bit w 1, wait := none, addr := 0, units := us }
  else none

/-- A slice of an image as a number. -/
def imgNat (img : List Byte) (off n : Nat) : Nat := leNat ((img.drop off).take n)

/-- A stored TRAP_CAUSE, whose bits above 5 read 0 (06 R196). -/
def causeBack (img : List Byte) : Word := BitVec.ofNat 64 (bits (imgNat img 0x10 8) 5 0)

/-- Restores the registers that the frames of 06 R212 and R214 in slot j hold; bits [2:0] of the pc are 0 (04 R116). A frame
does not hold what identifies a landing's poison records: the model keeps it beside the frame. -/
def restoreRegs (x : Ctx) (j : Nat) (img : List Byte) : Ctx :=
  { x with
    s := (List.range 64).foldl (fun m i => if i = 0 then m else smSet m i (BitVec.ofNat 64 (imgNat img (0x80 + 8 * i) 8)) 0) []
    c := BitVec.ofNat 16 (imgNat img 0x28 2) &&& 0xFFFE
    m := (List.range 16).foldl (fun m i => if i = 0 then m else smSet m i (BitVec.ofNat 128 (imgNat img (0x280 + 16 * i) 16)) 0) []
    h := (List.range 32).foldl (fun m i => smSet m i (BitVec.ofNat 64 (imgNat img (0x380 + 8 * i) 8) &&& 0x8000_0000_0000_0FFF) 0) []
    k := (List.range 64).foldl (fun m i => smSet m i (BitVec.ofNat 256 (imgNat img (0x580 + 32 * i) 32)) 0) []
    fpctl := BitVec.ofNat 64 (imgNat img 0x30 8) &&& 0x3FFF
    fpflags := BitVec.ofNat 6 (imgNat img 0x38 1)
    sticky := (List.range 7).foldl (fun m i =>
      let w := imgNat img (0x508 + 16 * i) 8
      if bit w 32 then smPut m (i + 3) { word := BitVec.ofNat 64 (imgNat img (0x500 + 16 * i) 8), k := (BitVec.ofNat 32 w).toInt }
      else m) []
    land := (List.range (min 16 (bits (imgNat img 0x50 8) 4 0))).filterMap (fun i =>
      landBack x.pos (smGet x.landUnits (16 * j + i) []) (imgNat img (0xD80 + 192 * i) 8) (imgNat img (0xD90 + 192 * i) 128) (imgNat img (0xE10 + 192 * i) 32))
    rep := (let w := imgNat img 8 8
            if bits w 8 0 = 0 then none else some { left := bits w 8 0, leaf := bits w 11 9 })
    pc := BitVec.ofNat 48 (imgNat img 0 6) &&& 0xFFFF_FFFF_FFF8 }

/-- The slot `eret` restores from (06 R212). -/
def eretSlot (x : Ctx) : Nat := if x.lvl = 2 && x.use1 then 1 else 0

/-- A landing record that fails check 3 of 06 R212. -/
def badLanding (x : Ctx) (w : Nat) : Bool :=
  bit w 0 && (bits w 3 2 == 3 || bits w 22 20 == 0 || bits w 22 20 == 7
    || (bits w 3 2 != 1 && decide (x.win ≤ bits w 13 4)))

/-- The field of a sticky record that fails check 5 of 06 R212, by its offset: the word of its rsvd bits, else its slot word
(where both fail, the choice of the first is the model's: log 94). -/
def badSticky (img : List Byte) (i : Nat) : Option Nat :=
  let w := imgNat img (0x500 + 16 * i) 8
  let e := imgNat img (0x508 + 16 * i) 8
  if bits e 63 33 ≠ 0 then some (0x508 + 16 * i)
  else if bit e 32 && bits w 63 61 != 0 then some (0x500 + 16 * i) else none

/-- The first failing field of a frame, by its offset (06 R212). -/
def frameCheck (x : Ctx) (img : List Byte) (j : Nat) : Option Nat :=
  let pc := imgNat img 0 8
  let st := imgNat img 8 8
  let n := bits (imgNat img 0x50 8) 4 0
  if bits pc 2 0 ≠ 0 || bits pc 63 48 ≠ 0 then some 0
  else if 256 < bits st 8 0 || 5 < bits st 11 9 || bits st 63 14 ≠ 0 || bits st 13 12 ≠ j then some 8
  else if 16 < n then some 0x50
  else match (List.range n).find? (fun i => badLanding x (imgNat img (0xD80 + 192 * i) 8)) with
    | some i => some (0xD80 + 192 * i)
    | none =>
      if 4 < bits (imgNat img 0x30 8) 2 0 then some 0x30
      else (List.range 7).findSome? (badSticky img)

/-- The outcome of reading and checking the frame at `eret`: the restored state, a trap, or that an earlier operation to
the save area is not yet performed. -/
inductive EretRes where
  | ok (s : State)
  | trap (t : TrapC)
  deriving Repr, Inhabited

/-- Reloads the vector groups that VSAVED marks (06 R212). -/
def reloadGroups (s : State) (x : Ctx) (fa : Nat) : State × (Ctx ⊕ TrapC) :=
  (List.range 16).foldl (fun r g =>
    match r.2 with
    | .inr _ => r
    | .inl y =>
      if x.vsaved.getLsbD g then
        match areaRead r.1 x x.lvl (fa + 0x2800 + 8192 * g) 8192 areaPages with
        | (s1, .inr t) => (s1, .inr t)
        | (s1, .inl bs) => (s1, .inl ((List.range 64).foldl (fun z i => wrV z (64 * g + i) (BitVec.ofNat 1024 (imgNat bs (128 * i) 128))) y))
      else r) (s, .inl x)

/-- The return from an exception (06 R212): reads the frame at the level of the `eret` bundle, checks it, restores it. The
restored registers are the later write, so results of the handler's loads still to come are dropped (03 R94; log 95). -/
def returnTrap (s : State) (x : Ctx) : EretRes :=
  let j := eretSlot x
  let fa := frameAddr x j
  match areaRead s x x.lvl fa 0x2800 areaPages with
  | (_, .inr t) => .trap t
  | (s1, .inl img) =>
    match frameCheck x img j with
    | some off => .trap { cause := 2, sub := 15, reg := 0, addr := fa + off }
    | none =>
      match reloadGroups s1 x fa with
      | (_, .inr t) => .trap t
      | (s2, .inl y) =>
        let nl := bits (imgNat img 8 8) 13 12
        let z := restoreRegs { y with pend := [] } j img
        let z1 := { z with use0 := if j = 0 then false else z.use0, use1 := if j = 1 then false else z.use1, lvl := nl,
                           status := .ready, blockedFor := 0 }
        if nl = 1 then
          match areaRead s2 x x.lvl (frameAddr x 0) 0x50 areaPages with
          | (_, .inr t) => .trap t
          | (s3, .inl im0) => .ok (putCtx s3 { z1 with
              cause := causeBack im0, info := BitVec.ofNat 64 (imgNat im0 0x18 8),
              taddr := BitVec.ofNat 64 (imgNat im0 0x20 8), vsaved := BitVec.ofNat 16 (imgNat im0 0x48 2) })
        else .ok (putCtx s2 { z1 with cause := 0, info := 0, taddr := 0, vsaved := 0 })

end Sys2Proof.Machine
end

