-- ==== Sys2Proof/Machine/Values.lean ====
section
/-!
DEFINITION. Exact values, rounding and conversion (02 R47 to R78). A number is an exact rational; the helpers of the
manual's pseudocode round it. Codes are natural numbers below 2^width.
-/
namespace Sys2Proof.Machine

/-- The value of a code: an exact nonzero real, a signed zero, a signed infinity or NaN (02 R50). -/
inductive Val where
  | nan
  | inf (neg : Bool)
  | zero (neg : Bool)
  | fin (q : Rat)
  deriving DecidableEq, Repr, Inhabited

/-- The five rounding modes of 02 R57. -/
inductive Rm where
  | rne | rtz | rup | rdn | sr
  deriving DecidableEq, Repr, Inhabited

/-- The mode of a resolved 3-bit field (02 R57). Values 5 to 7 never reach it. -/
def rmOfNat (n : Nat) : Rm :=
  match n with
  | 1 => .rtz | 2 => .rup | 3 => .rdn | 4 => .sr | _ => .rne

/-- FPFLAGS bits (02 R65). -/
abbrev Flg := BitVec 6
def fNV : Flg := 1
def fDZ : Flg := 2
def fOF : Flg := 4
def fUF : Flg := 8
def fNX : Flg := 16
def fNF : Flg := 32

/-- 2^e for an integer e. -/
def pow2 (e : Int) : Rat := if 0 ≤ e then ((2 ^ e.toNat : Nat) : Rat) else mkRat 1 (2 ^ (-e).toNat)

/-- floor(log2 q) of a positive rational (02 R78). -/
def flog2 (q : Rat) : Int :=
  let e : Int := (q.num.natAbs.log2 : Int) - (q.den.log2 : Int)
  if q < pow2 e then e - 1 else e

/-- The exact value of a finite rational: zero is +0. -/
def ofRat (q : Rat) : Val := if q = 0 then .zero false else .fin q

/-- A rational with a sign to keep when it is zero. -/
def ofRatSgn (neg : Bool) (q : Rat) : Val := if q = 0 then .zero neg else .fin q

/-- sign of a value, true for negative (02 R78); NaN counts as positive. -/
def valNeg (v : Val) : Bool :=
  match v with
  | .nan => false
  | .inf n => n
  | .zero n => n
  | .fin q => q < 0

def valIsNaN (v : Val) : Bool :=
  match v with
  | .nan => true
  | _ => false

def valIsInf (v : Val) : Bool :=
  match v with
  | .inf _ => true
  | _ => false

def valIsZero (v : Val) : Bool :=
  match v with
  | .zero _ => true
  | _ => false

def valIsFinite (v : Val) : Bool := !(valIsNaN v || valIsInf v)

/-- The rational of a finite value; 0 for the rest. -/
def valRat (v : Val) : Rat :=
  match v with
  | .fin q => q
  | _ => 0

/-- |x| -/
def valAbs (v : Val) : Val :=
  match v with
  | .nan => .nan
  | .inf _ => .inf false
  | .zero _ => .zero false
  | .fin q => .fin (if q < 0 then -q else q)

/-- -x -/
def valNegate (v : Val) : Val :=
  match v with
  | .nan => .nan
  | .inf n => .inf (!n)
  | .zero n => .zero (!n)
  | .fin q => .fin (-q)

/-- x[n-1:0] read as two's complement (02 R78). -/
def sextInt (x n : Nat) : Int :=
  let y := x % 2 ^ n
  if y < 2 ^ (n - 1) then (y : Int) else (y : Int) - (2 ^ n : Nat)

/-- An integer as the n-bit pattern it wraps to. -/
def wrapNat (x : Int) (n : Nat) : Nat := (x % ((2 ^ n : Nat) : Int)).toNat

/-- x limited to [-2^(w-1), 2^(w-1) - 1] (02 R78). -/
def satInt (x : Int) (w : Nat) : Int :=
  let hi : Int := (2 ^ (w - 1) : Nat) - 1
  let lo : Int := -((2 ^ (w - 1) : Nat) : Int)
  if hi < x then hi else if x < lo then lo else x

/-- q limited to ±(2^(w-1) - 1) (02 R78). -/
def clampInt (q : Int) (w : Nat) : Int :=
  let hi : Int := (2 ^ (w - 1) : Nat) - 1
  if hi < q then hi else if q < -hi then -hi else q

/-! ## Codes -/

/-- Sign-less code of the largest finite number (02 R51). -/
def maxMag (f : Fmt) : Nat :=
  if hasInf f then (2 ^ fmtE f - 1) * 2 ^ fmtM f - 1
  else if hasNaN f then 2 ^ (fmtE f + fmtM f) - 2
  else 2 ^ (fmtE f + fmtM f) - 1

def signCode (f : Fmt) (neg : Bool) (mag : Nat) : Nat := if neg then 2 ^ (fmtWidth f - 1) + mag else mag

/-- qnan(f) (02 R51). -/
def qnanCode (f : Fmt) : Nat :=
  if hasInf f then (2 ^ fmtE f - 1) * 2 ^ fmtM f + 2 ^ (fmtM f - 1) else 2 ^ (fmtE f + fmtM f) - 1
/-- infcode(f, s) (02 R78). -/
def infCode (f : Fmt) (neg : Bool) : Nat := signCode f neg ((2 ^ fmtE f - 1) * 2 ^ fmtM f)
/-- maxcode(f, s) (02 R78). -/
def maxCode (f : Fmt) (neg : Bool) : Nat :=
  if isMXInt f then (if neg then 2 ^ (fmtWidth f - 1) + 1 else 2 ^ (fmtWidth f - 1) - 1) else signCode f neg (maxMag f)
/-- zerocode(f, s) (02 R78). -/
def zeroCode (f : Fmt) (neg : Bool) : Nat := if isMXInt f then 0 else signCode f neg 0

/-- Value of a finite floating code with sign, exponent field e and mantissa field t (02 R50). -/
def finiteVal (f : Fmt) (neg : Bool) (e t : Nat) : Val :=
  let mag : Rat :=
    if e = 0 then (t : Rat) * pow2 (1 - (fmtBias f : Int) - (fmtM f : Int))
    else ((2 ^ fmtM f + t : Nat) : Rat) * pow2 ((e : Int) - (fmtBias f : Int) - (fmtM f : Int))
  ofRatSgn neg (if neg then -mag else mag)

/-- `decode` of a code (02 R50, R53). -/
def decodeVal (f : Fmt) (c0 : Nat) : Val :=
  let w := fmtWidth f
  let c := c0 % 2 ^ w
  if isInt f then ofRat (sextInt c w)
  else if isMXInt f then ofRat ((sextInt c w : Rat) * pow2 (-((w : Int) - 2)))
  else
    let m := fmtM f
    let neg := 2 ^ (w - 1) ≤ c
    let e := (c / 2 ^ m) % 2 ^ fmtE f
    let t := c % 2 ^ m
    if hasInf f && e == 2 ^ fmtE f - 1 then (if t = 0 then .inf neg else .nan)
    else if (f == .e4m3 || f == .mxe4m3) && e == 15 && t == 7 then .nan
    else finiteVal f neg e t

/-- maxval(f): the largest finite magnitude (02 R47). -/
def maxVal (f : Fmt) : Rat :=
  if isMXInt f then ((2 ^ (fmtWidth f - 1) - 1 : Nat) : Rat) * pow2 (-((fmtWidth f : Int) - 2))
  else valRat (decodeVal f (maxMag f))

/-- minnorm(f) (02 R47). -/
def minNorm (f : Fmt) : Rat := pow2 (1 - (fmtBias f : Int))

/-- The code of a representable rational y, with the sign neg when y = 0 (last line of `encode`, 02 R63). -/
def codeOf (f : Fmt) (neg : Bool) (y : Rat) : Nat :=
  if y = 0 then zeroCode f neg
  else
    let a := y.abs
    let e := max (flog2 a) (1 - (fmtBias f : Int))
    let mant := (a / pow2 (e - (fmtM f : Int))).floor.toNat
    signCode f (y < 0) ((e + (fmtBias f : Int) - 1).toNat * 2 ^ fmtM f + mant)

/-! ## Rounding (02 R62) -/

/-- |x| rounded to a multiple of q by the rule of 02 R62; r is a random word of b bits. -/
def rndTo (x : Rat) (q : Rat) (rm : Rm) (r b : Nat) : Rat :=
  let a := x.abs
  let n := (a / q).floor
  let lo := (n : Rat) * q
  let hi := lo + q
  let m :=
    if lo = a then lo
    else match rm with
      | .rtz => lo
      | .rup => if 0 < x then hi else lo
      | .rdn => if x < 0 then hi else lo
      | .rne =>
        if a - lo < hi - a then lo
        else if hi - a < a - lo then hi
        else if n % 2 = 0 then lo else hi
      | .sr => if (r : Int) < ((a - lo) * ((2 ^ b : Nat) : Rat) / q).floor then hi else lo
  if x < 0 then -m else m

/-- `rnd`: rounding to the grid of a floating format with unbounded exponent range (02 R62). -/
def rnd (x : Rat) (f : Fmt) (rm : Rm) (r b : Nat) : Rat :=
  let e := max (flog2 x.abs) (1 - (fmtBias f : Int))
  rndTo x (pow2 (e - (fmtM f : Int))) rm r b

/-- `rndint` (02 R78). -/
def rndInt (x : Rat) (rm : Rm) (r b : Nat) : Int := (rndTo x 1 rm r b).floor

/-- `encode` of a finite nonzero rational (02 R63). -/
def encodeRat (x : Rat) (f : Fmt) (rm : Rm) (sat : Bool) (r b : Nat) : Nat × Flg :=
  let y := rnd x f rm r b
  if maxVal f < y.abs then
    if hasInf f && !sat && !(rm == .rtz || (rm == .rup && x < 0) || (rm == .rdn && 0 < x)) then
      (infCode f (x < 0), fOF ||| fNX ||| fNF)
    else (maxCode f (x < 0), fOF ||| fNX)
  else
    (codeOf f (x < 0) y, if y = x then 0 else if x.abs < minNorm f then fNX ||| fUF else fNX)

/-- `encode`: the code and the flags raised (02 R63). -/
def encodeVal (v : Val) (f : Fmt) (rm : Rm) (sat : Bool) (r b : Nat) : Nat × Flg :=
  match v with
  | .nan => (qnanCode f, fNF)
  | .inf neg => if hasInf f && !sat then (infCode f neg, fNF) else (maxCode f neg, fNF ||| fNX)
  | .zero neg => (zeroCode f neg, 0)
  | .fin x => encodeRat x f rm sat r b

/-- Conversion into a two's complement integer of width w, signed or unsigned range (02 R64; 04 R136 for unsigned). -/
def toIntRange (v : Val) (lo hi : Int) (rm : Rm) (r b : Nat) : Int × Flg :=
  match v with
  | .nan => (0, fNV)
  | .inf neg => (if neg then lo else hi, fNV)
  | .zero _ => (0, 0)
  | .fin x =>
    let y := rndInt x rm r b
    if hi < y then (hi, fNV) else if y < lo then (lo, fNV)
    else (y, if (y : Rat) = x then 0 else fNX)

/-- Conversion into INT8 or INT32 (02 R64). -/
def encodeInt (v : Val) (w : Nat) (rm : Rm) (r b : Nat) : Nat × Flg :=
  let p := toIntRange v (-((2 ^ (w - 1) : Nat) : Int)) ((2 ^ (w - 1) : Nat) - 1) rm r b
  (wrapNat p.1 w, p.2)

/-- Conversion of a value into any non-MX format (02 R63, R64). -/
def encodeAny (v : Val) (f : Fmt) (rm : Rm) (sat : Bool) (r b : Nat) : Nat × Flg :=
  if isInt f then encodeInt v (fmtWidth f) rm r b else encodeVal v f rm sat r b

/-! ## MX blocks (02 R54, R67) -/

/-- e8m0(g): none is NaN (02 R78). -/
def e8m0 (g : Nat) : Option Rat := if g % 256 = 255 then none else some (pow2 (((g % 256 : Nat) : Int) - 127))

/-- A decoded element of a block scaled by its code (02 R54). -/
def scaledVal (f : Fmt) (g c : Nat) : Val :=
  match e8m0 g with
  | none => .nan
  | some k => match decodeVal f c with
    | .fin q => .fin (q * k)
    | v => v

/-- emaxel(f) (02 R67). -/
def emaxel (f : Fmt) : Int :=
  match f with
  | .e4m3 | .mxe4m3 => 8
  | .e5m2 | .mxe5m2 => 15
  | .mxe3m2 => 4
  | .mxe2m3 | .mxe2m1 => 2
  | _ => 0

/-- Largest finite magnitude of a list of values; 0 if there is none. -/
def amaxOf : List Val → Rat
  | [] => 0
  | v :: vs => max (valRat v).abs (amaxOf vs)

/-- One element of `mx_quant` (02 R67). -/
def mxElem (f : Fmt) (se : Int) (rm : Rm) (sat : Bool) (r b : Nat) (x : Val) : Nat × Flg :=
  match x with
  | .nan => (qnanCode f, fNF)
  | .inf neg => if hasInf f && !sat then (infCode f neg, fNF) else (maxCode f neg, fNF ||| fNX)
  | .zero neg => (zeroCode f neg, 0)
  | .fin q =>
    let v := q / pow2 se
    let w := fmtWidth f
    let y0 : Rat :=
      if isMXInt f then (clampInt (rndInt (v * pow2 ((w : Int) - 2)) rm r b) w : Rat) / pow2 ((w : Int) - 2)
      else rnd v f rm r b
    let y := if maxVal f < y0.abs then (if v < 0 then -(maxVal f) else maxVal f) else y0
    let fl := if y = v then 0 else if !isMXInt f && v.abs < minNorm f then fNX ||| fUF else fNX
    (if isMXInt f then wrapNat (y * pow2 ((w : Int) - 2)).floor w else codeOf f (v < 0) y, fl)

/-- Pairs each value with its random word. -/
def mxElems (f : Fmt) (se : Int) (rm : Rm) (sat : Bool) (b : Nat) : List Val → List Nat → List Nat × Flg
  | [], _ => ([], 0)
  | x :: xs, rs =>
    let p := mxElem f se rm sat (rs.headD 0) b x
    let t := mxElems f se rm sat b xs rs.tail
    (p.1 :: t.1, p.2 ||| t.2)

/-- `mx_quant`: the scale code, the element codes and the flags (02 R67). -/
def mxQuant (xs : List Val) (f : Fmt) (rm : Rm) (sat : Bool) (rs : List Nat) (b : Nat) : Nat × List Nat × Flg :=
  if xs.any valIsNaN && !hasNaN f then (255, xs.map (fun _ => 0), fNF)
  else
    let am := amaxOf xs
    let se : Int := if am = 0 then -127 else min 127 (max (-127) (flog2 am - emaxel f))
    let t := mxElems f se rm sat b xs rs
    ((se + 127).toNat, t.1, t.2)

/-! ## Sums (02 R69 to R72) -/

/-- `addf` on values: the exact sum, a NaN with NV, or a signed zero, rounded into f without saturation (02 R69, R71). -/
def addVal (x y : Val) (f : Fmt) (rm : Rm) (r b : Nat) : Val × Flg :=
  match x, y with
  | .nan, _ => (.nan, 0)
  | _, .nan => (.nan, 0)
  | .inf a, .inf c => if a == c then (.inf a, 0) else (.nan, fNV)
  | .inf a, _ => (.inf a, 0)
  | _, .inf c => (.inf c, 0)
  | .zero a, .zero c => (.zero ((a && c) || rm == .rdn), 0)
  | x, y =>
    let s := valRat x + valRat y
    if s = 0 then (.zero (rm == .rdn), 0)
    else
      let p := encodeRat s f rm false r b
      (decodeVal f p.1, p.2)

/-- The exact product of two values; 0 × Inf is NaN with NV (02 R69). -/
def mulExact (x y : Val) : Val × Flg :=
  match x, y with
  | .nan, _ => (.nan, 0)
  | _, .nan => (.nan, 0)
  | .inf _, .zero _ => (.nan, fNV)
  | .zero _, .inf _ => (.nan, fNV)
  | .inf a, y => (.inf (a != valNeg y), 0)
  | x, .inf c => (.inf (valNeg x != c), 0)
  | .fin p, .fin q => (.fin (p * q), 0)
  | x, y => (.zero (valNeg x != valNeg y), 0)

/-- The exact sum of two values before rounding, with the sign rule of `add32` for zero (02 R69). -/
def addExact (x y : Val) (rm : Rm) : Val × Flg :=
  match x, y with
  | .nan, _ => (.nan, 0)
  | _, .nan => (.nan, 0)
  | .inf a, .inf c => if a == c then (.inf a, 0) else (.nan, fNV)
  | .inf a, _ => (.inf a, 0)
  | _, .inf c => (.inf c, 0)
  | .zero a, .zero c => (.zero ((a && c) || rm == .rdn), 0)
  | x, y => (ofRatSgn (rm == .rdn) (valRat x + valRat y), 0)

/-- The value a rounding into f leaves, with the flags (02 R63). -/
def roundVal (v : Val) (f : Fmt) (rm : Rm) (sat : Bool) (r b : Nat) : Val × Flg :=
  let p := encodeVal v f rm sat r b
  (decodeVal f p.1, p.2)

/-- `add32` as the array, the copy engine and the checksum lanes use it: RNE, no flags (02 R69). -/
def add32 (x y : Val) : Val := (addVal x y .fp32 .rne 0 0).1

/-- `rne32` (02 R69). -/
def rne32 (v : Val) : Val := (roundVal v .fp32 .rne false 0 0).1

/-- `fma32` under RNE without flags (02 R69). -/
def fma32 (x y z : Val) : Val :=
  match (mulExact x y).1 with
  | .nan => .nan
  | p => rne32 (addExact p z .rne).1

/-- `rescale` (02 R72). -/
def rescaleVal (x : Val) (n nv : Nat) : Val :=
  if nv = 0 then .zero false
  else match x with
    | .fin q => rne32 (.fin (q * (n : Rat) / (nv : Rat)))
    | v => v

/-- The running state of `block_sum` (02 R69). -/
structure BSum where
  p : Rat
  nan : Bool
  pinf : Bool
  ninf : Bool
  deriving DecidableEq, Repr

def bsumStep (s : BSum) (x y : Val) : BSum :=
  match x, y with
  | .nan, _ => { s with nan := true }
  | _, .nan => { s with nan := true }
  | .inf _, .zero _ => { s with nan := true }
  | .zero _, .inf _ => { s with nan := true }
  | .inf a, y => if a == valNeg y then { s with pinf := true } else { s with ninf := true }
  | x, .inf c => if valNeg x == c then { s with pinf := true } else { s with ninf := true }
  | x, y => { s with p := s.p + valRat x * valRat y }

/-- The exact inner sum of paired values, scaled by k and rounded once (02 R69, R74). -/
def sumProducts (xs ys : List Val) (k : Rat) : Val :=
  let s := (xs.zip ys).foldl (fun s p => bsumStep s p.1 p.2) { p := 0, nan := false, pinf := false, ninf := false }
  if s.nan || (s.pinf && s.ninf) then .nan
  else if s.pinf then .inf false
  else if s.ninf then .inf true
  else rne32 (ofRat (s.p * k))

/-- `block_sum` over decoded elements with their scale codes (02 R69). -/
def blockSum (a : List Val) (ga : Nat) (b : List Val) (gb : Nat) : Val :=
  match e8m0 ga, e8m0 gb with
  | some ka, some kb => sumProducts a b (ka * kb)
  | _, _ => .nan

/-- `chk_lanes`: the signed and the absolute lane (02 R73). -/
def chkLanes (xs : List Val) : Val × Val :=
  xs.foldl (fun p x => (add32 p.1 x, add32 p.2 (valAbs x))) (.zero false, .zero false)

/-- The comparison of 02 R75; a non-finite D, S or A passes (R77). tau and eps are the FP32 codes of the entry. -/
def laneOk (d s a : Val) (tau eps : Nat) : Bool :=
  if !(valIsFinite d && valIsFinite s && valIsFinite a) then true
  else (valRat d - valRat s).abs ≤ valRat (decodeVal .fp32 tau) * valRat a + valRat (decodeVal .fp32 eps)

/-- A value as its FP32 code; the code of a value that FP32 holds. -/
def code32 (v : Val) : Nat := (encodeVal v .fp32 .rne false 0 0).1

/-! ## Square roots (04 R133, 05 R157) -/

/-- Bits of the integer square root of n, from bit k - 1 down. -/
def isqrtGo (n : Nat) : Nat → Nat → Nat
  | 0, acc => acc
  | k + 1, acc => if (acc + 2 ^ k) * (acc + 2 ^ k) ≤ n then isqrtGo n k (acc + 2 ^ k) else isqrtGo n k acc

/-- floor(sqrt n) -/
def isqrt (n : Nat) : Nat := isqrtGo n (n.log2 / 2 + 1) 0

/-- A rational in the same cell as sqrt q for every grid of at most k fractional bits of sqrt q's own binade: exact when
the root is rational with that many bits, else the midpoint of the finest cell (used with k above any precision named). -/
def sqrtRep (q : Rat) (k : Nat) : Rat :=
  -- q = num / den; sqrt q = sqrt (num * den) / den
  let n := q.num.natAbs * q.den
  let t := isqrt (n * 4 ^ k)
  let base : Rat := (t : Rat) / (((2 ^ k : Nat) : Rat) * (q.den : Rat))
  if t * t = n * 4 ^ k then base
  else ((2 * t + 1 : Nat) : Rat) / (((2 ^ (k + 1) : Nat) : Rat) * (q.den : Rat))

end Sys2Proof.Machine
end

