-- ==== Sys2Proof/Machine/Operands.lean ====
section
/-!
DEFINITION. Operand forms: how the fields of a slot word become values (03 R88, R95 to R99; 04 R118 to R120; 05 R148 to R150;
07 R241 to R243), and the lanes of vector and mask registers.
-/
namespace Sys2Proof.Machine

/-! ## Scalar operands (04 R118, R120) -/

/-- The low n bits of a register. -/
def opLow (x : Ctx) (r : BitVec 6) (n : Nat) : Nat := (rdS x r.toNat).toNat % 2 ^ n

/-- Writes back an n-bit result y with the extension e: sign-extended or zero-extended to 64 bits (04 R118). -/
def extTo (sx : Bool) (n y : Nat) : Nat := if sx then wrapNat (sextInt y n) 64 else y % 2 ^ n

/-- The extension bits of forms SR and SI. -/
def srSx (o : SR) : Bool := o.f.getLsbD 2
def siSx (o : SI) : Bool := o.x.getLsbD 2

/-- The signed and the unsigned immediate of form SI, as n-bit patterns (04 R127). -/
def siSigned (o : SI) : Int := o.imm.toInt
def siUnsigned (o : SI) : Nat := o.imm.toNat

/-- A register field in the low bits of a wider field. -/
def low6 (r : BitVec 10) : Nat := (r.extractLsb' 0 6).toNat
def low4 (r : BitVec 10) : Nat := (r.extractLsb' 0 4).toNat

/-! ## Vector lanes (02 R49, 05 R148) -/

/-- Lane i of width w of a register value. -/
def laneAt (v w i : Nat) : Nat := (v >>> (w * i)) % 2 ^ w

/-- All lanes of width w. -/
def lanesOf (w : Nat) (v : Nat) : List Nat := (List.range (1024 / w)).map (laneAt v w)

/-- The register value that lanes of width w make. -/
def ofLanes (w : Nat) (l : List Nat) : Nat := l.foldr (fun x acc => acc * 2 ^ w + x % 2 ^ w) 0

/-- Whether element i of width w is active under a mask (05 R149). -/
def active (m : Mask) (w i : Nat) : Bool := m.getLsbD (w * i / 8)

/-- Inactive lanes keep the old value (05 R150). -/
def mergeLanes (m : Mask) (w : Nat) (old new : List Nat) : List Nat :=
  (List.range new.length).map (fun i => if active m w i then new.getD i 0 else old.getD i 0)

/-- A mask value that holds, for each element i of width w, the bit b i in the element's whole group; the shared bit of
two 4-bit elements is the OR of theirs (05 R149). -/
def maskFrom (w : Nat) (b : Nat → Bool) : Nat :=
  (List.range 128).foldr (fun j acc =>
    acc * 2 + (if w = 4 then b (2 * j) || b (2 * j + 1) else b (8 * j / w)).toNat) 0

/-- Lane values of a register of the context. -/
def vLanes (x : Ctx) (r w : Nat) : List Nat := lanesOf w (rdV x r).toNat

/-! ## Memory operands (03 R88, 07 R241 to R243) -/

/-- The stepped offset k × st × u (03 R88). -/
def stepOff (k : Int) (st : BitVec 8) (u : Nat) : Int := k * st.toInt * (u : Int)

/-- A 56-bit virtual address from a base register's value and an offset (07 R241). -/
def addr56 (base : Word) (off : Int) : Nat := (((base.toNat : Int) + off) % ((2 ^ 56 : Nat) : Int)).toNat

/-! ## Command objects (03 R97) -/

/-- The wait and signal objects of a command. -/
def sgWait (x : Ctx) (sg : BitVec 6) : Word := if sg = 0 then 0 else rdS x sg.toNat
def sgSignal (x : Ctx) (sg : BitVec 6) : Word := if sg = 0 then 0 else rdS x (sg.toNat + 1)

/-- The registers sg names. -/
def sgReads (sg : BitVec 6) : List RegId := if sg = 0 then [] else [.s sg.toNat, .s (sg.toNat + 1)]

/-- The handle index a register names, and its valid bit (04 R115). -/
def hIdx (w : Word) : Nat := bits w.toNat 11 0
def hValid (w : Word) : Bool := w.getLsbD 63

end Sys2Proof.Machine
end

