-- ==== Sys2Proof/Machine/Flags.lean ====
section
/-!
DEFINITION. Rounding modes and flags: FPCTL and FPFLAGS (02 R57 to R66), the random words of stochastic rounding (R60, R61),
and the counter-based generator (05 R174).
-/
namespace Sys2Proof.Machine

/-! ## FPCTL (02 R58) -/

def fpRm (x : Ctx) : Nat := (x.fpctl.extractLsb' 0 3).toNat
def fpSat (x : Ctx) : Bool := x.fpctl.getLsbD 3
def fpSrv (x : Ctx) : Nat := (x.fpctl.extractLsb' 4 10).toNat

/-- FPCTL after a write of v: reserved bits are ignored, and 5, 6 or 7 leaves rm unchanged (02 R58, 00 R10). -/
def fpctlWrite (old v : Word) : Word :=
  let w := v &&& 0x3FFF
  if 5 ≤ (w.extractLsb' 0 3).toNat then (w &&& 0x3FF8) ||| (old &&& 7) else w

/-- The mode of a scalar instruction: dynamic SR rounds RNE (02 R59, 04 R132). -/
def scalarMode (x : Ctx) (rm : BitVec 3) : Rm :=
  if rm.toNat = 7 then (if fpRm x = 4 then .rne else rmOfNat (fpRm x)) else rmOfNat rm.toNat

/-- The mode of a vector or transform operation (02 R57). -/
def vecMode (x : Ctx) (rm : BitVec 3) : Rm := if rm.toNat = 7 then rmOfNat (fpRm x) else rmOfNat rm.toNat

/-- The vector register that an operation rounding in mode m reads for its random words (02 R60). -/
def srReads (x : Ctx) (m : Rm) : List RegId := if m = .sr then [.v (fpSrv x)] else []

/-- Bits of each random word where n elements are rounded (02 R60). -/
def srBits (n : Nat) : Nat := min 16 (1024 / n)

/-- The random words of n elements (02 R60); zeros where the mode is not SR. -/
def srWords (x : Ctx) (m : Rm) (n : Nat) : List Nat :=
  if m = .sr then (List.range n).map (fun i => laneAt (rdV x (fpSrv x)).toNat (srBits n) i) else List.replicate n 0

/-! ## FPFLAGS (02 R65, R66) -/

/-- ORs flags raised at an issue into FPFLAGS. -/
def raiseFlags (x : Ctx) (fl : Flg) : Ctx := { x with fpflags := x.fpflags ||| fl }

/-- The union of the flags of active lanes. -/
def flagsOf (l : List Flg) : Flg := l.foldl (fun a b => a ||| b) 0

/-! ## The generator (05 R174) -/

/-- One mixing round on (x0, x1, x2, x3) with keys. -/
def mixRound (t : Nat × Nat × Nat × Nat) (k0 k1 : Nat) : Nat × Nat × Nat × Nat :=
  let p := 0xD2511F53 * t.1
  let q := 0xCD9E8D57 * t.2.2.1
  ((q / 2 ^ 32) ^^^ t.2.1 ^^^ k0, q % 2 ^ 32, (p / 2 ^ 32) ^^^ t.2.2.2 ^^^ k1, p % 2 ^ 32)

/-- Ten rounds. -/
def mixRounds : Nat → Nat × Nat × Nat × Nat → Nat → Nat → Nat × Nat × Nat × Nat
  | 0, t, _, _ => t
  | n + 1, t, k0, k1 => mixRounds n (mixRound t k0 k1) ((k0 + 0x9E3779B9) % 2 ^ 32) ((k1 + 0xBB67AE85) % 2 ^ 32)

/-- The 128-bit block of counter c under a 64-bit key. -/
def randBlock (c key : Nat) : Nat :=
  let t := mixRounds 10 (c % 2 ^ 32, c / 2 ^ 32 % 2 ^ 32, c / 2 ^ 64 % 2 ^ 32, c / 2 ^ 96 % 2 ^ 32) (key % 2 ^ 32) (key / 2 ^ 32 % 2 ^ 32)
  t.1 + t.2.1 * 2 ^ 32 + t.2.2.1 * 2 ^ 64 + t.2.2.2 * 2 ^ 96

/-- The random word of a tile element for the copy engine and the drain unit: the low 16 bits of the generator keyed by the
command, with the element's byte offset within its tile as the counter (02 R61). -/
def engineRandom (key off : Nat) : Nat := randBlock off key % 2 ^ 16

end Sys2Proof.Machine
end

