-- ==== Sys2Proof/Machine/Issue.lean ====
section
/-!
DEFINITION. One issue of a bundle (03 R83 to R86, 06 R205): how slot operations are presented together, the order of holds,
failures, blocks and traps, and the commit of what they write. Every slot operation is a `SlotOp`; `issueAlone` executes
one on its own, and the presentation of a bundle executes several through the same `present`.
-/
namespace Sys2Proof.Machine

/-! ## Slot operations -/

/-- What an operation's execution answers: the state with its effects, the interlocked register results it writes and the
flags it raises; a trap; or a wait. -/
inductive OpRes where
  | ok (s : State) (ws : List (RegId × Nat)) (fl : Flg)
  | trap (t : TrapC)
  /-- An earlier operation of the same issue must be performed first: the bundle blocks, or is held where there is no
  reason (log 93). -/
  | wait (w : Option BlockWhy)

/-- What an operation does after its bundle (04 R138). -/
inductive PostRes where
  | ok (s : State)
  | trap (t : TrapC)

/-- A slot operation. Functions of a context read its registers as they stand at the start of the issue (03 R84). -/
structure SlotOp where
  /-- Registers read, in field order. -/
  reads : Ctx → List RegId
  /-- Registers written, in field order. -/
  writes : List RegId
  /-- The stream of a memory operation (13 R423). -/
  stream : Option Nat
  /-- Current weight (13 R449). -/
  weight : Nat
  /-- ILLEGAL_OP found from register values, reported in the decode position (03 R106); the state holds the records that
  reading a poisoned table entry makes (12 R389). -/
  illReg : Iss → State → Ctx → Option (State × TrapC)
  /-- PRIV at decode (06 R186), for named words, squashed or not. -/
  priv : Ctx → Option TrapC
  /-- ABSENT_UNIT (00 R7). -/
  absent : Iss → State → Ctx → Option TrapC
  /-- Held failures it consumes besides those of the registers it reads (06 R204). -/
  consumes : Ctx → Failure → Bool
  /-- Why it blocks (01 R29). -/
  block : Iss → State → Ctx → Option BlockWhy
  /-- Whether it acts by the time at which its bundle is first presented (13 R455). -/
  timed : Bool
  /-- What it does at a presentation even where the bundle then blocks (13 R444). -/
  early : Iss → State → Ctx → State
  /-- The mask of an operation of which a part is performed while its bundle blocks, with the reason: an operation of a lower slot
  of the same issue in the mask is earlier (03 R85) and not performed before the issue, so that the bundle stays blocked
  (08 R258; log 93). -/
  after : Option (BitVec 16 × BlockWhy)
  /-- Whether its bundle is held with the core kept (01 R29): a check hold (13 R428), the hold of `qflush` (10 R342). -/
  hold : Iss → State → Ctx → Bool
  /-- What it does as its hold begins (10 R342). -/
  begins : Iss → State → Ctx → State
  /-- Its effects. -/
  run : Iss → Ctx → State → OpRes
  /-- What follows the bundle's last issue. -/
  post : Iss → Ctx → State → PostRes

/-- An operation without a stream, a privilege or a block. -/
def plainOp (reads : Ctx → List RegId) (writes : List RegId) (weight : Nat) (run : Iss → Ctx → State → OpRes) : SlotOp :=
  { reads := reads, writes := writes, stream := none, weight := weight, illReg := fun _ _ _ => none, priv := fun _ => none, absent := fun _ _ _ => none,
    consumes := fun _ _ => false, block := fun _ _ _ => none, timed := false, early := fun _ s _ => s, after := none, hold := fun _ _ _ => false, begins := fun _ s _ => s, run := run, post := fun _ _ s => .ok s }

/-- An operation that computes register results and flags from its context alone. -/
def pureOp (reads : Ctx → List RegId) (writes : List RegId) (weight : Nat) (f : Ctx → List (RegId × Nat) × Flg) : SlotOp :=
  plainOp reads writes weight (fun _ x s => let r := f x; .ok s r.1 r.2)

/-- An operation of an issue: its slot and step count, the word that becomes sticky, the operation. -/
structure IssOp where
  slot : Nat
  k : Int
  word : Word
  so : SlotOp

/-! ## Checks in the order of 06 R205 -/

/-- The first answer of a list of checks. -/
def firstSome {α β : Type} (f : α → Option β) : List α → Option β
  | [] => none
  | a :: rest => match f a with
    | some b => some b
    | none => firstSome f rest

/-- A register counted by case 8 of 03 R82: writes that are discarded do not count (04 R117). -/
def counted (l : List RegId) : List RegId := l.filter (fun r => !discards r)

/-- Whether two operations write the same register (03 R82 case 8). -/
def clash : List IssOp → Bool
  | [] => false
  | o :: rest => rest.any (fun p => (counted o.so.writes).any (fun r => (counted p.so.writes).contains r)) || clash rest

/-- Whether an interlocked write of one of the registers is still pending without its value (03 R93). -/
def heldOn (x : Ctx) (rs : List RegId) : Bool := x.pend.any (fun p => p.val.isNone && rs.contains p.reg)

/-- Results still to come: what a trap waits for (06 R208, 04 R121). -/
def unfinished (x : Ctx) : Bool := x.pend.any (fun p => p.val.isNone) || x.land.any (fun l => l.wait.isSome)

/-- A landing that traps POISON at this issue (05 R177). -/
def poisonDue (x : Ctx) : Option Landing := x.land.find? (fun l => l.poison && decide (l.vis ≤ x.pos))

/-- A due landing whose data is not there yet: freeze cycles are inserted (05 R177). -/
def lateDue (x : Ctx) : Bool := x.land.any (fun l => l.wait.isSome && decide (l.vis ≤ x.pos))

/-- Whether an operation consumes a held failure (06 R204). -/
def consumesF (x : Ctx) (o : IssOp) (f : Failure) : Bool :=
  f.regs.any (fun r => (o.so.reads x).contains r) || o.so.consumes x f

/-- The consumed failure with the smallest sequence number (06 R205). -/
def dueFailure (x : Ctx) (ops : List IssOp) : Option Failure :=
  (x.fails.filter (fun f => ops.any (fun o => consumesF x o f))).foldl (fun b f => match b with
    | none => some f
    | some g => if f.seq < g.seq then some f else some g) none

/-! ## Streams (13 R424, R425) -/

/-- The limit of STREAMCFG: 0 means 63. -/
def streamLim (x : Ctx) : Nat := let l := (x.streamCfg.extractLsb' 8 6).toNat; if l = 0 then 63 else l
def streamTrap (x : Ctx) : Bool := x.streamCfg.getLsbD 0

/-- Memory operations of an issue on stream j. -/
def streamK (ops : List IssOp) (j : Nat) : Nat := (ops.filter (fun o => o.so.stream == some j)).length

/-- Whether stream j passes its limit. -/
def passes (x : Ctx) (ops : List IssOp) (j : Nat) : Bool :=
  let k := streamK ops j
  let c := smGet x.cnt j 0
  if k = 0 then false else if streamLim x < k then decide (0 < c) else decide (streamLim x < c + k)

/-- The lowest-numbered stream that passes. -/
def passing (x : Ctx) (ops : List IssOp) : Option Nat := (List.range 16).find? (passes x ops)

/-! ## Weights (13 R449, R450) -/

def issueWeight (ops : List IssOp) : Nat := 2 + (ops.map (fun o => o.so.weight)).sum

/-- Sum of a core's weights over the previous n cycles. -/
def weightSum (y : Core) (now n : Nat) : Nat := ((y.weights.filter (fun p => decide (now < p.1 + n + 1))).map (·.2)).sum

/-- Eight regions of ten clusters (13 R450; log 21). -/
def regionOf (cl : Nat) : Nat := cl / 10

/-- CUR_LIMIT as it stands: forced to 48 under a thermal throttle (17 R476, R477). -/
def limitOf (s : State) (y : Core) : Nat := if s.dev.throttle then 48 else y.curLimit

/-- Whether the droop alarm's freeze, not the limit's, stands over a cluster (13 R450). -/
def alarmFreeze (s : State) (cl : Nat) : Bool :=
  (smFind s.dev.alarms (regionOf cl)).isSome || decide (s.cyc < smGet s.dev.freezeUntil (regionOf cl) 0)

/-- Whether the next cycle of a core must be a freeze cycle for an issue of weight w. -/
def mustFreeze (s : State) (x : Ctx) (w : Nat) : Bool :=
  let y := getCore s x.id.cl x.id.core
  lateDue x || alarmFreeze s x.id.cl || decide (limitOf s y < weightSum y s.cyc 15 + w)

/-- Notes an issue's weight. -/
def noteWeight (s : State) (x : Ctx) (w : Nat) : State :=
  modCore s x.id.cl x.id.core (fun y => { y with weights := (s.cyc, w) :: y.weights.filter (fun p => decide (s.cyc < p.1 + 16)) })

/-! ## Registers at the start of an issue -/

/-- The registers that pending results and due landings write now. -/
def settling (x : Ctx) : List RegId :=
  (readyPend [] x.pend).map (·.reg)
    ++ (x.land.filter (landsAt x.pos)).filterMap (fun l => l.vreg.map RegId.v)

/-- The context with its ready results written and its due landings landed. -/
def settled (x : Ctx) : Ctx := landDue (flushPend x)

/-- As `settled`, with the groups saved first; none where a frame cannot be written. -/
def settle (s : State) (x : Ctx) : Option (State × Ctx) :=
  match saveGroups s x (groupsOf (settling x)) with
  | none => none
  | some (s1, x1) => some (s1, settled x1)

/-! ## Execution -/

/-- The first vector register an operation names outside the window (05 R146). -/
def outside (x : Ctx) (o : SlotOp) : Option Nat :=
  (o.writes ++ o.reads x).findSome? (fun r => match r with
    | .v n => if x.win ≤ n then some n else none
    | _ => none)

/-- STREAM_EXHAUST of an operation on a stream that passes. -/
def exhaust (x : Ctx) (ops : List IssOp) (o : SlotOp) : Option TrapC :=
  match o.stream with
  | none => none
  | some j => if streamTrap x && passes x ops j then
      some { cause := 11, sub := 0, reg := (passing x ops).getD j, addr := 0 } else none

/-- Where an operation of an issue stands. -/
def issOf (o : IssOp) (len : Nat) : Iss := { slot := o.slot, k := o.k, len := len }

/-- One operation: its checks and effects, in the order of causes of 06 R205 step 4. -/
def runOne (x : Ctx) (ops : List IssOp) (len : Nat) (o : IssOp) (s : State) : OpRes :=
  match outside x o.so with
  | some n => .trap { cause := 5, sub := 0, reg := n, addr := 0 }
  | none =>
    match o.so.run (issOf o len) x s, exhaust x ops o.so with
    | .wait w, _ => .wait w
    | .ok s1 ws fl, none => .ok s1 ws fl
    | .ok _ _ _, some e => .trap e
    | .trap t, none => .trap t
    | .trap t, some e => if t.cause < 11 then .trap t else .trap e

/-- The outcome of running the operations of an issue. -/
inductive RunRes where
  | ok (s : State) (ws : List (RegId × Nat)) (fl : Flg)
  | trap (slot : Nat) (t : TrapC)
  | wait (slot : Nat) (w : Option BlockWhy)

/-- Runs the operations in increasing slot index; the first trap or wait ends the run. -/
def runAll (x : Ctx) (all : List IssOp) (len : Nat) : List IssOp → State → List (RegId × Nat) → Flg → RunRes
  | [], s, ws, fl => .ok s ws fl
  | o :: rest, s, ws, fl =>
    match runOne x all len o s with
    | .trap t => .trap o.slot t
    | .wait w => .wait o.slot w
    | .ok s1 ws1 fl1 => runAll x all len rest s1 (ws ++ ws1) (fl ||| fl1)

/-- Writes the interlocked results of an issue at position pos (03 R93, R94). -/
def commitRegs (x : Ctx) (ws : List (RegId × Nat)) : Ctx :=
  ws.foldl (fun y w => wrReg (supersede y w.1 (x.pos + 1)) w.1 w.2) x

/-- A sticky slot's state after its operation (03 R83): `nop` clears it. -/
def stickyAfter (m : SMap Sticky) (slot : Nat) (w : Word) (k : Int) : SMap Sticky :=
  if 3 ≤ slot && slot ≤ 9 then
    (if wordOp w = 0 then smDel m slot else smPut m slot { word := w &&& 0x1FFF_FFFF_FFFF_FFFF, k := k })
  else m

/-- What a bundle's presentation needs: decode traps found, the named words' operations, those that execute in this issue,
its length in bytes, the sticky state and the repeat state after it, and whether it is the last issue of a whole bundle. -/
structure Issue where
  bad : Option TrapT
  named : List IssOp
  exec : List IssOp
  len : Nat
  sticky : SMap Sticky
  rep : Option Rep
  last : Bool
  /-- Whether the program counter moves past the bundle when no BR operation stands in it. -/
  advance : Bool

/-- The context after the issue: flags, position, counts, sticky and repeat state. -/
def afterIssue (x : Ctx) (b : Issue) (fl : Flg) : Ctx :=
  let y := raiseFlags x fl
  { y with pos := y.pos + 1, sticky := b.sticky, rep := b.rep, status := .ready, blockedFor := 0, fifoFor := 0,
           leaseFor := 0, leaseNoted := false, sleepAt := none }

/-- The next bundle in sequence (03 R81, 04 R116). -/
def nextPc (x : Ctx) (len : Nat) : BitVec 48 := x.pc + BitVec.ofNat 48 len

/-- What follows the bundle: the BR operation's effect, or the next bundle. -/
def finish (s : State) (c : CtxId) (x : Ctx) (b : Issue) : PostRes :=
  if !b.last then .ok s
  else match b.exec.find? (fun o => o.slot == 0) with
    | some o => o.so.post (issOf o b.len) x s
    | none => if b.advance then .ok (modCtx s c (fun y => { y with pc := nextPc x b.len })) else .ok s

/-- How a presentation ends (06 R205). -/
inductive Present where
  | hold (s : State)
  | freeze (s : State)
  | blocked (s : State) (w : List (Nat × BlockWhy))
  | act (s : State)

/-- Takes a trap, once every interlocked result has come (06 R208); until then the presentation is held. -/
def trapNow (s : State) (x : Ctx) (t : TrapT) : Present :=
  if x.lvl < 2 && unfinished x then .hold s else .act (takeTrap s x.id t x.pc)

/-- The issue itself: causes of execution, effects, commit. -/
def issue (s : State) (x : Ctx) (b : Issue) : Present :=
  match settle s x with
  | none => .act (stopAndPurge s x)
  | some (s1, x1) =>
    match runAll x1 b.exec b.len b.exec (putCtx s1 x1) [] 0 with
    | .trap slot t => trapNow s x (trapB slot t)
    | .wait slot (some w) => .blocked s [(slot, w)]
    | .wait _ none => .hold s
    | .ok s2 ws fl =>
      match getCtx s2 x.id with
      | none => .act s2
      | some y =>
        match saveGroups s2 y (groupsOf (ws.map (·.1))) with
        | none => .act (stopAndPurge s x)
        | some (s3, y3) =>
          let s4 := noteWeight (putCtx s3 (afterIssue (commitRegs y3 ws) b fl)) x (issueWeight b.exec)
          match finish s4 x.id x1 b with
          | .ok s5 => .act s5
          | .trap t => trapNow s x (trapB 0 t)

/-- Whether an operation that acts before its issue waits for one of a lower slot of the same issue (03 R85, 08 R258). -/
def waitsInside (l : List IssOp) (o : IssOp) : Bool :=
  match o.so.after with
  | none => false
  | some m => l.any (fun p => decide (p.slot < o.slot) && (match p.so.stream with
      | some j => m.1.getLsbD j
      | none => false))

/-- Why such an operation blocks its bundle. -/
def blocksInside (l : List IssOp) (o : IssOp) : Option BlockWhy :=
  if waitsInside l o then o.so.after.map (·.2) else none

/-- What an operation does at a presentation even where its bundle blocks, unless it waits for one of the same issue. -/
def earlyStep (b : Issue) (x : Ctx) (s : State) (o : IssOp) : State :=
  if waitsInside b.exec o then s else o.so.early (issOf o b.len) s x

/-- Reasons an issue blocks (01 R29, 13 R425). -/
def blocksOf (s : State) (x : Ctx) (b : Issue) : List (Nat × BlockWhy) :=
  b.exec.filterMap (fun o => ((o.so.block (issOf o b.len) s x).or (blocksInside b.exec o)).map (fun w => (o.slot, w)))
    ++ (if streamTrap x then [] else match passing x b.exec with
        | none => []
        | some j => [(((b.exec.find? (fun o => o.so.stream == some j)).map (·.slot)).getD 15, BlockWhy.streamLimit)])

/-- The slots whose register values are looked at before the decode trap found: those before an ILLEGAL_OP's slot. -/
def badSlot (t : Option TrapT) : Nat :=
  match t with
  | none => 16
  | some u => if u.cause = 2 then u.info.toNat % 16 else 0

/-- An operation's ILLEGAL_OP found from its registers; an operand still on its way is waited for first. -/
def regBad (s : State) (x : Ctx) (len : Nat) (o : IssOp) : Option (State × TrapT) :=
  if heldOn x (o.so.reads x) then none
  else (o.so.illReg (issOf o len) s (settled x)).map (fun r => (r.1, trapB o.slot r.2))

/-- Absence of an operation's unit (00 R7); an operand still on its way is waited for first (03 R93). -/
def absentNow (s : State) (x : Ctx) (len : Nat) (o : IssOp) : Option TrapT :=
  if heldOn x (o.so.reads x) then none else (o.so.absent (issOf o len) s (settled x)).map (trapB o.slot)

/-- Whether an operation holds its bundle. -/
def holdsNow (b : Issue) (s : State) (x : Ctx) (o : IssOp) : Bool := o.so.hold (issOf o b.len) s x

/-- What an operation does as its hold begins. -/
def beginHold (b : Issue) (x : Ctx) (s : State) (o : IssOp) : State := o.so.begins (issOf o b.len) s x

/-- The first presentation of a bundle notes its time where an operation that it names asks for it (13 R455). -/
def firstSeen (s : State) (x : Ctx) (b : Issue) : State × Ctx :=
  if b.named.any (fun o => o.so.timed) && x.sleepAt.isNone then
    (modCtx s x.id (fun y => { y with sleepAt := some (devNs s) }), { x with sleepAt := some (devNs s) })
  else (s, x)

/-- A presentation whose time is noted (06 R205). Case 8 of 03 R82 is tested after PRIV and before the holds: 03 R106 places
cases 1 to 7 alone (log 94). -/
def presentNoted (s : State) (x : Ctx) (b : Issue) : Present :=
  match firstSome (regBad s x b.len) (b.exec.filter (fun o => o.slot < badSlot b.bad)) with
  | some r => trapNow r.1 x r.2
  | none =>
  match b.bad with
  | some t => trapNow s x t
  | none =>
  match firstSome (absentNow s x b.len) b.exec with
  | some t => trapNow s x t
  | none =>
  match firstSome (fun o => (o.so.priv x).map (trapB o.slot)) b.named with
  | some t => trapNow s x t
  | none =>
  if clash b.exec then trapNow s x { cause := 1, info := infoB 15 8 0, addr := 0 }
  else if b.exec.any (fun o => heldOn x (o.so.reads x)) then .hold s
  else match poisonDue x with
  | some l =>
    if x.lvl < 2 && unfinished x then .hold s
    else
      let s1 := putCtx s { x with land := x.land.erase l }
      .act (takePoison s1 x.id l.units { cause := 10, info := infoB 6 0 0, addr := BitVec.ofNat 64 l.addr } x.pc)
  | none => match dueFailure x b.exec with
    | some f => if x.lvl < 2 && unfinished x then .hold s else .act (takeFailure s x.id f)
    | none =>
      let s1 := b.exec.foldl (earlyStep b (settled x)) s
      match blocksOf s1 (settled x) b with
      | w :: ws => .blocked s1 (w :: ws)
      | [] =>
        if b.exec.any (holdsNow b s1 (settled x)) then .hold (b.exec.foldl (beginHold b (settled x)) s1)
        else if mustFreeze s1 x (issueWeight b.exec) then .freeze s1 else issue s1 x b

/-- Presents an issue of the context x (06 R205). -/
def present (s : State) (x : Ctx) (b : Issue) : Present := presentNoted (firstSeen s x b).1 (firstSeen s x b).2 b

/-- The cycles of the n that begin now in which the droop alarm freezes a cluster (13 R450). -/
def alarmCycles (s : State) (n cl : Nat) : Nat :=
  if (smFind s.dev.alarms (regionOf cl)).isSome then n else min n (smGet s.dev.freezeUntil (regionOf cl) 0 - s.cyc)

/-- Cycles that freeze a core are counted in FREEZE_COUNT (13 R452). -/
def addFreeze (n : Nat) (y : Core) : Core := { y with freeze := y.freeze + BitVec.ofNat 48 n }

/-- A freeze cycle of the current limit is counted, at both halves of a joined pair (13 R450, R452). Those of an alarm are
counted as time passes, and one that waits for a late landing (05 R177) is of neither cause. -/
def countFreeze (s : State) (x : Ctx) : State :=
  if lateDue x || alarmFreeze s x.id.cl then s
  else
    let s1 := modCore s x.id.cl x.id.core (addFreeze 1)
    if x.joined then modCore s1 x.id.cl (x.id.core + 1) (addFreeze 1) else s1

/-- A blocked bundle gives up the core: the search for the next context starts after it (01 R30). -/
def giveUp (s : State) (x : Ctx) : State :=
  modCore s x.id.cl x.id.core (fun y => { y with cur := (x.id.ctx + 1) % 4 })

/-- The state after a presentation. -/
def presented (x : Ctx) (p : Present) : State :=
  match p with
  | .hold s => s
  | .freeze s => countFreeze s x
  | .blocked s w => giveUp (modCtx s x.id (fun y => { y with status := .blocked w })) x
  | .act s => s

/-! ## One operation on its own -/

/-- The slot an operation on its own stands in: the one asked for where it is of the operation's class. -/
def slotFor (i : Instr) (j : Nat) : Nat :=
  match i with
  | .nop t => slotIdx t
  | _ => match slotOf i with
    | none => j
    | some t => if j ≤ 10 ∧ classOf (slotOfIdx j) = classOf t then j else slotIdx t

/-- A slot operation decoded into an operation of an issue, at the slot and step count the state names. -/
def issueOf (i : Instr) (so : SlotOp) (s : State) (x : Ctx) (adv : Bool) : Issue :=
  let w := encodeWord i
  let j := slotFor i s.iss.slot
  let o : IssOp := { slot := j, k := s.iss.k, word := w, so := so }
  { bad := (illegal i).map (fun sub => { cause := 2, info := infoB j sub 0, addr := 0 }),
    named := [o], exec := [o], len := s.iss.len, sticky := stickyAfter x.sticky j w s.iss.k, rep := x.rep,
    last := true, advance := adv }

/-- Executes one slot operation on its own, by the context `State.cur` at the slot that `State.iss` names: the issue of a
bundle that holds it alone, without the move to the next bundle, which belongs to the bundle. -/
def issueAlone (i : Instr) (so : SlotOp) (s : State) : Host.Outcome State Fault Refusal :=
  match getCtx s s.cur with
  | none => .refused (.notEnabled "slot operation")
  | some x => .next (presented x (present s x (issueOf i so s x false)))

end Sys2Proof.Machine
end

