-- ==== Sys2Proof/Machine/Scalar.lean ====
section
/-!
DEFINITION. The integer instructions of the scalar slots SA and SB (04 R118 to R131). Each result function computes the
n-bit value y of its table row from the low n bits of the sources; the shared operations extend and write it.
-/
namespace Sys2Proof.Machine

/-! ## Result functions (04 R122 to R126) -/

def yAdd (n a b : Nat) : Nat := (a + b) % 2 ^ n
def ySub (n a b : Nat) : Nat := wrapNat ((a : Int) - (b : Int)) n
def yMul (n a b : Nat) : Nat := (a * b) % 2 ^ n
/-- Bits [2n−1:n] of the signed product. -/
def yMulh (n a b : Nat) : Nat := wrapNat (sextInt a n * sextInt b n / ((2 ^ n : Nat) : Int)) n
def yMulhz (n a b : Nat) : Nat := a * b / 2 ^ n
def yAnd (_ a b : Nat) : Nat := a &&& b
def yOr (_ a b : Nat) : Nat := a ||| b
def yXor (_ a b : Nat) : Nat := a ^^^ b
/-- A and not B, in n bits. -/
def yAndn (n a b : Nat) : Nat := a &&& (2 ^ n - 1 - b)
def yShl (n a b : Nat) : Nat := (a <<< (b % n)) % 2 ^ n
def yShr (n a b : Nat) : Nat := a >>> (b % n)
def ySar (n a b : Nat) : Nat := wrapNat (sextInt a n >>> (b % n)) n
def yRot (n a b : Nat) : Nat := ((a <<< (b % n)) ||| (a >>> (n - b % n))) % 2 ^ n
def yMin (n a b : Nat) : Nat := if sextInt a n ≤ sextInt b n then a else b
def yMax (n a b : Nat) : Nat := if sextInt a n ≤ sextInt b n then b else a
def yMinz (_ a b : Nat) : Nat := min a b
def yMaxz (_ a b : Nat) : Nat := max a b

/-- Division truncates toward zero and never traps (04 R123). -/
def yDiv (n a b : Nat) : Nat :=
  if b = 0 then 2 ^ n - 1
  else if sextInt a n = -((2 ^ (n - 1) : Nat) : Int) ∧ sextInt b n = -1 then a
  else wrapNat (Int.tdiv (sextInt a n) (sextInt b n)) n
def yRem (n a b : Nat) : Nat :=
  if b = 0 then a
  else if sextInt a n = -((2 ^ (n - 1) : Nat) : Int) ∧ sextInt b n = -1 then 0
  else wrapNat (Int.tmod (sextInt a n) (sextInt b n)) n
def yDivz (n a b : Nat) : Nat := if b = 0 then 2 ^ n - 1 else a / b
def yRemz (_ a b : Nat) : Nat := if b = 0 then a else a % b

/-- One-source functions (04 R124). -/
def yAbs (n a : Nat) : Nat := wrapNat (sextInt a n).natAbs n
def yClz (n a : Nat) : Nat := if a = 0 then n else n - 1 - a.log2
/-- Trailing zero bits below bit i. -/
def ctzGo (a : Nat) : Nat → Nat → Nat
  | 0, i => i
  | k + 1, i => if a.testBit i then i else ctzGo a k (i + 1)
def yCtz (n a : Nat) : Nat := ctzGo a n 0
def yPopc (n a : Nat) : Nat := ((List.range n).filter (fun i => a.testBit i)).length

/-- Bit fields (04 R125). -/
def ySext (n p a : Nat) : Nat := wrapNat (sextInt a (p + 1)) n
def yBfx (n p l a : Nat) : Nat := wrapNat (sextInt (a >>> p) l) n
def yBfxz (p l a : Nat) : Nat := (a >>> p) % 2 ^ l
def yBfi (n p l a d : Nat) : Nat := (d - (d >>> p) % 2 ^ l * 2 ^ p + a % 2 ^ l * 2 ^ p) % 2 ^ n
def yLea (n sh a b : Nat) : Nat := (a + b <<< sh) % 2 ^ n

/-! ## Shared operations -/

/-- The registers forms SR and SI name. -/
def rD (o : SR) : RegId := .s o.d.toNat
def rA (o : SR) : RegId := .s o.a.toNat
def rB (o : SR) : RegId := .s o.b.toNat

/-- A two-source integer instruction (04 R118, R122). -/
def int2 (o : SR) (y : Nat → Nat → Nat → Nat) : SlotOp :=
  pureOp (fun _ => [rA o, rB o]) [rD o] 1
    (fun x => ([(rD o, extTo (srSx o) (srN o) (y (srN o) (opLow x o.a (srN o)) (opLow x o.b (srN o))))], 0))

/-- A one-source integer instruction (04 R118, R124). -/
def int1 (o : SR) (y : Nat → Nat → Nat) : SlotOp :=
  pureOp (fun _ => [rA o]) [rD o] 1
    (fun x => ([(rD o, extTo (srSx o) (srN o) (y (srN o) (opLow x o.a (srN o))))], 0))

/-- An instruction with a signed or unsigned immediate (04 R127). -/
def intI (o : SI) (y : Nat → Nat → Nat) : SlotOp :=
  pureOp (fun _ => [.s o.a.toNat]) [.s o.d.toNat] 1
    (fun x => ([(.s o.d.toNat, extTo (siSx o) (siN o) (y (siN o) (opLow x o.a (siN o))))], 0))

/-! ## Comparisons (04 R130, R131) -/

/-- The comparison codes. -/
def condHolds (c n a b : Nat) : Bool :=
  match c with
  | 0 => a == b
  | 1 => a != b
  | 2 => sextInt a n < sextInt b n
  | 3 => sextInt b n ≤ sextInt a n
  | 4 => sextInt a n ≤ sextInt b n
  | 5 => sextInt b n < sextInt a n
  | 6 => a < b
  | 7 => b ≤ a
  | 8 => a ≤ b
  | _ => b < a

/-- The operations of `cset`. -/
def csetHolds (c : Nat) (a b : Bool) : Bool :=
  match c with
  | 0 => a && b
  | 1 => a || b
  | 2 => a != b
  | 3 => a && !b
  | 4 => a || !b
  | 5 => !(a && b)
  | 6 => !(a || b)
  | 7 => a == b
  | 8 => a
  | _ => !a

/-! ## The instructions -/

def opAdd (o : SR) : SlotOp := int2 o yAdd
def opSub (o : SR) : SlotOp := int2 o ySub
def opMul (o : SR) : SlotOp := int2 o yMul
def opMulh (o : SR) : SlotOp := int2 o yMulh
def opMulhz (o : SR) : SlotOp := int2 o yMulhz
def opDiv (o : SR) : SlotOp := int2 o yDiv
def opDivz (o : SR) : SlotOp := int2 o yDivz
def opRem (o : SR) : SlotOp := int2 o yRem
def opRemz (o : SR) : SlotOp := int2 o yRemz
def opAnd (o : SR) : SlotOp := int2 o yAnd
def opOr (o : SR) : SlotOp := int2 o yOr
def opXor (o : SR) : SlotOp := int2 o yXor
def opAndn (o : SR) : SlotOp := int2 o yAndn
def opShl (o : SR) : SlotOp := int2 o yShl
def opShr (o : SR) : SlotOp := int2 o yShr
def opSar (o : SR) : SlotOp := int2 o ySar
def opRot (o : SR) : SlotOp := int2 o yRot
def opMin (o : SR) : SlotOp := int2 o yMin
def opMax (o : SR) : SlotOp := int2 o yMax
def opMinz (o : SR) : SlotOp := int2 o yMinz
def opMaxz (o : SR) : SlotOp := int2 o yMaxz
def opAbs (o : SR) : SlotOp := int1 o yAbs
def opClz (o : SR) : SlotOp := int1 o yClz
def opCtz (o : SR) : SlotOp := int1 o yCtz
def opPopc (o : SR) : SlotOp := int1 o yPopc
def opSext (o : SR) : SlotOp := int1 o (fun n a => ySext n (srPos o) a)
def opBfx (o : SR) : SlotOp := int1 o (fun n a => yBfx n (srPos o) (srLen o) a)
def opBfxz (o : SR) : SlotOp := int1 o (fun _ a => yBfxz (srPos o) (srLen o) a)
/-- `bfi` reads its destination as a source. -/
def opBfi (o : SR) : SlotOp :=
  pureOp (fun _ => [rD o, rA o]) [rD o] 1
    (fun x => ([(rD o, extTo (srSx o) (srN o)
      (yBfi (srN o) (srPos o) (srLen o) (opLow x o.a (srN o)) (opLow x o.d (srN o))))], 0))
def opLea (o : SR) : SlotOp := int2 o (fun n a b => yLea n (o.x.extractLsb' 0 3).toNat a b)
def opAddi (o : SI) : SlotOp := intI o (fun n a => wrapNat ((a : Int) + siSigned o) n)
def opAndi (o : SI) : SlotOp := intI o (fun n a => a &&& (siUnsigned o % 2 ^ n))
def opOri (o : SI) : SlotOp := intI o (fun n a => a ||| (siUnsigned o % 2 ^ n))
def opXori (o : SI) : SlotOp := intI o (fun n a => a ^^^ (siUnsigned o % 2 ^ n))
/-- `movi` writes the immediate extended by x[2]. -/
def opMovi (o : SI) : SlotOp :=
  pureOp (fun _ => []) [.s o.d.toNat] 1 (fun _ => ([(.s o.d.toNat, extTo (siSx o) 32 (siUnsigned o))], 0))
/-- `movhi` keeps the low word of its destination. -/
def opMovhi (o : SI) : SlotOp :=
  pureOp (fun _ => [.s o.d.toNat]) [.s o.d.toNat] 1
    (fun x => ([(.s o.d.toNat, siUnsigned o * 2 ^ 32 + opLow x o.d 32)], 0))
def opCmpi (o : SI) : SlotOp :=
  pureOp (fun _ => [.s o.a.toNat]) [.c o.d.toNat] 1
    (fun x => ([(.c o.d.toNat, (condHolds (o.x.extractLsb' 4 4).toNat (siN o) (opLow x o.a (siN o))
      (wrapNat (siSigned o) (siN o))).toNat)], 0))

/-- The condition registers c1 to c15. -/
def ccRegs : List RegId := (List.range 15).map (fun i => .c (i + 1))

/-- What `mov` reads, by source class (04 R128). -/
def movSrc (o : SR) : List RegId :=
  match srMovA o with
  | 0 => [rA o]
  | 1 => [.c o.a.toNat]
  | 2 => [.h o.a.toNat]
  | _ => ccRegs

/-- What `mov` writes, by destination class. -/
def movDst (o : SR) : List RegId :=
  match srMovD o with
  | 0 => [rD o]
  | 1 => [.c o.d.toNat]
  | 2 => [.h o.d.toNat]
  | _ => ccRegs

/-- The value `mov` copies: only s to s applies width and extension. -/
def movVal (o : SR) (x : Ctx) : Nat :=
  match srMovA o with
  | 0 => if srMovD o = 0 then extTo (srSx o) (srN o) (opLow x o.a (srN o)) else (rdS x o.a.toNat).toNat
  | 1 => (rdC x o.a.toNat).toNat
  | 2 => (rdH x o.a.toNat).toNat
  | _ => (rdCC x).toNat

/-- The writes of `mov`. -/
def movWrites (o : SR) (v : Nat) : List (RegId × Nat) :=
  match srMovD o with
  | 0 => [(rD o, v)]
  | 1 => [(.c o.d.toNat, (v != 0).toNat)]
  | 2 => [(.h o.d.toNat, v)]
  | _ => ccRegs.map (fun r => match r with
    | .c j => (r, (v.testBit j).toNat)
    | _ => (r, 0))

def opMov (o : SR) : SlotOp := pureOp (fun _ => movSrc o) (movDst o) 1 (fun x => (movWrites o (movVal o x), 0))

def opSel (o : SR) : SlotOp :=
  pureOp (fun _ => [rA o, rB o, .c o.e.toNat]) [rD o] 1
    (fun x => ([(rD o, extTo (srSx o) (srN o) (opLow x (if rdC x o.e.toNat then o.a else o.b) (srN o)))], 0))

def opCmp (o : SR) : SlotOp :=
  pureOp (fun _ => [rA o, rB o]) [.c o.d.toNat] 1
    (fun x => ([(.c o.d.toNat, (condHolds (o.x.extractLsb' 0 4).toNat (srN o) (opLow x o.a (srN o))
      (opLow x o.b (srN o))).toNat)], 0))

def opCset (o : SR) : SlotOp :=
  pureOp (fun _ => [.c o.a.toNat, .c o.b.toNat]) [.c o.d.toNat] 1
    (fun x => ([(.c o.d.toNat, (csetHolds (o.x.extractLsb' 0 4).toNat (rdC x o.a.toNat) (rdC x o.b.toNat)).toNat)], 0))

/-! ## Meanings, one per arm of `exec` -/

/-- ADD (R122). -/
def execAdd (o : SR) (s : State) : Host.Outcome State Fault Refusal := issueAlone (.add o) (opAdd o) s

/-- SUB (R122). -/
def execSub (o : SR) (s : State) : Host.Outcome State Fault Refusal := issueAlone (.sub o) (opSub o) s

/-- MUL (R122). -/
def execMul (o : SR) (s : State) : Host.Outcome State Fault Refusal := issueAlone (.mul o) (opMul o) s

/-- MULH (R122). -/
def execMulh (o : SR) (s : State) : Host.Outcome State Fault Refusal := issueAlone (.mulh o) (opMulh o) s

/-- MULHZ (R122). -/
def execMulhz (o : SR) (s : State) : Host.Outcome State Fault Refusal := issueAlone (.mulhz o) (opMulhz o) s

/-- DIV (R123). -/
def execDiv (o : SR) (s : State) : Host.Outcome State Fault Refusal := issueAlone (.div o) (opDiv o) s

/-- DIVZ (R123). -/
def execDivz (o : SR) (s : State) : Host.Outcome State Fault Refusal := issueAlone (.divz o) (opDivz o) s

/-- REM (R123). -/
def execRem (o : SR) (s : State) : Host.Outcome State Fault Refusal := issueAlone (.rem o) (opRem o) s

/-- REMZ (R123). -/
def execRemz (o : SR) (s : State) : Host.Outcome State Fault Refusal := issueAlone (.remz o) (opRemz o) s

/-- AND (R122). -/
def execAnd (o : SR) (s : State) : Host.Outcome State Fault Refusal := issueAlone (.and o) (opAnd o) s

/-- OR (R122). -/
def execOr (o : SR) (s : State) : Host.Outcome State Fault Refusal := issueAlone (.or o) (opOr o) s

/-- XOR (R122). -/
def execXor (o : SR) (s : State) : Host.Outcome State Fault Refusal := issueAlone (.xor o) (opXor o) s

/-- ANDN (R122). -/
def execAndn (o : SR) (s : State) : Host.Outcome State Fault Refusal := issueAlone (.andn o) (opAndn o) s

/-- SHL (R122). -/
def execShl (o : SR) (s : State) : Host.Outcome State Fault Refusal := issueAlone (.shl o) (opShl o) s

/-- SHR (R122). -/
def execShr (o : SR) (s : State) : Host.Outcome State Fault Refusal := issueAlone (.shr o) (opShr o) s

/-- SAR (R122). -/
def execSar (o : SR) (s : State) : Host.Outcome State Fault Refusal := issueAlone (.sar o) (opSar o) s

/-- ROT (R122). -/
def execRot (o : SR) (s : State) : Host.Outcome State Fault Refusal := issueAlone (.rot o) (opRot o) s

/-- MIN (R122). -/
def execMin (o : SR) (s : State) : Host.Outcome State Fault Refusal := issueAlone (.min o) (opMin o) s

/-- MAX (R122). -/
def execMax (o : SR) (s : State) : Host.Outcome State Fault Refusal := issueAlone (.max o) (opMax o) s

/-- MINZ (R122). -/
def execMinz (o : SR) (s : State) : Host.Outcome State Fault Refusal := issueAlone (.minz o) (opMinz o) s

/-- MAXZ (R122). -/
def execMaxz (o : SR) (s : State) : Host.Outcome State Fault Refusal := issueAlone (.maxz o) (opMaxz o) s

/-- ABS (R124). -/
def execAbs (o : SR) (s : State) : Host.Outcome State Fault Refusal := issueAlone (.abs o) (opAbs o) s

/-- CLZ (R124). -/
def execClz (o : SR) (s : State) : Host.Outcome State Fault Refusal := issueAlone (.clz o) (opClz o) s

/-- CTZ (R124). -/
def execCtz (o : SR) (s : State) : Host.Outcome State Fault Refusal := issueAlone (.ctz o) (opCtz o) s

/-- POPC (R124). -/
def execPopc (o : SR) (s : State) : Host.Outcome State Fault Refusal := issueAlone (.popc o) (opPopc o) s

/-- SEXT (R125). -/
def execSext (o : SR) (s : State) : Host.Outcome State Fault Refusal := issueAlone (.sext o) (opSext o) s

/-- BFX (R125). -/
def execBfx (o : SR) (s : State) : Host.Outcome State Fault Refusal := issueAlone (.bfx o) (opBfx o) s

/-- BFXZ (R125). -/
def execBfxz (o : SR) (s : State) : Host.Outcome State Fault Refusal := issueAlone (.bfxz o) (opBfxz o) s

/-- BFI (R125). -/
def execBfi (o : SR) (s : State) : Host.Outcome State Fault Refusal := issueAlone (.bfi o) (opBfi o) s

/-- LEA (R126). -/
def execLea (o : SR) (s : State) : Host.Outcome State Fault Refusal := issueAlone (.lea o) (opLea o) s

/-- ADDI (R127). -/
def execAddi (o : SI) (s : State) : Host.Outcome State Fault Refusal := issueAlone (.addi o) (opAddi o) s

/-- ANDI (R127). -/
def execAndi (o : SI) (s : State) : Host.Outcome State Fault Refusal := issueAlone (.andi o) (opAndi o) s

/-- ORI (R127). -/
def execOri (o : SI) (s : State) : Host.Outcome State Fault Refusal := issueAlone (.ori o) (opOri o) s

/-- XORI (R127). -/
def execXori (o : SI) (s : State) : Host.Outcome State Fault Refusal := issueAlone (.xori o) (opXori o) s

/-- MOVI (R127). -/
def execMovi (o : SI) (s : State) : Host.Outcome State Fault Refusal := issueAlone (.movi o) (opMovi o) s

/-- MOVHI (R127). -/
def execMovhi (o : SI) (s : State) : Host.Outcome State Fault Refusal := issueAlone (.movhi o) (opMovhi o) s

/-- CMPI (R127). -/
def execCmpi (o : SI) (s : State) : Host.Outcome State Fault Refusal := issueAlone (.cmpi o) (opCmpi o) s

/-- MOV (R128). -/
def execMov (o : SR) (s : State) : Host.Outcome State Fault Refusal := issueAlone (.mov o) (opMov o) s

/-- SEL (R129). -/
def execSel (o : SR) (s : State) : Host.Outcome State Fault Refusal := issueAlone (.sel o) (opSel o) s

/-- CMP (R130). -/
def execCmp (o : SR) (s : State) : Host.Outcome State Fault Refusal := issueAlone (.cmp o) (opCmp o) s

/-- CSET (R131). -/
def execCset (o : SR) (s : State) : Host.Outcome State Fault Refusal := issueAlone (.cset o) (opCset o) s

end Sys2Proof.Machine
end

