-- ==== Sys2Proof/Machine/Float.lean ====
section
/-!
DEFINITION. The floating instructions of the scalar slots (04 R132 to R137). Results are exact values rounded once by the
shared `encode` of 02 R63.
-/
namespace Sys2Proof.Machine

/-- The decoded operand in the low bits of a register (04 R113). -/
def opVal (x : Ctx) (r : BitVec 6) (f : Fmt) : Val := decodeVal f (opLow x r (fmtWidth f))

/-! ## Exact results with invalid cases (04 R133) -/

def exAdd (m : Rm) (x y : Val) : Val × Flg := addExact x y m
def exSub (m : Rm) (x y : Val) : Val × Flg := addExact x (valNegate y) m
def exMul (_ : Rm) (x y : Val) : Val × Flg := mulExact x y

def exDiv (_ : Rm) (x y : Val) : Val × Flg :=
  let sg := valNeg x != valNeg y
  match x, y with
  | .nan, _ => (.nan, 0)
  | _, .nan => (.nan, 0)
  | .inf _, .inf _ => (.nan, fNV)
  | .inf _, _ => (.inf sg, 0)
  | _, .inf _ => (.zero sg, 0)
  | .zero _, .zero _ => (.nan, fNV)
  | .zero _, .fin _ => (.zero sg, 0)
  | .fin _, .zero _ => (.inf sg, fDZ)
  | .fin a, .fin b => (.fin (a / b), 0)

/-- The square root, by a rational in the same cell of every grid of k fractional bits as the root. -/
def exSqrt (k : Nat) (x : Val) : Val × Flg :=
  match x with
  | .nan => (.nan, 0)
  | .zero n => (.zero n, 0)
  | .inf n => if n then (.nan, fNV) else (.inf false, 0)
  | .fin q => if q < 0 then (.nan, fNV) else (.fin (sqrtRep q k), 0)

def exFma (m : Rm) (x y z : Val) : Val × Flg :=
  if valIsNaN x || valIsNaN y || valIsNaN z then (.nan, 0)
  else
    let p := mulExact x y
    if valIsNaN p.1 then p else addExact p.1 z m

/-- Rounds an exact result into f and writes it zero-extended, with its flags (04 R133). -/
def fWrite (o : SR) (x : Ctx) (r : Val × Flg) : List (RegId × Nat) × Flg :=
  let p := encodeVal r.1 (fmtOfCode o.f) (scalarMode x o.rm) (fpSat x) 0 0
  ([(rD o, p.1)], r.2 ||| p.2)

/-- A two-source floating instruction. -/
def float2 (o : SR) (ex : Rm → Val → Val → Val × Flg) : SlotOp :=
  pureOp (fun _ => [rA o, rB o]) [rD o] 2 (fun x =>
    fWrite o x (ex (scalarMode x o.rm) (opVal x o.a (fmtOfCode o.f)) (opVal x o.b (fmtOfCode o.f))))

def opFadd (o : SR) : SlotOp := float2 o exAdd
def opFsub (o : SR) : SlotOp := float2 o exSub
def opFmul (o : SR) : SlotOp := float2 o exMul
def opFdiv (o : SR) : SlotOp := float2 o exDiv
def opFfma (o : SR) : SlotOp :=
  pureOp (fun _ => [rA o, rB o, .s o.e.toNat]) [rD o] 2 (fun x =>
    let f := fmtOfCode o.f
    fWrite o x (exFma (scalarMode x o.rm) (opVal x o.a f) (opVal x o.b f) (opVal x o.e f)))

/-- Fractional bits that separate every rounding cell of a square root: FP32 and FP64. -/
def sqrtBits (f : Fmt) : Nat := if f = .fp64 then 700 else 160

def opFsqrt (o : SR) : SlotOp :=
  pureOp (fun _ => [rA o]) [rD o] 2 (fun x =>
    let f := fmtOfCode o.f
    fWrite o x (exSqrt (sqrtBits f) (opVal x o.a f)))

/-! ## Minimum and maximum (04 R134) -/

/-- x < y for values that are not NaN, with −0 below +0. -/
def valLess (x y : Val) : Bool :=
  match x, y with
  | .inf a, .inf b => a && !b
  | .inf a, _ => a
  | _, .inf b => !b
  | .zero a, .zero b => a && !b
  | x, y => valRat x < valRat y

/-- Chooses the smaller or larger of two codes; NaN if either is (04 R134). -/
def minMaxCode (f : Fmt) (mx : Bool) (a b : Nat) : Nat × Flg :=
  let x := decodeVal f a
  let y := decodeVal f b
  if valIsNaN x || valIsNaN y then (qnanCode f, fNF)
  else (if (if mx then valLess y x else valLess x y) then a else b, 0)

def floatMM (o : SR) (mx : Bool) : SlotOp :=
  pureOp (fun _ => [rA o, rB o]) [rD o] 2 (fun x =>
    let f := fmtOfCode o.f
    let r := minMaxCode f mx (opLow x o.a (fmtWidth f)) (opLow x o.b (fmtWidth f))
    ([(rD o, r.1)], r.2))

def opFmin (o : SR) : SlotOp := floatMM o false
def opFmax (o : SR) : SlotOp := floatMM o true

/-! ## Comparison and classes (04 R135, R137) -/

/-- x = y with +0 equal to −0, for values that are not NaN. -/
def valEq (x y : Val) : Bool :=
  match x, y with
  | .zero _, .zero _ => true
  | x, y => x == y

/-- x < y with +0 equal to −0, for values that are not NaN. -/
def valLt (x y : Val) : Bool := !valEq x y && valLess x y

/-- The float comparison codes (04 R135). -/
def fcondHolds (c : Nat) (x y : Val) : Bool :=
  let un := valIsNaN x || valIsNaN y
  match c with
  | 0 => !un && valEq x y
  | 1 => un || !valEq x y
  | 2 => !un && valLt x y
  | 3 => !un && !valLt x y
  | 4 => !un && !valLt y x
  | 5 => !un && valLt y x
  | 10 => un
  | _ => !un

def opFcmp (o : SR) : SlotOp :=
  pureOp (fun _ => [rA o, rB o]) [.c o.d.toNat] 2 (fun x =>
    let f := fmtOfCode o.f
    ([(.c o.d.toNat, (fcondHolds (o.x.extractLsb' 0 4).toNat (opVal x o.a f) (opVal x o.b f)).toNat)], 0))

/-- The bit of the class mask. -/
def classBit (f : Fmt) (v : Val) : Nat :=
  match v with
  | .nan => 8
  | .inf n => if n then 0 else 7
  | .zero n => if n then 3 else 4
  | .fin q =>
    if q.abs < minNorm f then (if q < 0 then 2 else 5) else (if q < 0 then 1 else 6)

def opFclass (o : SR) : SlotOp :=
  pureOp (fun _ => [rA o]) [rD o] 2 (fun x =>
    let f := fmtOfCode o.f
    ([(rD o, 2 ^ classBit f (opVal x o.a f))], 0))

/-! ## Conversion (04 R136) -/

/-- Width of an integer side: the wide bit makes INT32 a 64-bit integer. -/
def cvtIntWidth (f : Fmt) (wide : Bool) : Nat := if f = .int8 then 8 else if wide then 64 else 32

/-- The exact value of a source. -/
def cvtSource (x : Ctx) (r : BitVec 6) (f : Fmt) (wide : Bool) : Val :=
  if isInt f then ofRat (sextInt (rdS x r.toNat).toNat (cvtIntWidth f wide)) else opVal x r f

def opFcvt (o : SR) : SlotOp :=
  pureOp (fun _ => [rA o]) [rD o] 2 (fun x =>
    let fd := fmtOfCode o.f
    let fs := fmtOfCode (o.x.extractLsb' 0 4)
    let wide := o.x.getLsbD 4
    let v := cvtSource x o.a fs wide
    let m := scalarMode x o.rm
    if isInt fd then
      let w := cvtIntWidth fd wide
      let r := toIntRange v (-((2 ^ (w - 1) : Nat) : Int)) ((2 ^ (w - 1) : Nat) - 1) m 0 0
      ([(rD o, wrapNat r.1 64)], r.2)
    else
      let r := encodeVal v fd m (fpSat x) 0 0
      ([(rD o, r.1)], r.2))

/-! ## Meanings, one per arm of `exec` -/

/-- FADD (R133). -/
def execFadd (o : SR) (s : State) : Host.Outcome State Fault Refusal := issueAlone (.fadd o) (opFadd o) s

/-- FSUB (R133). -/
def execFsub (o : SR) (s : State) : Host.Outcome State Fault Refusal := issueAlone (.fsub o) (opFsub o) s

/-- FMUL (R133). -/
def execFmul (o : SR) (s : State) : Host.Outcome State Fault Refusal := issueAlone (.fmul o) (opFmul o) s

/-- FFMA (R133). -/
def execFfma (o : SR) (s : State) : Host.Outcome State Fault Refusal := issueAlone (.ffma o) (opFfma o) s

/-- FDIV (R133). -/
def execFdiv (o : SR) (s : State) : Host.Outcome State Fault Refusal := issueAlone (.fdiv o) (opFdiv o) s

/-- FSQRT (R133). -/
def execFsqrt (o : SR) (s : State) : Host.Outcome State Fault Refusal := issueAlone (.fsqrt o) (opFsqrt o) s

/-- FMIN (R134). -/
def execFmin (o : SR) (s : State) : Host.Outcome State Fault Refusal := issueAlone (.fmin o) (opFmin o) s

/-- FMAX (R134). -/
def execFmax (o : SR) (s : State) : Host.Outcome State Fault Refusal := issueAlone (.fmax o) (opFmax o) s

/-- FCMP (R135). -/
def execFcmp (o : SR) (s : State) : Host.Outcome State Fault Refusal := issueAlone (.fcmp o) (opFcmp o) s

/-- FCVT (R136). -/
def execFcvt (o : SR) (s : State) : Host.Outcome State Fault Refusal := issueAlone (.fcvt o) (opFcvt o) s

/-- FCLASS (R137). -/
def execFclass (o : SR) (s : State) : Host.Outcome State Fault Refusal := issueAlone (.fclass o) (opFclass o) s

end Sys2Proof.Machine
end

