-- ==== Sys2Proof/Machine/SpecialFn.lean ====
section
/-!
DEFINITION. The special functions of the vector slots (05 R157), correctly rounded: an interval of rationals is computed
around the exact value with rising precision until both ends round to the same code with the same flags (log 3).
Fixed-point numbers are integers in units of 2^-p.
-/
namespace Sys2Proof.Machine

/-- floor(a · b / 2^p) -/
def fxMul (p : Nat) (a b : Int) : Int := a * b / ((2 ^ p : Nat) : Int)

/-- A rational in units of 2^-p, rounded down. -/
def fxOf (p : Nat) (q : Rat) : Int := (q * ((2 ^ p : Nat) : Rat)).floor

/-- Σ z^(2i+1) / (2i+1) over n terms, from the term t = z^(2i+1): the series of atanh for z < 1/2. -/
def fxAtanh (p : Nat) (z2 : Int) : Nat → Nat → Int → Int → Int
  | 0, _, _, acc => acc
  | n + 1, i, t, acc => fxAtanh p z2 n (i + 1) (fxMul p t z2) (acc + t / ((2 * i + 1 : Nat) : Int))

/-- ln((1 + z) / (1 − z)) = 2 atanh z for fixed-point z. -/
def fxLnRatio (p : Nat) (z : Int) : Int := 2 * fxAtanh p (fxMul p z z) p 0 z 0

/-- ln 2 = 2 atanh(1/3). -/
def fxLn2 (p : Nat) : Int := fxLnRatio p (fxOf p (mkRat 1 3))

/-- Σ t^i / i! from term i on: the series of exp. -/
def fxExpGo (p : Nat) (t : Int) : Nat → Nat → Int → Int → Int
  | 0, _, _, acc => acc
  | n + 1, i, term, acc =>
    let nt := fxMul p term t / ((i : Nat) : Int)
    fxExpGo p t n (i + 1) nt (acc + nt)

/-- exp t for a fixed-point t of magnitude at most 1. -/
def fxExp (p : Nat) (t : Int) : Int := fxExpGo p t p 1 ((2 ^ p : Nat) : Int) ((2 ^ p : Nat) : Int)

/-- Squares k times. -/
def fxSquare (p : Nat) : Nat → Int → Int
  | 0, a => a
  | k + 1, a => fxSquare p k (fxMul p a a)

/-- Σ (−1)^i / ((2i+1) m^(2i+1)): the series of atan(1/m). -/
def fxAtanGo (m : Int) : Nat → Nat → Int → Int → Int
  | 0, _, _, acc => acc
  | n + 1, i, t, acc =>
    fxAtanGo m n (i + 1) (t / (m * m)) (if i % 2 = 0 then acc + t / ((2 * i + 1 : Nat) : Int) else acc - t / ((2 * i + 1 : Nat) : Int))

def fxAtanInv (p : Nat) (m : Nat) : Int := fxAtanGo m p 0 (((2 ^ p : Nat) : Int) / (m : Int)) 0

/-- π = 16 atan(1/5) − 4 atan(1/239). -/
def fxPi (p : Nat) : Int := 16 * fxAtanInv p 5 - 4 * fxAtanInv p 239

/-- The alternating series of sin from the term t = x^(2i+1)/(2i+1)!. -/
def fxSinGo (p : Nat) (x2 : Int) : Nat → Nat → Int → Int → Int
  | 0, _, _, acc => acc
  | n + 1, i, t, acc =>
    fxSinGo p x2 n (i + 1) (fxMul p t x2 / (((2 * i + 2) * (2 * i + 3) : Nat) : Int)) (if i % 2 = 0 then acc + t else acc - t)

/-- The series Σ (−1)^i x^(2i+1) / (i! (2i+1)) of erf, without the factor 2/√π. -/
def fxErfGo (p : Nat) (x2 : Int) : Nat → Nat → Int → Int → Int
  | 0, _, _, acc => acc
  | n + 1, i, t, acc =>
    fxErfGo p x2 n (i + 1) (fxMul p t x2 / ((i + 1 : Nat) : Int))
      (if i % 2 = 0 then acc + t / ((2 * i + 1 : Nat) : Int) else acc - t / ((2 * i + 1 : Nat) : Int))

/-- 2^f for a rational f in [0, 1). -/
def fxExp2 (p : Nat) (f : Rat) : Int := fxExp p (fxMul p (fxOf p f) (fxLn2 p))

/-- A value just below 1, in the same rounding cell as every value of [1 − 2^-55, 1). -/
def nearOne : Rat := 1 - mkRat 1 (2 ^ 60)

/-- An exact result, or fixed-point units with the error bound they carry (as a power of two) and a binary exponent. -/
inductive FnVal where
  | exact (q : Rat)
  | near (v : Int) (err : Nat) (e : Int)
  deriving Repr

/-- The magnitude of each function at a finite nonzero operand, at p fractional bits; g as in 05 R157. -/
def fnAt (g : Nat) (x : Rat) (p : Nat) : FnVal :=
  match g with
  | 0 =>
    if 1024 ≤ x then .exact (pow2 1024)
    else if x ≤ -1024 then .exact (pow2 (-1024))
    else
      let n := x.floor
      if (n : Rat) = x then .exact (pow2 n) else .near (fxExp2 p (x - n)) 24 n
  | 1 =>
    let n := flog2 x
    let m := x / pow2 n
    if m = 1 then .exact n
    else .near (n * ((2 ^ p : Nat) : Int) + fxLnRatio p (fxOf p ((m - 1) / (m + 1))) * ((2 ^ p : Nat) : Int) / fxLn2 p) 24 0
  | 2 =>
    if 22 ≤ x then .exact nearOne
    else
      let u := fxSquare p 6 (fxExp p (fxOf p (-2 * x / 64)))
      let one : Int := ((2 ^ p : Nat) : Int)
      .near ((one - u) * one / (one + u)) 40 0
  | 3 =>
    if 6 ≤ x then .exact nearOne
    else
      let q := p + 128
      let xf := fxOf q x
      let s := fxErfGo q (fxMul q xf xf) (q + 200) 0 xf 0
      let sqrtPi : Int := (isqrt ((fxPi q).toNat * 2 ^ q) : Nat)
      .near (2 * s * ((2 ^ q : Nat) : Int) / sqrtPi / ((2 ^ 128 : Nat) : Int)) 24 0
  | _ =>
    let q := p + 160
    let xf := fxOf q x
    let tau := 2 * fxPi q
    let r := xf % tau
    .near (fxSinGo q (fxMul q r r) (q + 40) 0 r 0 / ((2 ^ 160 : Nat) : Int)) 24 0

/-- The code and flags at one precision, if both ends of the interval agree; with `last` set, those of its lower end. -/
def fnTry (g : Nat) (neg : Bool) (x : Rat) (f : Fmt) (rm : Rm) (sat : Bool) (r b p : Nat) (last : Bool) : Option (Nat × Flg) :=
  let enc (q : Rat) : Nat × Flg := encodeVal (ofRat (if neg then -q else q)) f rm sat r b
  match fnAt g x p with
  | .exact q => some (enc q)
  | .near v err e =>
    let lo : Rat := ((v - (2 ^ err : Nat)) : Rat) / ((2 ^ p : Nat) : Rat) * pow2 e
    let hi : Rat := ((v + (2 ^ err : Nat)) : Rat) / ((2 ^ p : Nat) : Rat) * pow2 e
    if last then some (enc lo)
    else if lo ≤ 0 && 0 ≤ hi then none
    else if enc lo = enc hi then some (enc lo)
    else none

/-- The correctly rounded result, by intervals of p, 2 p, 4 p, … bits until one decides. -/
def fnSearch (g : Nat) (neg : Bool) (x : Rat) (f : Fmt) (rm : Rm) (sat : Bool) (r b : Nat) : Nat → Nat → Nat × Flg
  | 0, p => (fnTry g neg x f rm sat r b p true).getD (0, 0)
  | n + 1, p => match fnTry g neg x f rm sat r b p false with
    | some c => c
    | none => fnSearch g neg x f rm sat r b n (2 * p)

/-- A function of a finite nonzero operand: odd functions are computed from the magnitude. No operand has an exact result
on a rounding boundary but those that `fnAt` gives exactly, so some interval decides; the search allows 2^20 bits (log 3). -/
def fnFinite (g : Nat) (x : Rat) (f : Fmt) (rm : Rm) (sat : Bool) (r b : Nat) : Nat × Flg :=
  let neg := decide (2 ≤ g) && decide (x < 0)
  fnSearch g neg (if neg then -x else x) f rm sat r b 14 64

/-- The result of `vfn` on a code, with its flags (05 R157). -/
def fnCode (g : Nat) (f : Fmt) (code : Nat) (rm : Rm) (sat : Bool) (r b : Nat) : Nat × Flg :=
  let enc (v : Val) (fl : Flg) : Nat × Flg := let p := encodeVal v f rm sat r b; (p.1, fl ||| p.2)
  match g, decodeVal f code with
  | _, .nan => enc .nan 0
  | 0, .inf neg => if neg then enc (.zero false) 0 else enc (.inf false) 0
  | 0, .zero _ => enc (.fin 1) 0
  | 1, .inf neg => if neg then enc .nan fNV else enc (.inf false) 0
  | 1, .zero _ => enc (.inf true) fDZ
  | 1, .fin q => if q < 0 then enc .nan fNV else fnFinite 1 q f rm sat r b
  | 4, .inf _ => enc .nan fNV
  | _, .inf neg => enc (.fin (if neg then -1 else 1)) 0
  | _, .zero neg => enc (.zero neg) 0
  | k, .fin q => fnFinite k q f rm sat r b

end Sys2Proof.Machine
end

