-- ==== Sys2Proof/Machine/Vector.lean ====
section
/-!
DEFINITION. The vector slots VA and VB (05 R152 to R174): element arithmetic, comparison, logic, conversion, moves,
reductions, scans, mask instructions and the generator. Lane functions work on codes; the shared operations apply them under
the mask.
-/
namespace Sys2Proof.Machine

/-! ## Shared operations -/

/-- The sources a mask adds: the mask register, and the old destination where m is not m0 (05 R150). -/
def maskReads (m : BitVec 4) (d : RegId) : List RegId := if m = 0 then [] else [d, .m m.toNat]

/-- Lanes 0 to n − 1 computed by g where active, old elsewhere, with the flags of the active lanes (05 R150). -/
def laneMap (m : Mask) (w n : Nat) (old : List Nat) (g : Nat → Nat × Flg) : List Nat × Flg :=
  (List.range n).foldr (fun i acc =>
    if active m w i then let p := g i; (p.1 :: acc.1, p.2 ||| acc.2) else (old.getD i 0 :: acc.1, acc.2)) ([], 0)

/-- The destination value of a masked operation of lane width w. -/
def vecResult (x : Ctx) (d m : Nat) (w : Nat) (g : Nat → Nat × Flg) : Nat × Flg :=
  let p := laneMap (rdM x m) w (1024 / w) (vLanes x d w) g
  (ofLanes w p.1, p.2)

/-- A masked vector operation of forms VX: sources, lane width, weight and lane function over lane lists. -/
def vecOp (d : Nat) (m : BitVec 4) (srcs : Ctx → List RegId) (w weight : Nat) (g : Ctx → Nat → Nat × Flg) : SlotOp :=
  pureOp (fun x => srcs x ++ maskReads m (.v d)) [.v d] weight
    (fun x => let r := vecResult x d m.toNat w (g x); ([(.v d, r.1)], r.2))

/-- Rounding of lane results in a mode, with FPCTL.sat and the random word of lane i among n (05 R153). -/
structure LaneRnd where
  m : Rm
  sat : Bool
  ws : List Nat
  b : Nat

def laneRnd (x : Ctx) (rm : BitVec 3) (n : Nat) : LaneRnd :=
  { m := vecMode x rm, sat := fpSat x, ws := srWords x (vecMode x rm) n, b := srBits n }

/-- `encode` of lane i's exact result (05 R153). -/
def encLane (l : LaneRnd) (f : Fmt) (i : Nat) (r : Val × Flg) : Nat × Flg :=
  let p := encodeVal r.1 f l.m l.sat (l.ws.getD i 0) l.b
  (p.1, r.2 ||| p.2)

/-- Elements written without rounding: a NaN is written as the canonical NaN (05 R153), a 6-bit element clears the high bits of
its lane (02 R49). -/
def moveCode (f : Fmt) (c : Nat) : Nat :=
  let c1 := c % 2 ^ fmtWidth f
  if hasNaN f && valIsNaN (decodeVal f c1) then qnanCode f else c1

/-- Registers of form VX. -/
def vD (o : VX) : Nat := o.d.toNat
def vA (o : VX) : Nat := o.a.toNat
def vB (o : VX) : Nat := o.b.toNat

/-- Weight by class: integer or move 4, floating 8 (13 R449). -/
def laneWeight (f : Fmt) : Nat := if isInt f then 4 else 8

/-! ## Element arithmetic (05 R155 to R158) -/

/-- Two-source arithmetic: float lanes by ex, integer lanes by iy on signed values, wrapping or saturating. -/
def vec2 (o : VX) (ex : Rm → Val → Val → Val × Flg) (iy : Int → Int → Int) : SlotOp :=
  let f := vxFmt o
  let w := laneWidth f
  vecOp (vD o) o.m (fun x => [.v (vA o), .v (vB o)] ++ (if isInt f then [] else srReads x (vecMode x o.rm))) w (laneWeight f)
    (fun x =>
      let a := vLanes x (vA o) w
      let b := vLanes x (vB o) w
      let l := laneRnd x o.rm (laneCount f)
      fun i =>
        if isInt f then
          let y := iy (sextInt (a.getD i 0) w) (sextInt (b.getD i 0) w)
          (wrapNat (if o.x.getLsbD 0 then satInt y w else y) w, 0)
        else encLane l f i (ex l.m (decodeVal f (a.getD i 0)) (decodeVal f (b.getD i 0))))

def opVadd (o : VX) : SlotOp := vec2 o exAdd (fun a b => a + b)
def opVsub (o : VX) : SlotOp := vec2 o exSub (fun a b => a - b)
def opVmul (o : VX) : SlotOp := vec2 o exMul (fun a b => a * b)

/-- Minimum and maximum of two lane codes: float by `fmin` and `fmax`, integer signed (05 R155). -/
def minMaxLane (f : Fmt) (mx : Bool) (a b : Nat) : Nat × Flg :=
  if isInt f then
    let w := fmtWidth f
    (if (if mx then decide (sextInt a w < sextInt b w) else decide (sextInt b w < sextInt a w)) then b else a, 0)
  else minMaxCode f mx a b

/-- A two-source operation on codes that does not round. -/
def vec2Code (o : VX) (weight : Nat) (g : Fmt → Nat → Nat → Nat × Flg) : SlotOp :=
  let f := vxFmt o
  let w := laneWidth f
  vecOp (vD o) o.m (fun _ => [.v (vA o), .v (vB o)]) w weight
    (fun x =>
      let a := vLanes x (vA o) w
      let b := vLanes x (vB o) w
      fun i => g f (a.getD i 0) (b.getD i 0))

def opVmin (o : VX) : SlotOp := vec2Code o (laneWeight (vxFmt o)) (fun f => minMaxLane f false)
def opVmax (o : VX) : SlotOp := vec2Code o (laneWeight (vxFmt o)) (fun f => minMaxLane f true)

/-- A value that only changed its sign: its code, with NF for a NaN or infinite result (05 R156). -/
def signedCode (f : Fmt) (v : Val) : Nat × Flg :=
  match v with
  | .nan => (qnanCode f, fNF)
  | .inf n => (infCode f n, fNF)
  | v => ((encodeVal v f .rne false 0 0).1, 0)

/-- The magnitude of x with a sign. -/
def withSign (v : Val) (neg : Bool) : Val := if neg then valNegate (valAbs v) else valAbs v

/-- The sign bit of a code. -/
def codeSign (f : Fmt) (c : Nat) : Bool := c.testBit (fmtWidth f - 1)

def opVcopysgn (o : VX) : SlotOp :=
  vec2Code o 8 (fun f a b => signedCode f (withSign (decodeVal f a) (codeSign f b)))

/-- A one-source operation: float lanes by fl (which may round), integer lanes by iy. -/
def vec1 (o : VX) (rounds : Bool) (weight : Nat) (fl : Ctx → Fmt → Nat → Nat → Nat × Flg) (iy : Int → Int) : SlotOp :=
  let f := vxFmt o
  let w := laneWidth f
  vecOp (vD o) o.m (fun x => .v (vA o) :: (if rounds && !isInt f then srReads x (vecMode x o.rm) else [])) w weight
    (fun x =>
      let a := vLanes x (vA o) w
      let g := fl x f
      fun i => if isInt f then (wrapNat (iy (sextInt (a.getD i 0) w)) w, 0) else g i (a.getD i 0))

def opVabs (o : VX) : SlotOp :=
  vec1 o false (laneWeight (vxFmt o)) (fun _ f _ c => signedCode f (valAbs (decodeVal f c))) (fun a => (a.natAbs : Int))
def opVneg (o : VX) : SlotOp :=
  vec1 o false (laneWeight (vxFmt o)) (fun _ f _ c => signedCode f (valNegate (decodeVal f c))) (fun a => -a)

/-- x rounded to an integral value, keeping its sign where that is zero; NX if it changed (05 R156). -/
def roundLane (f : Fmt) (l : LaneRnd) (i c : Nat) : Nat × Flg :=
  match decodeVal f c with
  | .fin q =>
    let y : Rat := rndTo q 1 l.m (l.ws.getD i 0) l.b
    ((encodeVal (ofRatSgn (q < 0) y) f .rne false 0 0).1, if y = q then 0 else fNX)
  | v => signedCode f v

def opVround (o : VX) : SlotOp :=
  vec1 o true 8 (fun x f => let l := laneRnd x o.rm (laneCount f); roundLane f l) id

def exRcp (v : Val) : Val × Flg :=
  match v with
  | .nan => (.nan, 0)
  | .inf n => (.zero n, 0)
  | .zero n => (.inf n, fDZ)
  | .fin q => (.fin (1 / q), 0)

def exRsq (v : Val) : Val × Flg :=
  match v with
  | .nan => (.nan, 0)
  | .inf n => if n then (.nan, fNV) else (.zero false, 0)
  | .zero n => (.inf n, fDZ)
  | .fin q => if q < 0 then (.nan, fNV) else (.fin (sqrtRep (1 / q) 160), 0)

/-- A correctly rounded one-source operation by its exact value. -/
def vec1Ex (o : VX) (ex : Val → Val × Flg) : SlotOp :=
  vec1 o true 10 (fun x f => let l := laneRnd x o.rm (laneCount f); fun i c => encLane l f i (ex (decodeVal f c))) id

def opVrcp (o : VX) : SlotOp := vec1Ex o exRcp
def opVrsq (o : VX) : SlotOp := vec1Ex o exRsq
def opVsqrt (o : VX) : SlotOp := vec1Ex o (exSqrt 160)
def opVfn (o : VX) : SlotOp :=
  vec1 o true 10 (fun x f =>
    let l := laneRnd x o.rm (laneCount f)
    fun i c => fnCode o.g.toNat f c l.m l.sat (l.ws.getD i 0) l.b) id

/-- A three-source operation of form VR. -/
def vec3 (o : VR) (rounds : Bool) (weight : Nat) (g : Ctx → Fmt → Nat → Nat → Nat → Nat → Nat × Flg) : SlotOp :=
  let f := vrFmt o
  let w := laneWidth f
  vecOp o.d.toNat o.m
    (fun x => [.v o.a.toNat, .v o.b.toNat, .v o.c.toNat]
      ++ (if rounds && !isInt f then srReads x (vecMode x o.rm) else [])) w weight
    (fun x =>
      let a := vLanes x o.a.toNat w
      let b := vLanes x o.b.toNat w
      let c := vLanes x o.c.toNat w
      let h := g x f
      fun i => h i (a.getD i 0) (b.getD i 0) (c.getD i 0))

/-- x × y + z, with the product's sign changed for `vfms`. -/
def fmaLane (neg : Bool) (f : Fmt) (l : LaneRnd) (i a b c : Nat) : Nat × Flg :=
  if isInt f then
    let w := fmtWidth f
    let p := sextInt a w * sextInt b w
    (wrapNat (sextInt c w + (if neg then -p else p)) w, 0)
  else
    let x := decodeVal f a
    encLane l f i (exFma l.m (if neg then valNegate x else x) (decodeVal f b) (decodeVal f c))

def opVfma (o : VR) : SlotOp :=
  vec3 o true (laneWeight (vrFmt o)) (fun x f => fmaLane false f (laneRnd x o.rm (laneCount f)))
def opVfms (o : VR) : SlotOp :=
  vec3 o true (laneWeight (vrFmt o)) (fun x f => fmaLane true f (laneRnd x o.rm (laneCount f)))
def opVclamp (o : VR) : SlotOp :=
  vec3 o false (laneWeight (vrFmt o)) (fun _ f _ a b c =>
    let p := minMaxLane f true a b
    let q := minMaxLane f false p.1 c
    (q.1, p.2 ||| q.2))

/-- The exact sum of `vdot`'s float form with its invalid cases and the sign of an exact zero (05 R158). -/
def dotExact (m : Rm) (ps : List (Val × Val)) (c : Val) : Val × Flg :=
  let prods := ps.map (fun p => mulExact p.1 p.2)
  let terms := prods.map (·.1) ++ [c]
  let nv0 := (ps.zip prods).foldl (fun fl q => if valIsNaN q.1.1 || valIsNaN q.1.2 then fl else fl ||| q.2.2) (0 : Flg)
  let pinf := terms.any (fun t => t == .inf false)
  let ninf := terms.any (fun t => t == .inf true)
  if pinf && ninf then (.nan, nv0 ||| fNV)
  else if terms.any valIsNaN then (.nan, nv0)
  else if pinf then (.inf false, nv0)
  else if ninf then (.inf true, nv0)
  else if terms.all (fun t => t == .zero true) then (.zero true, nv0)
  else (ofRatSgn (m == .rdn) ((terms.map valRat).sum), nv0)

/-- `vdot`: 32-bit destination lanes (05 R158). -/
def opVdot (o : VR) : SlotOp :=
  let f := vrFmt o
  let w := laneWidth f
  vecOp o.d.toNat o.m
    (fun x => [.v o.a.toNat, .v o.b.toNat, .v o.c.toNat] ++ (if isInt f then [] else srReads x (vecMode x o.rm))) 32 8
    (fun x =>
      let a := vLanes x o.a.toNat w
      let b := vLanes x o.b.toNat w
      let c := vLanes x o.c.toNat 32
      let l := laneRnd x o.rm 32
      fun i =>
        if isInt f then
          let s := ((List.range 4).map (fun q => sextInt (a.getD (4 * i + q) 0) 8 * sextInt (b.getD (4 * i + q) 0) 8)).sum
          (wrapNat (sextInt (c.getD i 0) 32 + s) 32, 0)
        else
          let v (l : List Nat) (j : Nat) : Val := decodeVal f (l.getD j 0)
          encLane l .fp32 i (dotExact l.m [(v a (2 * i), v b (2 * i)), (v a (2 * i + 1), v b (2 * i + 1))]
            (decodeVal .fp32 (c.getD i 0))))

/-! ## Compare, select, logic, shifts (05 R159 to R162) -/

/-- A mask result: groups of active elements take the bit h i, the others keep theirs (05 R149, R159). -/
def maskResult (x : Ctx) (d m w : Nat) (h : Nat → Bool) : Nat :=
  let new := maskFrom w h
  let act := maskFrom w (active (rdM x m) w)
  (new &&& act) ||| ((rdM x d).toNat &&& (2 ^ 128 - 1 - act))

/-- The mask register in the low four bits of a field. -/
def mD (o : VX) : Nat := low4 o.d

def opVcmp (o : VX) : SlotOp :=
  let f := vxFmt o
  let w := laneWidth f
  let c := (o.x.extractLsb' 0 4).toNat
  pureOp (fun _ => [.v (vA o), .v (vB o)] ++ maskReads o.m (.m (mD o))) [.m (mD o)] 4
    (fun x =>
      let a := vLanes x (vA o) w
      let b := vLanes x (vB o) w
      ([(.m (mD o), maskResult x (mD o) o.m.toNat w (fun i =>
        if isInt f then condHolds c w (a.getD i 0) (b.getD i 0)
        else fcondHolds c (decodeVal f (a.getD i 0)) (decodeVal f (b.getD i 0))))], 0))

/-- `vsel`: m selects, and every lane is written (05 R160). -/
def opVsel (o : VX) : SlotOp :=
  let f := vxFmt o
  let w := laneWidth f
  pureOp (fun _ => [.v (vA o), .v (vB o), .m o.m.toNat]) [.v (vD o)] 4
    (fun x =>
      let a := vLanes x (vA o) w
      let b := vLanes x (vB o) w
      ([(.v (vD o), ofLanes w ((List.range (1024 / w)).map (fun i =>
        moveCode f (if active (rdM x o.m.toNat) w i then a.getD i 0 else b.getD i 0))))], 0))

/-- Bitwise operations, masked per byte (05 R161). -/
def vecLogic (o : VX) (two : Bool) (g : Nat → Nat → Nat) : SlotOp :=
  vecOp (vD o) o.m (fun _ => .v (vA o) :: (if two then [.v (vB o)] else [])) 8 4
    (fun x =>
      let a := vLanes x (vA o) 8
      let b := vLanes x (vB o) 8
      fun i => (g (a.getD i 0) (b.getD i 0), 0))

def opVand (o : VX) : SlotOp := vecLogic o true (fun a b => a &&& b)
def opVor (o : VX) : SlotOp := vecLogic o true (fun a b => a ||| b)
def opVxor (o : VX) : SlotOp := vecLogic o true (fun a b => a ^^^ b)
def opVnot (o : VX) : SlotOp := vecLogic o false (fun a _ => 255 - a)

/-- Shifts of integer lanes by the b lane or by the immediate (05 R162). -/
def vecShift (o : VX) (g : Nat → Nat → Nat → Nat) : SlotOp :=
  let w := laneWidth (vxFmt o)
  vecOp (vD o) o.m (fun _ => .v (vA o) :: (if o.x.getLsbD 6 then [] else [.v (vB o)])) w 4
    (fun x =>
      let a := vLanes x (vA o) w
      let b := vLanes x (vB o) w
      fun i => (g w (a.getD i 0) (if o.x.getLsbD 6 then (o.x.extractLsb' 0 5).toNat else b.getD i 0), 0))

def opVshl (o : VX) : SlotOp := vecShift o yShl
def opVshr (o : VX) : SlotOp := vecShift o yShr
def opVsar (o : VX) : SlotOp := vecShift o ySar

/-! ## Conversion and packing (05 R163, R164) -/

/-- The conversion of one value into a destination format; `src8` where the source is an INT32 that INT8 clamps. -/
def cvtCode (fd : Fmt) (v : Val) (clamp : Bool) (l : LaneRnd) (i : Nat) : Nat × Flg :=
  if isInt fd then
    if clamp then
      let q := (valRat v).floor
      (wrapNat (satInt q (fmtWidth fd)) (fmtWidth fd), if satInt q (fmtWidth fd) = q then 0 else fNV)
    else encodeInt v (fmtWidth fd) l.m (l.ws.getD i 0) l.b
  else encLane l fd i (v, 0)

/-- The source lane of destination lane i in part p (05 R163); none where the destination lane keeps its value. -/
def cvtLane (ws wd p i : Nat) : Option Nat :=
  if ws = wd then some i
  else if wd < ws then
    let ns := 1024 / ws
    if p * ns ≤ i && i < p * ns + ns then some (i - p * ns) else none
  else some (p * (1024 / wd) + i)

/-- The lanes of a conversion: value of each source lane by `src`. -/
def cvtLanes (fd fs : Fmt) (p : Nat) (src : Nat → Val) (old : List Nat) (l : LaneRnd) (i : Nat) : Nat × Flg :=
  match cvtLane (laneWidth fs) (laneWidth fd) p i with
  | none => (old.getD i 0, 0)
  | some j => cvtCode fd (src j) (isInt fd && isInt fs) l i

/-- Registers a conversion reads besides its source: the destination where lanes keep their values, and random bits. -/
def cvtReads (x : Ctx) (fd fs : Fmt) (rm : BitVec 3) (d : Nat) : List RegId :=
  (if laneWidth fd < laneWidth fs then [.v d] else []) ++ (if isInt fd && isInt fs then [] else srReads x (vecMode x rm))

/-- `vcvt` (05 R163). Under SR the lanes of the destination register are counted, those that keep their values too (log 100). -/
def opVcvt (o : VX) : SlotOp :=
  let fd := vxFmt o
  let fs := fmtOfCode o.g
  vecOp (vD o) o.m (fun x => .v (vA o) :: cvtReads x fd fs o.rm (vD o)) (laneWidth fd) 8
    (fun x =>
      let a := vLanes x (vA o) (laneWidth fs)
      cvtLanes fd fs (o.x.extractLsb' 0 2).toNat (fun j => decodeVal fs (a.getD j 0)) (vLanes x (vD o) (laneWidth fd))
        (laneRnd x o.rm (laneCount fd)))

/-- `vpack` and `vunpk` (05 R164). -/
def opVpack (o : VX) : SlotOp :=
  pureOp (fun _ => [.v (vA o)]) [.v (vD o)] 4
    (fun x => ([(.v (vD o), ofLanes 6 ((vLanes x (vA o) 8).map (· % 64)))], 0))
def opVunpk (o : VX) : SlotOp :=
  pureOp (fun _ => [.v (vA o)]) [.v (vD o)] 4
    (fun x => ([(.v (vD o), ofLanes 8 ((List.range 128).map (laneAt (rdV x (vA o)).toNat 6)))], 0))

/-! ## Moving elements (05 R165 to R167) -/

def opVperm (o : VX) : SlotOp :=
  let f := vxFmt o
  let w := laneWidth f
  vecOp (vD o) o.m (fun _ => [.v (vA o), .v (vB o)]) w 4
    (fun x =>
      let a := vLanes x (vA o) w
      let b := vLanes x (vB o) w
      fun i =>
        let j := b.getD i 0
        (if o.x.getLsbD 0 && decide (laneCount f ≤ j) then 0 else moveCode f (a.getD (j % laneCount f) 0), 0))

/-- The source of lane i in pattern g: from a, or from b (05 R166). -/
def shufFrom (g n cnt i : Nat) : Bool × Nat :=
  match g with
  | 0 => (i % 2 == 1, i / 2)
  | 1 => (i % 2 == 1, n / 2 + i / 2)
  | 2 => (n / 2 ≤ i, 2 * (i % (n / 2)))
  | 3 => (n / 2 ≤ i, 2 * (i % (n / 2)) + 1)
  | 4 => (false, n - 1 - i)
  | _ => (false, (i + cnt) % n)

def opVshuf (o : VX) : SlotOp :=
  let f := vxFmt o
  let w := laneWidth f
  vecOp (vD o) o.m (fun _ => .v (vA o) :: (if o.g.toNat < 4 then [.v (vB o)] else [])) w 4
    (fun x =>
      let a := vLanes x (vA o) w
      let b := vLanes x (vB o) w
      fun i =>
        let s := shufFrom o.g.toNat (laneCount f) o.x.toNat i
        (moveCode f ((if s.1 then b else a).getD s.2 0), 0))

def opVbcast (o : VX) : SlotOp :=
  let f := vxFmt o
  let w := laneWidth f
  vecOp (vD o) o.m (fun _ => if o.g.toNat = 0 then [.v (vA o)] else [.s (low6 o.a)]) w 4
    (fun x =>
      let c := if o.g.toNat = 0 then laneAt (rdV x (vA o)).toNat w o.x.toNat else (rdS x (low6 o.a)).toNat % 2 ^ w
      fun _ => (moveCode f c, 0))

def opVmovs (o : VX) : SlotOp :=
  let f := vxFmt o
  let w := laneWidth f
  pureOp (fun _ => [.v (vA o)]) [.s (low6 o.d)] 4
    (fun x =>
      let c := moveCode f (laneAt (rdV x (vA o)).toNat w o.x.toNat)
      ([(.s (low6 o.d), if isInt f then wrapNat (sextInt c w) 64 else c)], 0))

def opVins (o : VX) : SlotOp :=
  let f := vxFmt o
  let w := laneWidth f
  pureOp (fun _ => [.v (vD o), .s (low6 o.a)]) [.v (vD o)] 4
    (fun x => ([(.v (vD o), ofLanes w ((vLanes x (vD o) w).set o.x.toNat
      (moveCode f ((rdS x (low6 o.a)).toNat % 2 ^ w))))], 0))

def opVidx (o : VX) : SlotOp :=
  let w := laneWidth (vxFmt o)
  pureOp (fun _ => [.s (low6 o.a)]) [.v (vD o)] 4
    (fun x => ([(.v (vD o), ofLanes w ((List.range (1024 / w)).map (fun i => ((rdS x (low6 o.a)).toNat + i * o.x.toNat) % 2 ^ w)))], 0))

/-! ## Reductions and scans (02 R71, R72; 05 R168 to R171) -/

/-- `addf` on codes of a lane format; integers wrap. -/
def addCode (f : Fmt) (m : Rm) (a b r n : Nat) : Nat × Flg :=
  if isInt f then ((a + b) % 2 ^ fmtWidth f, 0)
  else
    let p := addVal (decodeVal f a) (decodeVal f b) f m r n
    ((encodeVal p.1 f .rne false 0 0).1, p.2)

/-- The identity of addition: −0, or 0 in integer lanes. -/
def addUnit (f : Fmt) : Nat := if isInt f then 0 else zeroCode f true

/-- One level of `sum_tree`: pairs are added with the word of the right half's first lane position (02 R71). -/
def sumLevel (f : Fmt) (m : Rm) (ws : List Nat) (b h : Nat) : Nat → List Nat → List Nat × Flg
  | i, y0 :: y1 :: rest =>
    let p := addCode f m y0 y1 (ws.getD ((2 * i + 1) * h) 0) b
    let t := sumLevel f m ws b h (i + 1) rest
    (p.1 :: t.1, p.2 ||| t.2)
  | _, l => (l, 0)

/-- All levels. -/
def sumLevels (f : Fmt) (m : Rm) (ws : List Nat) (b : Nat) : Nat → Nat → List Nat → Nat × Flg
  | 0, _, l => (l.headD 0, 0)
  | k + 1, h, l =>
    let p := sumLevel f m ws b h 0 l
    let q := sumLevels f m ws b k (2 * h) p.1
    (q.1, p.2 ||| q.2)

/-- `sum_tree` over codes (02 R71). -/
def sumTree (f : Fmt) (m : Rm) (ws : List Nat) (b : Nat) (act : Nat → Bool) (l : List Nat) : Nat × Flg :=
  if (List.range l.length).any act then
    sumLevels f m ws b 8 1 ((List.range l.length).map (fun i => if act i then l.getD i 0 else addUnit f))
  else (0, 0)

/-- `scan_seq` over codes: the lanes after the scan, inactive ones old (02 R71). -/
def scanSeq (f : Fmt) (m : Rm) (ws : List Nat) (b : Nat) (act : Nat → Bool) (old : List Nat) :
    Nat → Nat → List Nat → List Nat × Flg
  | _, _, [] => ([], 0)
  | i, acc, x :: rest =>
    if act i then
      let p := addCode f m acc x (ws.getD i 0) b
      let t := scanSeq f m ws b act old (i + 1) p.1 rest
      (p.1 :: t.1, p.2 ||| t.2)
    else
      let t := scanSeq f m ws b act old (i + 1) acc rest
      (old.getD i 0 :: t.1, t.2)

/-- Random words of a reduction: b = min(16, w), a word for each lane position (02 R60). -/
def redWords (x : Ctx) (rm : BitVec 3) (f : Fmt) : List Nat := srWords x (vecMode x rm) (laneCount f)
def redSr (x : Ctx) (rm : BitVec 3) (f : Fmt) : List RegId := if isInt f then [] else srReads x (vecMode x rm)

/-- A horizontal reduction: lane 0 takes the result, every other bit 0 (05 R169). -/
def vecRed (o : VX) (rounds : Bool) (g : Ctx → Fmt → (Nat → Bool) → List Nat → Nat × Flg) : SlotOp :=
  let f := vxFmt o
  let w := laneWidth f
  pureOp (fun x => [.v (vA o), .m o.m.toNat] ++ (if rounds then redSr x o.rm f else [])) [.v (vD o)] 8
    (fun x => let r := g x f (active (rdM x o.m.toNat) w) (vLanes x (vA o) w); ([(.v (vD o), r.1)], r.2))

def opVredSum (o : VX) : SlotOp :=
  vecRed o true (fun x f act l => sumTree f (vecMode x o.rm) (redWords x o.rm f) (srBits (laneCount f)) act l)

/-- Minimum or maximum of the active lanes in increasing order; +0 if none (05 R169). A single active lane is moved: its NaN
becomes the canonical one and raises no flag (log 100). -/
def redMM (f : Fmt) (mx : Bool) (act : Nat → Bool) (l : List Nat) : Nat × Flg :=
  match ((List.range l.length).filter act).map (fun i => l.getD i 0) with
  | [] => (0, 0)
  | c :: cs => cs.foldl (fun p d => let q := minMaxLane f mx p.1 d; (q.1, p.2 ||| q.2))
      (if isInt f then c else moveCode f c, 0)

def opVredMin (o : VX) : SlotOp := vecRed o false (fun _ f act l => redMM f false act l)
def opVredMax (o : VX) : SlotOp := vecRed o false (fun _ f act l => redMM f true act l)

/-- The registers a vertical reduction reads. -/
def redRegs (o : VX) : List Nat := (List.range (vxRegs o)).map (fun j => vA o + j)

/-- The sum of lane i over registers, from −0 (05 R170). -/
def laneSum (f : Fmt) (m : Rm) (ws : List Nat) (regs : List (List Nat)) (i : Nat) : Nat × Flg :=
  regs.foldl (fun p l => let q := addCode f m p.1 (l.getD i 0) (ws.getD i 0) (srBits (laneCount f)); (q.1, p.2 ||| q.2)) (addUnit f, 0)

def opVredVsum (o : VX) : SlotOp :=
  let f := vxFmt o
  let w := laneWidth f
  vecOp (vD o) o.m (fun x => (redRegs o).map RegId.v ++ redSr x o.rm f) w 8
    (fun x =>
      let regs := (redRegs o).map (fun r => vLanes x r w)
      laneSum f (vecMode x o.rm) (redWords x o.rm f) regs)

/-- The rescaled sum of the valid contributions (05 R170). With none valid, zeros and one event record of kind 8. -/
def opVredRsum (o : VX) : SlotOp :=
  plainOp (fun x => (redRegs o).map RegId.v ++ [.m o.m.toNat] ++ redSr x o.rm .fp32) [.v (vD o)] 8
    (fun i x s =>
      let valid := (List.range (vxRegs o)).filter (fun j => (rdM x o.m.toNat).getLsbD j)
      if valid = [] then
        .ok (postEvent s x.id x.env.iter (eventRec 8 i.slot 0 x.id.ctx x.pc (vD o))) [(.v (vD o), 0)] 0
      else
        let regs := valid.map (fun j => vLanes x (vA o + j) 32)
        let sums := (List.range 32).map (laneSum .fp32 (vecMode x o.rm) (redWords x o.rm .fp32) regs)
        let outs := sums.map (fun p =>
          match decodeVal .fp32 p.1 with
          | .fin q =>
            let e := encodeVal (.fin (q * (vxRegs o : Rat) / (valid.length : Rat))) .fp32 .rne false 0 0
            (e.1, p.2 ||| e.2)
          | v => ((encodeVal v .fp32 .rne false 0 0).1, p.2))
        .ok s [(.v (vD o), ofLanes 32 (outs.map (·.1)))] (flagsOf (outs.map (·.2))))

def opVscan (o : VX) : SlotOp :=
  let f := vxFmt o
  let w := laneWidth f
  pureOp (fun x => .v (vA o) :: (redSr x o.rm f ++ maskReads o.m (.v (vD o)))) [.v (vD o)] 8
    (fun x =>
      let r := scanSeq f (vecMode x o.rm) (redWords x o.rm f) (srBits (laneCount f)) (active (rdM x o.m.toNat) w)
        (vLanes x (vD o) w) 0 (addUnit f) (vLanes x (vA o) w)
      ([(.v (vD o), ofLanes w r.1)], r.2))

/-! ## Non-finite checks and mask operations (05 R172, R173) -/

def opVnfchk (o : VX) : SlotOp :=
  let f := vxFmt o
  let w := laneWidth f
  pureOp (fun _ => .v (vA o) :: maskReads o.m (.m (mD o))) [.m (mD o)] 8
    (fun x =>
      let a := vLanes x (vA o) w
      let bad (i : Nat) : Bool := !valIsFinite (decodeVal f (a.getD i 0))
      ([(.m (mD o), maskResult x (mD o) o.m.toNat w bad)],
       if (List.range (1024 / w)).any (fun i => active (rdM x o.m.toNat) w i && bad i) then fNF else 0))

/-- Mask logic over all 128 bits. -/
def maskLogic (o : VX) (g : Mask → Mask → Mask) : SlotOp :=
  pureOp (fun _ => [.m (low4 o.a), .m (low4 o.b)]) [.m (mD o)] 4
    (fun x => ([(.m (mD o), (g (rdM x (low4 o.a)) (rdM x (low4 o.b))).toNat)], 0))

def opMand (o : VX) : SlotOp := maskLogic o (fun a b => a &&& b)
def opMor (o : VX) : SlotOp := maskLogic o (fun a b => a ||| b)
def opMxor (o : VX) : SlotOp := maskLogic o (fun a b => a ^^^ b)
def opMnot (o : VX) : SlotOp :=
  pureOp (fun _ => [.m (low4 o.a)]) [.m (mD o)] 4 (fun x => ([(.m (mD o), (~~~ (rdM x (low4 o.a))).toNat)], 0))

/-- The active elements of width w in a mask. -/
def maskElems (m : Mask) (f : Fmt) : List Nat := (List.range (laneCount f)).filter (active m (laneWidth f))

def opMpop (o : VX) : SlotOp :=
  pureOp (fun _ => [.m (low4 o.a)]) [.s (low6 o.d)] 4
    (fun x => ([(.s (low6 o.d), (maskElems (rdM x (low4 o.a)) (vxFmt o)).length)], 0))
def opMfirst (o : VX) : SlotOp :=
  pureOp (fun _ => [.m (low4 o.a)]) [.s (low6 o.d)] 4
    (fun x => ([(.s (low6 o.d), (maskElems (rdM x (low4 o.a)) (vxFmt o)).headD (laneCount (vxFmt o)))], 0))
/-- `mset` writes half of a mask; the other half is a source. -/
def opMset (o : VX) : SlotOp :=
  pureOp (fun _ => [.m (mD o), .s (low6 o.a)]) [.m (mD o)] 4
    (fun x =>
      let old := (rdM x (mD o)).toNat
      let v := (rdS x (low6 o.a)).toNat
      ([(.m (mD o), if o.x.getLsbD 0 then old % 2 ^ 64 + v * 2 ^ 64 else old / 2 ^ 64 * 2 ^ 64 + v)], 0))

/-! ## The generator (05 R174) -/

def opVrand (o : VX) : SlotOp :=
  vecOp (vD o) o.m (fun _ => [.v (vA o), .s (low6 o.b)]) 8 8
    (fun x =>
      let v := (rdV x (vA o)).toNat
      let base := (v % 2 ^ 128 + 8 * (rdS x (low6 o.b)).toNat) % 2 ^ 128
      let out := ofLanes 128 ((List.range 8).map (fun j => randBlock ((base + j) % 2 ^ 128) (v / 2 ^ 128 % 2 ^ 64)))
      fun i => (laneAt out 8 i, 0))

/-! ## Meanings, one per arm of `exec` -/

/-- VADD (R155). -/
def execVadd (o : VX) (s : State) : Host.Outcome State Fault Refusal := issueAlone (.vadd o) (opVadd o) s

/-- VSUB (R155). -/
def execVsub (o : VX) (s : State) : Host.Outcome State Fault Refusal := issueAlone (.vsub o) (opVsub o) s

/-- VMUL (R155). -/
def execVmul (o : VX) (s : State) : Host.Outcome State Fault Refusal := issueAlone (.vmul o) (opVmul o) s

/-- VMIN (R155). -/
def execVmin (o : VX) (s : State) : Host.Outcome State Fault Refusal := issueAlone (.vmin o) (opVmin o) s

/-- VMAX (R155). -/
def execVmax (o : VX) (s : State) : Host.Outcome State Fault Refusal := issueAlone (.vmax o) (opVmax o) s

/-- VCOPYSGN (R155). -/
def execVcopysgn (o : VX) (s : State) : Host.Outcome State Fault Refusal := issueAlone (.vcopysgn o) (opVcopysgn o) s

/-- VABS (R156). -/
def execVabs (o : VX) (s : State) : Host.Outcome State Fault Refusal := issueAlone (.vabs o) (opVabs o) s

/-- VNEG (R156). -/
def execVneg (o : VX) (s : State) : Host.Outcome State Fault Refusal := issueAlone (.vneg o) (opVneg o) s

/-- VROUND (R156). -/
def execVround (o : VX) (s : State) : Host.Outcome State Fault Refusal := issueAlone (.vround o) (opVround o) s

/-- VRCP (R156). -/
def execVrcp (o : VX) (s : State) : Host.Outcome State Fault Refusal := issueAlone (.vrcp o) (opVrcp o) s

/-- VRSQ (R156). -/
def execVrsq (o : VX) (s : State) : Host.Outcome State Fault Refusal := issueAlone (.vrsq o) (opVrsq o) s

/-- VSQRT (R156). -/
def execVsqrt (o : VX) (s : State) : Host.Outcome State Fault Refusal := issueAlone (.vsqrt o) (opVsqrt o) s

/-- VFN (R157). -/
def execVfn (o : VX) (s : State) : Host.Outcome State Fault Refusal := issueAlone (.vfn o) (opVfn o) s

/-- VFMA (R158). -/
def execVfma (o : VR) (s : State) : Host.Outcome State Fault Refusal := issueAlone (.vfma o) (opVfma o) s

/-- VFMS (R158). -/
def execVfms (o : VR) (s : State) : Host.Outcome State Fault Refusal := issueAlone (.vfms o) (opVfms o) s

/-- VCLAMP (R158). -/
def execVclamp (o : VR) (s : State) : Host.Outcome State Fault Refusal := issueAlone (.vclamp o) (opVclamp o) s

/-- VDOT (R158). -/
def execVdot (o : VR) (s : State) : Host.Outcome State Fault Refusal := issueAlone (.vdot o) (opVdot o) s

/-- VCMP (R159). -/
def execVcmp (o : VX) (s : State) : Host.Outcome State Fault Refusal := issueAlone (.vcmp o) (opVcmp o) s

/-- VSEL (R160). -/
def execVsel (o : VX) (s : State) : Host.Outcome State Fault Refusal := issueAlone (.vsel o) (opVsel o) s

/-- VAND (R161). -/
def execVand (o : VX) (s : State) : Host.Outcome State Fault Refusal := issueAlone (.vand o) (opVand o) s

/-- VOR (R161). -/
def execVor (o : VX) (s : State) : Host.Outcome State Fault Refusal := issueAlone (.vor o) (opVor o) s

/-- VXOR (R161). -/
def execVxor (o : VX) (s : State) : Host.Outcome State Fault Refusal := issueAlone (.vxor o) (opVxor o) s

/-- VNOT (R161). -/
def execVnot (o : VX) (s : State) : Host.Outcome State Fault Refusal := issueAlone (.vnot o) (opVnot o) s

/-- VSHL (R162). -/
def execVshl (o : VX) (s : State) : Host.Outcome State Fault Refusal := issueAlone (.vshl o) (opVshl o) s

/-- VSHR (R162). -/
def execVshr (o : VX) (s : State) : Host.Outcome State Fault Refusal := issueAlone (.vshr o) (opVshr o) s

/-- VSAR (R162). -/
def execVsar (o : VX) (s : State) : Host.Outcome State Fault Refusal := issueAlone (.vsar o) (opVsar o) s

/-- VCVT (R163). -/
def execVcvt (o : VX) (s : State) : Host.Outcome State Fault Refusal := issueAlone (.vcvt o) (opVcvt o) s

/-- VPACK (R164). -/
def execVpack (o : VX) (s : State) : Host.Outcome State Fault Refusal := issueAlone (.vpack o) (opVpack o) s

/-- VUNPK (R164). -/
def execVunpk (o : VX) (s : State) : Host.Outcome State Fault Refusal := issueAlone (.vunpk o) (opVunpk o) s

/-- VPERM (R165). -/
def execVperm (o : VX) (s : State) : Host.Outcome State Fault Refusal := issueAlone (.vperm o) (opVperm o) s

/-- VSHUF (R166). -/
def execVshuf (o : VX) (s : State) : Host.Outcome State Fault Refusal := issueAlone (.vshuf o) (opVshuf o) s

/-- VBCAST (R167). -/
def execVbcast (o : VX) (s : State) : Host.Outcome State Fault Refusal := issueAlone (.vbcast o) (opVbcast o) s

/-- VMOVS (R167). -/
def execVmovs (o : VX) (s : State) : Host.Outcome State Fault Refusal := issueAlone (.vmovs o) (opVmovs o) s

/-- VINS (R167). -/
def execVins (o : VX) (s : State) : Host.Outcome State Fault Refusal := issueAlone (.vins o) (opVins o) s

/-- VIDX (R167). -/
def execVidx (o : VX) (s : State) : Host.Outcome State Fault Refusal := issueAlone (.vidx o) (opVidx o) s

/-- VRED_SUM (R169). -/
def execVredSum (o : VX) (s : State) : Host.Outcome State Fault Refusal := issueAlone (.vredSum o) (opVredSum o) s

/-- VRED_MIN (R169). -/
def execVredMin (o : VX) (s : State) : Host.Outcome State Fault Refusal := issueAlone (.vredMin o) (opVredMin o) s

/-- VRED_MAX (R169). -/
def execVredMax (o : VX) (s : State) : Host.Outcome State Fault Refusal := issueAlone (.vredMax o) (opVredMax o) s

/-- VRED_VSUM (R170). -/
def execVredVsum (o : VX) (s : State) : Host.Outcome State Fault Refusal := issueAlone (.vredVsum o) (opVredVsum o) s

/-- VRED_RSUM (R170). -/
def execVredRsum (o : VX) (s : State) : Host.Outcome State Fault Refusal := issueAlone (.vredRsum o) (opVredRsum o) s

/-- VSCAN (R171). -/
def execVscan (o : VX) (s : State) : Host.Outcome State Fault Refusal := issueAlone (.vscan o) (opVscan o) s

/-- VNFCHK (R172). -/
def execVnfchk (o : VX) (s : State) : Host.Outcome State Fault Refusal := issueAlone (.vnfchk o) (opVnfchk o) s

/-- MAND (R173). -/
def execMand (o : VX) (s : State) : Host.Outcome State Fault Refusal := issueAlone (.mand o) (opMand o) s

/-- MOR (R173). -/
def execMor (o : VX) (s : State) : Host.Outcome State Fault Refusal := issueAlone (.mor o) (opMor o) s

/-- MXOR (R173). -/
def execMxor (o : VX) (s : State) : Host.Outcome State Fault Refusal := issueAlone (.mxor o) (opMxor o) s

/-- MNOT (R173). -/
def execMnot (o : VX) (s : State) : Host.Outcome State Fault Refusal := issueAlone (.mnot o) (opMnot o) s

/-- MPOP (R173). -/
def execMpop (o : VX) (s : State) : Host.Outcome State Fault Refusal := issueAlone (.mpop o) (opMpop o) s

/-- MFIRST (R173). -/
def execMfirst (o : VX) (s : State) : Host.Outcome State Fault Refusal := issueAlone (.mfirst o) (opMfirst o) s

/-- MSET (R173). -/
def execMset (o : VX) (s : State) : Host.Outcome State Fault Refusal := issueAlone (.mset o) (opMset o) s

/-- VRAND (R174). -/
def execVrand (o : VX) (s : State) : Host.Outcome State Fault Refusal := issueAlone (.vrand o) (opVrand o) s

end Sys2Proof.Machine
end

