-- ==== Sys2Proof/Machine/Xform.lean ====
section
/-!
DEFINITION. The register instructions of the scale slot SX (05 R175) and the transform slot XF (05 R178 to R184). Their results
are landings: they become visible after the fixed latency of 03 R93.
-/
namespace Sys2Proof.Machine

/-- Adds a landing of latency L, issued at the context's position, to the state. -/
def addLanding (s : State) (x : Ctx) (l : Landing) : State := modCtx s x.id (fun y => { y with land := y.land ++ [l] })

/-- A landing in a vector register. -/
def landV (x : Ctx) (d v lat : Nat) : Landing :=
  { vreg := some d, vval := BitVec.ofNat 1024 v, kreg := none, kval := 0, vis := x.pos + lat, poison := false, wait := none, addr := 0 }

/-- A landing in a scale register. -/
def landK (x : Ctx) (d : Nat) (v : Scale) (lat : Nat) : Landing :=
  { vreg := none, vval := 0, kreg := some d, kval := v, vis := x.pos + lat, poison := false, wait := none, addr := 0 }

/-! ## Scale registers -/

/-- Code j of a scale register, and a register made of 32 codes. -/
def kCode (k : Scale) (j : Nat) : Nat := laneAt k.toNat 8 j
def kCodes (k : Scale) : List Nat := (List.range 32).map (kCode k)
def kOf (l : List Nat) : Scale := BitVec.ofNat 256 (l.foldr (fun c acc => acc * 256 + c % 256) 0)

/-- An SX instruction that computes a scale register in one issued bundle cycle. -/
def kOp (o : KR) (reads : List RegId) (g : Ctx → Scale) : SlotOp :=
  plainOp (fun _ => reads) [.k o.d.toNat] 2 (fun _ x s => .ok (addLanding s x (landK x o.d.toNat (g x) 1)) [] 0)

def opKmov (o : KR) : SlotOp := kOp o [.k (low6 o.a)] (fun x => rdK x (low6 o.a))
def opKset (o : KR) : SlotOp :=
  let c := (o.x.extractLsb' 0 8).toNat
  let one := o.x.getLsbD 8
  kOp o (if one then [.k o.d.toNat] else []) (fun x =>
    if one then kOf ((kCodes (rdK x o.d.toNat)).set (o.x.extractLsb' 9 5).toNat c) else kOf (List.replicate 32 c))
def opKmax (o : KR) : SlotOp :=
  kOp o [.k o.d.toNat, .k (low6 o.a)] (fun x =>
    kOf (List.zipWith max (kCodes (rdK x o.d.toNat)) (kCodes (rdK x (low6 o.a)))))

/-! ## Transforms -/

/-- Registers of form XR. -/
def xD (o : XR) : Nat := o.d.toNat
def xA (o : XR) : Nat := o.a.toNat

/-- An XF instruction that writes a vector register after `lat` issued bundle cycles. -/
def xfOp (o : XR) (reads : Ctx → List RegId) (lat : Nat) (g : Ctx → Nat × Flg) : SlotOp :=
  plainOp reads [.v (xD o)] 6 (fun _ x s => let r := g x; .ok (addLanding s x (landV x (xD o) r.1 lat)) [] r.2)

/-- The lanes of a register as a move reads them: of a 6-bit element only bits [5:0] (02 R49). -/
def bitLanes (x : Ctx) (r : Nat) (f : Fmt) : List Nat := (vLanes x r (laneWidth f)).map (· % 2 ^ fmtWidth f)

/-- `xtr`: transposes R rows of C columns (05 R179). -/
def opXtr (o : XR) : SlotOp :=
  let w := laneWidth (xrFd o)
  let n := 1024 / w
  let r := 2 ^ ((o.x.extractLsb' 0 2).toNat + 1)
  xfOp o (fun _ => [.v (xA o)]) 4 (fun x =>
    let a := bitLanes x (xA o) (xrFd o)
    (ofLanes w ((List.range n).map (fun l => a.getD (l % r * (n / r) + l / r) 0)), 0))

/-- `xexp`: expands 2:4 sparse data (05 R180). -/
def opXexp (o : XR) : SlotOp :=
  let w := laneWidth (xrFd o)
  let n := 1024 / w
  let h := (o.x.extractLsb' 0 1).toNat
  xfOp o (fun _ => [.v (xA o), .v o.b.toNat]) 3 (fun x =>
    let a := bitLanes x (xA o) (xrFd o)
    let b := (rdV x o.b.toNat).toNat
    (ofLanes w ((List.range n).map (fun l =>
      let q := l / 4
      if l % 4 = bits b (h * n + 4 * q + 3) (h * n + 4 * q + 2) then a.getD (h * n / 2 + 2 * q + 1) 0
      else if l % 4 = bits b (h * n + 4 * q + 1) (h * n + 4 * q) then a.getD (h * n / 2 + 2 * q) 0
      else 0)), 0))

/-- The value of source lane j of `xcvt`: an MX element takes its block's scale (05 R181). -/
def xcvtSource (fs : Fmt) (a : List Nat) (k : Scale) (q j : Nat) : Val :=
  if isMX fs then scaledVal fs (kCode k (8 * q + j / 32)) (a.getD j 0 % 2 ^ fmtWidth fs) else decodeVal fs (a.getD j 0)

def opXcvt (o : XR) : SlotOp :=
  let fd := xrFd o
  let fs := xrFs o
  xfOp o (fun x => .v (xA o) :: (if isMX fs then [.k o.k.toNat] else []) ++ cvtReads x fd fs o.rm (xD o)) 2 (fun x =>
    let a := vLanes x (xA o) (laneWidth fs)
    let g := cvtLanes fd fs (o.x.extractLsb' 0 3).toNat
      (xcvtSource fs a (rdK x o.k.toNat) (o.x.extractLsb' 3 2).toNat) (vLanes x (xD o) (laneWidth fd))
      (laneRnd x o.rm (laneCount fd))
    let l := (List.range (laneCount fd)).map g
    (ofLanes (laneWidth fd) (l.map (·.1)), flagsOf (l.map (·.2))))

/-- The blocks of `xqnt`: from block t on, the destination lanes, the codes and the flags (05 R182). -/
def xqntBlocks (fd fs : Fmt) (l : LaneRnd) (a : List Nat) (p j : Nat) : Nat → Nat → List Nat × List Nat × Flg → List Nat × List Nat × Flg
  | 0, _, acc => acc
  | k + 1, t, (dl, kl, fl) =>
    let xs := (List.range 32).map (fun i => decodeVal fs (a.getD (32 * t + i) 0))
    let r := mxQuant xs fd l.m l.sat ((List.range 32).map (fun i => l.ws.getD (32 * t + i) 0)) l.b
    let dl1 := dl.take (32 * (p + t)) ++ r.2.1 ++ dl.drop (32 * (p + t) + 32)
    xqntBlocks fd fs l a p j k (t + 1) (dl1, kl.set (j + t) r.1, fl ||| r.2.2)

def opXqnt (o : XR) : SlotOp :=
  let fd := xrFd o
  let fs := xrFs o
  let w := laneWidth fd
  let nb := srcBlocks fs
  plainOp (fun x => [.v (xD o), .k o.k.toNat, .v (xA o)] ++ srReads x (vecMode x o.rm)) [.v (xD o), .k o.k.toNat] 6
    (fun _ x s =>
      let r := xqntBlocks fd fs (laneRnd x o.rm (32 * nb)) (vLanes x (xA o) (laneWidth fs)) (o.x.extractLsb' 0 3).toNat
        (o.b.extractLsb' 0 5).toNat nb 0 (vLanes x (xD o) w, kCodes (rdK x o.k.toNat), 0)
      .ok (addLanding s x { landV x (xD o) (ofLanes w r.1) 2 with kreg := some o.k.toNat, kval := kOf r.2.1 }) [] r.2.2)

/-- `xamx`: the largest finite magnitude of each block (05 R183). -/
def opXamx (o : XR) : SlotOp :=
  let fs := xrFs o
  xfOp o (fun _ => [.v (xA o)]) 2 (fun x =>
    let vs := (vLanes x (xA o) (laneWidth fs)).map (decodeVal fs)
    (ofLanes 32 ((List.range 32).map (fun t =>
      if t < srcBlocks fs then code32 (ofRat (amaxOf ((vs.drop (32 * t)).take 32))) else 0)),
     if vs.any (fun v => !valIsFinite v) then fNF else 0))

/-- `xswz`: unit i comes from unit i XOR c (05 R184). -/
def opXswz (o : XR) : SlotOp :=
  let w := 32 * 2 ^ o.g.toNat
  xfOp o (fun _ => [.v (xA o)]) 4 (fun x =>
    let a := vLanes x (xA o) w
    (ofLanes w ((List.range (1024 / w)).map (fun i => a.getD (i ^^^ o.x.toNat) 0)), 0))

/-! ## Meanings, one per arm of `exec` -/

/-- KMOV (R175). -/
def execKmov (o : KR) (s : State) : Host.Outcome State Fault Refusal := issueAlone (.kmov o) (opKmov o) s

/-- KSET (R175). -/
def execKset (o : KR) (s : State) : Host.Outcome State Fault Refusal := issueAlone (.kset o) (opKset o) s

/-- KMAX (R175). -/
def execKmax (o : KR) (s : State) : Host.Outcome State Fault Refusal := issueAlone (.kmax o) (opKmax o) s

/-- XTR (R179). -/
def execXtr (o : XR) (s : State) : Host.Outcome State Fault Refusal := issueAlone (.xtr o) (opXtr o) s

/-- XEXP (R180). -/
def execXexp (o : XR) (s : State) : Host.Outcome State Fault Refusal := issueAlone (.xexp o) (opXexp o) s

/-- XCVT (R181). -/
def execXcvt (o : XR) (s : State) : Host.Outcome State Fault Refusal := issueAlone (.xcvt o) (opXcvt o) s

/-- XQNT (R182). -/
def execXqnt (o : XR) (s : State) : Host.Outcome State Fault Refusal := issueAlone (.xqnt o) (opXqnt o) s

/-- XAMX (R183). -/
def execXamx (o : XR) (s : State) : Host.Outcome State Fault Refusal := issueAlone (.xamx o) (opXamx o) s

/-- XSWZ (R184). -/
def execXswz (o : XR) (s : State) : Host.Outcome State Fault Refusal := issueAlone (.xswz o) (opXswz o) s

end Sys2Proof.Machine
end

