-- ==== Sys2Proof/Machine/LoadStore.lean ====
section
/-!
DEFINITION. The LS slot and the memory accesses of SX at issue (07 R217 to R254, 05 R176, 11 R352 to R355): addresses, their
checks, and the memory operations they start. What an operation does when it is performed stands in Perform.lean.
-/
namespace Sys2Proof.Machine

/-! ## Addresses and their checks -/

/-- A 64-bit address from a register and an offset, modulo 2^64 (07 R219). -/
def addr64 (base : Word) (off : Int) : Nat := (((base.toNat : Int) + off) % ((2 ^ 64 : Nat) : Int)).toNat

/-- ALIGN of an address: high bits, or not a multiple of the access size (07 R219, R243). -/
def alignBad (size a : Nat) : Option TrapC :=
  if 2 ^ 56 ≤ a || a % size != 0 then some (trapC 6 0 (a % 2 ^ 56)) else none

/-- The first ALIGN of several addresses. -/
def alignAll (size : Nat) (l : List Nat) : Option TrapC := firstSome (alignBad size) l

/-- The trap with the smallest cause; the first of equals (06 R205). -/
def minTrap (a : Option TrapC) (b : TrapC) : Option TrapC :=
  match a with
  | none => some b
  | some t => if b.cause < t.cause then some b else some t

/-- Checks every address of an operation: translations, permissions and owners (07 R241). The containment and the
invalidation window are admitted where `win` is set (12 R387, R413). -/
def checkAll (s : State) (x : Ctx) (n : Nat) (r : AccReq) : List Nat → State × Option TrapC
  | [] => (s, none)
  | a :: rest =>
    match ctxAccess s x a n r with
    | (s1, .ok _) => checkAll s1 x n r rest
    | (s1, .bad t) =>
      let q := checkAll s1 x n r rest
      (q.1, match q.2 with
        | none => some t
        | some u => if u.cause < t.cause then some u else some t)

/-! ## The bytes an operation touches (08 R259) -/

/-- Maximal runs of active bytes of a mask, as offset and length. -/
def maskRunsGo (m : Mask) : Nat → Nat → List (Nat × Nat) → List (Nat × Nat)
  | 0, _, acc => acc.reverse
  | n + 1, i, acc =>
    if m.getLsbD i then
      match acc with
      | (o, l) :: rest => if o + l = i then maskRunsGo m n (i + 1) ((o, l + 1) :: rest) else maskRunsGo m n (i + 1) ((i, 1) :: acc)
      | [] => maskRunsGo m n (i + 1) [(i, 1)]
    else maskRunsGo m n (i + 1) acc

def maskRuns (m : Mask) : List (Nat × Nat) := maskRunsGo m 128 0 []

/-- The byte ranges an operation touches, as address and length; those of a role's gang under its key. -/
def opRanges (k : OpKind) : List (Nat × Nat) :=
  match k with
  | .loadS _ a n _ => [(a, n)]
  | .loadV _ a m => (maskRuns m).map (fun r => (a + r.1, r.2))
  | .loadL _ n lanes _ => lanes.map (fun p => (p.2, n))
  | .store _ ws => ws.map (fun w => (w.1, w.2.length))
  | .amo _ _ a n _ _ => [(a, n)]
  | .cas _ a n _ _ _ => [(a, n)]
  | .vredm a f _ lanes => let w := laneWidth (fmtOfCode (BitVec.ofNat 4 f)) / 8; lanes.map (fun p => (a + w * p.1, w))
  | .kld _ a => [(a, 32)]
  | .tbinit a _ => [(a, 16)]
  | .tbarr _ a => [(a, 16)]
  | .jraise a _ => [(a, 64)]
  | .cmd rs => rs
  | _ => []

/-- Cuts a range at multiples of b: address and length of each piece. -/
def cutGo (b a n : Nat) : Nat → List (Nat × Nat)
  | 0 => []
  | f + 1 => if n = 0 then [] else let k := min n (b - a % b); (a, k) :: cutGo b (a + k) (n - k) f

/-- The key of a byte behind a translated address, one for each byte of every memory but Mere. -/
def byteKey (p : Place) : Nat :=
  match p.space with
  | .hbm => p.addr
  | .carved => 2 ^ 60 + p.addr
  | .host => 2 ^ 61 + p.addr
  | _ => 2 ^ 62 + p.node * 2 ^ 57 + p.addr

/-- The places behind ranges of the context's translated addresses: two addresses of one byte are one byte (11 R357). -/
def physRanges (s : State) (x : Ctx) (l : List (Nat × Nat)) : List (Nat × Nat) :=
  (l.flatMap (fun r => cutGo 4096 r.1 r.2 (r.2 / 4096 + 2))).filterMap (fun r =>
    if inMere r.1 || 2 ^ 56 ≤ r.1 then none
    else match (lookupLeaf s x.id.cl x.env.asn x.env.root r.1).2 with
      | none => none
      | some leaf => (leafPlace s leaf r.1).map (fun p => (byteKey p, r.2)))

/-! ## Starting a memory operation -/

/-- What starts a memory operation (06 R194, 13 R423): its sequence number, its stream's count, its record. -/
def startOp (s : State) (x : Ctx) (i : Iss) (ss : Nat) (pm : BitVec 16) (scope : Nat) (k : OpKind) : State :=
  modCtx s x.id (fun y => { y with
    ops := y.ops ++ [{ seq := y.issueSeq.toNat, ss := ss, pm := pm, scope := scope, slot := i.slot, bundle := x.pc, lvl := x.lvl,
                       kind := k, done := none, order := 0, started := false, awaiting := [], gathered := [], seenBy := [],
                       phys := physRanges s x (opRanges k), issued := s.cyc }]
    cnt := smSet y.cnt ss (smGet y.cnt ss 0 + 1) 0
    lastSeq := smSet y.lastSeq ss y.issueSeq.toNat 0
    issueSeq := y.issueSeq + 1 })

/-- An operation that is performed at its issue: it takes a number and counts out at once. -/
def passOp (s : State) (x : Ctx) (ss : Nat) : State :=
  modCtx s x.id (fun y => { y with lastSeq := smSet y.lastSeq ss y.issueSeq.toNat 0, issueSeq := y.issueSeq + 1 })

/-- The sequence number the next operation of the context gets. -/
def nextSeq (s : State) (c : CtxId) : Nat := ((getCtx s c).map (fun y => y.issueSeq.toNat)).getD 0

/-- An interlocked register write whose value the operation `seq` brings (03 R93). -/
def awaitReg (s : State) (x : Ctx) (r : RegId) (seq : Nat) : State :=
  if discards r then s
  else modCtx s x.id (fun y => { y with pend := y.pend ++ [{ reg := r, val := none, vis := x.pos + 1, seq := some seq }] })

/-- Starts an operation that brings a register value. -/
def startLoad (s : State) (x : Ctx) (i : Iss) (ss : Nat) (pm : BitVec 16) (scope : Nat) (k : OpKind) (r : RegId) : State :=
  let q := nextSeq s x.id
  awaitReg (startOp s x i ss pm scope k) x r q

/-- The key under which an operation keeps the value its destination had at the issue. -/
def oldKey : Nat := 1000

/-- Keeps the old bytes of a vector destination with the operation that is about to start: those of inactive lanes are
written back with the result (05 R149). -/
def keepOld (s : State) (x : Ctx) (q d : Nat) : State :=
  modCtx s x.id (fun y => { y with ops := y.ops.map (fun p =>
    if p.seq == q then { p with gathered := [(oldKey, natLe 128 (rdV x d).toNat)] } else p) })

/-- Starts an operation that brings a vector value, whose inactive lanes keep their old value. -/
def startVec (s : State) (x : Ctx) (i : Iss) (ss : Nat) (pm : BitVec 16) (scope : Nat) (k : OpKind) (d : Nat) : State :=
  keepOld (startLoad s x i ss pm scope k (.v d)) x (nextSeq s x.id) d

/-- A memory slot operation. -/
def memOp (ss : BitVec 4) (reads : Ctx → List RegId) (writes : List RegId) (weight : Nat) (run : Iss → Ctx → State → OpRes) : SlotOp :=
  { plainOp reads writes weight run with stream := some ss.toNat }

/-! ## Link FIFO registers (11 R352 to R355) -/

/-- The FIFO an address names. -/
def fifoNo (a : Nat) : Option Nat :=
  if inFifo a && (a - fifoBase) % 8 == 0 && decide ((a - fifoBase) / 8 < 6) then some ((a - fifoBase) / 8) else none

/-- Whether the FIFO's link is absent, or its dimension has extent 1 (11 R354). -/
def fifoAbsent (s : State) (n : Nat) : Bool :=
  !s.pkg.units.getLsbD n || (if n / 2 = 0 then s.dev.txn == 0 else if n / 2 = 1 then s.dev.tyn == 0 else s.dev.tzn == 0)

def sendFifo (s : State) (cl n : Nat) : List FifoWord := smGet (getCl s cl).sendF n []
def recvFifo (s : State) (cl n : Nat) : List Word := smGet (getCl s cl).recvF n []

/-! ## Scalar loads and stores (07 R244) -/

def lmSize (o : LM) : Nat := sizeBytes (o.m.extractLsb' 0 2)
def lmScope (o : LM) : Nat := (o.x.extractLsb' 0 3).toNat

/-- The address of a stepped LS operation with step unit u. -/
def lmAddr (o : LM) (x : Ctx) (k : Int) (u : Nat) : Nat := addr64 (rdS x o.a.toNat) (stepOff k o.st u)

/-- Whether a step, of a repeat or of a sticky re-issue, has moved an access away from the FIFO that its base names (11 R352;
log 123). -/
def fifoMoved (o : LM) (x : Ctx) (k : Int) : Bool :=
  match fifoNo (lmAddr o x 0 (lmSize o)) with
  | some _ => lmAddr o x k (lmSize o) != lmAddr o x 0 (lmSize o)
  | none => false

/-- ABSENT_UNIT of a scalar access to a FIFO (11 R354). -/
def lsAbsent (o : LM) (ext : Bool) (i : Int) (s : State) (x : Ctx) : Option TrapC :=
  match (if fifoMoved o x i then none else fifoNo (lmAddr o x i (lmSize o))) with
  | some n => if lmSize o = 8 && !ext && fifoAbsent s n then some (trapC 3 0 0) else none
  | none => none

/-- The FIFO of a legal scalar access at an address: doubleword, zero-extended. -/
def lsFifo (o : LM) (a : Nat) : Option Nat := if lmSize o = 8 && !o.m.getLsbD 2 then fifoNo a else none

/-- The FIFO of a scalar operation at step count k, from which no step has moved it. -/
def fifoHere (o : LM) (x : Ctx) (k : Int) : Option Nat := if fifoMoved o x k then none else lsFifo o (lmAddr o x k (lmSize o))

/-- `ld` of the containment window at SH (12 R413). -/
def lsContain (x : Ctx) (size a : Nat) : Bool := x.lvl = 2 && size = 8 && inContain a

/-- The core number that orders a context's FIFO accesses: a joined pair counts as its even core (11 R353). -/
def fifoCore (x : Ctx) : Nat := if x.joined then x.id.core / 2 * 2 else x.id.core

/-- Whether a higher core has used the FIFO in this cycle: the access belongs to a later one. Key n is a pop, 8 + n a push. -/
def fifoLate (s : State) (x : Ctx) (k : Nat) : Bool :=
  let p := smGet (getCl s x.id.cl).fifoAt k (0, 0)
  p.1 == s.cyc && decide (fifoCore x < p.2)

def fifoUsed (s : State) (x : Ctx) (k : Nat) (c : Cluster) : Cluster := { c with fifoAt := smPut c.fifoAt k (s.cyc, fifoCore x) }

def runLd (o : LM) (i : Iss) (x : Ctx) (s : State) : OpRes :=
  let size := lmSize o
  let a := lmAddr o x i.k size
  let r : RegId := .s (low6 o.d)
  match alignBad size a with
  | some t => .trap t
  | none =>
    if fifoMoved o x i.k then .trap (trapC 8 3 a)
    else match lsFifo o a with
    | some n =>
      match recvFifo s x.id.cl n with
      | [] => .ok s [] 0
      | w :: rest => .ok (modCl (passOp s x o.ss.toNat) x.id.cl (fun c => fifoUsed s x n { c with recvF := smSet c.recvF n rest [] })) [(r, w.toNat)] 0
    | none =>
      let k : OpKind := .loadS (low6 o.d) a size (o.m.getLsbD 2)
      if lsContain x size a then .ok (startLoad s x i o.ss.toNat o.pm (lmScope o) k r) [] 0
      else match ctxAccess s x a size accRead with
        | (_, .bad t) => .trap t
        | (s1, .ok _) => .ok (startLoad s1 x i o.ss.toNat o.pm (lmScope o) k r) [] 0

def opLd (o : LM) : SlotOp :=
  { memOp o.ss (fun _ => [.s o.a.toNat]) [.s (low6 o.d)] 2 (runLd o) with
    absent := fun i s x => lsAbsent o (o.m.getLsbD 2) i.k s x
    block := fun i s x =>
      match fifoHere o x i.k with
      | some n => if (recvFifo s x.id.cl n).isEmpty then some (.fifo n) else none
      | none => none
    hold := fun i s x => match fifoHere o x i.k with
      | some n => fifoLate s x n
      | none => false }

/-- A store to the containment window that 12 R413 to R416 allow: word 0 of a poison record with bit 56 = 0, or the overflow
word. -/
def containStore (a : Nat) (w : Word) : Bool :=
  let o := a - containBase
  o == 0x4000 || (decide (0x2000 ≤ o ∧ o < 0x2000 + 16 * 512) && o % 16 == 0 && !w.getLsbD 56)

def runSt (o : LM) (i : Iss) (x : Ctx) (s : State) : OpRes :=
  let size := lmSize o
  let a := lmAddr o x i.k size
  let w := rdS x (low6 o.d)
  match alignBad size a with
  | some t => .trap t
  | none =>
    if fifoMoved o x i.k then .trap (trapC 8 3 a)
    else match lsFifo o a with
    | some n =>
      let fw : FifoWord := { w := w, ctx := x.id, seq := nextSeq s x.id, iter := x.env.iter }
      .ok (startOp (modCl s x.id.cl (fun c => fifoUsed s x (8 + n) { c with sendF := smSet c.sendF n (smGet c.sendF n [] ++ [fw]) [] })) x i o.ss.toNat o.pm 4
        (.push n w)) [] 0
    | none =>
      if x.lvl = 2 && size = 8 && a = invalAddr then .ok (startOp s x i o.ss.toNat o.pm 3 (.inval w)) [] 0
      else if lsContain x size a && containStore a w then
        .ok (startOp s x i o.ss.toNat o.pm (lmScope o) (.store false [(a, natLe 8 w.toNat)])) [] 0
      else match ctxAccess s x a size accWrite with
        | (_, .bad t) => .trap t
        | (s1, .ok _) => .ok (startOp s1 x i o.ss.toNat o.pm (lmScope o) (.store false [(a, natLe size w.toNat)])) [] 0

def opSt (o : LM) : SlotOp :=
  { memOp o.ss (fun _ => [.s (low6 o.d), .s o.a.toNat]) [] 2 (runSt o) with
    absent := fun i s x => lsAbsent o false i.k s x
    block := fun i s x =>
      match fifoHere o x i.k with
      | some n => if 16 ≤ (sendFifo s x.id.cl n).length || (getLink s n).health == .down then some (.fifo n) else none
      | none => none
    hold := fun i s x => match fifoHere o x i.k with
      | some n => fifoLate s x (8 + n)
      | none => false }

/-! ## Vector loads and stores (07 R245 to R247) -/

/-- The bytes of a vector register. -/
def vecBytes (v : Vec) : List Byte := natLe 128 v.toNat

def runVld (o : LM) (i : Iss) (x : Ctx) (s : State) : OpRes :=
  let a := lmAddr o x i.k 128
  let m := rdM x o.m.toNat
  match alignBad 128 a with
  | some t => .trap t
  | none =>
    if m = 0 then .ok (passOp s x o.ss.toNat) [] 0
    else match ctxAccess s x a 128 accRead with
      | (_, .bad t) => .trap t
      | (s1, .ok _) => .ok (startVec s1 x i o.ss.toNat o.pm (lmScope o) (.loadV o.d.toNat a m) o.d.toNat) [] 0

def opVld (o : LM) : SlotOp :=
  memOp o.ss (fun _ => .s o.a.toNat :: maskReads o.m (.v o.d.toNat)) [.v o.d.toNat] 6 (runVld o)

def runVst (o : LM) (i : Iss) (x : Ctx) (s : State) : OpRes :=
  let a := lmAddr o x i.k 128
  let m := rdM x o.m.toNat
  match alignBad 128 a with
  | some t => .trap t
  | none =>
    if m = 0 then .ok (passOp s x o.ss.toNat) [] 0
    else match ctxAccess s x a 128 accWrite with
      | (_, .bad t) => .trap t
      | (s1, .ok _) =>
        let bs := vecBytes (rdV x o.d.toNat)
        .ok (startOp s1 x i o.ss.toNat o.pm (lmScope o)
          (.store true ((maskRuns m).map (fun r => (a + r.1, (bs.drop r.1).take r.2))))) [] 0

def opVst (o : LM) : SlotOp :=
  memOp o.ss (fun _ => [.v o.d.toNat, .s o.a.toNat] ++ (if o.m = 0 then [] else [.m o.m.toNat])) [] 6 (runVst o)

/-- The element addresses of `vlds`. -/
def vldsAddrs (o : LM) (x : Ctx) (k : Int) : List Nat :=
  let size := lmSize o
  (List.range (128 / size)).map (fun (j : Nat) =>
    addr64 (rdS x o.a.toNat) (stepOff k o.st 128 + (j : Int) * wInt (rdS x (o.a.toNat + 1))))

/-- Lanes with their addresses. -/
def laneAddrs (l : List Nat) : List (Nat × Nat) := (List.range l.length).zip l

def runVlds (o : LM) (i : Iss) (x : Ctx) (s : State) : OpRes :=
  let size := lmSize o
  let l := vldsAddrs o x i.k
  match alignAll size l with
  | some t => .trap t
  | none => match checkAll s x size accRead l with
    | (_, some t) => .trap t
    | (s1, none) => .ok (startVec s1 x i o.ss.toNat o.pm (lmScope o) (.loadL o.d.toNat size (laneAddrs l) true) o.d.toNat) [] 0

def opVlds (o : LM) : SlotOp :=
  memOp o.ss (fun _ => [.s o.a.toNat, .s (o.a.toNat + 1)]) [.v o.d.toNat] 6 (runVlds o)

def lgSize (o : LG) : Nat := sizeBytes o.x

/-- The active lanes of a gather or scatter with their addresses (07 R247). -/
def gatherLanes (o : LG) (x : Ctx) : List (Nat × Nat) :=
  let size := lgSize o
  ((List.range (128 / size)).filter (active (rdM x o.m.toNat) (8 * size))).map (fun j =>
    (j, addr64 (rdS x o.a.toNat) ((laneAt (rdV x o.b.toNat).toNat (8 * size) j * size : Nat) : Int)))

def runVgth (o : LG) (i : Iss) (x : Ctx) (s : State) : OpRes :=
  let size := lgSize o
  let l := gatherLanes o x
  match alignBad size ((rdS x o.a.toNat).toNat % 2 ^ 56), alignAll size (l.map (·.2)) with
  | some t, _ => .trap t
  | none, some t => .trap t
  | none, none =>
    if l = [] then .ok (passOp s x o.ss.toNat) [] 0
    else match checkAll s x size accRead (l.map (·.2)) with
      | (_, some t) => .trap t
      | (s1, none) => .ok (startVec s1 x i o.ss.toNat o.pm 3 (.loadL o.d.toNat size l false) o.d.toNat) [] 0

def opVgth (o : LG) : SlotOp :=
  memOp o.ss (fun _ => [.s o.a.toNat, .v o.b.toNat] ++ maskReads o.m (.v o.d.toNat)) [.v o.d.toNat] 6 (runVgth o)

/-- The lanes that write: of several with one address the highest-numbered (07 R247). -/
def lastLanes : List (Nat × Nat) → List (Nat × Nat)
  | [] => []
  | p :: rest => if rest.any (fun q => q.2 == p.2) then lastLanes rest else p :: lastLanes rest

def runVsct (o : LG) (i : Iss) (x : Ctx) (s : State) : OpRes :=
  let size := lgSize o
  let l := gatherLanes o x
  match alignBad size ((rdS x o.a.toNat).toNat % 2 ^ 56), alignAll size (l.map (·.2)) with
  | some t, _ => .trap t
  | none, some t => .trap t
  | none, none =>
    if l = [] then .ok (passOp s x o.ss.toNat) [] 0
    else match checkAll s x size accWrite (l.map (·.2)) with
      | (_, some t) => .trap t
      | (s1, none) =>
        .ok (startOp s1 x i o.ss.toNat o.pm 3
          (.store false ((lastLanes l).map (fun p => (p.2, natLe size (laneAt (rdV x o.d.toNat).toNat (8 * size) p.1)))))) [] 0

def opVsct (o : LG) : SlotOp :=
  memOp o.ss (fun _ => [.v o.d.toNat, .s o.a.toNat, .v o.b.toNat] ++ (if o.m = 0 then [] else [.m o.m.toNat])) [] 6 (runVsct o)

/-! ## Atomics and reductions (07 R248 to R251) -/

def laSize (o : LA) : Nat := sizeBytes (o.x.extractLsb' 3 2)
def laScope (o : LA) : Nat := (o.x.extractLsb' 0 3).toNat
def laSx (o : LA) : Bool := o.x.getLsbD 5

/-- The scope an atomic acts at: at least the least scope of its memory type (07 R217, R242). -/
def atomicScope (p : Place) (scope : Nat) : Nat :=
  match p.space with
  | .peer => max scope 4
  | .host => max scope 5
  | _ => scope

/-- The access of an atomic: host memory takes add, swap and compare-and-swap only (07 R253). -/
def amoReq (hostOk : Bool) : AccReq := { accWrite with noHost := !hostOk }

def runAmo (o : LA) (i : Iss) (x : Ctx) (s : State) : OpRes :=
  let size := laSize o
  let a := (rdS x o.a.toNat).toNat
  match alignBad size a with
  | some t => .trap t
  | none => match ctxAccess s x a size (amoReq (o.e.toNat == 0 || o.e.toNat == 8)) with
    | (_, .bad t) => .trap t
    | (s1, .ok p) =>
      .ok (startLoad s1 x i o.ss.toNat o.pm (atomicScope p (laScope o))
        (.amo (some o.d.toNat) o.e.toNat a size (opLow x o.b (8 * size)) (laSx o)) (.s o.d.toNat)) [] 0

def opAmo (o : LA) : SlotOp := memOp o.ss (fun _ => [.s o.a.toNat, .s o.b.toNat]) [.s o.d.toNat] 2 (runAmo o)

def runCas (o : LA) (i : Iss) (x : Ctx) (s : State) : OpRes :=
  let size := laSize o
  let a := (rdS x o.a.toNat).toNat
  match alignBad size a with
  | some t => .trap t
  | none => match ctxAccess s x a size (amoReq true) with
    | (_, .bad t) => .trap t
    | (s1, .ok p) =>
      .ok (startLoad s1 x i o.ss.toNat o.pm (atomicScope p (laScope o))
        (.cas o.d.toNat a size (opLow x o.b (8 * size)) (opLow x o.e (8 * size)) (laSx o)) (.s o.d.toNat)) [] 0

def opCas (o : LA) : SlotOp :=
  memOp o.ss (fun _ => [.s o.a.toNat, .s o.b.toNat, .s o.e.toNat]) [.s o.d.toNat] 2 (runCas o)

def runRed (o : LA) (i : Iss) (x : Ctx) (s : State) : OpRes :=
  let size := laSize o
  let a := (rdS x o.a.toNat).toNat
  match alignBad size a with
  | some t => .trap t
  | none => match ctxAccess s x a size (amoReq false) with
    | (_, .bad t) => .trap t
    | (s1, .ok p) =>
      .ok (startOp s1 x i o.ss.toNat o.pm (atomicScope p (laScope o)) (.amo none o.e.toNat a size (opLow x o.b (8 * size)) false)) [] 0

def opRed (o : LA) : SlotOp := memOp o.ss (fun _ => [.s o.a.toNat, .s o.b.toNat]) [] 2 (runRed o)

/-- Fields of `vredm` (07 R251). -/
def vmFmt (o : LG) : Fmt := fmtOfCode (o.b.extractLsb' 0 4)
def vmOp (o : LG) : Nat := (o.b.extractLsb' 4 2).toNat
def vmRescale (o : LG) : Bool := o.b.getLsbD 6
def vmScope (o : LG) : Nat := (o.b.extractLsb' 7 3).toNat

/-- Counts of `.rescale`. -/
def vmN (o : LG) (x : Ctx) : Nat := bits (rdS x (o.a.toNat + 1)).toNat 15 0
def vmNv (o : LG) (x : Ctx) : Nat := bits (rdS x (o.a.toNat + 1)).toNat 31 16

/-- The active lanes of `vredm` with their codes, rescaled where asked. -/
def vredmLanes (o : LG) (x : Ctx) : List (Nat × Nat) :=
  let w := laneWidth (vmFmt o)
  ((List.range (1024 / w)).filter (active (rdM x o.m.toNat) w)).map (fun j =>
    let c := laneAt (rdV x o.d.toNat).toNat w j
    (j, if vmRescale o then code32 (rescaleVal (decodeVal .fp32 c) (vmN o x) (vmNv o x)) else c))

/-- Whether a rescale has no valid contribution: it posts its event and changes no lane. -/
def vmEmpty (o : LG) (x : Ctx) : Bool := vmRescale o && vmNv o x == 0

def runVredm (o : LG) (i : Iss) (x : Ctx) (s : State) : OpRes :=
  let a := (rdS x o.a.toNat).toNat
  let idle := vredmLanes o x = [] ∧ vmEmpty o x = false
  let skip (t : State) : State :=
    let u := passOp t x o.ss.toNat
    if vmEmpty o x then postEvent u x.id x.env.iter (eventRec 8 i.slot 0 x.id.ctx x.pc (a % 2 ^ 56)) else u
  match alignBad 128 a with
  | some t => .trap t
  | none =>
    if idle then .ok (skip s) [] 0
    else match ctxAccess s x a 128 (amoReq false) with
    | (_, .bad t) => .trap t
    | (s1, .ok p) =>
      if vmEmpty o x then .ok (skip s1) [] 0
      else .ok (startOp s1 x i o.ss.toNat o.pm (atomicScope p (vmScope o)) (.vredm a (fmtCode (vmFmt o)) (vmOp o) (vredmLanes o x))) [] 0

def opVredm (o : LG) : SlotOp :=
  memOp o.ss (fun _ => [.v o.d.toNat, .s o.a.toNat] ++ (if vmRescale o then [.s (o.a.toNat + 1)] else [])
    ++ (if o.m = 0 then [] else [.m o.m.toNat])) [] 6 (runVredm o)

/-! ## Prefetch (07 R252) -/

/-- `pref` never traps on its address; one with high bits set does nothing. -/
def runPref (o : LM) (i : Iss) (x : Ctx) (s : State) : OpRes :=
  .ok (startOp s x i o.ss.toNat o.pm 0 (.pref (o.d.extractLsb' 0 2).toNat (lmAddr o x i.k 128))) [] 0

def opPref (o : LM) : SlotOp := memOp o.ss (fun _ => [.s o.a.toNat]) [] 2 (runPref o)

/-! ## Scale loads and stores (05 R175, R176) -/

def kmAddr (o : KM) (x : Ctx) (k : Int) : Nat := addr64 (rdS x o.a.toNat) (stepOff k o.st 32)

/-- The checks of 05 R176: Mere of the context's own cluster only. -/
def kmCheck (s : State) (x : Ctx) (a : Nat) (write : Bool) : State × Acc :=
  if inMere a then ctxAccess s x a 32 accRead
  else if inFifo a || inInval a 32 || inContain a then (s, .bad (trapC 8 3 a))
  else match translate s x.id.cl x.env.asn x.env.root x.lvl a { accRead with write := write } with
    | (s1, .bad t) => (s1, .bad (if t.cause = 8 && t.sub != 4 then trapC 8 3 a else t))
    | (s1, .ok _) => (s1, .bad (trapC 8 3 a))

def runKld (o : KM) (i : Iss) (x : Ctx) (s : State) : OpRes :=
  let a := kmAddr o x i.k
  match alignBad 32 a with
  | some t => .trap t
  | none => match kmCheck s x a false with
    | (_, .bad t) => .trap t
    | (s1, .ok _) =>
      let l : Landing := { landK x o.d.toNat 0 6 with wait := some (nextSeq s1 x.id), addr := a }
      .ok (addLanding (startOp s1 x i o.ss.toNat o.pm 0 (.kld o.d.toNat a)) x l) [] 0

def opKld (o : KM) : SlotOp := memOp o.ss (fun _ => [.s o.a.toNat]) [.k o.d.toNat] 2 (runKld o)

def runKst (o : KM) (i : Iss) (x : Ctx) (s : State) : OpRes :=
  let a := kmAddr o x i.k
  match alignBad 32 a with
  | some t => .trap t
  | none => match kmCheck s x a true with
    | (_, .bad t) => .trap t
    | (s1, .ok _) => .ok (startOp s1 x i o.ss.toNat o.pm 0 (.store false [(a, natLe 32 (rdK x o.d.toNat).toNat)])) [] 0

def opKst (o : KM) : SlotOp := memOp o.ss (fun _ => [.k o.d.toNat, .s o.a.toNat]) [] 2 (runKst o)

/-! ## Meanings, one per arm of `exec` -/

/-- KLD (R176). -/
def execKld (o : KM) (s : State) : Host.Outcome State Fault Refusal := issueAlone (.kld o) (opKld o) s

/-- KST (R176). -/
def execKst (o : KM) (s : State) : Host.Outcome State Fault Refusal := issueAlone (.kst o) (opKst o) s

/-- LD (R244). -/
def execLd (o : LM) (s : State) : Host.Outcome State Fault Refusal := issueAlone (.ld o) (opLd o) s

/-- ST (R244). -/
def execSt (o : LM) (s : State) : Host.Outcome State Fault Refusal := issueAlone (.st o) (opSt o) s

/-- VLD (R245). -/
def execVld (o : LM) (s : State) : Host.Outcome State Fault Refusal := issueAlone (.vld o) (opVld o) s

/-- VST (R245). -/
def execVst (o : LM) (s : State) : Host.Outcome State Fault Refusal := issueAlone (.vst o) (opVst o) s

/-- VLDS (R246). -/
def execVlds (o : LM) (s : State) : Host.Outcome State Fault Refusal := issueAlone (.vlds o) (opVlds o) s

/-- VGTH (R247). -/
def execVgth (o : LG) (s : State) : Host.Outcome State Fault Refusal := issueAlone (.vgth o) (opVgth o) s

/-- VSCT (R247). -/
def execVsct (o : LG) (s : State) : Host.Outcome State Fault Refusal := issueAlone (.vsct o) (opVsct o) s

/-- AMO (R248). -/
def execAmo (o : LA) (s : State) : Host.Outcome State Fault Refusal := issueAlone (.amo o) (opAmo o) s

/-- CAS (R249). -/
def execCas (o : LA) (s : State) : Host.Outcome State Fault Refusal := issueAlone (.cas o) (opCas o) s

/-- RED (R250). -/
def execRed (o : LA) (s : State) : Host.Outcome State Fault Refusal := issueAlone (.red o) (opRed o) s

/-- VREDM (R251). -/
def execVredm (o : LG) (s : State) : Host.Outcome State Fault Refusal := issueAlone (.vredm o) (opVredm o) s

/-- PREF (R252). -/
def execPref (o : LM) (s : State) : Host.Outcome State Fault Refusal := issueAlone (.pref o) (opPref o) s

end Sys2Proof.Machine
end

