-- ==== Sys2Proof/Machine/Order.lean ====
section
/-!
DEFINITION. The order of memory operations (08 R255 to R274): the byte ranges they touch, the stream rule and overlap order,
and the holders that buffer writes on their way to the home Tarn slice (R256). Packets of remote requests (11 R351, R356).
-/
namespace Sys2Proof.Machine

/-! ## Ranges -/

/-- Whether two ranges share a byte. -/
def rangeMeets (a b : Nat × Nat) : Bool := a.1 < b.1 + b.2 && b.1 < a.1 + a.2

/-- Whether two lists of ranges share a byte. -/
def rangesMeet (l m : List (Nat × Nat)) : Bool := l.any (fun a => m.any (rangeMeets a))

/-- Reductions, which overlap does not order among themselves (08 R259). -/
def isRed (k : OpKind) : Bool :=
  match k with
  | .amo none _ _ _ _ _ => true
  | .vredm _ _ _ _ => true
  | _ => false

/-- Plain reads and writes, which may be performed at one scope and not yet at a wider one (08 R256). -/
def isPlain (k : OpKind) : Bool :=
  match k with
  | .loadS _ _ _ _ | .loadV _ _ _ | .loadL _ _ _ _ | .store _ _ | .kld _ _ => true
  | _ => false

/-! ## Predecessors -/

/-- Whether an operation is performed at a scope. -/
def doneAt (o : MemOp) (scope : Nat) : Bool :=
  match o.done with
  | none => false
  | some d => scope ≤ d

/-- Whether two operations share a byte: by the context's addresses, or by the places behind them (11 R357). -/
def opsMeet (a b : MemOp) : Bool := rangesMeet (opRanges a.kind) (opRanges b.kind) || rangesMeet a.phys b.phys

/-- Whether the earlier operation e holds back y (08 R258, R259; 11 R357). -/
def holdsBack (y e : MemOp) : Bool :=
  (y.pm.getLsbD e.ss && !doneAt e y.scope)
    || (!(isRed y.kind && isRed e.kind) && opsMeet y e
        && !(isPlain y.kind && doneAt e y.scope && e.awaiting.isEmpty))

/-- The operations of a context before the one with sequence number q, in program order. -/
def earlier (x : Ctx) (q : Nat) : List MemOp := x.ops.takeWhile (fun o => o.seq != q)

/-- `may_perform` (08 R258). -/
def mayPerform (x : Ctx) (o : MemOp) : Bool := !(earlier x o.seq).any (holdsBack o)

/-- Whether every operation of the streams of a mask is performed at a scope: for operations held until their predecessors
are performed. -/
def predsDone (x : Ctx) (pm : BitVec 16) (scope : Nat) : Bool := !x.ops.any (fun e => pm.getLsbD e.ss && !doneAt e scope)

/-! ## Holders of writes (08 R256) -/

/-- The physical runs of a buffered write. -/
def bufRanges (b : Buffered) : List (Nat × Nat) := b.op.gathered.map (fun w => (w.1, w.2.length))

/-- Whether a read of scope σ by a context sees a buffered write: its own, one in its core's store buffer, one at its
cluster's memory port (08 R256, R268). -/
def sees (c : CtxId) (iter σ : Nat) (b : Buffered) : Bool :=
  (b.ctx == c && b.iter == iter) || (σ ≤ 1 && b.ctx.core == c.core && b.op.done == some 1) || (σ == 2 && b.op.done == some 2)

/-- Key of a place of HBM4 or carved Tarn. -/
def placeKey (p : Place) : Nat := if p.space = .carved then p.addr + 2 ^ 60 else p.addr

/-- Writes a run of bytes over a run that starts at key k. -/
def overlayRun (k : Nat) (bs : List Byte) (w : Nat × List Byte) : List Byte :=
  (List.range bs.length).map (fun i => if w.1 ≤ k + i ∧ k + i < w.1 + w.2.length then w.2.getD (k + i - w.1) 0 else bs.getD i 0)

/-- Bytes read at a place by an operation of a context with scope σ. -/
def readOver (s : State) (c : CtxId) (iter σ : Nat) (p : Place) (n : Nat) : List Byte :=
  let bs := readPlace s p n
  if p.space = .hbm || p.space = .carved then
    (bufferOrder ((buffered s c.cl).filter (sees c iter σ))).foldl (fun r b => b.op.gathered.foldl (overlayRun (placeKey p)) r) bs
  else bs

/-- Notes that a context has read from the buffered writes it sees in a run. -/
def noteSeen (s : State) (c : CtxId) (iter σ : Nat) (p : Place) (n : Nat) : State :=
  if p.space = .hbm || p.space = .carved then
    ((buffered s c.cl).filter (fun b => sees c iter σ b && rangesMeet [(placeKey p, n)] (bufRanges b))).foldl (fun t b =>
      match getOwner t b.ctx b.iter with
      | none => t
      | some x => putOwner t (setOp x { b.op with seenBy := readerKey c iter :: b.op.seenBy })) s
  else s

/-- Whether a read must wait: a buffered write that the context has read, or that a release has published, and that it would now not
see is not yet home, so the read would go back in coherence order (08 R268, R269; log 114). -/
def mustWait (s : State) (c : CtxId) (iter σ : Nat) (p : Place) (n : Nat) : Bool :=
  (p.space = .hbm || p.space = .carved) && (buffered s c.cl).any (fun b =>
    (b.op.seenBy.contains (readerKey c iter) || b.op.released) && !sees c iter σ b && rangesMeet [(placeKey p, n)] (bufRanges b))

/-! ## Releases below package scope (08 R268, R271, R274; log 114) -/

/-- Whether another context's published write to some bytes is still on its way home: what reaches these bytes at their home comes
after it (08 R268). -/
def behindReleased (s : State) (x : Ctx) (l : List (Nat × Nat)) : Bool :=
  (buffered s x.id.cl).any (fun b => b.op.released && !(b.ctx == x.id && b.iter == x.env.iter) && rangesMeet l (bufRanges b))

/-- Whether an operation that is to be performed reaches its bytes at their home. -/
def reachesHome (o : MemOp) : Bool :=
  match o.kind with
  | .store _ _ => decide (3 ≤ o.scope) && o.done.isNone
  | .amo _ _ _ _ _ _ | .cas _ _ _ _ _ _ | .vredm _ _ _ _ => true
  | _ => false

/-- Marks a posted write that a release publishes. -/
def publishPosted (c : CtxId) (iter : Nat) (pm : BitVec 16) (w : Posted) : Posted :=
  if w.ctx == c && w.iter == iter && pm.getLsbD w.ss then { w with released := true } else w

/-- A release of a context publishes the writes of the streams of its mask that are on their way home (08 R271). -/
def publish (s : State) (c : CtxId) (iter : Nat) (pm : BitVec 16) : State :=
  let s1 := if s.net.hostq.isEmpty then s else modNet s (fun n => { n with hostq := n.hostq.map (publishPosted c iter pm) })
  match getOwner s1 c iter with
  | none => s1
  | some x =>
    if x.ops.any (fun o => isBuffered o && pm.getLsbD o.ss && !o.released) then
      putOwner s1 { x with ops := x.ops.map (fun o => if isBuffered o && pm.getLsbD o.ss then { o with released := true } else o) }
    else s1

/-- Whether a buffered write may move on: no earlier write of the same holder to the same bytes remains (08 R256). -/
def mayMove (s : State) (c : CtxId) (o : MemOp) : Bool :=
  !(buffered s c.cl).any (fun b => b.op.done == o.done && (o.done == some 2 || b.ctx.core == c.core) && b.op.order < o.order
    && rangesMeet (bufRanges b) (o.gathered.map (fun w => (w.1, w.2.length))))

/-! ## Remote requests (11 R351, R356, R364) -/

/-- What sends a request: a context's operation or command. -/
structure Origin where
  ctx : CtxId
  iter : Nat
  seq : Nat
  tag : Nat
  cmd : Bool
  deriving DecidableEq, Repr, Inhabited

def originOf (x : Ctx) (seq : Nat) (cmd : Bool) : Origin :=
  { ctx := x.id, iter := x.env.iter, seq := seq, tag := x.env.tag.toNat, cmd := cmd }

/-- The stream and mask of an origin's operation, which its packets carry (08 R266). -/
def originStream (s : State) (g : Origin) : Nat × BitVec 16 :=
  (((getOwner s g.ctx g.iter).bind (fun x => findOp x g.seq)).map (fun o => (o.ss, o.pm))).getD (0, 0)

/-- Sends a packet of an origin to a node and notes the request; answers its number (log 11). -/
def sendReq (s : State) (g : Origin) (node tc : Nat) (kind : PktKind) (op addr va len spec : Nat) (data : List Byte) (lane : Nat)
    (ext : List Byte) : State × Nat :=
  let rid := s.net.nextRid
  let pkt : Packet := { dst := node, src := nodeNo s, tc := tc, kind := kind, tag := g.tag, op := BitVec.ofNat 8 op,
                        addr := BitVec.ofNat 56 addr, spec := BitVec.ofNat 128 spec, data := data, rid := rid,
                        ss := (originStream s g).1, pm := (originStream s g).2, ext := ext }
  let req : Req := { rid := rid, ctx := g.ctx, seq := g.seq, iter := g.iter, cmd := g.cmd, addr := va, len := len,
                     write := kind == .write, lane := lane, node := node, target := addr }
  (modNet (sendPkts s [pkt]) (fun n => { n with reqs := n.reqs ++ [req], nextRid := n.nextRid + 1 }), rid)

/-- Marks the packets of requests whose stores the sending port has accepted (08 R256). -/
def keepPackets (s : State) (rids : List Nat) : State :=
  modNet s (fun n => { n with out := n.out.map (fun o =>
    if o.pkt.src == nodeNo s && rids.contains o.pkt.rid then { o with pkt := { o.pkt with kept := true } } else o) })

/-- The size code of an atomic packet's operation byte (log 11). -/
def sizeCode (n : Nat) : Nat := if n = 8 then 0 else if n = 4 then 1 else if n = 2 then 2 else 3

end Sys2Proof.Machine
end

