-- ==== Sys2Proof/Machine/Perform.lean ====
section
/-!
DEFINITION. OPERATION_PERFORMED: how each kind of memory operation is performed (08 R255 to R257, 07 R244 to R254, 12 R394 to
R396, R408, R421, 13 R433, R442, R448).
-/
namespace Sys2Proof.Machine

/-! ## Accesses of a performed operation -/

/-- Translates an address again at its performance (12 R388): owner bits were checked at the issue (07 R239), and a range that
was frozen after it is waited for by the migration (12 R396). -/
def opAccess (s : State) (x : Ctx) (o : MemOp) (va : Nat) (r : AccReq) : State × Acc :=
  objAccess s x.id.cl x.env.iter x.env.gang x.env.asn x.env.root o.lvl va { r with frozen := false }

/-- The operation fails: its failure is held (06 R206). -/
def opBad (s : State) (x : Ctx) (o : MemOp) (cause addr : Nat) : State :=
  match getOwner s x.id x.env.iter with
  | none => s
  | some y =>
    let us := if cause = 10 then poisonedIn s y (opRanges o.kind) else []
    putOwner s (withUnits us o.seq (opFails y o cause addr 0 []))

/-- A later form of a context, as it now stands. -/
def again (s : State) (x : Ctx) (f : Ctx → Ctx) : State :=
  match getOwner s x.id x.env.iter with
  | none => s
  | some y => putOwner s (f y)

/-- The first address of a range whose unit is poisoned: the first byte of the access that the unit holds. -/
def poisonAt (p : Place) (va u : Nat) : Nat := va + (u - p.addr)

/-! ## Loads (07 R244 to R247) -/

/-- What taking one piece of a load gives. -/
inductive Piece where
  | data (bs : List Byte)
  | sent (rid : Nat)
  | bad (cause addr : Nat)
  | wait
  deriving DecidableEq, Repr, Inhabited

/-- The containment window's 8 bytes at an offset (12 R413 to R416). -/
def containWord (s : State) (o : Nat) : Nat :=
  if o < 80 * 64 then
    let m := (getCl s (o / 64)).rowMap
    let img := m.spares.flatMap (fun v => natLe 2 v.toNat) ++ natLe 8 m.mode.toNat ++ natLe 40 m.retired.toNat
    leNat ((img.drop (o % 64)).take 8)
  else if 0x2000 ≤ o && o < 0x4000 then
    match smFind s.pkg.poisonRecs ((o - 0x2000) / 16) with
    | none => 0
    | some r => if o % 16 = 0 then r.addr.toNat + r.place.toNat * 2 ^ 52 + 2 ^ 56 + r.consumed.toNat * 2 ^ 57
                else r.tag.toNat + r.at_.toNat * 2 ^ 16
  else if o = 0x4000 then s.pkg.poisonOver.toNat
  else 0

/-- A read of the containment window compares the copies of the table it reads (12 R422). -/
def meetDamage (s : State) (o : Nat) : State :=
  if o < 80 * 64 then compared s 0 else if 0x2000 ≤ o then compared s 1 else s

/-- Takes one piece of a load: at its bank, home, holder or host, or by a request to its node (08 R256). -/
def takePiece (s : State) (x : Ctx) (o : MemOp) (key va n : Nat) : State × Piece :=
  if inContain va then (meetDamage s (va - containBase), .data (natLe 8 (containWord s (va - containBase))))
  else match opAccess s x o va accRead with
  | (s1, .bad t) => (s1, .bad t.cause va)
  | (s1, .ok p) =>
    if p.space = .peer then
      if reachable s1 p.node then
        let r := sendReq s1 (originOf x o.seq false) p.node 0 .read 0 p.addr va n n [] key []
        (r.1, .sent r.2)
      else (s1, .bad 17 va)
    else if mustWait s1 x.id x.env.iter o.scope p n then (s1, .wait)
    else
      let s2 := probeRange (hostSettled s1 (some (x.id, x.env.iter)) p n) p n
      match firstPoisoned s2 p n with
      | some u => (s2, .bad 10 (poisonAt p va u))
      | none =>
        let r := hostSees (noteSeen s2 x.id x.env.iter o.scope p n) x.id x.env.iter p (readOver s2 x.id x.env.iter o.scope p n)
        (homeTouch r.1 va p, .data r.2)

/-- What taking all pieces gives: data and requests, the first failure, whether any must wait. -/
structure Taken where
  got : List (Nat × List Byte)
  sent : List Nat
  bad : Option (Nat × Nat)
  wait : Bool
  deriving DecidableEq, Repr, Inhabited

def takePieces (s : State) (x : Ctx) (o : MemOp) : List (Nat × Nat × Nat) → Taken → State × Taken
  | [], t => (s, t)
  | (k, va, n) :: rest, t =>
    match takePiece s x o k va n with
    | (s1, .data bs) => takePieces s1 x o rest { t with got := t.got ++ [(k, bs)] }
    | (s1, .sent r) => takePieces s1 x o rest { t with sent := t.sent ++ [r] }
    | (s1, .bad c a) => takePieces s1 x o rest { t with bad := t.bad.or (some (c, a)) }
    | (s1, .wait) => takePieces s1 x o rest { t with wait := true }

/-- The pieces of a load: key, address, length. -/
def loadPieces (k : OpKind) : List (Nat × Nat × Nat) :=
  match k with
  | .loadS _ a n _ => [(0, a, n)]
  | .loadV _ a m => (maskRuns m).map (fun r => (r.1, a + r.1, r.2))
  | .loadL _ n lanes _ => lanes.map (fun p => (p.1 * n, p.2, n))
  | .kld _ a => [(0, a, 32)]
  | _ => []

/-- The peer place of an address, for a load. -/
def peerAt (s : State) (x : Ctx) (o : MemOp) (va : Nat) : Option Place :=
  if inContain va then none
  else match (opAccess s x o va accRead).2 with
    | .ok p => if p.space = .peer then some p else none
    | .bad _ => none

/-- The one request of a `vld` of peer memory (11 R356): its place and address, and the bytes it asks for. An inactive byte is not
read (07 R245). -/
def wholeLoad (s : State) (x : Ctx) (o : MemOp) : Option (Place × Nat × Nat) :=
  match o.kind with
  | .loadV _ a m => (peerAt s x o a).map (fun p => (p, a, m.toNat))
  | _ => none

/-- The elements of a `vlds` that lie in packages that can be reached: byte offset in the vector, address, place. -/
def farLanes (s : State) (x : Ctx) (o : MemOp) : List (Nat × Nat × Place) :=
  match o.kind with
  | .loadL _ n lanes true => lanes.filterMap (fun l => match peerAt s x o l.2 with
    | some p => if reachable s p.node then some (l.1 * n, l.2, p) else none
    | none => none)
  | _ => []

/-- Sends the one request of a `vlds` to each package that holds some of its elements (11 R356). -/
def askLanes (s : State) (x : Ctx) (o : MemOp) (l : List (Nat × Nat × Place)) : State × List Nat :=
  let n := match o.kind with
    | .loadL _ n _ _ => n
    | _ => 0
  ((l.map (fun q => q.2.2.node)).eraseDups).foldl (fun t node =>
    let g := l.filter (fun q => q.2.2.node == node)
    let h := g.headD default
    let r := sendReq t.1 (originOf x o.seq false) node 0 .read 2 h.2.2.addr h.2.1 n n [] 0 (g.flatMap (fun q => natLe 8 q.2.2.addr))
    (modNet r.1 (fun m => { m with reqs := m.reqs.map (fun q => if q.rid == r.2 then { q with lanes := g.map (·.1) } else q) }),
      t.2 ++ [r.2])) (s, [])

/-- Byte i of the pieces, by their offsets. -/
def pieceByte (got : List (Nat × List Byte)) (i : Nat) : Option Byte :=
  got.findSome? (fun g => if g.1 ≤ i && i < g.1 + g.2.length && g.1 != oldKey then some (g.2.getD (i - g.1) 0) else none)

/-- A vector result: bytes that came, old bytes elsewhere. -/
def vecFrom (got : List (Nat × List Byte)) (use : Nat → Bool) : Nat :=
  let old := ((got.find? (fun g => g.1 == oldKey)).map (·.2)).getD []
  leNat ((List.range 128).map (fun i => if use i then (pieceByte got i).getD (old.getD i 0) else old.getD i 0))

/-- A `kld` brings its codes to its landing; poison waits there (05 R177). -/
def kldArrives (x : Ctx) (seq : Nat) (v : Scale) (poison : Bool) (us : List (Nat × Nat)) : Ctx :=
  { x with land := x.land.map (fun l => if l.wait == some seq then { l with wait := none, kval := v, poison := poison, units := us } else l) }

/-- The end of a load whose data has come. -/
def finishLoad (x : Ctx) (o : MemOp) (got : List (Nat × List Byte)) : Ctx :=
  match o.kind with
  | .loadS d _ n sx => opOut (opResult x o.seq (.s d) (extTo sx (8 * n) (leNat ((got.headD (0, [])).2)))) o
  | .loadV d _ m => opOut (opResult x o.seq (.v d) (vecFrom got (fun i => m.getLsbD i))) o
  | .loadL d _ _ _ => opOut (opResult x o.seq (.v d) (vecFrom got (fun _ => true))) o
  | .kld _ _ => opOut (kldArrives x o.seq (BitVec.ofNat 256 (leNat ((got.headD (0, [])).2))) false []) o
  | _ => x

/-- A load that cannot bring its data: a `kld` that meets poison keeps it for its landing, every other fails. -/
def loadFails (s : State) (x : Ctx) (o : MemOp) (cause addr : Nat) : State :=
  match o.kind with
  | .kld _ _ => if cause = 10 then again s x (fun y => opOut (kldArrives y o.seq 0 true (poisonedIn s y (opRanges o.kind))) o)
                else again s x (fun y => opFails (kldArrives y o.seq 0 false []) o cause addr 0 [])
  | _ => opBad s x o cause addr

/-- Takes the pieces of a load, those of a `vlds` in other packages by one request to each. -/
def pieceLoad (s : State) (x : Ctx) (o : MemOp) : Option State :=
  let far := farLanes s x o
  let near := (loadPieces o.kind).filter (fun p => !(far.map (·.1)).contains p.1)
  let r := takePieces s x o near { got := o.gathered, sent := [], bad := none, wait := false }
  match r.2.bad with
  | some (c, a) => some (loadFails r.1 x o c a)
  | none =>
    if r.2.wait then none
    else
      let q := askLanes r.1 x o far
      let sent := r.2.sent ++ q.2
      if sent = [] then some (again q.1 x (fun y => finishLoad y o (r.2.got.filter (fun g => g.1 != oldKey) ++ r.2.got.filter (fun g => g.1 == oldKey))))
      else some (again q.1 x (fun y => setOp y { o with started := true, awaiting := sent, gathered := r.2.got }))

def performLoad (s : State) (x : Ctx) (o : MemOp) : Option State :=
  match wholeLoad s x o with
  | none => pieceLoad s x o
  | some (p, va, spec) =>
    if !reachable s p.node then some (loadFails s x o 17 va)
    else
      let r := sendReq s (originOf x o.seq false) p.node 0 .read 1 p.addr va 128 spec [] 0 []
      some (again r.1 x (fun y => setOp y { o with started := true, awaiting := [r.2] }))

/-! ## Stores (07 R244 to R247) -/

/-- A byte mask of a list of runs in a line. -/
def lineMask (base : Nat) (ws : List (Nat × List Byte)) : Nat :=
  ws.foldl (fun m w => m ||| ((2 ^ w.2.length - 1) * 2 ^ (w.1 - base))) 0

/-- The 128 bytes of a line with runs written into it. -/
def lineBytes (base : Nat) (ws : List (Nat × List Byte)) : List Byte :=
  ws.foldl (fun l w => overlayRun base l w) (List.replicate 128 0)

/-- A store to the containment window: frees a poison record, or clears the overflow bit (12 R413, R416). -/
def containPut (s : State) (a : Nat) (w : Nat) : State :=
  let o := a - containBase
  if o = 0x4000 then (if w % 2 = 1 then modPkg s (fun g => { g with poisonOver := false }) else s)
  else modPkg s (fun g => { g with poisonRecs := smDel g.poisonRecs ((o - 0x2000) / 16) })

/-- Where the runs of a store go; a trap where a translation fails. -/
def storePlaces (s : State) (x : Ctx) (o : MemOp) : List (Nat × List Byte) → State × (List (Nat × Place × List Byte) ⊕ (Nat × Nat))
  | [] => (s, .inl [])
  | (va, bs) :: rest =>
    match opAccess s x o va accWrite with
    | (s1, .bad t) => (s1, .inr (t.cause, va))
    | (s1, .ok p) =>
      if p.space = .peer && !reachable s1 p.node then (s1, .inr (17, va))
      else match storePlaces s1 x o rest with
        | (s2, .inr f) => (s2, .inr f)
        | (s2, .inl l) => (s2, .inl ((va, p, bs) :: l))

/-- A write reaches its bank or its home, or is posted to the host. -/
def putHome (x : Ctx) (ss : Nat) (s : State) (w : Nat × Place × List Byte) : State := homeStored (placeWrite s x ss w.2.1 w.2.2) w.1 w.2.1

/-- Sends the peer runs of a store; answers the requests. -/
def sendWrites (s : State) (x : Ctx) (o : MemOp) (line : Bool) (l : List (Nat × Place × List Byte)) : State × List Nat :=
  match l with
  | [] => (s, [])
  | (va, p, _) :: _ =>
    if line then
      let base := p.addr / 128 * 128
      let ws := l.map (fun w => (w.2.1.addr, w.2.2))
      let r := sendReq s (originOf x o.seq false) p.node 0 .write 0 base (va / 128 * 128) 128 (lineMask base ws) (lineBytes base ws) 0 []
      (r.1, [r.2])
    else l.foldl (fun t w =>
      let r := sendReq t.1 (originOf x o.seq false) w.2.1.node 0 .write 0 w.2.1.addr w.1 w.2.2.length 0 w.2.2 0 []
      (r.1, t.2 ++ [r.2])) (s, [])

/-- A buffered write moves on: from the store buffer to the port, from the port to its home (08 R256). -/
def moveOn (s : State) (x : Ctx) (o : MemOp) : Option State :=
  if !mayMove s x.id o then none
  else if o.done = some 1 then
    let s1 := modPkg s (fun g => { g with orderNo := g.orderNo + 1 })
    some (again s1 x (fun y => setOp y { o with done := some 2, order := s.pkg.orderNo }))
  else
    let vas := (opRanges o.kind).map (·.1)
    let s1 := ((List.range o.gathered.length).zip o.gathered).foldl (fun t w =>
      homeStored (drainWrites t [w.2]) (vas.getD w.1 0) (keyPlace w.2.1)) s
    some (again s1 x (fun y => delOp y o.seq))

/-- A store's first performance. -/
def putStore (s : State) (x : Ctx) (o : MemOp) (line : Bool) (ws : List (Nat × List Byte)) : State :=
  match storePlaces s x o ws with
  | (s1, .inr (c, a)) => opBad s1 x o c a
  | (s1, .inl l) =>
    let far := l.filter (fun w => w.2.1.space == .peer)
    let near := l.filter (fun w => w.2.1.space != .peer)
    if far = [] && o.scope ≤ 2 && near.all (fun w => w.2.1.space == .hbm || w.2.1.space == .carved) then
      let s2 := modPkg s1 (fun g => { g with orderNo := g.orderNo + 1 })
      again s2 x (fun y => countOut (setOp y { o with
        done := some (if o.scope = 2 then 2 else 1), order := s1.pkg.orderNo,
        gathered := near.map (fun w => (placeKey w.2.1, w.2.2)) }) o.ss)
    else
      let s2 := near.foldl (putHome x o.ss) s1
      let r := sendWrites s2 x o line far
      if r.2 = [] then again r.1 x (fun y => opOut y o)
      else if o.scope ≤ 3 then
        again (keepPackets r.1 r.2) x (fun y => setOp y { o with started := true, done := some 3, awaiting := r.2 })
      else again r.1 x (fun y => setOp y { o with started := true, awaiting := r.2 })

def performStore (s : State) (x : Ctx) (o : MemOp) (line : Bool) (ws : List (Nat × List Byte)) : Option State :=
  if o.done.isSome then moveOn s x o
  else match ws with
    | [(a, bs)] => if inContain a then some (again (containPut s a (leNat bs)) x (fun y => opOut y o)) else some (putStore s x o line ws)
    | _ => some (putStore s x o line ws)

/-! ## Atomics and reductions (07 R248 to R251) -/

/-- The new value of an atomic operation (07 R248). -/
def amoNew (e n t u : Nat) : Nat :=
  let f : Fmt := if n = 64 then .fp64 else .fp32
  match e with
  | 0 => (t + u) % 2 ^ n
  | 1 => t &&& u
  | 2 => t ||| u
  | 3 => t ^^^ u
  | 4 => yMin n t u
  | 5 => yMax n t u
  | 6 => min t u
  | 7 => max t u
  | 8 => u
  | 9 => (addCode f .rne t u 0 0).1
  | 10 => (minMaxCode f false t u).1
  | _ => (minMaxCode f true t u).1

/-- A read-modify-write of n bytes at a place: the old value and the state, or poison (07 R254). A touched sector of Mere becomes
raw whatever is written (R233); at the host it follows every write posted before it (08 R270, log 105). -/
def rmwAt (s : State) (va : Nat) (p : Place) (n : Nat) (f : Nat → Option Nat) : State × Option Nat :=
  let s1 := probeRange (if p.space = .host then hostUpTo s (fun _ => true) else s) p n
  if isPoisoned s1 p n then (s1, none)
  else
    let old := leNat (readPlace s1 p n)
    let s2 := match f old with
      | none => rawSectors s1 p n
      | some v => homeWrite s1 p (natLe n v)
    (if (f old).isSome then homeStored s2 va p else homeTouch s2 va p, some old)

/-- The access an atomic makes again (07 R253). -/
def rmwReq : AccReq := accWrite

/-- An atomic that writes is a release (08 R271); a reduction is none. -/
def rmwReleases (s : State) (x : Ctx) (o : MemOp) (red wrote : Bool) : State :=
  if red || !wrote then s else publish s x.id x.env.iter o.pm

/-- An atomic at its place, or its request to a peer. -/
def performRmw (s : State) (x : Ctx) (o : MemOp) (va n pkt : Nat) (red : Bool) (data : List Byte) (f : Nat → Option Nat)
    (fin : Ctx → Nat → Ctx) : State :=
  match opAccess s x o va rmwReq with
  | (s1, .bad t) => opBad s1 x o t.cause va
  | (s1, .ok p) =>
    if p.space = .peer then
      if reachable s1 p.node then
        let r := sendReq (rmwReleases s1 x o red true) (originOf x o.seq false) p.node 0 (if red then .reduction else .atomic) pkt p.addr va n 0 data 0 []
        again r.1 x (fun y => setOp y { o with started := true, awaiting := [r.2] })
      else opBad s1 x o 17 va
    else match rmwAt s1 va p n f with
      | (s2, none) => opBad s2 x o 10 (poisonAt p va ((firstPoisoned s2 p n).getD p.addr))
      | (s2, some old) => again (rmwReleases s2 x o red (f old).isSome) x (fun y => opOut (fin y old) o)

/-- One lane of a `vredm` (07 R251). -/
def vredmLane (f : Fmt) (op : Nat) (m c : Nat) : Nat :=
  match op with
  | 0 => (addCode f .rne m c 0 0).1
  | 1 => (minMaxLane f true m c).1
  | _ => (minMaxLane f false m c).1

/-- Applies the lanes of a `vredm` at a place; the offset of the first poisoned lane, if any. -/
def vredmAt (s : State) (va : Nat) (p : Place) (f : Fmt) (op : Nat) (lanes : List (Nat × Nat)) : State × Option Nat :=
  let w := laneWidth f / 8
  lanes.foldl (fun r l =>
    let q : Place := { p with addr := p.addr + w * l.1 }
    match rmwAt r.1 (va + w * l.1) q w (fun m => some (vredmLane f op m l.2)) with
    | (s1, none) => (s1, r.2.or (some (w * l.1)))
    | (s1, some _) => (s1, r.2)) (s, none)

def performVredm (s : State) (x : Ctx) (o : MemOp) (va f op : Nat) (lanes : List (Nat × Nat)) : State :=
  let fm := fmtOfCode (BitVec.ofNat 4 f)
  let w := laneWidth fm / 8
  match opAccess s x o va rmwReq with
  | (s1, .bad t) => opBad s1 x o t.cause va
  | (s1, .ok p) =>
    if p.space = .peer then
      if reachable s1 p.node then
        let ws := lanes.map (fun l => (p.addr + w * l.1, natLe w l.2))
        let r := sendReq s1 (originOf x o.seq false) p.node 0 .reduction (0x80 + f + 16 * op) p.addr va 128 (lineMask p.addr ws)
          (lineBytes p.addr ws) 0 []
        again r.1 x (fun y => setOp y { o with started := true, awaiting := [r.2] })
      else opBad s1 x o 17 va
    else match vredmAt s1 va p fm op lanes with
      | (s2, none) => again s2 x (fun y => opOut y o)
      | (s2, some off) => opBad s2 x o 10 (va + off)

/-! ## Prefetch (07 R252) -/

/-- `pref`: brings lines of device global memory into Tarn, or fills a translation; elsewhere nothing. -/
def doPref (s : State) (x : Ctx) (o : MemOp) (kind a : Nat) : State :=
  if 2 ^ 56 ≤ a || inMere a || inFifo a || inInval a 128 || inContain a then s
  else match opAccess s x o a accRead with
  | (_, .bad _) => s
  | (s1, .ok p) =>
    if p.space != .hbm then s
    else match kind with
      | 0 => homeTouch s1 a p
      | 2 => (List.range 32).foldl (fun t i =>
          homeTouch t (a / 4096 * 4096 + 128 * i) { p with addr := p.addr / 4096 * 4096 + 128 * i }) s1
      | _ => s1

/-! ## Owner bits (07 R239) -/

/-- Whether an access passed an owner check at its issue: that of every LS and SX operation did (07 R237). -/
def ownerChecked (k : OpKind) : Bool :=
  match k with
  | .loadS _ _ _ _ | .loadV _ _ _ | .loadL _ _ _ _ | .store _ _ | .amo _ _ _ _ _ _ | .cas _ _ _ _ _ _ | .vredm _ _ _ _ | .kld _ _ => true
  | _ => false

/-- Whether an access is one of another context of the gang that passed its owner check in the cycle of a `give` of the range, before
whose change the check came (07 R236, R239). -/
def sameCycle (x : Ctx) (o : MemOp) (r : Nat × Nat) (y : Ctx) (e : MemOp) : Bool :=
  y.env.iter == x.env.iter && y.env.gang == x.env.gang && y.id != x.id && e.issued == o.issued && ownerChecked e.kind
    && rangesMeet [r] (opRanges e.kind)

/-- Whether an access that a `give` waits for is still under way: in the cycle of its issue one may still come. -/
def giveWaits (s : State) (x : Ctx) (o : MemOp) (r : Nat × Nat) (l : List (Nat × Nat × Nat)) : Bool :=
  decide (s.cyc ≤ o.issued) || (allCtxs s ++ s.ghosts).any (fun y => y.ops.any (fun e => sameCycle x o r y e
    || l.any (fun p => p.1 == ctxKey y.id && p.2.1 == y.env.iter && p.2.2 == e.seq)))

/-! ## Barriers and phasers (13 R433, R442) -/

def performBarrier (s : State) (x : Ctx) (o : MemOp) (va : Nat) (f : Barrier → Barrier) (fin : Ctx → Barrier → Ctx) : State :=
  match reachBarrier s (agentOf x o.lvl) va true with
  | (s1, .bad t) => opBad s1 x o t.cause va
  | (s1, .ok p) =>
    let b := readBarrier s1 p
    again (writeBarrier s1 p (f b)) x (fun y => opOut (fin y b) o)

/-! ## Jobs (13 R448) -/

/-- `jraise` at the block's home (13 R448). -/
def performJraise (s : State) (x : Ctx) (o : MemOp) (a amount : Nat) : State :=
  if amount = 0 then again s x (fun y => opOut y o)
  else match sharedRead s x.env.asn x.env.root a 1 with
  | (s1, none) => opBad s1 x o 7 a
  | (s1, some bs) =>
    let w := leNat bs
    let sum := w % 2 ^ 48 + amount
    if sum < 2 ^ 48 then
      again (sharedWrite s1 x.env.asn x.env.root a (w / 2 ^ 48 * 2 ^ 48 + sum)) x (fun y => opOut y o)
    else
      let s2 := sharedWrite s1 x.env.asn x.env.root a (w / 2 ^ 48 * 2 ^ 48 + (2 ^ 48 - 1))
      let s3 := match sharedRead s2 x.env.asn x.env.root (a + 16) 1 with
        | (s4, none) => s4
        | (s4, some st) => let v := leNat st; sharedWrite s4 x.env.asn x.env.root (a + 16) (if bit v 3 then v else v + 8)
      again (postNotice s3 9 x.env.tag.toNat a) x (fun y => opOut y o)

/-! ## Handle instructions (12 R394 to R396) -/

/-- Bytes of the tensors pinned in Tarn. -/
def pinnedBytes (s : State) : Nat :=
  (((validEntries s).map (fun i => hEntryOf (entryWords s i))).filter (fun e => e.res == 2)).map (fun e => hDataLen e + hMetaLen e) |>.sum

/-- What a handle instruction does to a valid entry that is not FROZEN: the state and its status, or the failure of its loads, which
leaves residency and lines as they were (log 103). -/
def handleAction (s : State) (code x i : Nat) (op1 : Word) (e : HEntry) (tr : State → Nat → State × Acc) : State × (Nat ⊕ TrapC) :=
  match code with
  | 0x15 =>
    if x = 1 then (if e.res = 2 then setRes s i 1 else s, .inl 0)
    else if e.res = 2 then (s, .inl 0)
    else if 1536 * 2 ^ 20 < pinnedBytes s + hDataLen e + hMetaLen e + s.pkg.carve * 64 * 2 ^ 20 + 256 * 2 ^ 20 then (s, .inl 1)
    else match loadTensor (setRes s i 2) i tr e with
      | (s1, none) => (s1, .inl 0)
      | (s1, some t) => (modPkg (setRes s1 i e.res) (fun g => { g with lines := s.pkg.lines }), .inr t)
  | 0x16 =>
    let p := entryPlace s i
    let w := leNat (readPlace s p 8)
    (writePlace s p (natLe 8 (w - bits w 11 9 * 512 + bits op1.toNat 2 0 * 512)), .inl 0)
  | 0x17 => if e.res = 1 then (setRes s i 3, .inl 0) else if e.res = 2 then (s, .inl 2) else (s, .inl 0)
  | _ => if e.res = 1 || e.res = 3 then (evictTensor s i, .inl 0) else if e.res = 2 then (s, .inl 2) else (s, .inl 0)

/-- The entry a handle instruction acts on; none where it has V = 0, is invalid or is poisoned (12 R389, R394). -/
def liveEntry (s : State) (i : Nat) : State × Option HEntry :=
  let s1 := probeEntry s i
  let e := hEntryOf (entryWords s1 i)
  (s1, if !entryPoisoned s1 i && e.valid && !hInvalid e then some e else none)

/-- Steps 1 and 2 of a migration (12 R396). -/
def startMigration (s : State) (x : Ctx) (o : MemOp) (i : Nat) (e : HEntry) (op1 op2 : Word) : State :=
  let s1 := writePlace (setRes s i 4) (tablePlace s.pkg.hBase (128 * i + 0x20)) (natLe 8 op1.toNat ++ natLe 8 op2.toNat)
  let m : Migration := { idx := i, prev := e.res, ctx := x.id, seq := o.seq, iter := x.env.iter, base := e.base,
                         len := hDataLen e, metaBase := e.metaB, metaLen := hMetaLen e, cl := x.id.cl,
                         asn := x.env.asn, root := x.env.root, lvl := o.lvl }
  let s2 := modPkg s1 (fun g => { g with migrations := g.migrations ++ [m], frozen := g.frozen ++ [i] })
  again s2 x (fun y => setOp y { o with started := true })

/-- The result of a SY operation, written as an interlocked register. -/
def statusOf (s : State) (x : Ctx) (o : MemOp) (d v : Nat) : State :=
  again s x (fun y => opOut (opResult y o.seq (.s d) v) o)

def performHandle (s : State) (x : Ctx) (o : MemOp) (d code x0 i : Nat) (op1 op2 : Word) : Option State :=
  if o.started then none
  else match liveEntry s i with
  | (s1, none) => some (statusOf s1 x o d 3)
  | (s1, some e) =>
    if e.res = 4 then none
    else if code = 0x19 then (if 16 ≤ s1.pkg.frozen.length then none else some (startMigration s1 x o i e op1 op2))
    else
      match handleAction (probeTable s1) code x0 i op1 e (fun t va => opAccess t x o va accRead) with
      | (s2, .inl v) => some (statusOf s2 x o d v)
      | (s2, .inr t) => some (opBad s2 x o t.cause t.addr)

/-! ## `purge` (12 R421) -/

def performPurge (s : State) (x : Ctx) (o : MemOp) (d tag : Nat) : Option State :=
  let t := BitVec.ofNat 16 tag
  if tag = 0 then some (statusOf s x o d 4)
  else if !o.started then
    let s1 := again s x (fun y => setOp y { o with started := true })
    some (startPurge s1 t 2)
  else if s.pkg.purges.any (fun p => p.tag == t) then none
  else some (statusOf (compared s 2) x o d 0)

/-! ## The event -/

/-- Performs an arrival of `pharr` (13 R442); a retired context's membership is then dropped (R441). -/
def performArrival (s : State) (x : Ctx) (n : Nat) : State :=
  let p := getPh s n
  let s1 := putPh s n (phDue { p with pend := p.pend - 1 })
  match getCtx s x.id with
  | some y => if y.env.iter = x.env.iter then s1 else phDropAll s1 x.id x.env.iter (fun m => m != n)
  | none => phDropAll s1 x.id x.env.iter (fun m => m != n)

/-- Performs an operation; none where it is not yet possible. -/
def performKind (s : State) (x : Ctx) (o : MemOp) : Option State :=
  match o.kind with
  | .loadS _ _ _ _ => performLoad s x o
  | .loadV _ _ _ => performLoad s x o
  | .loadL _ _ _ _ => performLoad s x o
  | .kld _ _ => performLoad s x o
  | .store line ws => performStore s x o line ws
  | .amo d e a n u sx =>
    some (performRmw s x o a n (e + 16 * sizeCode n) d.isNone (natLe n u) (fun t => some (amoNew e (8 * n) t u)) (fun y t =>
      match d with
      | none => y
      | some r => opResult y o.seq (.s r) (extTo sx (8 * n) t)))
  | .cas d a n ex nw sx =>
    some (performRmw s x o a n (128 + 16 * sizeCode n) false (natLe n ex ++ natLe n nw)
      (fun t => if t = ex then some nw else none) (fun y t => opResult y o.seq (.s d) (extTo sx (8 * n) t)))
  | .vredm a f op lanes => some (performVredm s x o a f op lanes)
  | .pref kind a => some (again (doPref s x o kind a) x (fun y => opOut y o))
  | .push _ _ => none
  | .inval w =>
    if o.started then none
    else
      let s1 := modPkg s (fun g => { g with invals := g.invals ++ [{ word := w, src := some (x.id, o.seq) }] })
      some (again s1 x (fun y => setOp y { o with started := true }))
  | .give g n l => if giveWaits s x o (mereBase + g * 4096, n * 4096) l then none else some (again s x (fun y => opOut y o))
  | .tbinit a n => some (performBarrier s x o a (fun _ => tbFresh n) (fun y _ => y))
  | .tbarr d a => some (performBarrier (publish s x.id x.env.iter o.pm) x o a tbArrive (fun y b => opResult y o.seq (.s d) b.phase))
  | .pharr d n ph => some (statusOf (performArrival (publish s x.id x.env.iter o.pm) x n) x o d ph)
  | .launch d e on => some (statusOf (setArm s e on) x o d (launchWord s e 0 % 2))
  | .jraise a m => some (performJraise s x o a m)
  | .handle d code x0 i op1 op2 => performHandle s x o d code x0 i op1 op2
  | .purge d t => performPurge s x o d t
  | .cmd _ => none

/-- OPERATION_PERFORMED (08 R255, R258): the operation `seq` of the context, resident or retired, which has issued (log 124). -/
def performOp (s : State) (c : CtxId) (seq : Nat) : Option State :=
  match findOwner s c seq with
  | none => none
  | some x =>
    match findOp x seq with
    | none => none
    | some o =>
      if !o.awaiting.isEmpty then none
      else if o.done.isNone && !o.started && (!mayPerform x o || (reachesHome o && behindReleased s x o.phys)) then none
      else performKind s x o

/-- Performs the selected operations of a context in program order: what the hardware waits for (03 R85, 06 R212). `fuel` bounds the
number of their steps. -/
def forceOps (s : State) (c : CtxId) (sel : MemOp → Bool) : Nat → State
  | 0 => s
  | n + 1 =>
    match getCtx s c with
    | none => s
    | some x =>
      match x.ops.find? (fun o => sel o && o.awaiting.isEmpty && !o.started) with
      | none => s
      | some o => match performOp s c o.seq with
        | none => s
        | some s1 => forceOps s1 c sel n

/-- Whether a context has an operation of a selection. -/
def hasOp (s : State) (c : CtxId) (sel : MemOp → Bool) : Bool :=
  match getCtx s c with
  | none => false
  | some x => x.ops.any sel

/-- For an operation that is performed at its issue: the operations of lower slots of the same issue that it follows (03 R85, 08
R258, R259) are performed first; none where one cannot be yet (log 93). -/
def lowerDone (s : State) (c : CtxId) (sel : MemOp → Bool) : Option State :=
  let s1 := forceOps s c sel 16
  if hasOp s1 c sel then none else some s1

/-- OPERATION_PERFORMED as a step. -/
def execOperationPerformed (c : CtxId) (seq : Nat) (s : State) : Host.Outcome State Fault Refusal :=
  match performOp s c seq with
  | none => .refused (.notEnabled "OPERATION_PERFORMED")
  | some s1 => .next s1

end Sys2Proof.Machine
end

