-- ==== Sys2Proof/Machine/Branch.lean ====
section
/-!
DEFINITION. The BR slot (04 R138 to R145, 03 R90 to R92) and `nop`. A BR operation's effect follows its bundle's last issue.
-/
namespace Sys2Proof.Machine

/-- A BR operation: weight 1 (13 R449). -/
def brOp (reads : List RegId) (writes : List RegId) (run : Iss → Ctx → State → OpRes) (post : Iss → Ctx → State → PostRes) : SlotOp :=
  { plainOp (fun _ => reads) writes 1 run with post := post }

/-- No effect in the issue. -/
def runNone (_ : Iss) (_ : Ctx) (s : State) : OpRes := .ok s [] 0

/-- Sets the program counter. -/
def setPc (s : State) (x : Ctx) (pc : BitVec 48) : State := modCtx s x.id (fun y => { y with pc := pc })

/-! ## `nop` (03 R100) -/

/-- In a BR slot `nop` goes on to the next bundle; in a sticky slot the issue clears the slot's state (03 R83). A slot word
0 is squashed of weight. -/
def opNop : SlotOp :=
  { plainOp (fun _ => []) [] 0 runNone with post := fun i x s => .ok (setPc s x (nextPc x i.len)) }

/-! ## `tree` (03 R90 to R92) -/

/-- The trees of 03 R90. -/
inductive Tree where
  | leaf (n : Nat)
  | node (test : Nat) (yes no : Tree)
  deriving DecidableEq, Repr, Inhabited

/-- The tree of a shape; tests 0 to 3 are A to D. -/
def treeOf (shape : Nat) : Tree :=
  let l := Tree.leaf
  let n := Tree.node
  match shape with
  | 0 => n 0 (l 1) (n 1 (l 2) (n 2 (l 3) (n 3 (l 4) (l 5))))
  | 1 => n 0 (l 1) (n 1 (l 2) (n 2 (n 3 (l 3) (l 4)) (l 5)))
  | 2 => n 0 (l 1) (n 1 (n 2 (l 2) (l 3)) (n 3 (l 4) (l 5)))
  | 3 => n 0 (l 1) (n 1 (n 2 (l 2) (n 3 (l 3) (l 4))) (l 5))
  | 4 => n 0 (l 1) (n 1 (n 2 (n 3 (l 2) (l 3)) (l 4)) (l 5))
  | 5 => n 0 (n 1 (l 1) (l 2)) (n 2 (l 3) (n 3 (l 4) (l 5)))
  | 6 => n 0 (n 1 (l 1) (l 2)) (n 2 (n 3 (l 3) (l 4)) (l 5))
  | 7 => n 0 (n 1 (l 1) (n 2 (l 2) (l 3))) (n 3 (l 4) (l 5))
  | 8 => n 0 (n 1 (n 2 (l 1) (l 2)) (l 3)) (n 3 (l 4) (l 5))
  | 9 => n 0 (n 1 (l 1) (n 2 (l 2) (n 3 (l 3) (l 4)))) (l 5)
  | 10 => n 0 (n 1 (l 1) (n 2 (n 3 (l 2) (l 3)) (l 4))) (l 5)
  | 11 => n 0 (n 1 (n 2 (l 1) (l 2)) (n 3 (l 3) (l 4))) (l 5)
  | 12 => n 0 (n 1 (n 2 (l 1) (n 3 (l 2) (l 3))) (l 4)) (l 5)
  | _ => n 0 (n 1 (n 2 (n 3 (l 1) (l 2)) (l 3)) (l 4)) (l 5)

def evalTree (t : Tree) (test : Nat → Bool) : Nat :=
  match t with
  | .leaf n => n
  | .node i y z => if test i then evalTree y test else evalTree z test

/-- A test field: the condition register in [3:0], the polarity in [4] (03 R90). -/
def testField (o : BT) (i : Nat) : BitVec 5 :=
  match i with
  | 0 => o.ta | 1 => o.tb | 2 => o.tc | _ => o.td

def testHolds (o : BT) (x : Ctx) (i : Nat) : Bool :=
  let f := testField o i
  rdC x (f.extractLsb' 0 4).toNat != f.getLsbD 4

/-- `eval_tree`: the selected leaf, 1 to 5. -/
def leafOf (o : BT) (x : Ctx) : Nat := evalTree (treeOf o.shape.toNat) (testHolds o x)

/-- Whether a leaf is marked fresh. -/
def freshLeaf (o : BT) (leaf : Nat) : Bool := o.fresh.getLsbD (leaf - 1)

/-- The target of a leaf (03 R91). -/
def leafTarget (o : BT) (leaf : Nat) (x : Ctx) (len : Nat) : BitVec 48 :=
  if o.fall.getLsbD (leaf - 1) then nextPc x len else x.pc + BitVec.ofInt 48 (8 * (btOff o leaf).toInt)

/-- `tree` in a bundle whose leaf was selected at its first issue. -/
def opTreeAt (o : BT) (leaf : Nat) : SlotOp :=
  brOp [] [] runNone (fun i x s => .ok (setPc s x (leafTarget o leaf x i.len)))

/-- `tree` on its own: the leaf is selected now, and a fresh leaf clears the sticky state. -/
def opTree (o : BT) : SlotOp :=
  brOp ([0, 1, 2, 3].map (fun i => RegId.c ((testField o i).extractLsb' 0 4).toNat)) [] runNone (fun i x s =>
    let leaf := leafOf o x
    let s1 := if freshLeaf o leaf then modCtx s x.id (fun y => { y with sticky := [] }) else s
    .ok (setPc s1 x (leafTarget o leaf x i.len)))

/-! ## Jumps and calls (04 R138 to R140) -/

/-- The target of an offset in 8-byte units. -/
def offTarget (o : BJ) (x : Ctx) : BitVec 48 := x.pc + BitVec.ofInt 48 (8 * o.off.toInt)

def opJmp (o : BJ) : SlotOp := brOp [] [] runNone (fun _ x s => .ok (setPc s x (offTarget o x)))

/-- A register target: ALIGN with sub-cause 1 where bits [2:0] or [63:48] are not 0 (04 R139). -/
def badTarget (w : Word) : Option TrapC :=
  if w.extractLsb' 0 3 != 0 || w.extractLsb' 48 16 != 0 then
    some { cause := 6, sub := 1, reg := 0, addr := w.toNat % 2 ^ 56 } else none

/-- A jump to a register, with a link where `link` is set. -/
def jumpReg (r : Nat) (link : Bool) : SlotOp :=
  brOp [.s r] (if link then [.s 63] else [])
    (fun i x s => match badTarget (rdS x r) with
      | some t => .trap t
      | none => .ok s (if link then [(.s 63, (nextPc x i.len).toNat)] else []) 0)
    (fun _ x s => .ok (setPc s x ((rdS x r).extractLsb' 0 48)))

def opJmpr (o : BG) : SlotOp := jumpReg o.a.toNat false
def opCallr (o : BG) : SlotOp := jumpReg o.a.toNat true
def opRet : SlotOp := jumpReg 63 false

def opCall (o : BJ) : SlotOp :=
  brOp [] [.s 63] (fun i x s => .ok s [(.s 63, (nextPc x i.len).toNat)] 0) (fun _ x s => .ok (setPc s x (offTarget o x)))

/-! ## Traps and returns (04 R141, R142; 06 R208, R212) -/

/-- SOFTWARE, taken after the bundle; its entry waits for interlocked results under way. -/
def softTrap (s : State) (x : Ctx) (imm : Nat) (pc : BitVec 48) : State :=
  match getCtx s x.id with
  | none => s
  | some y =>
    if y.lvl < 2 && unfinished y then putCtx s { y with trapWait := some (BitVec.ofNat 64 imm, pc) }
    else takeTrap s x.id { cause := 20, info := BitVec.ofNat 64 imm, addr := 0 } pc

def opTrap (o : BI) : SlotOp := brOp [] [] runNone (fun i x s => .ok (softTrap s x o.imm.toNat (nextPc x i.len)))

/-- The parts of the save area that `eret` reads: its frame slot, and of slot 0 what a return to UH takes (06 R212). -/
def eretAreas (x : Ctx) : List (Nat × Nat) :=
  (frameAddr x (eretSlot x), frameBytes x.win) :: (if eretSlot x = 1 then [(frameAddr x 0, 0x50)] else [])

/-- Whether an operation of the context to what `eret` reads is still under way. -/
def eretBusy (x : Ctx) : Bool := x.ops.any (fun o => rangesMeet (eretAreas x) (opRanges o.kind))

/-- `eret`: PRIV at U; held while earlier operations to the save area are under way; the return after the bundle's other
slots, whose own accesses to the area come first. Where one of them cannot be performed at once the return waits for it. -/
def opEret : SlotOp :=
  { brOp [] [] runNone (fun _ x s =>
      let s1 := (eretAreas x).foldl (fun u r => forceOps u x.id (fun e => rangesMeet [r] (opRanges e.kind)) 8) s
      match getCtx s1 x.id with
      | none => .ok s1
      | some y =>
        if eretBusy y then .ok (putCtx s1 { y with eretWait := true })
        else match returnTrap s1 y with
        | .ok s2 => .ok s2
        | .trap t => .trap t) with
    priv := fun x => if x.lvl = 0 then some { cause := 4, sub := 0, reg := 0, addr := 0 } else none
    hold := fun _ _ x => eretBusy x }

/-! ## `halt` and `yield` (04 R143, R144) -/

/-- Whether a retired context has nothing under way: no operation, and no command counted (01 R36). -/
def drained (x : Ctx) : Bool := x.ops.isEmpty && x.cnt.all (fun p => p.2 == 0)

/-- A context retires: its position and window are free at once, its memberships are dropped, each after its own
arrivals as `phdrop` would (13 R429, R441), its operations go on (01 R35). -/
def retire (s : State) (c : CtxId) : State :=
  match getCtx s c with
  | none => s
  | some x =>
    let s1 := phDropAll (dropCtx s c) c x.env.iter (phBusy x)
    let g := { x with pend := [], land := [], sticky := [], rep := none, events := [] }
    giveUp (if drained x then s1 else { s1 with ghosts := s1.ghosts ++ [g] }) x

/-- `halt` consumes every held failure (06 R204). -/
def opHalt : SlotOp :=
  { brOp [] [] runNone (fun _ x s => .ok (retire s x.id)) with consumes := fun _ _ => true }

def opYield : SlotOp := brOp [] [] runNone (fun i x s => .ok (giveUp (setPc s x (nextPc x i.len)) x))

/-! ## Meanings, one per arm of `exec` -/

/-- NOP (R100). -/
def execNop (t : Slot) (s : State) : Host.Outcome State Fault Refusal := issueAlone (.nop t) opNop s

/-- TREE (R90). -/
def execTree (o : BT) (s : State) : Host.Outcome State Fault Refusal := issueAlone (.tree o) (opTree o) s

/-- JMP (R138). -/
def execJmp (o : BJ) (s : State) : Host.Outcome State Fault Refusal := issueAlone (.jmp o) (opJmp o) s

/-- JMPR (R139). -/
def execJmpr (o : BG) (s : State) : Host.Outcome State Fault Refusal := issueAlone (.jmpr o) (opJmpr o) s

/-- CALL (R138). -/
def execCall (o : BJ) (s : State) : Host.Outcome State Fault Refusal := issueAlone (.call o) (opCall o) s

/-- CALLR (R138). -/
def execCallr (o : BG) (s : State) : Host.Outcome State Fault Refusal := issueAlone (.callr o) (opCallr o) s

/-- RET (R138). -/
def execRet (s : State) : Host.Outcome State Fault Refusal := issueAlone .ret opRet s

/-- TRAP (R141). -/
def execTrap (o : BI) (s : State) : Host.Outcome State Fault Refusal := issueAlone (.trap o) (opTrap o) s

/-- ERET (R212). -/
def execEret (s : State) : Host.Outcome State Fault Refusal := issueAlone .eret opEret s

/-- HALT (R143). -/
def execHalt (s : State) : Host.Outcome State Fault Refusal := issueAlone .halt opHalt s

/-- YIELD (R144). -/
def execYield (s : State) : Host.Outcome State Fault Refusal := issueAlone .yield opYield s

end Sys2Proof.Machine
end

