-- ==== Sys2Proof/Machine/Commands.lean ====
section
/-!
DEFINITION. The MX and CP slots at issue (09 R280 to R298, 10 R309 to R333, 11 R368 to R370): operand checks, the lease and
bank conditions, and the capture of a command into its queue. What a command does stands in Array.lean and CopyEngine.lean.
-/
namespace Sys2Proof.Machine

/-! ## Handle entries as a core sees them (09 R288, 12 R389, R398) -/

/-- The words of an entry from the core's handle cache, or from memory. -/
def cachedWords (s : State) (x : Ctx) (i : Nat) : Option (List Word) := smFind (getCore s x.id.cl x.id.core).hcache i

/-- Reads an entry for an operation that names it; none where it is invalid or poisoned. -/
def seeEntry (s : State) (x : Ctx) (i : Nat) : State × Option HEntry :=
  match cachedWords s x i with
  | some ws => let e := hEntryOf ws; (s, if e.valid && !hInvalid e then some e else none)
  | none => liveEntry s i

/-- The address of a handle entry, as a failure at an engine reports it (12 R389). -/
def entryAddr (s : State) (i : Nat) : Nat := bits s.pkg.hBase.toNat 51 0 + 128 * i

/-- Fills the handle cache. -/
def fillEntry (s : State) (x : Ctx) (i : Nat) : State :=
  match cachedWords s x i with
  | some _ => s
  | none => modCore s x.id.cl x.id.core (fun y => { y with hcache := smPut y.hcache i (entryWords s i) })

/-- ILLEGAL_OP of an operation that names handle register r (12 R389). -/
def handleIll (s : State) (x : Ctx) (r : Nat) : Option (State × TrapC) :=
  let w := rdH x r
  if hValid w then
    match seeEntry s x (hIdx w) with
    | (s1, none) => some (s1, { cause := 2, sub := 2, reg := 0, addr := 0 })
    | (_, some _) => none
  else none

/-- PAGE_NOTPRESENT of a handle register with V = 0 (04 R115). -/
def handleTrap (x : Ctx) (r : Nat) : Option TrapC := if hValid (rdH x r) then none else some (trapC 7 2 0)

/-- The entry a valid handle register names, where it is valid. -/
def entryOf (s : State) (x : Ctx) (r : Nat) : Option HEntry :=
  if hValid (rdH x r) then (seeEntry s x (hIdx (rdH x r))).2 else none

/-! ## Mere ranges of a gang (09 R287, 10 R319) -/

/-- PAGE_NOTPRESENT where a range of n bytes reaches outside the gang's granules. -/
def mereInside (s : State) (x : Ctx) (a n : Nat) : Option TrapC :=
  let have_ := granCount s x.id.cl x.env.iter x.env.gang
  if n = 0 || (inMere a && a - mereBase + n ≤ have_ * 4096) then none else some (trapC 7 0 a)

/-- The checks of a 4 KiB-aligned Mere operand of n bytes (09 R287). -/
def mereChecks (s : State) (x : Ctx) (a n : Nat) : List TrapC :=
  (if a % 4096 != 0 then [trapC 6 0 a] else [])
    ++ (if !inMere a then [trapC 8 3 a] else (mereInside s x a (ceilDiv n 4096 * 4096)).toList)

/-- The first trap by cause. -/
def leastTrap (l : List TrapC) : Option TrapC := l.foldl minTrap none

/-! ## Queues -/

/-- Entries a queue holds. -/
def usedEntries (q : List Cmd) : Nat := (q.map (·.entries)).sum

def mxFree (s : State) (x : Ctx) : Nat := 16 - usedEntries (getCore s x.id.cl x.id.core).mxq
def cpFree (s : State) (x : Ctx) : Nat := 32 - usedEntries (getCore s x.id.cl x.id.core).cpq

/-- A command as captured, before its operands. -/
def baseCmd (x : Ctx) (i : Iss) (w : Word) (sg : BitVec 6) (entries : Nat) : Cmd :=
  { ctx := x.id, seq := 0, iter := x.env.iter, tag := x.env.tag, lvl := x.lvl, prio := x.env.prio,
    word := w &&& 0x1FFF_FFFF_FFFF_FFFF, slot := i.slot, bundle := x.pc, entries := entries, rm := fpRm x, sat := fpSat x,
    hidx := 0, hidxB := 0, wait := sgWait x sg, sig := sgSignal x sg, ops := [0, 0, 0, 0], desc := 0, kval := 0, order := 0,
    keep := [], inArr := false, started := false, waitOk := false, prog := 0, stop := none, awaiting := [], phase := 0,
    nonfin := 0, novalid := 0, firstNv := 0, failed := none }

/-- A command enters its queue (10 R309, R311): it takes its sequence number and counts on its stream. -/
def enqueue (s : State) (x : Ctx) (i : Iss) (ss : BitVec 4) (pm : BitVec 16) (scope : Nat) (ranges : List (Nat × Nat)) (isCp : Bool)
    (c : Cmd) : State :=
  let q := nextSeq s x.id
  let s1 := startOp s x i ss.toNat pm scope (.cmd ranges)
  let c1 := { c with seq := q, order := s1.pkg.orderNo }
  let s2 := modPkg s1 (fun g => { g with orderNo := g.orderNo + 1 })
  modCore s2 x.id.cl x.id.core (fun y => if isCp then { y with cpq := y.cpq ++ [c1] } else { y with mxq := y.mxq ++ [c1] })

/-! ## Scope of a command (08 R264) -/

/-- The scope that the memory type of an address asks for. -/
def typeScope (s : State) (x : Ctx) (va : Nat) : Nat :=
  if inMere va || 2 ^ 56 ≤ va then 3
  else match (lookupLeaf s x.id.cl x.env.asn x.env.root va).2 with
    | none => 3
    | some leaf => match bits leaf 63 61 with
      | 2 => 4
      | 3 => 5
      | _ => 3

/-- The pages a range touches, by an address in each. -/
def rangePages (r : Nat × Nat) : List Nat :=
  if r.2 = 0 then [] else (List.range ((r.1 + r.2 - 1) / 4096 - r.1 / 4096 + 1)).map (fun i => (r.1 / 4096 + i) * 4096)

/-- The widest scope among the memory types of some ranges. -/
def rangesScope (s : State) (x : Ctx) (rs : List (Nat × Nat)) : Nat :=
  (rs.flatMap rangePages).foldl (fun m a => max m (typeScope s x a)) 3

/-- The role word that an address word's role names in the binding group (12 R410, R412). -/
def roleOf (x : Ctx) (w : Nat) : Option Word := (x.env.roles.drop (bits w 62 57)).head?

/-- The scope a role asks for: fabric where it names another package. -/
def roleScope (s : State) (x : Ctx) (w : Nat) : Nat :=
  if bit w 63 then
    match roleOf x w with
    | some r => if bits r.toNat 1 0 = 3 && bits r.toNat 13 2 != nodeNo s then 4 else 3
    | none => 3
  else 3

def findIter (s : State) (uid : Nat) : Option Iter := s.spring.iters.find? (fun i => i.uid == uid)

/-- The lowest-indexed gang of an iteration on a cluster. -/
def gangOn (i : Iter) (cl : Nat) : Option Nat := ((List.range i.gangs.length).find? (fun g => (i.gangs.getD g default).cl == cl))

/-- The gang that a kind-3 role names here: of the iterations with the tag resident on the cluster, the one placed first
(12 R412). -/
def taggedGang (s : State) (cl tag : Nat) : Option (Nat × Nat) :=
  let l := s.spring.iters.filter (fun i => i.tag.toNat == tag && i.state != .preempted && i.state != .reserving && (gangOn i cl).isSome)
  (l.foldl (fun (b : Option Iter) i => match b with
    | none => some i
    | some j => if i.placedAt < j.placedAt then some i else some j) none).map (fun i => (i.uid, (gangOn i cl).getD 0))

/-- The key of the bytes that a role's addresses name, above every address: 0 for the context's own gang, one for each other gang
(08 R259). -/
def roleKey (s : State) (x : Ctx) (w : Nat) : Nat :=
  let mine (cl g : Nat) : Nat := if cl == x.id.cl && g == x.env.gang then 0 else 2 ^ 60 * (2 + cl)
  if !bit w 63 then 0
  else match roleOf x w with
  | none => 2 ^ 60
  | some r =>
    let v := r.toNat
    if bits v 1 0 ≤ 1 then
      match (findIter s x.env.iter).bind (fun i => gangOn i (bits v 8 2)) with
      | none => 2 ^ 60
      | some g => mine (bits v 8 2) g
    else if bits v 1 0 = 3 then
      let cl := bits v 20 14
      let tag := if bits v 36 21 = 0 then x.env.tag.toNat else bits v 36 21
      if bits v 13 2 = nodeNo s then
        match taggedGang s cl tag with
        | none => 2 ^ 60
        | some (u, g) => if u = x.env.iter then mine cl g else 2 ^ 60 * (2 ^ 8 + (u * 128 + cl) * 2)
      else 2 ^ 60 * (2 ^ 8 + ((bits v 13 2 * 2 ^ 16 + tag) * 128 + cl) * 2 + 1)
    else 2 ^ 60

/-- Ranges as an address word's role names them. -/
def keyed (s : State) (x : Ctx) (w : Nat) (l : List (Nat × Nat)) : List (Nat × Nat) := l.map (fun r => (r.1 + roleKey s x w, r.2))

/-- The range that an address word and a length name. -/
def wordRange (s : State) (x : Ctx) (w n : Nat) : List (Nat × Nat) := keyed s x w [(bits w 55 0, n)]

/-! ## The lease and the banks (09 R280 to R283) -/

/-- The class a core asks with: the highest launch priority of its contexts blocked on the lease. -/
def leaseClass (s : State) (cl core : Nat) : Option Nat :=
  let l := (allCtxs s).filter (fun x => x.id.cl == cl && x.id.core == core && (match x.status with
    | .blocked w => w.any (fun p => p.2 == .lease)
    | _ => false))
  if l = [] then none else some ((l.map (fun x => x.env.prio)).foldl max 0)

/-- Whether another core of the cluster waits for the lease; with a class above c where one is given. -/
def leaseWaiters (s : State) (cl : Nat) (holder : Nat) (above : Option Nat) : Bool :=
  (List.range 8).any (fun k => k != holder && (match leaseClass s cl k, above with
    | some c, some a => decide (a < c)
    | some _, none => true
    | none, _ => false))

/-- Whether the lease has ended by count, by time or by a request of a higher class (09 R283). -/
def leaseOver (s : State) (cl : Nat) : Bool :=
  let l := (getCl s cl).lease
  decide (64 ≤ l.used) || decide (l.since + 8192 ≤ s.ran) || leaseWaiters s cl (l.holder.getD 8) (some l.cls)

/-- Whether a core may issue under the lease. -/
def leaseHeld (s : State) (cl core : Nat) : Bool :=
  (getCl s cl).lease.holder == some core && (!leaseOver s cl || !leaseWaiters s cl core none)

/-- A lease that ends where no other core waits: its holder keeps it under a fresh count (09 R283). -/
def leaseFresh (s : State) (cl : Nat) : State :=
  modCl s cl (fun c => { c with lease := { c.lease with used := 0, since := s.ran } })

/-- An MX operation is accepted under the lease; the 64th ends it. -/
def leaseUse (s : State) (cl : Nat) : State :=
  let s1 := if leaseOver s cl then leaseFresh s cl else s
  let s2 := modCl s1 cl (fun c => { c with lease := { c.lease with used := c.lease.used + 1 } })
  if 64 ≤ (getCl s2 cl).lease.used && !leaseWaiters s2 cl ((getCl s2 cl).lease.holder.getD 8) none then leaseFresh s2 cl else s2

/-- The lease item of `mrel`: it ends the lease of a holding core, which keeps it under a fresh count where no other core waits (09
R283, R298; log 119). -/
def leaseGive (s : State) (cl core : Nat) : State :=
  if (getCl s cl).lease.holder != some core then s
  else if leaseWaiters s cl core none then modCl s cl (fun c => { c with lease := { c.lease with holder := none, last := core } })
  else leaseFresh s cl

/-- A lease whose time has passed while no other core waited goes on under a fresh count from that time (09 R283). -/
def leaseRenew (now : Nat) (waits : Bool) (l : Lease) : Lease :=
  if l.holder.isSome && !waits && l.since + 8192 ≤ now then { l with used := 0, since := now - (now - l.since) % 8192 } else l

/-- The gang of a context. -/
def gangKey (x : Ctx) : Nat × Nat := (x.env.iter, x.env.gang)

/-- An empty bank bound to a gang. -/
def freshBank (g : Nat × Nat) : Bank := { Bank.free with bound := some g }

/-- Binds a bank to a context's gang at issue (09 R280). A free bank is emptied; a pending release of it is cancelled. -/
def bindBank (s : State) (x : Ctx) (b : Nat) : State :=
  let s1 := if (getBank s x.id.cl b).bound = none then putBank s x.id.cl b (freshBank (gangKey x)) else s
  modCl s1 x.id.cl (fun c => { c with cores := c.cores.map (fun k => (k.1, { k.2 with mxq := k.2.mxq.map (fun m =>
    if wordOp m.word = 7 && m.iter == x.env.iter && ((getOwner s m.ctx m.iter).map (fun y => y.env.gang)) == some x.env.gang
      && m.word.getLsbD (7 + b) then { m with keep := if m.keep.contains b then m.keep else b :: m.keep }
    else m) })) })

/-- Whether the array lacks a bank: in halves only a0 and a1 exist; out of service none (09 R307, R308). -/
def bankAbsent (s : State) (cl : Nat) (bs : List Nat) : Option TrapC :=
  let m := (getCl s cl).rowMap.mode.toNat
  if m = 2 || (m = 1 && bs.any (fun b => 2 ≤ b)) then some (trapC 3 0 0) else none

/-! ## MX operations -/

/-- ILLEGAL_OP of a command's object values (10 R314). -/
def objIll (s : State) (x : Ctx) (sg : BitVec 6) : Option (State × TrapC) :=
  if objBad (sgWait x sg) || objBad (sgSignal x sg) then some (s, { cause := 2, sub := 2, reg := 0, addr := 0 }) else none

/-- Whether a bank's save area holds a bank of a pre-empted iteration of the context's own launch: it is then given to no other
(12 R407). -/
def bankKept (s : State) (x : Ctx) (b : Nat) : Bool :=
  match s.spring.iters.find? (fun i => i.uid == x.env.iter) with
  | none => false
  | some i => s.spring.iters.any (fun j => j.state == .preempted && j.id.entry == i.id.entry
      && j.savedBanks.any (fun v => v.cl == x.id.cl && v.bank == b))

/-- An MX operation on a bank: what it reads, the registers' ILLEGAL_OP, its operand traps, its capture, its ranges. Of several
reasons to block it gives the lease, then the queue, then the bank (09 R284; log 119). -/
def mxOp (w : Word) (ss : BitVec 4) (pm : BitVec 16) (acc : Nat) (sg : BitVec 6) (reads : Ctx → List RegId)
    (ill : State → Ctx → Option (State × TrapC)) (entries : Nat) (traps : State → Ctx → List TrapC)
    (cap : State → Ctx → Cmd → State × Cmd × List (Nat × Nat)) : SlotOp :=
  { plainOp (fun x => reads x ++ sgReads sg) [] 3 (fun i x s =>
      match leastTrap (traps s x) with
      | some t => .trap t
      | none =>
        let r := cap s x (baseCmd x i w sg entries)
        .ok (leaseUse (enqueue (bindBank r.1 x acc) x i ss pm (rangesScope s x r.2.2) r.2.2 false r.2.1) x.id.cl) [] 0) with
    stream := some ss.toNat
    illReg := fun _ s x => (ill s x).or (objIll s x sg)
    absent := fun _ s x => bankAbsent s x.id.cl [acc]
    block := fun _ s x =>
      if !leaseHeld s x.id.cl x.id.core then some .lease
      else if mxFree s x < entries then some .queue
      else match (getBank s x.id.cl acc).bound with
        | some g => if g = gangKey x then none else some (.bank acc)
        | none => if bankKept s x acc then some (.bank acc) else none }

/-- An operand of kind 0 or 1: its format, where it can be told. -/
def operandFmt (s : State) (x : Ctx) (k : BitVec 1) (r : BitVec 6) (h : BitVec 5) : Option Nat :=
  if k = 0 then some (bits (rdS x r.toNat).toNat 59 56) else (entryOf s x h.toNat).map (·.fmt)

/-- ILLEGAL_OP of one operand: reserved bits, and format code 15 whatever the other operand is (02 R48, 09 R287, R288). -/
def operandIll (s : State) (x : Ctx) (k : BitVec 1) (r : BitVec 6) (h : BitVec 5) : Option (State × TrapC) :=
  let v := (rdS x r.toNat).toNat
  let bad (sub : Nat) : Option (State × TrapC) := some (s, { cause := 2, sub := sub, reg := 0, addr := 0 })
  let fp64 : Option (State × TrapC) := if operandFmt s x k r h = some 15 then bad 3 else none
  if k = 0 then (if bits v 63 60 != 0 then bad 2 else fp64)
  else if bits v 63 32 != 0 then bad 2
  else (handleIll s x h.toNat).or fp64

/-- Traps of one operand. -/
def operandTraps (s : State) (x : Ctx) (k : BitVec 1) (r : BitVec 6) (h : BitVec 5) : List TrapC :=
  let v := (rdS x r.toNat).toNat
  if k = 0 then mereChecks s x (bits v 55 0) (tileBytes (fmtOfCode (BitVec.ofNat 4 (bits v 59 56)))) else (handleTrap x h.toNat).toList

/-- The tile of an entry at an index: its range, with that of its codes in a compressed tensor; none out of the tensor. -/
def tileRanges (e : HEntry) (i : Nat) : List (Nat × Nat) :=
  let n := tileGranules (hFmt e) * 4096
  if i < hTiles e then (e.base + i * n, tileBytes (hFmt e)) :: (if e.comp then [(e.metaB + i * n / 1024, n / 1024)] else []) else []

def entryTile (s : State) (x : Ctx) (h i : Nat) : List (Nat × Nat) := ((entryOf s x h).map (fun e => tileRanges e i)).getD []

/-- The range of one operand in the context's address space, with that of the codes of a compressed tensor. -/
def operandRange (s : State) (x : Ctx) (k : BitVec 1) (r : BitVec 6) (h : BitVec 5) : List (Nat × Nat) :=
  let v := (rdS x r.toNat).toNat
  if k = 0 then [(bits v 55 0, tileBytes (fmtOfCode (BitVec.ofNat 4 (bits v 59 56))))]
  else entryTile s x h.toNat v

/-- ILLEGAL_OP of a pair of operands: each operand's, then the pair of 02 R68. -/
def pairIll (o : MM) (s : State) (x : Ctx) : Option (State × TrapC) :=
  ((operandIll s x o.ka o.ra o.ha).or (operandIll s x o.kb o.rb o.hb)).or
    (match operandFmt s x o.ka o.ra o.ha, operandFmt s x o.kb o.rb o.hb with
     | some fa, some fb =>
       if arrayPair (fmtOfCode (BitVec.ofNat 4 fa)) (fmtOfCode (BitVec.ofNat 4 fb)) then none
       else some (s, { cause := 2, sub := 3, reg := 0, addr := 0 })
     | _, _ => none)

/-- The most bytes an outlier list can have (09 R292). -/
def listBytes : Nat := 8 + 8 * 16384

def mmOp (o : MM) (w : Word) (list : Bool) : SlotOp :=
  let hreg (k : BitVec 1) (h : BitVec 5) : List RegId := if k = 0 then [] else [.h h.toNat]
  mxOp w o.ss o.pm o.acc.toNat o.sg
    (fun _ => [.s o.ra.toNat, .s o.rb.toNat] ++ hreg o.ka o.ha ++ hreg o.kb o.hb ++ (if list then [.s (o.ra.toNat + 1)] else []))
    (pairIll o) 1
    (fun s x => operandTraps s x o.ka o.ra o.ha ++ operandTraps s x o.kb o.rb o.hb
      ++ (if list && (rdS x (o.ra.toNat + 1)).toNat % 8 != 0 then [trapC 6 0 ((rdS x (o.ra.toNat + 1)).toNat % 2 ^ 56)] else []))
    (fun s x c =>
      let ha := if o.ka = 0 then 0 else hIdx (rdH x o.ha.toNat)
      let hb := if o.kb = 0 then 0 else hIdx (rdH x o.hb.toNat)
      let la : Word := if list then rdS x (o.ra.toNat + 1) else 0
      let s1 := if o.ka = 0 then s else fillEntry s x ha
      let s2 := if o.kb = 0 then s1 else fillEntry s1 x hb
      (s2, { c with hidx := ha, hidxB := hb,
                    ops := [rdS x o.ra.toNat, rdS x o.rb.toNat, BitVec.ofNat 64 (ha + hb * 2 ^ 16), la] },
       operandRange s x o.ka o.ra o.ha ++ operandRange s x o.kb o.rb o.hb ++ (if list then [(la.toNat, listBytes)] else [])))

def opMma (o : MM) : SlotOp := mmOp o (encodeWord (.mma o)) false
def opMmao (o : MM) : SlotOp := mmOp o (encodeWord (.mmao o)) true

/-- `mzero` and `mchk`: no operand, no access. -/
def mcOp (o : MC) (w : Word) : SlotOp :=
  mxOp w o.ss o.pm o.acc.toNat o.sg (fun _ => []) (fun _ _ => none) 1 (fun _ _ => []) (fun s _ c => (s, c, []))

def opMzero (o : MC) : SlotOp := mcOp o (encodeWord (.mzero o))
def opMchk (o : MC) : SlotOp := mcOp o (encodeWord (.mchk o))

/-- Bytes of an accumulator image (09 R294). -/
def imageBytes : Nat := 270336

/-- ILLEGAL_OP of a register that names an image or a destination: bits [63:56] (09 R293, R295). -/
def destIll (s : State) (x : Ctx) (r : BitVec 6) : Option (State × TrapC) :=
  if bits (rdS x r.toNat).toNat 63 56 != 0 then some (s, { cause := 2, sub := 2, reg := 0, addr := 0 }) else none

def opMload (o : MC) : SlotOp :=
  mxOp (encodeWord (.mload o)) o.ss o.pm o.acc.toNat o.sg (fun _ => [.s o.ra.toNat]) (fun s x => destIll s x o.ra) 1
    (fun s x => mereChecks s x (bits (rdS x o.ra.toNat).toNat 55 0) imageBytes)
    (fun s x c => (s, { c with ops := [rdS x o.ra.toNat, 0, 0, 0] }, [(bits (rdS x o.ra.toNat).toNat 55 0, imageBytes)]))

/-! ## `mdrain` (09 R295, R296) -/

def mdFmt (o : MC) : Nat := (o.x.extractLsb' 0 4).toNat
def mdRm (o : MC) : BitVec 3 := o.x.extractLsb' 4 3
def mdRelu (o : MC) : Bool := o.x.getLsbD 7
def mdScl (o : MC) : Bool := o.x.getLsbD 8
def mdBias (o : MC) : Bool := o.x.getLsbD 9
def mdComp (o : MC) : Bool := o.x.getLsbD 10
def mdKs (o : MC) : Bool := o.x.getLsbD 11

/-- Bytes a drain writes. -/
def mdBytes (o : MC) : Nat := if mdFmt o = 15 then imageBytes else tileBytes (fmtOfCode (BitVec.ofNat 4 (mdFmt o)))

/-- The bias address. -/
def mdBiasAt (o : MC) (x : Ctx) : Nat := mereBase + bits (rdS x (o.rb.toNat + 1)).toNat 23 0

/-- The scale register of `.ks`. -/
def mdK (o : MC) (x : Ctx) : Nat := bits (rdS x (o.rb.toNat + 1)).toNat 29 24

def opMdrain (o : MC) : SlotOp :=
  mxOp (encodeWord (.mdrain o)) o.ss o.pm o.acc.toNat o.sg
    (fun x => .s o.ra.toNat :: (if o.rb = 0 then [] else [.s o.rb.toNat, .s (o.rb.toNat + 1), .s (o.rb.toNat + 2)])
      ++ (if mdKs o && o.rb != 0 then [.k (mdK o x)] else []))
    (fun s x => (destIll s x o.ra).or
      (if o.rb = 0 && vecMode x (mdRm o) = .sr && mdFmt o != 15 then some (s, { cause := 2, sub := 2, reg := 0, addr := 0 }) else none))
    (if mdKs o then 2 else 1)
    (fun s x => mereChecks s x (bits (rdS x o.ra.toNat).toNat 55 0) (mdBytes o)
      ++ (if mdBias o then
            (if mdBiasAt o x % 128 != 0 then [trapC 6 0 (mdBiasAt o x)] else []) ++ (mereInside s x (mdBiasAt o x) 1024).toList
          else []))
    (fun s x c => (s,
      { c with ops := [rdS x o.ra.toNat, if o.rb = 0 then 0 else rdS x o.rb.toNat, if o.rb = 0 then 0 else rdS x (o.rb.toNat + 1),
                       if o.rb = 0 then 0 else rdS x (o.rb.toNat + 2)],
               kval := if mdKs o then rdK x (mdK o x) else 0 },
      (bits (rdS x o.ra.toNat).toNat 55 0, mdBytes o) :: (if mdBias o then [(mdBiasAt o x, 1024)] else [])))

/-! ## `mrel` (09 R298) -/

/-- The banks an `mrel` names. -/
def relBanks (o : MC) : List Nat := (List.range 4).filter (fun b => o.x.getLsbD (b + 1))

/-- `mrel` neither binds nor waits for a bank, and needs no lease; it does not count among the 64 operations of a lease (09 R283;
log 119). -/
def opMrel (o : MC) : SlotOp :=
  { plainOp (fun _ => sgReads o.sg) [] 3 (fun i x s =>
      let s1 := if o.x.getLsbD 0 then leaseGive s x.id.cl x.id.core else s
      .ok (enqueue s1 x i o.ss o.pm 3 [] false (baseCmd x i (encodeWord (.mrel o)) o.sg 1)) [] 0) with
    stream := some o.ss.toNat
    illReg := fun _ s x => objIll s x o.sg
    absent := fun _ s x => bankAbsent s x.id.cl (relBanks o)
    block := fun _ s x => if mxFree s x < 1 then some .queue else none }

/-! ## CP operations (10 R318 to R333) -/

/-- The descriptor of a command as captured: the low 640 bits of its register. -/
def descOf (o : CD) (x : Ctx) : Nat := (rdV x o.v.toNat).toNat % 2 ^ 640

/-- Field [hi:lo] of a descriptor with new value v. -/
def setField (d hi lo v : Nat) : Nat := d - bits d hi lo * 2 ^ lo + v % 2 ^ (hi + 1 - lo) * 2 ^ lo

/-- An address word moved by an offset: bits [55:0] (10 R320). -/
def moveWord (w : Nat) (off : Int) : Nat := setField w 55 0 (wrapNat ((bits w 55 0 : Int) + off) 56)

/-- Moves the address word at bit lo of a descriptor. -/
def moveAt (d lo : Nat) (off : Int) : Nat := setField d (lo + 63) lo (moveWord (bits d (lo + 63) lo) off)

/-- A malformed address word: bit 56, or a role without the role bit (10 R319); a role's address must be in the Mere window. -/
def badWord (w : Nat) : Bool :=
  bit w 56 || (!bit w 63 && bits w 62 57 != 0) || (bit w 63 && !inMere (bits w 55 0))

/-- PAGE_NOTPRESENT of a local Mere range of n bytes that an address word names. -/
def wordTraps (s : State) (x : Ctx) (w n : Nat) : List TrapC :=
  if !bit w 63 && inMere (bits w 55 0) then (mereInside s x (bits w 55 0) n).toList else []

/-- ILLEGAL_OP of a descriptor. -/
def badDesc (s : State) (b : Option Nat) : Option (State × TrapC) :=
  b.map (fun sub => (s, { cause := 2, sub := sub, reg := 0, addr := 0 }))

/-- ILLEGAL_OP of a handle that a command may name. -/
def handleOpt (s : State) (x : Ctx) (h : Option Nat) : Option (State × TrapC) :=
  match h with
  | some r => handleIll s x r
  | none => none

/-- A CP operation: options word, registers read besides the descriptor, the descriptor's ILLEGAL_OP with its sub-cause, which
it must not have before or after its step (log 92) and which a register outside the window has not (05 R146), ABSENT_UNIT, entries, traps, and capture: the descriptor after its step, handle and ranges. -/
def cpOp (o : CD) (w : Word) (reads : List RegId) (entries : Nat) (bad : State → Ctx → Nat → Option Nat)
    (handle : Option Nat) (absent : State → Ctx → Nat → Option TrapC) (stepD : Int → State → Ctx → Nat → Nat)
    (traps : State → Ctx → Nat → List TrapC) (ranges : Int → State → Ctx → Nat → List (Nat × Nat)) (scope : State → Ctx → Nat → Nat)
    (extra : Int → Word) : SlotOp :=
  { plainOp (fun _ => [.v o.v.toNat] ++ reads ++ sgReads o.sg) [] 3 (fun i x s =>
      let d := stepD i.k s x (descOf o x)
      match leastTrap (traps s x d ++ (match handle with
        | some h => (handleTrap x h).toList
        | none => [])) with
      | some t => .trap t
      | none =>
        let s1 := match handle with
          | some h => fillEntry s x (hIdx (rdH x h))
          | none => s
        let c : Cmd := { baseCmd x i w o.sg entries with
          desc := BitVec.ofNat 640 d, ops := [extra i.k],
          hidx := match handle with
            | some h => hIdx (rdH x h)
            | none => 0 }
        let rs := ranges i.k s x d
        .ok (enqueue s1 x i o.ss o.pm (max (rangesScope s x rs) (scope s x d)) rs true c) [] 0) with
    stream := some o.ss.toNat
    illReg := fun i s x =>
      ((if x.win ≤ o.v.toNat then none else badDesc s ((bad s x (descOf o x)).or (bad s x (stepD i.k s x (descOf o x))))).or
        (handleOpt s x handle)).or (objIll s x o.sg)
    absent := fun _ s x => if x.win ≤ o.v.toNat then none else absent s x (descOf o x)
    block := fun _ s x => if cpFree s x < entries then some .queue else none }

def noAbsent (_ : State) (_ : Ctx) (_ : Nat) : Option TrapC := none

/-- The stepped offset in units. -/
def kst (o : CD) (k : Int) : Int := k * o.st.toInt

/-! ### `cpy` (10 R323) -/

/-- Extents of a `cpy` descriptor. -/
def cpyE (d : Nat) : List Nat := (List.range 6).map (fun i => bits d (128 + 16 * i + 15) (128 + 16 * i) + 1)
/-- Element bytes. -/
def cpyEs (d : Nat) : Nat := 2 ^ bits d 226 224
/-- Strides from bit lo. -/
def strides (d lo : Nat) : List Int := (List.range 6).map (fun i => sextInt (bits d (lo + 32 * i + 31) (lo + 32 * i)) 32)

/-- The lowest and highest offsets that extents and strides reach. -/
def spanOf (es : List Nat) (ss : List Int) : Int × Int :=
  (es.zip ss).foldl (fun r p =>
    let t := ((p.1 : Int) - 1) * p.2
    if t < 0 then (r.1 + t, r.2) else (r.1, r.2 + t)) (0, 0)

/-- A nest of extents and strides whose inner dimensions join into one run: the run's length and the other dimensions. -/
def joinDims (len : Nat) : List (Nat × Int) → Nat × List (Nat × Int)
  | [] => (len, [])
  | (e, t) :: rest => if e = 1 || t = len then joinDims (len * e) rest else (len, (e, t) :: rest)

/-- The offsets that a nest reaches. -/
def nestOffs : List (Nat × Int) → List Int
  | [] => [0]
  | (e, t) :: rest => (nestOffs rest).flatMap (fun o => (List.range e).map (fun (i : Nat) => o + (i : Int) * t))

/-- The runs of bytes of one side of a `cpy`: those of its elements, joined where they adjoin. -/
def cpyRuns (d wlo slo : Nat) : List (Nat × Nat) :=
  let j := joinDims (cpyEs d) ((cpyE d).zip (strides d slo))
  (nestOffs j.2).map (fun o => (wrapNat ((bits d (wlo + 55) wlo : Int) + o) 56, j.1))

/-- The ranges of a `cpy`. -/
def cpyRanges (s : State) (x : Ctx) (d : Nat) : List (Nat × Nat) :=
  keyed s x (bits d 63 0) (cpyRuns d 0 256) ++ keyed s x (bits d 127 64) (cpyRuns d 64 448)

/-- Local Mere sides must lie inside the gang's granules. -/
def cpySide (s : State) (x : Ctx) (d wlo slo : Nat) : List TrapC :=
  if bit d (wlo + 63) || !inMere (bits d (wlo + 55) wlo) then []
  else
    let sp := spanOf (cpyE d) (strides d slo)
    let a : Int := (bits d (wlo + 55) wlo : Int) + sp.1
    if a < (mereBase : Int) then [trapC 7 0 (bits d (wlo + 55) wlo)]
    else (mereInside s x a.toNat ((sp.2 - sp.1).toNat + cpyEs d)).toList

def opCpy (o : CD) : SlotOp :=
  cpOp o (encodeWord (.cpy o)) [] 2
    (fun _ _ d => firstBad [(bits d 255 227 != 0, 2), (5 ≤ bits d 226 224, 2), (badWord (bits d 63 0), 2), (badWord (bits d 127 64), 2),
      (2 ^ 40 < (cpyE d).foldl (· * ·) 1 * cpyEs d, 2)])
    none noAbsent (fun k _ _ d => moveAt (moveAt d 0 (kst o k * 4096)) 64 (kst o k * 4096))
    (fun s x d =>
      let e : Int := (cpyEs d : Int)
      let off (l : List Int) : Bool := l.any (fun v => v % e != 0)
      (if bits d 55 0 % cpyEs d != 0 || off (strides d 256) then [trapC 6 0 (bits d 55 0)] else [])
        ++ (if bits d 119 64 % cpyEs d != 0 || off (strides d 448) then [trapC 6 0 (bits d 119 64)] else [])
        ++ cpySide s x d 0 256 ++ cpySide s x d 64 448)
    (fun _ s x d => cpyRanges s x d) (fun s x d => max (roleScope s x (bits d 63 0)) (roleScope s x (bits d 127 64))) (fun _ => 0)

/-! ### `cpyt` and `cpst` (10 R325, R328) -/

def ctMere (o : CD) : Bool := o.x.getLsbD 5
def ctRegen (o : CD) : Bool := o.x.getLsbD 6
def cdHandle (o : CD) : Nat := (o.x.extractLsb' 0 5).toNat

/-- Rounding mode codes 5 and 6. -/
def rmBad (r : Nat) : Bool := r == 5 || r == 6

/-- The most bytes a tile can have. -/
def maxTile : Nat := 266240

def opCpyt (o : CD) : SlotOp :=
  cpOp o (encodeWord (.cpyt o)) (if ctMere o then [] else [.h (cdHandle o)]) 1
    (fun _ _ d => firstBad [(bits d 127 103 != 0, 2), (badWord (bits d 63 0) || !inMere (bits d 55 0), 2), (bits d 99 96 == 15, 2),
      (rmBad (bits d 102 100), 2), (!ctMere o && bits d 191 128 != 0, 2), (ctMere o && (badWord (bits d 191 128) || !inMere (bits d 183 128)), 2)])
    (if ctMere o then none else some (cdHandle o)) noAbsent
    (fun k _ _ d =>
      let g := tileGranules (fmtOfCode (BitVec.ofNat 4 (bits d 99 96)))
      setField (moveAt d 0 (kst o k * (g * 4096 : Nat))) 95 64 (wrapNat ((bits d 95 64 : Int) + kst o k) 32))
    (fun s x d =>
      let n := ceilDiv (tileBytes (fmtOfCode (BitVec.ofNat 4 (bits d 99 96)))) 4096 * 4096
      (if bits d 55 0 % 4096 != 0 then [trapC 6 0 (bits d 55 0)] else []) ++ wordTraps s x (bits d 63 0) n
        ++ (if ctMere o then (if bits d 183 128 % 4096 != 0 then [trapC 6 0 (bits d 183 128)] else [])
              ++ wordTraps s x (bits d 191 128) 4096 else []))
    (fun _ s x d => wordRange s x (bits d 63 0) (ceilDiv (tileBytes (fmtOfCode (BitVec.ofNat 4 (bits d 99 96)))) 4096 * 4096)
      ++ (if ctMere o then wordRange s x (bits d 191 128) maxTile else entryTile s x (cdHandle o) (bits d 95 64)))
    (fun s x d => max (roleScope s x (bits d 63 0)) (roleScope s x (bits d 191 128))) (fun _ => 0)

/-- A present scale must be finite and above +0. -/
def scaleBad (c : Nat) : Bool :=
  match decodeVal .fp32 c with
  | .fin q => decide (q ≤ 0)
  | _ => true

/-- Where the tile of a `cpst` may lie after n steps from address a, before its format is known (10 R320, R503). -/
def steppedTiles (a : Nat) (n : Int) : List (Nat × Nat) :=
  if n = 0 then []
  else ([10, 14, 18, 33, 65] : List Nat).map (fun g => (wrapNat ((a : Int) + n * ((g * 4096 : Nat) : Int)) 56, g * 4096))

def opCpst (o : CD) : SlotOp :=
  cpOp o (encodeWord (.cpst o)) [.h (cdHandle o)] 1
    (fun _ _ d => firstBad [(bits d 191 184 != 0, 2), (badWord (bits d 63 0) || bit d 63 || !inMere (bits d 55 0), 2),
      (scaleBad (bits d 127 96), 2)])
    (some (cdHandle o)) noAbsent
    (fun k _ _ d => setField d 95 64 (wrapNat ((bits d 95 64 : Int) + kst o k) 32))
    (fun s x d =>
      (if bits d 55 0 % 4096 != 0 then [trapC 6 0 (bits d 55 0)] else []) ++ wordTraps s x (bits d 63 0) 4096
        ++ (if bits d 183 128 % 4 != 0 then [trapC 6 0 (bits d 183 128)] else []))
    (fun k s x d => wordRange s x (bits d 63 0) maxTile ++ (steppedTiles (bits d 55 0) (kst o k)) ++ entryTile s x (cdHandle o) (bits d 95 64)
      ++ (if bits d 183 128 = 0 then [] else [(bits d 183 128, 4)]))
    (fun _ _ _ => 3) (fun k => BitVec.ofInt 64 (kst o k))

/-! ### `cpz`, `cpx`, `cpn` (10 R330 to R332) -/

def opCpz (o : CD) : SlotOp :=
  cpOp o (encodeWord (.cpz o)) [] 1
    (fun _ _ d => firstBad [(bits d 127 105 != 0, 2), (badWord (bits d 63 0), 2),
      (bits d 104 64 == 0 || decide (2 ^ 40 < bits d 104 64) || bits d 104 64 % 8 != 0, 2)])
    none noAbsent (fun k _ _ d => moveAt d 0 (kst o k * 4096))
    (fun s x d => (if bits d 55 0 % 8 != 0 then [trapC 6 0 (bits d 55 0)] else []) ++ wordTraps s x (bits d 63 0) (bits d 104 64))
    (fun _ s x d => wordRange s x (bits d 63 0) (bits d 104 64)) (fun s x d => roleScope s x (bits d 63 0)) (fun _ => 0)

def czFmt (o : CD) : Fmt := fmtOfCode (o.x.extractLsb' 1 4)

/-- `cpz.tile` (10 R330): bits [127:96] of its descriptor are not looked at (log 121). -/
def opCpzTile (o : CD) : SlotOp :=
  cpOp o (encodeWord (.cpzTile o)) [] 1
    (fun _ _ d => firstBad [(badWord (bits d 63 0) || !inMere (bits d 55 0), 2)])
    none noAbsent (fun k _ _ d => setField (moveAt d 0 (kst o k * 4096)) 95 64 (wrapNat ((bits d 95 64 : Int) + kst o k) 32))
    (fun s x d => (if bits d 55 0 % 4096 != 0 then [trapC 6 0 (bits d 55 0)] else [])
      ++ wordTraps s x (bits d 63 0) (tileGranules (czFmt o) * 4096))
    (fun _ s x d => wordRange s x (bits d 63 0) (tileGranules (czFmt o) * 4096)) (fun s x d => roleScope s x (bits d 63 0)) (fun _ => 0)

/-- Sectors of a tensor (12 R390). -/
def hSectors (e : HEntry) : Nat := hDataLen e / 512

/-- The sector range of a `cpx` lies in the tensor. -/
def cpxBad (o : CD) (s : State) (x : Ctx) (d : Nat) : Option Nat :=
  firstBad [(bits d 127 112 != 0 || bits d 191 176 != 0, 2), (badWord (bits d 63 0), 2),
    (bits d 111 64 % 256 != 0 || bits d 175 128 % 256 != 0 || bits d 175 128 < 256, 2),
    ((match entryOf s x (cdHandle o) with
      | some e => decide (hSectors e < bits d 111 64 + bits d 175 128)
      | none => false), 2)]

def cpxOp (o : CD) (w : Word) : SlotOp :=
  cpOp o w [.h (cdHandle o)] 1 (cpxBad o) (some (cdHandle o)) noAbsent
    (fun k _ _ d => setField (moveAt d 0 (kst o k * 4096)) 111 64 (wrapNat ((bits d 111 64 : Int) + kst o k * 8192) 48))
    (fun s x d => (if bits d 55 0 % 128 != 0 then [trapC 6 0 (bits d 55 0)] else []) ++ wordTraps s x (bits d 63 0) (bits d 175 128 / 2))
    (fun _ s x d => wordRange s x (bits d 63 0) (bits d 175 128 / 2) ++ (match entryOf s x (cdHandle o) with
      | some e => if e.comp then [(e.metaB + bits d 111 64 / 2, bits d 175 128 / 2)] else []
      | none => []))
    (fun s x d => roleScope s x (bits d 63 0)) (fun _ => 0)

def opCpxOut (o : CD) : SlotOp := cpxOp o (encodeWord (.cpxOut o))
def opCpxIn (o : CD) : SlotOp := cpxOp o (encodeWord (.cpxIn o))

def cpnOp (o : CD) (w : Word) : SlotOp :=
  cpOp o w [] 1
    (fun _ _ d => firstBad [(bits d 255 220 != 0, 2), (badWord (bits d 63 0) || bit d 63, 2),
      (bits d 191 160 == 0 || decide (2 ^ 31 < bits d 191 160), 2), (12 ≤ bits d 219 216, 2)])
    none (fun s _ d => if bits d 219 216 < 12 && !s.pkg.units.getLsbD (6 + bits d 219 216) then some (trapC 3 0 0) else none)
    (fun k _ _ d => setField (moveAt d 0 (kst o k * 4096)) 127 64 (wrapNat ((bits d 127 64 : Int) + kst o k * 4096) 64))
    (fun s x d => wordTraps s x (bits d 63 0) (bits d 191 160))
    (fun _ s x d => wordRange s x (bits d 63 0) (bits d 191 160)) (fun _ _ _ => 5) (fun _ => 0)

def opCpnWr (o : CD) : SlotOp := cpnOp o (encodeWord (.cpnWr o))
def opCpnRd (o : CD) : SlotOp := cpnOp o (encodeWord (.cpnRd o))

/-! ### `coll` (11 R368 to R370) -/

def collNb (d : Nat) : Nat := bits d 271 256 + 1
def collFmt (d : Nat) : Nat := bits d 275 272
def collLossy (d : Nat) : Bool := bit d 276
def collOpc (d : Nat) : Nat := bits d 279 277
def collRescale (d : Nat) : Bool := bit d 280
def collN (d : Nat) : Nat := bits d 299 288

def collBad (_ : State) (_ : Ctx) (d : Nat) : Option Nat :=
  firstBad [(bits d 287 281 != 0 || bits d 319 300 != 0, 2), (badWord (bits d 63 0) || bit d 63, 2),
    (!bit d 127 || badWord (bits d 127 64), 2), (badWord (bits d 191 128) || bit d 191, 2),
    (bits d 255 192 != 0 && (badWord (bits d 255 192) || !bit d 255 || bits d 254 249 != bits d 126 121), 2),
    (!List.contains [0, 1, 2, 14] (collFmt d), 2), (2 ≤ collOpc d, 2),
    (collRescale d && (collOpc d == 0 || collFmt d != 0 || bits d 255 192 == 0), 2), (collN d == 0, 2),
    (objBad (BitVec.ofNat 64 (bits d 383 320)), 2)]

/-- Moves a state address unless it is zero. -/
def moveState (d lo : Nat) (off : Int) : Nat := if bits d (lo + 63) lo = 0 then d else moveAt d lo off

def opColl (o : CD) : SlotOp :=
  cpOp o (encodeWord (.coll o)) [] 2 collBad none noAbsent
    (fun k _ _ d => moveState (moveState (moveAt (moveAt d 0 (kst o k * 4096)) 64 (kst o k * 4096)) 128 (kst o k * 64)) 192 (kst o k * 64))
    (fun s x d =>
      let al (lo m : Nat) : List TrapC := if bits d (lo + 55) lo % m != 0 then [trapC 6 0 (bits d (lo + 55) lo)] else []
      al 0 256 ++ al 64 256 ++ al 128 4 ++ al 192 4 ++ wordTraps s x (bits d 63 0) (collNb d * 256)
        ++ (if bits d 191 128 = 0 then [] else wordTraps s x (bits d 191 128) (collNb d * 4)))
    (fun _ s x d => wordRange s x (bits d 63 0) (collNb d * 256)
      ++ (if bits d 191 128 = 0 then [] else wordRange s x (bits d 191 128) (collNb d * 4))
      ++ wordRange s x (bits d 127 64) (collNb d * 256)
      ++ (if bits d 255 192 = 0 then [] else wordRange s x (bits d 255 192) (collNb d * 4)))
    (fun s x d => roleScope s x (bits d 127 64)) (fun _ => 0)

/-! ## Meanings, one per arm of `exec` -/

/-- MMA (R291). -/
def execMma (o : MM) (s : State) : Host.Outcome State Fault Refusal := issueAlone (.mma o) (opMma o) s

/-- MMAO (R291). -/
def execMmao (o : MM) (s : State) : Host.Outcome State Fault Refusal := issueAlone (.mmao o) (opMmao o) s

/-- MZERO (R293). -/
def execMzero (o : MC) (s : State) : Host.Outcome State Fault Refusal := issueAlone (.mzero o) (opMzero o) s

/-- MLOAD (R293). -/
def execMload (o : MC) (s : State) : Host.Outcome State Fault Refusal := issueAlone (.mload o) (opMload o) s

/-- MCHK (R293). -/
def execMchk (o : MC) (s : State) : Host.Outcome State Fault Refusal := issueAlone (.mchk o) (opMchk o) s

/-- MDRAIN (R295). -/
def execMdrain (o : MC) (s : State) : Host.Outcome State Fault Refusal := issueAlone (.mdrain o) (opMdrain o) s

/-- MREL (R298). -/
def execMrel (o : MC) (s : State) : Host.Outcome State Fault Refusal := issueAlone (.mrel o) (opMrel o) s

/-- CPY (R323). -/
def execCpy (o : CD) (s : State) : Host.Outcome State Fault Refusal := issueAlone (.cpy o) (opCpy o) s

/-- CPYT (R325). -/
def execCpyt (o : CD) (s : State) : Host.Outcome State Fault Refusal := issueAlone (.cpyt o) (opCpyt o) s

/-- CPST (R328). -/
def execCpst (o : CD) (s : State) : Host.Outcome State Fault Refusal := issueAlone (.cpst o) (opCpst o) s

/-- CPZ (R330). -/
def execCpz (o : CD) (s : State) : Host.Outcome State Fault Refusal := issueAlone (.cpz o) (opCpz o) s

/-- CPZ_TILE (R330). -/
def execCpzTile (o : CD) (s : State) : Host.Outcome State Fault Refusal := issueAlone (.cpzTile o) (opCpzTile o) s

/-- CPX_OUT (R331). -/
def execCpxOut (o : CD) (s : State) : Host.Outcome State Fault Refusal := issueAlone (.cpxOut o) (opCpxOut o) s

/-- CPX_IN (R331). -/
def execCpxIn (o : CD) (s : State) : Host.Outcome State Fault Refusal := issueAlone (.cpxIn o) (opCpxIn o) s

/-- CPN_WR (R332). -/
def execCpnWr (o : CD) (s : State) : Host.Outcome State Fault Refusal := issueAlone (.cpnWr o) (opCpnWr o) s

/-- CPN_RD (R332). -/
def execCpnRd (o : CD) (s : State) : Host.Outcome State Fault Refusal := issueAlone (.cpnRd o) (opCpnRd o) s

/-- COLL (R368). -/
def execColl (o : CD) (s : State) : Host.Outcome State Fault Refusal := issueAlone (.coll o) (opColl o) s

end Sys2Proof.Machine
end

