-- ==== Sys2Proof/Machine/Tiles.lean ====
section
/-!
DEFINITION. Tiles as data (07 R226 to R232): their bytes, lanes and headers, the checks of lanes (02 R73 to R77, 09 R300 to
R302), conversion between formats (10 R326, R327), and the compression of sectors.
-/
namespace Sys2Proof.Machine

/-! ## Layout (07 R226 to R229) -/

def tDataLen (f : Fmt) : Nat := 8192 * fmtWidth f
/-- Formats whose tiles carry a scale region: codes 3 to 13. -/
def hasScale (f : Fmt) : Bool := 3 ≤ fmtCode f && fmtCode f ≤ 13
def tCheckOff (f : Fmt) : Nat := tDataLen f + (if hasScale f then 2048 else 0)
def rowBytes (f : Fmt) : Nat := 32 * fmtWidth f
/-- Bytes of a tile with its padding. -/
def tileLen (f : Fmt) : Nat := tileGranules f * 4096

/-- A parsed tile: element codes and stored scale codes by row, lanes as FP32 codes (signed, absolute), and the
corner-and-header string. -/
structure Tile where
  codes : List (List Nat)
  scales : List (List Nat)
  rowL : List (Nat × Nat)
  colL : List (Nat × Nat)
  head : Nat
  deriving DecidableEq, Repr, Inhabited

/-- A checksum entry: signed lane, absolute lane, side bit. -/
def laneEntry (img : List Byte) (f : Fmt) (j : Nat) : Nat × Nat × Bool :=
  let e := imgNat img (tCheckOff f + 8 * j) 8
  (bits e 31 0, bits e 62 32, bit e 63)

/-- The corner-and-header string: the side bits of entries 0 to 127. -/
def headOf (img : List Byte) (f : Fmt) : Nat :=
  (List.range 128).foldr (fun j acc => acc * 2 + (laneEntry img f j).2.2.toNat) 0

def rowCodes (img : List Byte) (f : Fmt) (i : Nat) : List Nat :=
  let v := imgNat img (i * rowBytes f) (rowBytes f)
  (List.range 256).map (fun j => (v >>> (j * fmtWidth f)) % 2 ^ fmtWidth f)

def rowScales (img : List Byte) (f : Fmt) (i : Nat) : List Nat :=
  (List.range 8).map (fun b => if hasScale f then imgNat img (tDataLen f + 8 * i + b) 1 else 127)

def tileOf (f : Fmt) (img : List Byte) : Tile :=
  let lane (j : Nat) : Nat × Nat := let e := laneEntry img f j; (e.1, e.2.1)
  { codes := (List.range 256).map (rowCodes img f), scales := (List.range 256).map (rowScales img f),
    rowL := (List.range 256).map lane, colL := (List.range 256).map (fun j => lane (256 + j)), head := headOf img f }

/-- A row's codes packed as its little-endian bit string (07 R227). -/
def packRow (f : Fmt) (l : List Nat) : List Byte :=
  natLe (rowBytes f) (l.foldr (fun c acc => acc * 2 ^ fmtWidth f + c % 2 ^ fmtWidth f) 0)

def entryBytes (l : Nat × Nat) (side : Bool) : List Byte := natLe 8 (l.1 % 2 ^ 32 + l.2 % 2 ^ 31 * 2 ^ 32 + side.toNat * 2 ^ 63)

/-- The bytes of a tile with its zero padding. -/
def tileImage (f : Fmt) (t : Tile) : List Byte :=
  padTo (tileLen f) (t.codes.flatMap (packRow f) ++ (if hasScale f then t.scales.flatMap (fun r => r.flatMap (natLe 1)) else [])
    ++ ((List.range 256).zip t.rowL).flatMap (fun p => entryBytes p.2 (p.1 < 128 && bit t.head p.1))
    ++ t.colL.flatMap (fun l => entryBytes l false))

/-- The header string of 07 R229. -/
def headNat (f : Fmt) (idx : Nat) (zero : Bool) (cs ca : Nat) : Nat :=
  cs + ca * 2 ^ 32 + fmtCode f * 2 ^ 64 + (hasScale f).toNat * 2 ^ 68 + zero.toNat * 2 ^ 69 + 0xC7 * 2 ^ 72 + idx % 2 ^ 32 * 2 ^ 80

def headMagic (h : Nat) : Nat := bits h 79 72
def headFmt (h : Nat) : Nat := bits h 67 64

/-- Whether a header has the magic and the format that its reader expects. -/
def headOk (h : Nat) (f : Fmt) : Bool := headMagic h == 0xC7 && headFmt h == fmtCode f

/-- A probe's answer at a candidate format's offset (10 R503). -/
def headProbe (h : Nat) (codes : List Nat) : Bool :=
  headMagic h == 0xC7 && bits h 127 112 == 0 && bits h 71 70 == 0 && codes.contains (headFmt h)
    && bit h 68 == hasScale (fmtOfCode (BitVec.ofNat 4 (headFmt h)))

/-- The offsets probed and the format codes of each (10 R503). -/
def probes : List (Nat × List Nat) :=
  [(0x8800, [9, 12]), (0xC800, [7, 8, 11]), (0x1_0800, [3, 4, 5, 6, 10, 13]), (0x2_0000, [1, 2]), (0x4_0000, [0, 14])]

/-! ## Values and lanes -/

/-- The scale of a block as a reader takes it: implied 127 outside the MX formats (02 R56). -/
def scaleUsed (f : Fmt) (g : Nat) : Nat := if isMX f then g else 127

/-- Decoded and scaled values of a row. -/
def rowVals (f : Fmt) (t : Tile) (i : Nat) : List Val :=
  let gs := t.scales.getD i []
  ((List.range 256).zip (t.codes.getD i [])).map (fun p => scaledVal f (scaleUsed f (gs.getD (p.1 / 32) 127)) p.2)

def tileVals (f : Fmt) (t : Tile) : List (List Val) := (List.range 256).map (rowVals f t)

/-- Column j of rows of values. -/
def colOf (rows : List (List Val)) (j : Nat) : List Val := rows.map (fun r => r.getD j .nan)

def laneVal (l : Nat × Nat) : Val × Val := (decodeVal .fp32 l.1, decodeVal .fp32 l.2)
def laneCode (l : Val × Val) : Nat × Nat := (code32 l.1, code32 l.2)

/-- Lanes, corner and header regenerated from stored values (02 R73). -/
def sealTile (f : Fmt) (codes scales : List (List Nat)) (idx : Nat) : Tile :=
  let t : Tile := { codes := codes, scales := scales, rowL := [], colL := [], head := 0 }
  let rows := tileVals f t
  let rl := rows.map chkLanes
  let cl := (List.range 256).map (fun j => chkLanes (colOf rows j))
  let cs := (chkLanes (rl.map (·.1))).1
  let ca := rl.foldl (fun a l => add32 a l.2) (.zero false)
  { t with rowL := rl.map laneCode, colL := cl.map laneCode, head := headNat f idx false (code32 cs) (code32 ca) }

/-- The out-of-tensor tile (10 R327). -/
def zeroTile (f : Fmt) (idx : Nat) : Tile :=
  { codes := List.replicate 256 (List.replicate 256 0),
    scales := List.replicate 256 (List.replicate 8 (if isMX f then 0 else 127)),
    rowL := List.replicate 256 (0, 0), colL := List.replicate 256 (0, 0), head := headNat f idx true 0 0 }

/-! ## Checks (09 R300, 02 R75, R77) -/

/-- Rows of values with the lanes stored for rows and columns. -/
structure Lines where
  rows : List (List Val)
  rl : List (Val × Val)
  cl : List (Val × Val)

/-- A line's fault: its signed lane as computed, where the line fails. -/
def lineFault (tau eps : Nat) (x : List Val) (l : Val × Val) : Option Val :=
  let d := (chkLanes x).1
  if laneOk d l.1 l.2 tau eps then none else some d

/-- A line that is not compared (02 R77). -/
def lineNonfin (x : List Val) (l : Val × Val) : Bool :=
  !(valIsFinite (chkLanes x).1 && valIsFinite l.1 && valIsFinite l.2)

def zipIdx {α : Type} (l : List α) : List (Nat × α) := (List.range l.length).zip l

/-- The failing lines of a direction. -/
def faults (tau eps : Nat) (xs : List (List Val)) (ls : List (Val × Val)) : List (Nat × Val) :=
  (zipIdx (xs.zip ls)).filterMap (fun p => (lineFault tau eps p.2.1 p.2.2).map (fun d => (p.1, d)))

def columns (rows : List (List Val)) : List (List Val) := (List.range 256).map (colOf rows)

/-- Lines of both directions that are not compared. -/
def nonfinLines (v : Lines) : Nat :=
  ((v.rows.zip v.rl).filter (fun p => lineNonfin p.1 p.2)).length
    + (((columns v.rows).zip v.cl).filter (fun p => lineNonfin p.1 p.2)).length

/-- The outcome of a check. -/
inductive Check where
  | pass
  | elem (i j : Nat)
  | rowLane (i : Nat) (d : Val)
  | colLane (j : Nat) (d : Val)
  | failed (nrow ncol : Nat)
  deriving DecidableEq, Repr

/-- The further test: |D − S| > τ × max A + ε; a non-finite A of a crossing line leaves it unmet. -/
def further (tau eps : Nat) (d s : Val) (as : List (Val × Val)) : Bool :=
  as.all (fun l => valIsFinite l.2)
    && valRat (decodeVal .fp32 tau) * (amaxOf (as.map (·.2))) + valRat (decodeVal .fp32 eps) < (valRat d - valRat s).abs

def checkLines (tau eps : Nat) (v : Lines) : Check :=
  match faults tau eps v.rows v.rl, faults tau eps (columns v.rows) v.cl with
  | [], [] => .pass
  | [(i, _)], [(j, _)] => .elem i j
  | [(i, d)], [] => if further tau eps d (v.rl.getD i (.nan, .nan)).1 v.cl then .rowLane i d else .failed 1 0
  | [], [(j, d)] => if further tau eps d (v.cl.getD j (.nan, .nan)).1 v.rl then .colLane j d else .failed 0 1
  | rf, cf => .failed rf.length cf.length

/-- Srow[i] − Σ over n ≠ j of row i, exactly (09 R301). -/
def corrected (v : Lines) (i j : Nat) : Val :=
  let row := v.rows.getD i []
  ofRat (valRat (v.rl.getD i (.nan, .nan)).1 - ((zipIdx row).filter (fun p => p.1 != j)).foldl (fun a p => a + valRat p.2) 0)

/-- Rows with element (i, j) replaced. -/
def setElem {α : Type} (rows : List (List α)) (i j : Nat) (x : α) : List (List α) := rows.modify i (fun r => r.set j x)

/-- The recheck of row i and column j. -/
def recheck (tau eps : Nat) (v : Lines) (i j : Nat) : Bool :=
  (lineFault tau eps (v.rows.getD i []) (v.rl.getD i (.nan, .nan))).isNone
    && (lineFault tau eps (colOf v.rows j) (v.cl.getD j (.nan, .nan))).isNone

/-- The data field of the records of 09 R304. -/
def checkData (act nrow ncol prow col row bank : Nat) : Nat :=
  bank + row * 2 ^ 2 + col * 2 ^ 11 + prow * 2 ^ 20 + act * 2 ^ 29 + nrow * 2 ^ 32 + ncol * 2 ^ 41

/-- Act 4 and act 5. -/
def failedData (nrow ncol bank : Nat) : Nat := checkData 4 nrow ncol 511 511 511 bank
def badHeadData (bank : Nat) : Nat := checkData 5 0 0 511 511 511 bank

/-! ### The check of a tile (10 R326 step 2) -/

/-- A checked tile: the tile, its correction record if one was made, lines not compared; or the data of its failure. -/
inductive TileCheck where
  | ok (t : Tile) (corr : Option Nat) (nonfin : Nat)
  | failed (t : Tile) (data nonfin : Nat)
  deriving Repr

/-- A corrected value encoded in the element's format under RNE without saturation. -/
def encodeElem (f : Fmt) (g : Nat) (x : Val) : Nat :=
  if isMXInt f then (mxElem f ((g : Int) - 127) .rne false 0 0 x).1
  else
    let k := (e8m0 g).getD 1
    let y := match x with
      | .fin q => Val.fin (q / k)
      | v => v
    (encodeAny y f .rne false 0 0).1

def linesOf (f : Fmt) (t : Tile) : Lines := { rows := tileVals f t, rl := t.rowL.map laneVal, cl := t.colL.map laneVal }

def checkTile (f : Fmt) (tau eps : Nat) (t : Tile) : TileCheck :=
  let v := linesOf f t
  let nf := nonfinLines v
  match checkLines tau eps v with
  | .pass => .ok t none nf
  | .elem i j =>
    let g := scaleUsed f ((t.scales.getD i []).getD (j / 32) 127)
    let t1 := { t with codes := setElem t.codes i j (encodeElem f g (corrected v i j)) }
    if recheck tau eps (linesOf f t1) i j then .ok t1 (some (checkData 0 1 1 511 j i 0)) nf
    else .failed t1 (failedData 1 1 0) nf
  | .rowLane i d => .ok { t with rowL := t.rowL.modify i (fun l => (code32 d, l.2)) } (some (checkData 1 1 0 511 256 i 0)) nf
  | .colLane j d => .ok { t with colL := t.colL.modify j (fun l => (code32 d, l.2)) } (some (checkData 2 0 1 511 j 256 0)) nf
  | .failed r c => .failed t (failedData r c 0) nf

/-! ## Conversion (10 R326 step 4) -/

/-- Whether `mx_quant` clamps an element to ±max under scale exponent se. -/
def mxClamped (f : Fmt) (se : Int) (rm : Rm) (sat : Bool) (r b : Nat) (x : Val) : Bool :=
  match x with
  | .inf _ => !(hasInf f && !sat)
  | .fin q =>
    let v := q / pow2 se
    let w := fmtWidth f
    if isMXInt f then decide ((2 ^ (w - 1) - 1 : Nat) < (rndInt (v * pow2 ((w : Int) - 2)) rm r b).natAbs)
    else decide (maxVal f < (rnd v f rm r b).abs)
  | _ => false

/-- Whether an encoding outside MX overflows or clamps. -/
def encClamped (f : Fmt) (rm : Rm) (sat : Bool) (r b : Nat) (x : Val) : Bool :=
  match x with
  | .nan => false
  | .inf _ => isInt f || !(hasInf f && !sat)
  | v => let fl := (encodeAny v f rm sat r b).2; fl &&& (fOF ||| fNV) != 0

/-- A block of 32 values in a format: scale code, element codes, elements overflowed or clamped. `fixed` is a scale code
given from outside (09 R297). -/
def quantBlock (f : Fmt) (rm : Rm) (sat : Bool) (rs : List Nat) (fixed : Option Nat) (xs : List Val) : Nat × List Nat × Nat :=
  let count (se : Int) : Nat := ((xs.zip rs).filter (fun p => mxClamped f se rm sat p.2 16 p.1)).length
  if isMX f then
    match fixed with
    | none =>
      let q := mxQuant xs f rm sat rs 16
      (q.1, q.2.1, if q.1 = 255 then 0 else count ((q.1 : Int) - 127))
    | some g =>
      if g = 255 || (xs.any valIsNaN && !hasNaN f) then (255, xs.map (fun _ => 0), 0)
      else (g, (mxElems f ((g : Int) - 127) rm sat 16 xs rs).1, count ((g : Int) - 127))
  else
    (127, (xs.zip rs).map (fun p => (encodeAny p.1 f rm sat p.2 16).1),
      ((xs.zip rs).filter (fun p => encClamped f rm sat p.2 16 p.1)).length)

/-- The random words of a block: the generator at each element's byte offset in the tile (02 R61). -/
def blockWords (f : Fmt) (rm : Rm) (key i b : Nat) : List Nat :=
  (List.range 32).map (fun e =>
    if rm = .sr then engineRandom key (i * rowBytes f + (32 * b + e) * fmtWidth f / 8) else 0)

/-- A converted tile: its data and scales, and the elements overflowed or clamped. -/
def convertRows (f : Fmt) (rm : Rm) (sat : Bool) (key : Nat) (fixed : Nat → Option Nat) (rows : List (List Val)) :
    List (List Nat) × List (List Nat) × Nat :=
  (zipIdx rows).foldl (fun acc p =>
    let bs := (List.range 8).map (fun b =>
      quantBlock f rm sat (blockWords f rm key p.1 b) (fixed p.1) ((p.2.drop (32 * b)).take 32))
    (acc.1 ++ [bs.flatMap (fun q => q.2.1)], acc.2.1 ++ [bs.map (·.1)], acc.2.2 + (bs.map (fun q => q.2.2)).sum)) ([], [], 0)

/-- Stored values that are NaN or infinite. -/
def nonfinCount (f : Fmt) (t : Tile) : Nat := ((tileVals f t).map (fun r => (r.filter (fun v => !valIsFinite v)).length)).sum

/-- The largest finite magnitude of rows of values as an FP32 code. -/
def amaxRows (rows : List (List Val)) : Nat := code32 (ofRat (rows.foldl (fun a r => max a (amaxOf r)) 0))

/-! ## Sectors (07 R231, R232) -/

/-- Bits of a bitmap as bytes. -/
def bitmap (bs : List Byte) : List Byte :=
  (List.range (bs.length / 8)).map (fun i =>
    BitVec.ofNat 8 (((bs.drop (8 * i)).take 8).foldr (fun b acc => acc * 2 + (b != 0).toNat) 0))

/-- `compress`: code and stored bytes of a sector. -/
def compress (bs : List Byte) : Nat × List Byte :=
  let nzb := bs.filter (fun b => b != 0)
  let nz := nzb.length
  if nz = 0 then (1, [])
  else if 384 < 64 + nz then (0, bs)
  else
    let l := 128 * ceilDiv (64 + nz) 128
    (1 + l / 128, padTo l (bitmap bs ++ nzb))

/-- Lays stored bytes out by the bits of a bitmap. -/
def expandGo : List Bool → List Byte → List Byte
  | [], _ => []
  | true :: r, b :: bs => b :: expandGo r bs
  | _ :: r, bs => 0 :: expandGo r bs

/-- The expanded bytes of a sector's slot; none where the code reads as poisoned. -/
def expandSector (code : Nat) (slot : List Byte) : Option (List Byte) :=
  match code with
  | 0 => some slot
  | 1 => some (List.replicate 512 0)
  | 2 | 3 | 4 => some (expandGo ((slot.take 64).flatMap (fun b => (List.range 8).map (fun i => b.getLsbD i))) (slot.drop 64))
  | _ => none

end Sys2Proof.Machine
end

