-- ==== Sys2Proof/Machine/Engine.lean ====
section
/-!
DEFINITION. What the array and the copy engine share: where an access of a command goes (07 R238, 10 R319, 12 R384, R397, R412),
reading and writing through compressed pages (07 R232, 10 R321), waiting and its reasons (10 R340, R341), and the end of a
command (10 R316, R317, R322, R502).
-/
namespace Sys2Proof.Machine

/-! ## Commands in their queues -/

def refOf (c : Cmd) : CmdRef := { ctx := c.ctx, seq := c.seq, iter := c.iter }
def isRef (r : CmdRef) (c : Cmd) : Bool := c.ctx == r.ctx && c.seq == r.seq && c.iter == r.iter

/-- Replaces or removes a command in its core's queues. -/
def mapCmd (s : State) (r : CmdRef) (f : Cmd → Option Cmd) : State :=
  let g (l : List Cmd) : List Cmd := l.filterMap (fun c => if isRef r c then f c else some c)
  modCore s r.ctx.cl r.ctx.core (fun y => { y with mxq := g y.mxq, cpq := g y.cpq })

def putCmd (s : State) (c : Cmd) : State := mapCmd s (refOf c) (fun _ => some c)
def dropCmd (s : State) (c : Cmd) : State := mapCmd s (refOf c) (fun _ => none)

def findCmd (s : State) (r : CmdRef) : Option Cmd :=
  let y := getCore s r.ctx.cl r.ctx.core
  (y.mxq ++ y.cpq).find? (isRef r)

/-- The operation a command's word holds. -/
def cmdInstr (c : Cmd) : Option Instr := decodeOp (slotOfIdx c.slot) none c.word

/-- The context that issued a command, resident or retired. -/
def cmdOwner (s : State) (c : Cmd) : Option Ctx := getOwner s c.ctx c.iter

/-- The stream of a command of the context, and the streams that its signal publishes: those of its mask and its own (08 R271). -/
def cmdStream (x : Ctx) (c : Cmd) : Nat := ((findOp x c.seq).map (·.ss)).getD 0
def cmdMask (x : Ctx) (c : Cmd) : BitVec 16 :=
  match findOp x c.seq with
  | some o => o.pm ||| BitVec.ofNat 16 (2 ^ o.ss)
  | none => 0

/-! ## Where an access goes -/

/-- A place of this package, with whether its page holds compressed sectors; another package, by node, with cluster and tag
for Mere named by a role; a wait with its reason; a fault. -/
inductive Loc where
  | here (p : Place) (comp : Bool)
  | far (node : Nat) (role : Option (Nat × Nat)) (addr : Nat)
  | wait (why what : Nat)
  | bad (cause addr : Nat)
  deriving DecidableEq, Repr, Inhabited

/-- Whether a `give` of a granule that the same context issued before a command is not yet performed (07 R238). -/
def givePending (x : Ctx) (seq num : Nat) : Bool :=
  x.ops.any (fun o => o.seq < seq && (match o.kind with
    | .give f n _ => f ≤ num && num < f + n
    | _ => false))

/-- The same for a granule that a role of the context's iteration names: its own gang's (07 R238). -/
def rolePending (x : Ctx) (c : Cmd) (cl gang num : Nat) : Bool :=
  cl == x.id.cl && gang == x.env.gang && givePending x c.seq num

/-- The migration that has frozen an address. -/
def frozenAt (s : State) (va : Nat) : Option Nat :=
  (s.pkg.migrations.find? (fun m => (m.base ≤ va && va < m.base + m.len) || (m.metaBase ≤ va && va < m.metaBase + m.metaLen))).map (·.idx)

/-- Mere of a gang as an engine command meets it. -/
def mereLoc (s : State) (cl iter gang va : Nat) (pending : Nat → Bool) (miss : Nat) : Loc :=
  match merePlace s cl iter gang va with
  | none => .bad miss va
  | some (p, g) => if ownerSeen s none g && !pending g.num then .here p false else .wait 4 (mereBase + g.num * 4096)

/-- An address of the command's own address space. -/
def ownLoc (s : State) (x : Ctx) (c : Cmd) (va : Nat) (write : Bool) : State × Loc :=
  if inMere va then (s, mereLoc s x.id.cl x.env.iter x.env.gang va (givePending x c.seq) 7)
  else if inFifo va then (s, .bad 8 va)
  else if inInval va 16 || inContain va then (s, .bad 8 va)
  else match lookupLeaf (compared s 3) x.id.cl x.env.asn x.env.root va with
    | (s1, none) => (s1, .bad 7 va)
    | (s1, some leaf) =>
      match leafAcc s1 leaf va c.lvl { write := write, noHost := false, noPeer := false, noComp := false, frozen := false } with
      | .bad t => (s1, .bad t.cause va)
      | .ok p => match frozenAt s1 va with
        | some i => (s1, .wait 5 i)
        | none => (s1, if p.space = .peer then .far p.node none p.addr else .here p (p.space == .hbm && bit leaf 9))

/-- Whether an iteration is being stopped: its commands neither start nor go on (01 R43, 10 R345). -/
def iterStopping (s : State) (uid : Nat) : Bool :=
  match findIter s uid with
  | some i => i.state == .stopping
  | none => false

/-- An address word: a local address, or Mere by role (10 R319, 12 R412). -/
def wordLoc (s : State) (x : Ctx) (c : Cmd) (w a : Nat) (write : Bool) : State × Loc :=
  if !bit w 63 then ownLoc s x c a write
  else
    let none_ : State × Loc := (s, .bad 17 (bits w 55 0))
    match roleOf x w with
    | none => none_
    | some r =>
      let v := r.toNat
      if bits v 1 0 ≤ 1 then
        match (findIter s c.iter).bind (fun i => gangOn i (bits v 8 2)) with
        | none => none_
        | some g => (s, mereLoc s (bits v 8 2) c.iter g a (rolePending x c (bits v 8 2) g) 17)
      else if bits v 1 0 = 3 then
        let tag := if bits v 36 21 = 0 then c.tag.toNat else bits v 36 21
        if bits v 13 2 = nodeNo s then
          match taggedGang s (bits v 20 14) tag with
          | none => none_
          | some (u, g) => (s, mereLoc s (bits v 20 14) u g a (fun n => u == c.iter && rolePending x c (bits v 20 14) g n) 17)
        else (s, .far (bits v 13 2) (some (bits v 20 14, tag)) a)
      else none_

/-- Whether an address word's role reaches no gang of the span that can be told here (10 R319). -/
def roleLost (s : State) (x : Ctx) (c : Cmd) (w : Nat) : Bool :=
  bit w 63 && (match roleOf x w with
  | none => true
  | some r =>
    let v := r.toNat
    if bits v 1 0 ≤ 1 then ((findIter s c.iter).bind (fun i => gangOn i (bits v 8 2))).isNone
    else if bits v 1 0 = 3 then
      if bits v 13 2 = nodeNo s then (taggedGang s (bits v 20 14) (if bits v 36 21 = 0 then c.tag.toNat else bits v 36 21)).isNone
      else !reachable s (bits v 13 2)
    else true)

/-! ## Compressed pages (07 R232, 10 R321) -/

/-- The nibble of sector k of a tensor in the byte at a place, which is read with the error checks. -/
def nibbleIn (s : State) (p : Option Place) (k : Nat) : State × Option (Place × Bool) :=
  match p with
  | none => (s, none)
  | some q => (probeRange s q 1, some (q, k % 2 == 1))

/-- The place of the metadata nibble of a global sector and which half it is; none where no tensor holds the address. -/
def nibblePlace (s : State) (x : Ctx) (va : Nat) : State × Option (Place × Bool) :=
  let s0 := probeTable s
  match handleOf s0 va with
  | none => (s0, none)
  | some i =>
    let e := hEntryOf (entryWords s0 i)
    let k := (va - e.base) / 512
    match lookupLeaf s0 x.id.cl x.env.asn x.env.root (e.metaB + k / 2) with
    | (s1, none) => (s1, none)
    | (s1, some leaf) => nibbleIn s1 (leafPlace s1 leaf (e.metaB + k / 2)) k

/-- The code of a sector; one that no sector is read under where the byte that holds it is poisoned (07 R225). -/
def nibbleGet (s : State) (n : Option (Place × Bool)) : Nat :=
  match n with
  | none => 0
  | some (p, hi) =>
    if isPoisoned s p 1 then 5
    else let b := leNat (readPlace s p 1); if hi then b / 16 else b % 16

def nibblePut (s : State) (n : Option (Place × Bool)) (v : Nat) : State :=
  match n with
  | none => s
  | some (p, hi) =>
    let b := leNat (readPlace s p 1)
    writePlace s p [BitVec.ofNat 8 (if hi then b % 16 + 16 * v else b / 16 * 16 + v % 16)]

/-- The place of the sector that holds a place. -/
def sectorPlace (p : Place) : Place := { p with addr := p.addr / 512 * 512 }

/-- Bytes a sector's code keeps in its slot. -/
def storedLen (code : Nat) : Nat :=
  match code with
  | 0 => 512 | 1 => 0 | 2 => 128 | 3 => 256 | _ => 384

/-- Marks every unit of a sector poisoned. -/
def poisonSector (s : State) (q : Place) : State := (unitsOf q.space q.addr 512).foldl (fun t u => poisonUnit t q.space u) s

/-- Makes the sector of a place raw: its bytes expanded in place and its code 0; poisoned where its stored bytes are, or where
no sector is read under its code (07 R225, R232, R235; 10 R321). -/
def rawSector (s : State) (p : Place) (nb : Option (Place × Bool)) : State :=
  let code := nibbleGet s nb
  let q := sectorPlace p
  if code = 0 then s
  else
    let s1 := probeRange s q (storedLen code)
    match isPoisoned s1 q (storedLen code), expandSector code (readPlace s1 q 512) with
    | false, some full => nibblePut (writePlace s1 q full) nb 0
    | _, _ => poisonSector (nibblePut s1 nb 0) q

/-! ## Reading and writing one piece -/

/-- What reading one piece gives: the bytes; a request to make of another package; a wait; a failure. -/
inductive RdRes where
  | data (bs : List Byte)
  | ask (node : Nat) (role : Option (Nat × Nat)) (addr : Nat)
  | wait (why what : Nat)
  | bad (cause addr : Nat)
  deriving DecidableEq, Repr, Inhabited

/-- The key under which an answer's data is kept with the command's operation: the address with its role bits. -/
def pieceKey (w a : Nat) : Nat := a + bits w 63 57 * 2 ^ 57

/-- Data that has come for a piece. -/
def gotPiece (x : Ctx) (c : Cmd) (k : Nat) : Option (List Byte) :=
  (findOp x c.seq).bind (fun o => (o.gathered.find? (fun g => g.1 == k)).map (·.2))

/-- Reads raw bytes of a place with the error checks; the address of the first poisoned byte otherwise. -/
def rawRead (s : State) (p : Place) (va n : Nat) : State × (List Byte ⊕ Nat) :=
  let s1 := probeRange s p n
  match firstPoisoned s1 p n with
  | some u => (s1, .inr (va + (u - p.addr)))
  | none => (s1, .inl (readPlace s1 p n))

/-- Reads n bytes of one sector of a compressed page as expanded bytes. A sector whose code no sector is read under is poisoned
from its first touched unit on (07 R232). -/
def readSector (s : State) (p : Place) (nb : Option (Place × Bool)) (va n : Nat) : State × (List Byte ⊕ Nat) :=
  let code := nibbleGet s nb
  let q := sectorPlace p
  if code = 0 then rawRead s p va n
  else match rawRead s q (va / 512 * 512) (storedLen code) with
    | (s1, .inr t) => (s1, .inr t)
    | (s1, .inl _) => match expandSector code (readPlace s1 q 512) with
      | none => (poisonUnit s1 p.space (p.addr / unitBytes p.space * unitBytes p.space), .inr va)
      | some bs => (s1, .inl ((bs.drop (p.addr - q.addr)).take n))

/-- Reads a piece that lies in one sector; an answer without data says that it is poisoned. -/
def readPiece (s : State) (x : Ctx) (c : Cmd) (w a n : Nat) : State × RdRes :=
  match gotPiece x c (pieceKey w a) with
  | some [] => (s, .bad 10 a)
  | some bs => (s, .data bs)
  | none =>
    match wordLoc s x c w a false with
    | (s1, .wait y z) => (s1, .wait y z)
    | (s1, .bad k t) => (s1, .bad k t)
    | (s1, .far node role t) => if reachable s1 node then (s1, .ask node role t) else (s1, .bad 17 a)
    | (s1, .here p comp) =>
      let nb := if comp then nibblePlace s1 x a else (hostSettled s1 (some (x.id, x.env.iter)) p n, none)
      match readSector nb.1 p nb.2 a n with
      | (s2, .inr t) => (s2, .bad 10 t)
      | (s2, .inl bs) => (homeTouch s2 a p, .data bs)

/-- The pieces of an access: at most 256 bytes each (11 R356). -/
def pieces (a n : Nat) : List (Nat × Nat) := cutGo 256 a n (n / 256 + 2)

/-- Pieces of one error unit, for a reader that stops at the first poisoned one (09 R299). -/
def finePieces (a n : Nat) : List (Nat × Nat) := cutGo 32 a n (n / 32 + 2)

/-- A piece to ask another package for: local address, length, node, role, address there. -/
structure Ask where
  va : Nat
  len : Nat
  node : Nat
  role : Option (Nat × Nat)
  addr : Nat
  deriving DecidableEq, Repr, Inhabited

/-- What reading a range gives: its bytes as far as they came, the pieces to ask for, the first wait, the failures in order
of address. -/
structure Got where
  bs : List Byte
  asks : List Ask
  wait : Option (Nat × Nat)
  bads : List (Nat × Nat)
  deriving DecidableEq, Repr, Inhabited

def Got.none : Got := { bs := [], asks := [], wait := .none, bads := [] }

/-- The first failure. -/
def Got.bad (g : Got) : Option (Nat × Nat) := g.bads.head?

/-- Reads a range piece by piece. -/
def readGo (s : State) (x : Ctx) (c : Cmd) (w : Nat) : List (Nat × Nat) → Got → State × Got
  | [], g => (s, g)
  | (a, n) :: rest, g =>
    match readPiece s x c w a n with
    | (s1, .data bs) => readGo s1 x c w rest { g with bs := g.bs ++ bs }
    | (s1, .ask node role t) => readGo s1 x c w rest { g with bs := g.bs ++ List.replicate n 0, asks := g.asks ++ [{ va := a, len := n, node := node, role := role, addr := t }] }
    | (s1, .wait y z) => readGo s1 x c w rest { g with bs := g.bs ++ List.replicate n 0, wait := g.wait.or (some (y, z)) }
    | (s1, .bad k t) => readGo s1 x c w rest { g with bs := g.bs ++ List.replicate n 0, bads := g.bads ++ [(k, t)] }

def readRange (s : State) (x : Ctx) (c : Cmd) (w a n : Nat) : State × Got := readGo s x c w (pieces a n) Got.none

/-- Joins two readings of one command. -/
def Got.join (a b : Got) : Got := { bs := a.bs ++ b.bs, asks := a.asks ++ b.asks, wait := a.wait.or b.wait, bads := a.bads ++ b.bads }

/-- Writes bytes at a place of a compressed page: the sector becomes raw (10 R321). -/
def writeComp (s : State) (x : Ctx) (p : Place) (a : Nat) (bs : List Byte) : State :=
  let nb := nibblePlace s x a
  homeWrite (rawSector nb.1 p nb.2) p bs

/-- What writing one piece does. -/
inductive WrRes where
  | done
  | send (node : Nat) (role : Option (Nat × Nat)) (addr : Nat)
  | wait (why what : Nat)
  | bad (cause addr : Nat)
  deriving DecidableEq, Repr, Inhabited

/-- Where a write of a piece goes, without writing. -/
def writeLoc (s : State) (x : Ctx) (c : Cmd) (w a : Nat) : State × WrRes :=
  match wordLoc s x c w a true with
  | (s1, .wait y z) => (s1, .wait y z)
  | (s1, .bad k t) => (s1, .bad k t)
  | (s1, .far node role t) => if reachable s1 node then (s1, .send node role t) else (s1, .bad 17 a)
  | (s1, .here _ _) => (s1, .done)

/-- Writes a piece that lies in one sector. -/
def writePiece (s : State) (x : Ctx) (c : Cmd) (w a : Nat) (bs : List Byte) : State × WrRes :=
  match wordLoc s x c w a true with
  | (s1, .here p comp) => (homeStored (if comp then writeComp s1 x p a bs else placeWrite s1 x (cmdStream x c) p bs) a p, .done)
  | (s1, _) => writeLoc s1 x c w a

/-- The first wait among the pieces of a range to be written. -/
def writeWait (s : State) (x : Ctx) (c : Cmd) (w a n : Nat) : Option (Nat × Nat) :=
  (pieces a n).findSome? (fun p => match (writeLoc s x c w p.1).2 with
    | .wait y z => some (y, z)
    | _ => none)

/-! ## Requests of a command (11 R356, R357; log 11) -/

def cmdOrigin (c : Cmd) : Origin := { ctx := c.ctx, iter := c.iter, seq := c.seq, tag := c.tag.toNat, cmd := true }

/-- The `op` and the high bits of `spec` of a packet that names Mere by role: cluster and tag. -/
def roleOpr (role : Option (Nat × Nat)) : Nat × Nat :=
  match role with
  | none => (0, 0)
  | some (cl, tag) => (cl, tag * 2 ^ 112)

/-- Sends the requests for pieces to be read. -/
def sendAsks (s : State) (c : Cmd) (w : Nat) (l : List Ask) : State × List Nat :=
  l.foldl (fun t q =>
    let o := roleOpr q.role
    let r := sendReq t.1 (cmdOrigin c) q.node 0 .read o.1 q.addr (q.va % 2 ^ 56) q.len (q.len + o.2) [] (pieceKey w q.va) []
    (r.1, t.2 ++ [r.2])) (s, [])

/-- Whether a write of this command to the same bytes of another package is still unanswered (11 R357). -/
def unanswered (s : State) (sent : List Nat) (node t n : Nat) : Bool :=
  s.net.reqs.any (fun r => sent.contains r.rid && r.node == node && rangesMeet [(r.target, r.len)] [(t, n)])

/-- Sends a piece to be written, which the sending port accepts: a purge leaves it, so that it cuts no sector (12 R419). -/
def sendPut (s : State) (c : Cmd) (a : Nat) (node : Nat) (role : Option (Nat × Nat)) (t : Nat) (bs : List Byte) : State × Nat :=
  let o := roleOpr role
  let r := sendReq s (cmdOrigin c) node 0 .write o.1 t (a % 2 ^ 56) bs.length o.2 bs 0 []
  (keepPackets r.1 [r.2], r.2)

/-- What writing a range did: requests sent, the first failure. -/
structure Put where
  sent : List Nat
  bad : Option (Nat × Nat)
  deriving DecidableEq, Repr, Inhabited

/-- Writes a range piece by piece up to the first failure. -/
def writeGo (s : State) (x : Ctx) (c : Cmd) (w : Nat) : List (Nat × Nat) → List Byte → Put → State × Put
  | [], _, r => (s, r)
  | (a, n) :: rest, bs, r =>
    match writePiece s x c w a (bs.take n) with
    | (s1, .done) => writeGo s1 x c w rest (bs.drop n) r
    | (s1, .send node role t) =>
      let q := sendPut s1 c a node role t (bs.take n)
      writeGo q.1 x c w rest (bs.drop n) { r with sent := r.sent ++ [q.2] }
    | (s1, .wait y z) => (s1, { r with bad := r.bad.or (some (y, z)) })
    | (s1, .bad k t) => (s1, { r with bad := r.bad.or (some (k, t)) })

def writeRange (s : State) (x : Ctx) (c : Cmd) (w a : Nat) (bs : List Byte) : State × Put :=
  writeGo s x c w (pieces a bs.length) bs { sent := [], bad := none }

/-! ## Why a command waits (10 R313, R340, R341; 09 R285) -/

/-- Streams of the mask with earlier operations that are not performed at the command's scope. -/
def predStreams (x : Ctx) (c : Cmd) : Nat :=
  match findOp x c.seq with
  | none => 0
  | some o => ((List.range 16).filter (fun j => o.pm.getLsbD j
      && (earlier x c.seq).any (fun e => e.ss == j && !doneAt e o.scope))).foldl (fun a j => a + 2 ^ j) 0

/-- The first byte at which an earlier operation overlaps the command's ranges (08 R259). -/
def overlapAt (x : Ctx) (c : Cmd) : Option Nat :=
  match findOp x c.seq with
  | none => none
  | some o => (earlier x c.seq).findSome? (fun e =>
      ((opRanges o.kind).findSome? (fun r => ((opRanges e.kind).find? (rangeMeets r)).map (fun q => max r.1 q.1 % 2 ^ 56))).or
        (if opsMeet o e then (opRanges o.kind).head?.map (fun r => r.1 % 2 ^ 56) else none))

/-- The handle entries a command names. -/
def cmdHandles (c : Cmd) : List Nat :=
  match cmdInstr c with
  | some (.mma o) | some (.mmao o) => (if o.ka = 1 then [c.hidx] else []) ++ (if o.kb = 1 then [c.hidxB] else [])
  | some (.cpyt o) => if ctMere o then [] else [c.hidx]
  | some (.cpst _) | some (.cpxOut _) | some (.cpxIn _) => [c.hidx]
  | _ => []

def frozenHandle (s : State) (c : Cmd) : Option Nat := (cmdHandles c).find? (fun i => s.pkg.frozen.contains i)

/-- What keeps a command from starting: a failed wait object, or a reason of 10 R340 with its word; none where it may
start. -/
inductive Hold where
  | fails (t : TrapC)
  | why (y what : Nat)
  | free
  deriving DecidableEq, Repr, Inhabited

/-- The wait object, the predecessors and the FROZEN handle. -/
def startHold (s : State) (x : Ctx) (c : Cmd) : Hold :=
  let w := if c.waitOk then .inl true else (waitTest s (agentOf x c.lvl) c.wait).2
  match w with
  | .inr t => .fails t
  | .inl ok =>
    if !ok then .why (objKind c.wait) (bits c.wait.toNat 55 0)
    else if predStreams x c != 0 then .why 3 (predStreams x c)
    else if (match findOp x c.seq with
        | some o => behindReleased s x o.phys
        | none => false) then .why 3 0
    else match frozenHandle s c with
      | some i => .why 5 i
      | none => .free

/-! ## Records and the end of a command -/

/-- Posts a record of a command (10 R334, R336). -/
def postRec (s : State) (c : Cmd) (eng kind data : Nat) : State :=
  postEvent s c.ctx c.iter (eventRec kind c.slot eng c.ctx.ctx c.bundle data)

def postRecs (s : State) (c : Cmd) (eng : Nat) (l : List (Nat × Nat)) : State := l.foldl (fun t r => postRec t c eng r.1 r.2) s

/-- A count record's list: none for a count of 0. -/
def countRec (kind n : Nat) : List (Nat × Nat) := if n = 0 then [] else [(kind, n % 2 ^ 32)]

/-- A flushed command leaves: its record, its entries; no arrival, no failure (10 R342). -/
def flushLeave (s : State) (c : Cmd) : State :=
  let s1 := postRec s c 0 9 c.word.toNat
  let s2 := modCl (dropCmd s1 c) c.ctx.cl (fun z => { z with arrq := z.arrq.filter (fun r => r != refOf c) })
  let mine (f : Flush) : Bool := some f.ctx == c.flush && f.mx == (c.slot == 8)
  if (getCore s2 c.ctx.cl c.ctx.core).flushes.any mine then
    modCore s2 c.ctx.cl c.ctx.core (fun y => { y with flushes := y.flushes.map (fun f => if mine f then { f with left := f.left ++ [refOf c] } else f) })
  else refOut s2 (refOf c)

/-- The credit of a command in sectors (10 R316, 11 R373). -/
def creditOf (s : State) (c : Cmd) : Nat :=
  let d := c.desc.toNat
  match cmdInstr c with
  | some (.cpy _) => ceilDiv ((cpyE d).foldl (· * ·) 1 * cpyEs d) 32
  | some (.cpyt _) => tileBytes (fmtOfCode (BitVec.ofNat 4 (bits d 99 96))) / 32
  | some (.cpzTile o) => tileBytes (czFmt o) / 32
  | some (.cpst _) =>
    tileBytes (hFmt (hEntryOf ((smFind (getCore s c.ctx.cl c.ctx.core).hcache c.hidx).getD (entryWords s c.hidx)))) / 32
  | some (.cpz _) => ceilDiv (bits d 104 64) 32
  | some (.cpxOut _) | some (.cpxIn _) => bits d 175 128 / 64
  | some (.cpnWr _) | some (.cpnRd _) => ceilDiv (bits d 191 160) 32
  | some (.coll _) => collNb d * 8
  | some (.mdrain o) => if mdFmt o = 15 then 8448 else tileBytes (fmtOfCode (BitVec.ofNat 4 (mdFmt o))) / 32
  | _ => 0

/-- The scope that the roles of a command ask for, of those whose ranges are narrowed (08 R264). -/
def cmdRoleScope (s : State) (x : Ctx) (c : Cmd) : Nat :=
  let d := c.desc.toNat
  match cmdInstr c with
  | some (.cpyt _) => max (roleScope s x (bits d 63 0)) (roleScope s x (bits d 191 128))
  | _ => 3

/-- Narrows what a command's operation touches to the bytes it is now known to touch, and its scope with them (08 R259, R264;
log 39). -/
def setRanges (s : State) (x : Ctx) (c : Cmd) (rs : List (Nat × Nat)) : Ctx :=
  match findOp x c.seq with
  | none => x
  | some o => setOp x { o with
      kind := .cmd rs, phys := physRanges s x rs, scope := max (rangesScope s x rs) (cmdRoleScope s x c) }

/-- The Mere granules a command's ranges touch: what its failure is consumed through (06 R204). -/
def rangeGrans (rs : List (Nat × Nat)) : List Nat :=
  (rs.filter (fun r => inMere r.1)).flatMap (fun r =>
    if r.2 = 0 then [] else (List.range ((r.1 - mereBase + r.2 - 1) / 4096 - (r.1 - mereBase) / 4096 + 1)).map (fun i =>
      (r.1 - mereBase) / 4096 + i))

/-- The address word that a command reads by, where it may name a role. -/
def readWord (c : Cmd) : Nat :=
  let d := c.desc.toNat
  match cmdInstr c with
  | some (.cpy _) | some (.cpxIn _) => bits d 63 0
  | some (.cpyt o) => if o.x.getLsbD 5 then bits d 191 128 else 0
  | _ => 0

/-- The poisoned unit at which a command has failed, in its own space or in that of the gang it reads by role (12 R417). -/
def failedUnits (s : State) (x : Ctx) (c : Cmd) (a : Nat) : List (Nat × Nat) :=
  let w := readWord c
  if bit w 63 then
    match (wordLoc s x c w a false).2 with
    | .here p _ => ((unitsOf p.space p.addr 1).filter (fun u => (poisonList s p.space).contains u)).map (fun u => (spaceCode p.space, u))
    | _ => []
  else poisonedIn s x [(a, 1)]

/-- The end of a command: its signal arrival, its failure if it failed, its count, its queue entries (10 R316, R317, R502). -/
def finishCmd (s : State) (c : Cmd) (fail : Option (Nat × Nat)) : State :=
  match cmdOwner s c with
  | none => dropCmd s c
  | some x =>
    let r := signalArrive s (agentOf x c.lvl) c.sig (creditOf s c) fail.isSome
    let bad : Option (Nat × Nat) := match fail, r.2 with
      | some f, _ => some f
      | none, some t => some (t.cause, t.addr)
      | none, none => none
    let s0 := if c.sig = 0 then r.1 else publish r.1 c.ctx c.iter (cmdMask x c)
    let s1 := again s0 x (fun y => match findOp y c.seq with
      | none => y
      | some o => match bad with
        | none => opOut y o
        | some (k, a) => withUnits (if k = 10 then failedUnits r.1 y c a else []) c.seq
            (opFails y o k a c.sig (rangeGrans (opRanges o.kind))))
    dropCmd s1 c

end Sys2Proof.Machine
end

