-- ==== Sys2Proof/Machine/Array.lean ====
section
/-!
DEFINITION. The systolic array: the lease (09 R282, R283), the array queue (10 R311), its commands (09 R285 to R303, 02 R69, R70,
R74), and the retirement of rows (09 R305 to R308, 12 R414, R415).
-/
namespace Sys2Proof.Machine

/-! ## The lease -/

/-- The core that gets a free lease: the highest class, then round-robin after the last holder. -/
def leaseChoice (s : State) (cl : Nat) : Option (Nat × Nat) :=
  let last := (getCl s cl).lease.last
  ((List.range 8).map (fun i => (last + 1 + i) % 8)).foldl (fun best k =>
    match leaseClass s cl k, best with
    | none, b => b
    | some c, none => some (k, c)
    | some c, some (b, d) => if d < c then some (k, c) else some (b, d)) none

/-- LEASE_GRANT (09 R283). -/
def execLeaseGrant (cl : Nat) (s : State) : Host.Outcome State Fault Refusal :=
  match (getCl s cl).lease.holder, leaseChoice s cl with
  | none, some (k, c) =>
    .next (modCl s cl (fun x => { x with lease := { holder := some k, used := 0, since := s.ran, last := x.lease.last, cls := c } }))
  | _, _ => .refused (.notEnabled "LEASE_GRANT")

/-- LEASE_END (09 R283): an ended lease leaves a holder that another core waits behind. -/
def execLeaseEnd (cl : Nat) (s : State) : Host.Outcome State Fault Refusal :=
  match (getCl s cl).lease.holder with
  | some k =>
    if leaseOver s cl && leaseWaiters s cl k none then
      .next (modCl s cl (fun x => { x with lease := { x.lease with holder := none, last := k } }))
    else .refused (.notEnabled "LEASE_END")
  | none => .refused (.notEnabled "LEASE_END")

/-! ## The array queue -/

/-- The first command of each MX queue that has not passed on. -/
def mxHeads (s : State) (cl : Nat) : List Cmd :=
  (List.range 8).filterMap (fun k => (getCore s cl k).mxq.find? (fun c => !c.inArr))

/-- Entries held in the array queue: those of commands that have passed on and not started. -/
def arrEntries (s : State) (cl : Nat) : Nat := (((getCl s cl).arrq.filterMap (findCmd s)).map (·.entries)).sum

/-- The oldest accepted of some commands. -/
def oldestCmd (l : List Cmd) : Option Cmd :=
  l.foldl (fun b c => match b with
    | none => some c
    | some d => if c.order < d.order then some c else some d) none

/-- MX_QUEUE_TRANSFER (10 R311). -/
def execMxQueueTransfer (cl : Nat) (s : State) : Host.Outcome State Fault Refusal :=
  match oldestCmd (mxHeads s cl) with
  | none => .refused (.notEnabled "MX_QUEUE_TRANSFER")
  | some c =>
    if 64 < arrEntries s cl + c.entries then .refused (.notEnabled "MX_QUEUE_TRANSFER")
    else .next (modCl (putCmd s { c with inArr := true }) cl (fun x => { x with arrq := x.arrq ++ [refOf c] }))

/-! ## Banks as dense data -/

/-- The entries of a sparse map from key k, n of them. -/
def denseGo {α : Type} (d : α) : SMap α → Nat → Nat → List α
  | _, _, 0 => []
  | [], k, n + 1 => d :: denseGo d [] (k + 1) n
  | (j, v) :: rest, k, n + 1 => if j = k then v :: denseGo d rest (k + 1) n else d :: denseGo d ((j, v) :: rest) (k + 1) n

def dense {α : Type} (m : SMap α) (n : Nat) (d : α) : List α := denseGo d m 0 n

/-- A list as a sparse map. -/
def sparse (l : List Nat) : SMap Nat := (zipIdx l).filter (fun p => p.2 != 0)

/-- A bank's values: elements by row, lanes. -/
structure Acc32 where
  el : List (List Val)
  sr : List Val
  ar : List Val
  sc : List Val
  ac : List Val
  deriving Repr

def vals32 (l : List Nat) : List Val := l.map (decodeVal .fp32)
def codes32 (l : List Val) : List Nat := l.map code32

/-- Rows of 256 of a list. -/
def rowsOf {α : Type} (l : List α) : List (List α) := (List.range 256).map (fun i => (l.drop (256 * i)).take 256)

def bankVals (b : Bank) : Acc32 :=
  { el := rowsOf (vals32 (dense b.el 65536 0)), sr := vals32 (dense b.srow 256 0), ar := vals32 (dense b.arow 256 0),
    sc := vals32 (dense b.scol 256 0), ac := vals32 (dense b.acol 256 0) }

def bankPut (b : Bank) (a : Acc32) : Bank :=
  { b with el := sparse (codes32 a.el.flatten), srow := sparse (codes32 a.sr), arow := sparse (codes32 a.ar),
           scol := sparse (codes32 a.sc), acol := sparse (codes32 a.ac) }

/-- The accumulator image of elements, lanes and ksteps (09 R294). -/
def imageOf (el : List Nat) (b : Bank) : List Byte :=
  let lanes (s a : List Nat) : List Byte := (s.zip a).flatMap (fun p => natLe 4 p.1 ++ natLe 4 p.2)
  padTo imageBytes (el.flatMap (natLe 4) ++ lanes (dense b.srow 256 0) (dense b.arow 256 0) ++ lanes (dense b.scol 256 0) (dense b.acol 256 0)
    ++ natLe 8 0 ++ natLe 8 0xA6 ++ natLe 8 b.ksteps.toNat)

/-- The bank an image holds. -/
def bankOfImage (b : Bank) (img : List Byte) : Bank :=
  let words (off n stride : Nat) : List Nat := (List.range n).map (fun i => imgNat img (off + stride * i) 4)
  { b with el := sparse (words 0 65536 4), srow := sparse (words 0x40000 256 8), arow := sparse (words 0x40004 256 8),
           scol := sparse (words 0x40800 256 8), acol := sparse (words 0x40804 256 8),
           ksteps := BitVec.ofNat 48 (imgNat img 0x41010 6), poison := false }

/-! ## Products (02 R69, R70, R74; 09 R288 to R292) -/

/-- An operand as the array uses it: its format, whether it is out of its tensor, decoded rows without their scales, the
scale codes, scaled rows, the lanes of its columns. -/
structure Opnd where
  f : Fmt
  out : Bool
  raw : List (List Val)
  gs : List (List Nat)
  vals : List (List Val)
  ls : List Val
  la : List Val
  deriving Repr

def opndOf (f : Fmt) (t : Tile) : Opnd :=
  { f := f, out := false, raw := t.codes.map (fun r => r.map (decodeVal f)), gs := t.scales.map (fun r => r.map (scaleUsed f)),
    vals := tileVals f t, ls := t.colL.map (fun l => decodeVal .fp32 l.1), la := t.colL.map (fun l => decodeVal .fp32 l.2) }

def outOpnd (f : Fmt) : Opnd := { f := f, out := true, raw := [], gs := [], vals := [], ls := [], la := [] }

/-- Elements 32s to 32s + 31 of a list. -/
def blk {α : Type} (l : List α) (s : Nat) : List α := (l.drop (32 * s)).take 32

def isHalf (f : Fmt) : Bool := f == .bf16 || f == .fp16

/-- One step of one element (09 R291). -/
def stepElem (a b : Opnd) (s i j : Nat) (acc : Val) : Val :=
  let x := blk (a.raw.getD i []) s
  let y := blk (b.raw.getD j []) s
  if isHalf a.f then
    if a.out || b.out then (List.range 32).foldl (fun v _ => add32 v (.zero false)) acc
    else (x.zip y).foldl (fun v p => fma32 p.1 p.2 v) acc
  else if a.out || b.out then add32 acc (.zero false)
  else add32 acc (blockSum x ((a.gs.getD i []).getD s 127) y ((b.gs.getD j []).getD s 127))

/-- A lane's addend: the exact sum of products, rounded once; +0 with an out-of-tensor tile (02 R74, 09 R288). -/
def laneAdd (out : Bool) (xs ys : List Val) (lane : Val) : Val := add32 lane (if out then .zero false else sumProducts xs ys 1)

/-- The dense part of step s. -/
def stepDense (a b : Opnd) (s : Nat) (v : Acc32) : Acc32 :=
  let out := a.out || b.out
  let av (i : Nat) : List Val := blk (a.vals.getD i []) s
  let bv (j : Nat) : List Val := blk (b.vals.getD j []) s
  { el := (zipIdx v.el).map (fun r => (zipIdx r.2).map (fun c => stepElem a b s r.1 c.1 c.2))
    sr := (zipIdx v.sr).map (fun r => laneAdd out (av r.1) (blk b.ls s) r.2)
    ar := (zipIdx v.ar).map (fun r => laneAdd out ((av r.1).map valAbs) (blk b.la s) r.2)
    sc := (zipIdx v.sc).map (fun c => laneAdd out (blk a.ls s) (bv c.1) c.2)
    ac := (zipIdx v.ac).map (fun c => laneAdd out (blk a.la s) ((bv c.1).map valAbs) c.2) }

/-- An outlier entry: value, row, K index (09 R292). -/
structure Outlier where
  v : Val
  i : Nat
  k : Nat
  deriving Repr

/-- An outlier's product added to an element (02 R70): +0 where the B factor is out of its tensor. -/
def outElem (b : Opnd) (o : Outlier) (y acc : Val) : Val := if b.out then add32 acc (.zero false) else fma32 o.v y acc

/-- Applies one outlier entry with its lanes. -/
def stepOut (b : Opnd) (v : Acc32) (o : Outlier) : Acc32 :=
  let col (j : Nat) : Val := (b.vals.getD j []).getD o.k .nan
  { el := v.el.modify o.i (fun r => (zipIdx r).map (fun c => outElem b o (col c.1) c.2))
    sr := v.sr.modify o.i (laneAdd b.out [o.v] [b.ls.getD o.k .nan])
    ar := v.ar.modify o.i (laneAdd b.out [valAbs o.v] [b.la.getD o.k .nan])
    sc := (zipIdx v.sc).map (fun c => laneAdd b.out [o.v] [col c.1] c.2)
    ac := (zipIdx v.ac).map (fun c => laneAdd b.out [valAbs o.v] [valAbs (col c.1)] c.2) }

/-- The first n K steps of a product. -/
def runSteps (a b : Opnd) (os : List Outlier) (n : Nat) (v : Acc32) : Acc32 :=
  (List.range n).foldl (fun u s => (os.filter (fun o => o.k / 32 == s)).foldl (stepOut b) (stepDense a b s u)) v

/-! ## Reading operands -/

/-- The K step that a byte of a tile is read for: none before the first step; 8 for bytes that no product reads. -/
def stepOfByte (f : Fmt) (off : Nat) : Option Nat :=
  if off < tDataLen f then some (off % rowBytes f / (rowBytes f / 8))
  else if off < tCheckOff f then (if isMX f then some ((off - tDataLen f) % 8) else some 8)
  else
    let e := (off - tCheckOff f) / 8
    if e < 128 then none else if e < 256 then some 8 else if e < 512 then some ((e - 256) / 32) else some 8

/-- A reading of an operand: the tile and the poison met, as step (none for the header) and address; or a failure; or what must
first come from other packages (09 R288). -/
inductive OpndRead where
  | ok (o : Opnd) (poison : List (Option Nat × Nat))
  | header
  | bad (cause addr : Nat)
  | wait
  | ask (l : List Ask)
  deriving Repr

/-- The formats, tile addresses and tensor of an operand as its command captured it. -/
structure OpndSpec where
  f : Fmt
  addr : Nat
  out : Bool
  deriving DecidableEq, Repr

/-- An operand of kind 0 or 1 (09 R287, R288); none where the handle entry is not valid when it is read again (12 R389). -/
def opndSpec (s : State) (x : Ctx) (kind : BitVec 1) (v idx : Nat) : State × Option OpndSpec :=
  if kind = 0 then (s, some { f := fmtOfCode (BitVec.ofNat 4 (bits v 59 56)), addr := bits v 55 0, out := false })
  else
    let r := seeEntry s x idx
    (r.1, r.2.map (fun e =>
      { f := hFmt e, addr := e.base + bits v 31 0 * tileLen (hFmt e), out := decide (hTiles e ≤ bits v 31 0) }))

/-- The poison met in an operand's pieces: the step of each piece's first byte, since a poisoned unit, and a sector of a compressed
page with any of its stored bytes poisoned, is poisoned as a whole (07 R225, R232). -/
def poisonSteps (s : State) (x : Ctx) (c : Cmd) (q : OpndSpec) : List (Option Nat × Nat) :=
  ((finePieces q.addr (tileBytes q.f)).filterMap (fun p => match (readPiece s x c 0 p.1 p.2).2 with
    | .bad 10 t => some (stepOfByte q.f (p.1 - q.addr), t)
    | _ => none)).filter (fun p => p.1 != some 8)

/-- Reads an operand: its register's value and its captured handle index. -/
def readOpnd (s0 : State) (x : Ctx) (c : Cmd) (kind : BitVec 1) (v idx : Nat) : State × OpndRead :=
  let sp := opndSpec s0 x kind v idx
  let s := sp.1
  match sp.2 with
  | none => (s, .bad 7 (entryAddr s idx))
  | some q =>
    if q.out then (s, .ok (outOpnd q.f) [])
    else
      let r := readGo s x c 0 (finePieces q.addr (tileBytes q.f)) Got.none
      if r.2.wait.isSome then (r.1, .wait)
      else match r.2.bads.find? (fun b => b.1 != 10) with
        | some (k, a) => (r.1, .bad k a)
        | none =>
          if r.2.asks != [] then (r.1, .ask r.2.asks)
          else
            let ps := if r.2.bads = [] then [] else poisonSteps r.1 x c q
            if ps.any (fun p => p.1.isNone) then (r.1, .ok (outOpnd q.f) ps)
            else if headOk (headOf r.2.bs q.f) q.f then (r.1, .ok (opndOf q.f (tileOf q.f r.2.bs)) ps)
            else (r.1, .header)

/-- The step at which reading stops, and the address, for the poison of both operands. -/
def stopStep (ps : List (Option Nat × Nat)) : Option (Nat × Nat) :=
  ps.foldl (fun b p =>
    let n := p.1.getD 0
    match b with
    | none => some (n, p.2)
    | some (m, a) => if n < m then some (n, p.2) else some (m, a)) none

/-- A reading of an outlier list. -/
inductive ListRead where
  | ok (l : List Outlier)
  | bad (cause addr : Nat)
  | broken
  | wait

/-- Bytes of a list whose first word is w. -/
def listLen (w : Nat) : Nat := 8 + 8 * bits w 15 0

/-- Whether a Mere range lies in the gang's granules. -/
def insideGang (s : State) (x : Ctx) (a n : Nat) : Bool := (mereInside s x a n).isNone

def readList (s : State) (x : Ctx) (c : Cmd) (a : Nat) : State × ListRead :=
  if !insideGang s x a 8 then (s, .broken)
  else
    let h := readRange s x c 0 a 8
    match h.2.wait, h.2.bad with
    | some _, _ => (h.1, .wait)
    | none, some (k, t) => (h.1, .bad k t)
    | none, none =>
      let w := leNat h.2.bs
      let n := bits w 15 0
      if bits w 63 16 != 0 || 16384 < n || !insideGang s x a (listLen w) then (h.1, .broken)
      else
        let r := readRange h.1 x c 0 a (listLen w)
        match r.2.wait, r.2.bad with
        | some _, _ => (r.1, .wait)
        | none, some (k, t) => (r.1, .bad k t)
        | none, none =>
          let es := (List.range n).map (fun e => imgNat r.2.bs (8 + 8 * e) 8)
          if es.any (fun e => bits e 63 48 != 0) then (r.1, .broken)
          else (r.1, .ok (es.map (fun e => { v := decodeVal .fp32 (bits e 31 0), i := bits e 39 32, k := bits e 47 40 })))

/-! ## Ends of array commands -/

/-- The outcome of a command at the array. -/
inductive ArrRes where
  | wait
  | pend (s : State) (rids : List Nat)
  | ok (s : State)
  | fail (s : State) (cause addr : Nat)

/-- Poison met by a command marks its bank (09 R299). -/
def bankPoison (s : State) (cl b : Nat) : State := putBank s cl b { getBank s cl b with poison := true }

/-- A failure of kind CHK_MULTI with its record (09 R303). -/
def chkFail (s : State) (c : Cmd) (data : Nat) : ArrRes := .fail (postRec s c 1 2 data) 15 data

/-- A failed access of an operand: poison marks the bank. -/
def accFail (s : State) (cl b cause addr : Nat) : ArrRes := .fail (if cause = 10 then bankPoison s cl b else s) cause addr

/-- The tile fetch unit asks other packages for the pieces of operand tiles that lie there (09 R288, 11 R356). -/
def askTiles (s : State) (c : Cmd) (l : List Ask) : ArrRes :=
  let q := sendAsks s c 0 l
  .pend q.1 q.2

def mmaProduct (s : State) (x : Ctx) (c : Cmd) (bn : Nat) (oa ob : OpndRead) (os : List Outlier) : ArrRes :=
  let cl := x.id.cl
  match oa, ob with
  | .wait, _ => .wait
  | _, .wait => .wait
  | .ask l, .ask m => askTiles s c (l ++ m)
  | .ask l, _ => askTiles s c l
  | _, .ask m => askTiles s c m
  | .bad k a, _ => accFail s cl bn k a
  | .header, _ => chkFail s c (badHeadData bn)
  | _, .bad k a => accFail s cl bn k a
  | .ok a pa, .header => match pa.find? (fun p => p.1.isNone) with
    | some p => accFail s cl bn 10 p.2
    | none => let _ := a; chkFail s c (badHeadData bn)
  | .ok a pa, .ok b pb =>
    let bk := getBank s cl bn
    match stopStep (pa ++ pb) with
    | some (n, t) =>
      let b1 := if n = 0 then bk else { bankPut bk (runSteps a b os n (bankVals bk)) with ksteps := bk.ksteps + BitVec.ofNat 48 n }
      .fail (putBank s cl bn { b1 with poison := true }) 10 t
    | none => .ok (putBank s cl bn { bankPut bk (runSteps a b os 8 (bankVals bk)) with ksteps := bk.ksteps + 8 })

/-- `mma` and `mmao` at the array (09 R291, R292, R299). -/
def runMma (s : State) (x : Ctx) (c : Cmd) (o : MM) (list : Bool) : ArrRes :=
  let bn := o.acc.toNat
  if (getBank s x.id.cl bn).poison then .fail s 10 0
  else
    let ra := readOpnd s x c o.ka (c.ops.getD 0 0).toNat c.hidx
    let rb := readOpnd ra.1 x c o.kb (c.ops.getD 1 0).toNat c.hidxB
    if list then
      match readList rb.1 x c (c.ops.getD 3 0).toNat with
      | (_, .wait) => .wait
      | (s1, .broken) => chkFail s1 c (badHeadData bn)
      | (s1, .bad k a) => accFail s1 x.id.cl bn k a
      | (s1, .ok l) => mmaProduct s1 x c bn ra.2 rb.2 l
    else mmaProduct rb.1 x c bn ra.2 rb.2 []

def runMzero (s : State) (x : Ctx) (bn : Nat) : ArrRes :=
  .ok (putBank s x.id.cl bn { Bank.free with bound := (getBank s x.id.cl bn).bound })

/-- `mload` (09 R293, R294). -/
def runMload (s : State) (x : Ctx) (c : Cmd) (bn : Nat) : ArrRes :=
  let a := bits (c.ops.getD 0 0).toNat 55 0
  let r := readRange s x c 0 a imageBytes
  match r.2.wait, r.2.bad with
  | some _, _ => .wait
  | none, some (k, t) => accFail r.1 x.id.cl bn k t
  | none, none =>
    if imgNat r.2.bs 0x41008 1 = 0xA6 then .ok (putBank r.1 x.id.cl bn (bankOfImage (getBank r.1 x.id.cl bn) r.2.bs))
    else chkFail r.1 c (badHeadData bn)

/-! ## Rows (12 R415) -/

/-- The physical rows that are not retired. -/
def goodRows (m : RowMap) : List Nat := (List.range 265).filter (fun p => !m.retired.getLsbD p)

/-- The physical row behind a logical row: in halves, rows 128 to 255 run on those of 0 to 127. -/
def physRow (m : RowMap) (l : Nat) : Nat :=
  if m.mode = 1 then (goodRows m).getD (if l = 256 then 128 else l % 128) 511
  else match (zipIdx m.spares).find? (fun p => p.2.toNat == l) with
    | some p => 257 + p.1
    | none => l

/-- A fault that a command locates in a physical row: a second one within 2^24 cycles marks it for retirement (09 R306). -/
def locate (s : State) (cl p : Nat) (r : CmdRef) : State :=
  modCl s cl (fun x => { x with
    faultAt := smPut x.faultAt p s.ran
    retire := match smFind x.faultAt p with
      | some t => if s.ran ≤ t + 2 ^ 24 && x.retire.all (fun q => q.1 != p) then x.retire ++ [(p, r)] else x.retire
      | none => x.retire })

/-! ## Checking a bank (09 R300 to R305) -/

/-- The outcome of a bank check: the state with corrections and records, and the failure's data. One that fails when it is made
again after a correction reports the first test's counts, 1 and 1 (09 R304; log 120). -/
def checkBank (s : State) (x : Ctx) (c : Cmd) (bn : Nat) : State × Option Nat :=
  let cl := x.id.cl
  let bk := getBank s cl bn
  let v := bankVals bk
  let tau := bits (smGet s.pkg.chktol 0 0).toNat 63 32
  let eps := bits (smGet s.pkg.chktol 0 0).toNat 31 0
  let l : Lines := { rows := v.el, rl := v.sr.zip v.ar, cl := v.sc.zip v.ac }
  let nf := countRec 3 (nonfinLines l)
  let m := (getCl s cl).rowMap
  let good (t : State) (data p : Nat) : State × Option Nat := (postRecs (incCorr (locate t cl p (refOf c)) 1) c 1 ((1, data) :: nf), none)
  match checkLines tau eps l with
  | .pass => (postRecs s c 1 nf, none)
  | .elem i j =>
    let y := rne32 (corrected l i j)
    let s1 := putBank s cl bn { bk with el := smSet bk.el (256 * i + j) (code32 y) 0 }
    if recheck tau eps { l with rows := setElem l.rows i j y } i j then good s1 (checkData 0 1 1 (physRow m i) j i bn) (physRow m i)
    else let d := failedData 1 1 bn; (postRecs s1 c 1 ((2, d) :: nf), some d)
  | .rowLane i d =>
    good (putBank s cl bn { bk with srow := smSet bk.srow i (code32 d) 0 }) (checkData 1 1 0 (physRow m i) 256 i bn) (physRow m i)
  | .colLane j d =>
    good (putBank s cl bn { bk with scol := smSet bk.scol j (code32 d) 0 }) (checkData 2 0 1 (physRow m 256) j 256 bn) (physRow m 256)
  | .failed r k => let d := failedData r k bn; (postRecs s c 1 ((2, d) :: nf), some d)

def runMchk (s : State) (x : Ctx) (c : Cmd) (bn : Nat) : ArrRes :=
  if (getBank s x.id.cl bn).poison then .fail s 10 0
  else match checkBank s x c bn with
    | (s1, none) => .ok s1
    | (s1, some d) => .fail s1 15 d

/-! ## `mdrain` (09 R297): the check comes first -/

/-- One element's epilogue. -/
def drainElem (o : MC) (scale : Val) (bias y : Val) : Val :=
  let z :=
    if mdScl o && mdBias o then fma32 y scale bias
    else if mdScl o then rne32 (mulExact y scale).1
    else if mdBias o then add32 y bias
    else y
  if mdRelu o && valNeg z && !valIsZero z && !valIsNaN z then .zero false else z

/-- Codes of the sectors of a range of bytes, by sector number from n. -/
def sectorCodes (n : Nat) (bs : List Byte) : Nat → SMap Nat
  | 0 => []
  | f + 1 =>
    if bs = [] then []
    else
      let c := (compress (padTo 512 (bs.take 512))).1
      (if c = 0 then [] else [(n, c)]) ++ sectorCodes (n + 1) (bs.drop 512) f

/-- Sets the codes of the sectors written by a compressing drain: each granule lies at its own physical place. -/
def setSectors (s : State) (x : Ctx) (va : Nat) (bs : List Byte) : Nat → State
  | 0 => s
  | f + 1 =>
    if bs = [] then s
    else
      let s1 := match merePlace s x.id.cl x.env.iter x.env.gang va with
        | none => s
        | some (p, _) => modCl s x.id.cl (fun c => { c with
            sectors := (sectorCodes (p.addr % 2 ^ 22 / 512) (bs.take 4096) 8).foldl (fun m q => smPut m q.1 q.2) c.sectors })
      setSectors s1 x (va + 4096) (bs.drop 4096) f

/-- The records of a drain after its check (10 R322). -/
def drainRecs (o : MC) (idx nonfin above amax : Nat) : List (Nat × Nat) :=
  countRec 3 nonfin ++ countRec 4 above
    ++ (if 3 ≤ mdFmt o && mdFmt o ≤ 13 then [(5, amax + idx % 2 ^ 32 * 2 ^ 32)] else [])

/-- The image and the records a drain makes of its values. -/
def drainImage (o : MC) (c : Cmd) (b : Bank) (z : List (List Val)) : List Byte × List (Nat × Nat) :=
  let idx := bits (c.ops.getD 1 0).toNat 63 32
  if mdFmt o = 15 then (imageOf (codes32 z.flatten) b, countRec 3 ((z.map (fun r => (r.filter (fun v => !valIsFinite v)).length)).sum))
  else
    let f := fmtOfCode (BitVec.ofNat 4 (mdFmt o))
    let rm := rmOfNat (if (mdRm o).toNat = 7 then c.rm else (mdRm o).toNat)
    let fixed (i : Nat) : Option Nat := if mdKs o then some (kCode c.kval (i / 8)) else none
    let q := convertRows f rm c.sat (c.ops.getD 3 0).toNat fixed z
    let t := sealTile f q.1 q.2.1 idx
    (tileImage f t, drainRecs o idx (nonfinCount f t) q.2.2 (amaxRows z))

def runMdrain (s : State) (x : Ctx) (c : Cmd) (o : MC) : ArrRes :=
  let bn := o.acc.toNat
  let a := bits (c.ops.getD 0 0).toNat 55 0
  let ba := mereBase + bits (c.ops.getD 2 0).toNat 23 0
  let ask (t : State) : State × Got := if mdBias o then readRange t x c 0 ba 1024 else (t, Got.none)
  if (getBank s x.id.cl bn).poison then .fail s 10 0
  else
    match (ask s).2.wait.or (writeWait s x c 0 a (mdBytes o)) with
    | some _ => .wait
    | none =>
      match checkBank s x c bn with
      | (s0, some d) => .fail s0 15 d
      | (s0, none) =>
        let rb := ask s0
        match rb.2.bad with
        | some (k, t) => accFail rb.1 x.id.cl bn k t
        | none =>
        let s1 := rb.1
        let bk := getBank s1 x.id.cl bn
        let scale := decodeVal .fp32 (bits (c.ops.getD 1 0).toNat 31 0)
        let bias (j : Nat) : Val := if mdBias o then decodeVal .fp32 (imgNat rb.2.bs (4 * j) 4) else .zero false
        let z := (bankVals bk).el.map (fun r => (zipIdx r).map (fun p => drainElem o scale (bias p.1) p.2))
        let r := drainImage o c bk z
        match writeRange s1 x c 0 a r.1 with
        | (s2, ⟨_, some (k, t)⟩) => .fail s2 k t
        | (s2, ⟨_, none⟩) =>
          let s3 := if mdComp o then setSectors s2 x a r.1 66 else s2
          .ok (postRecs s3 c 1 r.2)

/-! ## `mrel` (09 R280, R298) -/

def runMrel (s : State) (x : Ctx) (c : Cmd) (o : MC) : ArrRes :=
  .ok ((relBanks o).foldl (fun t b =>
    if (getBank t x.id.cl b).bound = some (gangKey x) then
      putBank t x.id.cl b (if c.keep.contains b then freshBank (gangKey x) else Bank.free)
    else t) s)

/-! ## Starting and completing -/

/-- The bytes of an outlier list, as far as its first word tells; none while it cannot be read. -/
def listRange (s : State) (x : Ctx) (c : Cmd) : Option (Nat × Nat) :=
  let v := (c.ops.getD 3 0).toNat
  match ownLoc s x c v false with
  | (s1, .here p _) =>
    let w := leNat (readPlace s1 p 8)
    some (if bits w 15 0 ≤ 16384 && insideGang s x v (listLen w) then (v, listLen w) else (v, 8))
  | _ => none

/-- The context with what an `mmao` touches narrowed to its list's bytes (log 39). -/
def listNarrowed (s : State) (x : Ctx) (c : Cmd) : Ctx :=
  match cmdInstr c, findOp x c.seq, listRange s x c with
  | some (.mmao _), some o, some r => setRanges s x c ((opRanges o.kind).dropLast ++ [r])
  | _, _, _ => x

def narrowList (s : State) (x : Ctx) (c : Cmd) : State :=
  match cmdInstr c with
  | some (.mmao _) => putOwner s (listNarrowed s x c)
  | _ => s

/-- Mere ranges that a command needs before it starts (09 R285): its operands, its list, its bias and its destination. -/
def arrayNeeds (s : State) (x : Ctx) (c : Cmd) : List (Nat × Nat) :=
  let opd (k : BitVec 1) (v : Nat) : List (Nat × Nat) :=
    if k = 0 then [(bits v 55 0, tileBytes (fmtOfCode (BitVec.ofNat 4 (bits v 59 56))))] else []
  let v (i : Nat) : Nat := (c.ops.getD i 0).toNat
  match cmdInstr c with
  | some (.mma o) => opd o.ka (v 0) ++ opd o.kb (v 1)
  | some (.mmao o) => opd o.ka (v 0) ++ opd o.kb (v 1) ++ [(listRange s x c).getD (v 3, 8)]
  | some (.mload _) => [(bits (v 0) 55 0, imageBytes)]
  | some (.mdrain o) => (bits (v 0) 55 0, mdBytes o) :: (if mdBias o then [(mereBase + bits (v 2) 23 0, 1024)] else [])
  | _ => []

/-- The granule of some ranges that the engines may not yet touch. -/
def ownerWait (s : State) (x : Ctx) (c : Cmd) (rs : List (Nat × Nat)) : Option Nat :=
  (rs.flatMap rangePages).findSome? (fun a => match mereLoc s x.id.cl x.env.iter x.env.gang a (givePending x c.seq) 7 with
    | .wait _ g => some g
    | _ => none)

/-- What keeps the command at the head of the array queue, with the reasons of 10 R340. -/
def arrayHold (s : State) (x : Ctx) (c : Cmd) : Hold :=
  match startHold s x c with
  | .fails t => .fails t
  | .why y w => if y ≤ 3 then .why y w else (match ownerWait s x c (arrayNeeds s x c) with
    | some g => .why 4 g
    | none => .why y w)
  | .free => match ownerWait s x c (arrayNeeds s x c) with
    | some g => .why 4 g
    | none => match overlapAt x c with
      | some a => .why 6 a
      | none => .free

/-! ## Retirement of rows (09 R306 to R308) -/

/-- The logical row that a physical row carries in full mode. -/
def logicalRow (m : RowMap) (p : Nat) : Nat := if 257 ≤ p then ((m.spares.getD (p - 257) 511).toNat) else p

/-- The lowest-numbered spare that is free and not retired. -/
def freeSpare (m : RowMap) : Option Nat :=
  ((zipIdx m.spares).find? (fun q => q.2 == 511 && !m.retired.getLsbD (257 + q.1))).map (·.1)

/-- Posts a record of the array about a row to the context whose command located the fault (10 R336). -/
def rowRecord (s : State) (r : CmdRef) (data : Nat) : State :=
  postEvent s r.ctx r.iter (eventRec 1 15 1 r.ctx.ctx 0 data)

/-- Tells the host of a changed map (12 R414, 17 R485). -/
def tellMap (s : State) (cl : Nat) : State := postNotice s 6 0 cl

/-- Whether all banks of an array are free. -/
def banksFree (s : State) (cl : Nat) : Bool := (List.range 4).all (fun b => (getBank s cl b).bound.isNone)

/-- Retires a physical row: onto a spare; without one, into halves once the banks are free; without 129 good rows, out of
service. The records' bank field is 0 (09 R304; log 120). -/
def retireRow (s : State) (cl p : Nat) (r : CmdRef) : Option State :=
  let m := (getCl s cl).rowMap
  let l := logicalRow m p
  let m1 : RowMap := { m with retired := m.retired ||| (1#320 <<< p) }
  match (if m.mode = 0 then freeSpare m else none) with
  | some sp =>
    let sps := (m.spares.map (fun v => if v.toNat = l then 511 else v)).set sp (BitVec.ofNat 9 l)
    let s1 := modCl s cl (fun x => { x with rowMap := { m1 with spares := sps }, retire := x.retire.filter (fun q => q.1 != p) })
    some (tellMap (rowRecord (incRowret s1) r (checkData 6 0 0 p 511 l 0)) cl)
  | none =>
    if !banksFree s cl then none
    else
      let mode : BitVec 2 := if (goodRows m1).length < 129 then 2 else 1
      let s1 := modCl s cl (fun x => { x with rowMap := { m1 with mode := mode }, retire := x.retire.filter (fun q => q.1 != p) })
      let s2 := if m.mode = 0 && mode = 1 then rowRecord (incRowret s1) r (checkData 7 0 0 511 511 511 0) else incRowret s1
      some (tellMap s2 cl)

/-- Whether a row that awaits retirement can leave now: it does so before the next command (09 R306); while it cannot, the
array keeps using it (09 R307). -/
def retiresNow (s : State) (cl : Nat) : Bool :=
  match (getCl s cl).retire with
  | [] => false
  | (p, r) :: _ => (retireRow s cl p r).isSome

/-- ARRAY_COMMAND_START (09 R285). A row that can retire does so first (09 R306); the array reads its retired-row map (12 R422). -/
def execArrayCommandStart (cl : Nat) (s : State) : Host.Outcome State Fault Refusal :=
  let cr := getCl s cl
  match cr.running, retiresNow s cl, cr.arrq with
  | none, false, r :: rest =>
    match findCmd s r with
    | none => .next (modCl s cl (fun x => { x with arrq := rest }))
    | some c => match cmdOwner s c with
      | none => .refused (.notEnabled "ARRAY_COMMAND_START")
      | some x =>
        if iterStopping s c.iter then .refused (.notEnabled "ARRAY_COMMAND_START")
        else match arrayHold s (listNarrowed s x c) c with
        | .why _ _ => .refused (.notEnabled "ARRAY_COMMAND_START")
        | .fails t => .next (finishCmd (modCl s cl (fun y => { y with arrq := rest })) c (some (t.cause, t.addr)))
        | .free => .next (compared (modCl (putCmd (narrowList s x c) { c with started := true, waitOk := true }) cl (fun y =>
            { y with arrq := rest, running := some r })) 0 |> (compared · 3))
  | _, _, _ => .refused (.notEnabled "ARRAY_COMMAND_START")

/-- The effects of a command at the array. -/
def runArray (s : State) (x : Ctx) (c : Cmd) : ArrRes :=
  match cmdInstr c with
  | some (.mma o) => runMma s x c o false
  | some (.mmao o) => runMma s x c o true
  | some (.mzero o) => runMzero s x o.acc.toNat
  | some (.mload o) => runMload s x c o.acc.toNat
  | some (.mchk o) => runMchk s x c o.acc.toNat
  | some (.mdrain o) => runMdrain s x c o
  | some (.mrel o) => runMrel s x c o
  | _ => .ok s

/-- The effects of a command at the array once what it asked of other packages has come. -/
def goArray (s : State) (x : Ctx) (c : Cmd) : ArrRes :=
  match c.failed with
  | some (k, a) => .fail s k a.toNat
  | none => runArray s x c

/-- ARRAY_COMMAND_COMPLETE (09 R285, R286); a command whose operands lie in other packages asks for them first (R288). -/
def execArrayCommandComplete (cl : Nat) (s : State) : Host.Outcome State Fault Refusal :=
  match (getCl s cl).running with
  | none => .refused (.notEnabled "ARRAY_COMMAND_COMPLETE")
  | some r =>
    let idle (t : State) : State := modCl t cl (fun y => { y with running := none })
    match findCmd s r with
    | none => .next (idle s)
    | some c => match cmdOwner s c with
      | none => .next (idle (dropCmd s c))
      | some x =>
        if !c.awaiting.isEmpty then .refused (.notEnabled "ARRAY_COMMAND_COMPLETE")
        else match goArray s x c with
        | .pend s1 rids => .next (putCmd s1 { c with awaiting := rids, phase := 1 })
        | .wait => .refused (.notEnabled "ARRAY_COMMAND_COMPLETE")
        | .ok s1 => .next (idle (finishCmd s1 c none))
        | .fail s1 k a => .next (idle (finishCmd s1 c (some (k, a))))

/-- ROW_RETIRE (09 R306 to R308). -/
def execRowRetire (cl : Nat) (s : State) : Host.Outcome State Fault Refusal :=
  let x := getCl s cl
  match x.running, x.retire with
  | none, (p, r) :: _ => match retireRow s cl p r with
    | some s1 => .next (compared s1 0)
    | none => .refused (.notEnabled "ROW_RETIRE")
  | _, _ => .refused (.notEnabled "ROW_RETIRE")

end Sys2Proof.Machine
end

