-- ==== Sys2Proof/Machine/Collective.lean ====
section
/-!
DEFINITION. Blocks of collectives (11 R368 to R373): what a `coll` asks of its target, the lanes a block carries, its check
at the receiving port, and its application. Used by the copy engine for a role of its own package and by the ports.
-/
namespace Sys2Proof.Machine

/-! ## What a command asks of its target -/

/-- A collective as its target sees it (11 R369; log 11): addresses and options of the descriptor, the cluster and tag of
the role, and T0 in nanoseconds. -/
structure CollSpec where
  dst : Nat
  dstSt : Nat
  fmt : Nat
  op : Nat
  rescale : Bool
  lossy : Bool
  nb : Nat
  n : Nat
  tsig : Nat
  cl : Nat
  tag : Nat
  t0 : Nat
  /-- The iteration of a role of the issuing package, plus 1: its gang is not found by a tag. -/
  near : Nat := 0
  deriving DecidableEq, Repr, Inhabited

/-- The words that carry it between packages (log 11). -/
def specWords (q : CollSpec) : List Word :=
  [q.dst, q.dstSt, q.fmt + q.op * 16 + q.rescale.toNat * 32 + q.lossy.toNat * 64 + q.nb * 2 ^ 8 + q.n * 2 ^ 32, q.tsig,
   q.cl + q.tag * 2 ^ 16 + q.near * 2 ^ 32, q.t0].map (BitVec.ofNat 64)

def specOfWords (l : List Word) : CollSpec :=
  let w (i : Nat) : Nat := (l.getD i 0).toNat
  { dst := w 0, dstSt := w 1, fmt := bits (w 2) 3 0, op := bits (w 2) 4 4, rescale := bit (w 2) 5, lossy := bit (w 2) 6,
    nb := bits (w 2) 24 8, n := bits (w 2) 43 32, tsig := w 3, cl := bits (w 4) 15 0, tag := bits (w 4) 31 16, t0 := w 5, near := bits (w 4) 63 32 }

/-- The bytes of these words, and the words of their bytes. -/
def specBytes (q : CollSpec) : List Byte := (specWords q).flatMap (fun w => natLe 8 w.toNat)
def wordsOfBytes (bs : List Byte) : List Word := (List.range (bs.length / 8)).map (fun i => BitVec.ofNat 64 (imgNat bs (8 * i) 8))

/-! ## Lanes of a block (11 R371) -/

/-- Bytes of an element. -/
def collW (fmt : Nat) : Nat := if fmt = 1 || fmt = 2 then 2 else 4

/-- Element codes of a block. -/
def blockCodes (fmt : Nat) (bs : List Byte) : List Nat := (List.range (256 / collW fmt)).map (fun i => imgNat bs (collW fmt * i) (collW fmt))
def blockBytes (fmt : Nat) (l : List Nat) : List Byte := l.flatMap (natLe (collW fmt))

def blockVals (fmt : Nat) (l : List Nat) : List Val := l.map (decodeVal (fmtOfCode (BitVec.ofNat 4 fmt)))

/-- The lanes (S, A) a block carries, as FP32 codes; at format 14 the sum modulo 2^32 and 0. -/
def blockLanes (fmt : Nat) (l : List Nat) : Nat × Nat :=
  if fmt = 14 then (l.sum % 2 ^ 32, 0) else laneCode (chkLanes (blockVals fmt l))

/-- Whether a block's lanes pass their check, and whether they are not compared (02 R75, R77). -/
def blockCheck (s : State) (fmt : Nat) (l : List Nat) (sl al : Nat) : Bool × Bool :=
  if fmt = 14 then (l.sum % 2 ^ 32 == sl, false)
  else
    let t := smGet s.pkg.chktol fmt 0
    let d := (chkLanes (blockVals fmt l)).1
    let sv := decodeVal .fp32 sl
    let av := decodeVal .fp32 al
    (laneOk d sv av (bits t.toNat 63 32) (bits t.toNat 31 0), !(valIsFinite d && valIsFinite sv && valIsFinite av))

/-! ## Applying a block (11 R372) -/

/-- A block on its way: index, valid contributions, lanes, bytes, and whether it arrived intact. -/
structure Block where
  b : Nat
  nv : Nat
  sl : Nat
  al : Nat
  ok : Bool
  bs : List Byte
  deriving DecidableEq, Repr, Inhabited

/-- What the application of a block gives: the state, whether it came in, whether it was not compared, whether a rescale
found no valid contribution; or a NACK. -/
inductive Applied where
  | done (s : State) (ok nonfin novalid : Bool)
  | nack
  deriving Repr, Inhabited

/-- The place of an engine-owned range of a gang's Mere; none where the port answers with a NACK (11 R359). -/
def gangPlace (s : State) (g : Nat × Nat × Nat) (va : Nat) : Option Place :=
  match mereLoc s g.1 g.2.1 g.2.2 va (fun _ => false) 17 with
  | .here p _ => some p
  | _ => none

/-- One element of a sum. -/
def collAdd (fmt x y : Nat) : Nat :=
  if fmt = 14 then (x + y) % 2 ^ 32 else (addCode (fmtOfCode (BitVec.ofNat 4 fmt)) .rne x y 0 0).1

/-- The sum of a block, and whether it passes its check: none where it fails; with whether it is not compared. -/
def collSum (s : State) (fmt : Nat) (xs ys : List Nat) (sl al : Nat) : Option (List Nat) × Bool :=
  let z := (xs.zip ys).map (fun p => collAdd fmt p.1 p.2)
  if fmt = 14 then (if z.sum % 2 ^ 32 = (xs.sum + sl) % 2 ^ 32 then some z else none, false)
  else
    let t := smGet s.pkg.chktol fmt 0
    let lx := chkLanes (blockVals fmt xs)
    let d := (chkLanes (blockVals fmt z)).1
    let sv := add32 lx.1 (decodeVal .fp32 sl)
    let av := add32 lx.2 (decodeVal .fp32 al)
    let nf := !(valIsFinite d && valIsFinite sv && valIsFinite av)
    (if laneOk d sv av (bits t.toNat 63 32) (bits t.toNat 31 0) then some z else none, nf)

/-- The rescale of 02 R72 over a block. -/
def collRescaled (q : CollSpec) (nv : Nat) (l : List Nat) : List Nat :=
  l.map (fun c => code32 (rescaleVal (decodeVal .fp32 c) q.n nv))

/-- Writes the results of a block: data, then the state word. -/
def finishBlock (s : State) (q : CollSpec) (p : Place) (st : Option Place) (z : Option (List Nat)) (nvd : Nat) (vd : Bool) : State :=
  let s1 := match z with
    | none => s
    | some l => writePlace s p (blockBytes q.fmt l)
  match st with
  | none => s1
  | some w => writePlace s1 w (natLe 4 (nvd + vd.toNat * 2 ^ 12))

/-- Applies a block to the Mere of a gang: cluster, iteration, gang index. In the reliable class a sum that fails its check
changes nothing and is answered with a NACK. -/
def applyBlock (s : State) (g : Nat × Nat × Nat) (q : CollSpec) (k : Block) : Applied :=
  match gangPlace s g (q.dst + 256 * k.b), (if q.dstSt = 0 then some none else (gangPlace s g (q.dstSt + 4 * k.b)).map some) with
  | some p, some st =>
    let s1 := probeRange s p 256
    let s2 := match st with
      | none => s1
      | some w => probeRange s1 w 4
    if (q.op = 1 && isPoisoned s2 p 256) || (match st with
        | none => false
        | some w => isPoisoned s2 w 4) then .nack
    else
      let stw := match st with
        | none => 1 + 2 ^ 12
        | some w => leNat (readPlace s2 w 4)
      let xs := blockCodes q.fmt (readPlace s2 p 256)
      let ys := blockCodes q.fmt k.bs
      let nfIn := k.ok && (blockCheck s2 q.fmt ys k.sl k.al).2
      let sum := collSum s2 q.fmt xs ys k.sl k.al
      let ok := k.ok && (q.op = 0 || sum.1.isSome)
      let nonfin := nfIn || (q.op = 1 && k.ok && sum.2)
      if !ok && !q.lossy then .nack
      else
        let dst := if q.op = 0 then (if ok then ys else xs.map (fun _ => 0)) else if ok then sum.1.getD xs else xs
        let nvd := if q.op = 0 then (if ok then k.nv else 0) else if ok then min (bits stw 11 0 + k.nv) 4095 else bits stw 11 0
        let novalid := q.rescale && nvd == 0
        let z := if !q.rescale then dst else if nvd = 0 then dst.map (fun _ => 0) else collRescaled q nvd dst
        .done (finishBlock s2 q p st (some z) nvd ok) ok nonfin novalid
  | _, _ => .nack

/-- The agent that a target's arrival is made for: the address space of the gang's launch, at supervisor level (log 22). -/
def gangAgent (s : State) (g : Nat × Nat × Nat) : Option Agent :=
  (findIter s g.2.1).bind (fun i => (findInst s i.id.entry).map (fun n =>
    { cl := g.1, iter := g.2.1, gang := g.2.2, asn := instAsn n, root := instRoot n, lvl := 2 }))

/-- The arrival at `tsig` after every block has been applied (11 R373). -/
def collSignal (s : State) (g : Nat × Nat × Nat) (q : CollSpec) : State :=
  let o := BitVec.ofNat 64 q.tsig
  if objKind o = 1 then (signalArrive s default o 0 false).1
  else match gangAgent s g with
    | none => s
    | some a => (signalArrive s a o (q.nb * 8) false).1

/-- The records of a collective at its originator (11 R373). -/
def collRecs (nonfin novalid firstNv : Nat) : List (Nat × Nat) :=
  countRec 3 nonfin ++ (if novalid = 0 then [] else [(8, novalid % 2 ^ 16 + firstNv % 2 ^ 32 * 2 ^ 16)])

end Sys2Proof.Machine
end

