-- ==== Sys2Proof/Machine/CopyEngine.lean ====
section
/-!
DEFINITION. The copy engine: which command starts (10 R312, R313), its stops (R313, 07 R238), the commands (10 R323 to R332,
11 R368 to R373) and their ends (R316, R317, R322).
-/
namespace Sys2Proof.Machine

/-! ## Starting (10 R312) -/

/-- The next command of a core's CP queue. -/
def cpNext (s : State) (cl core : Nat) : Option Cmd := (getCore s cl core).cpq.find? (fun c => !c.started)

/-- Started commands of a cluster's engine. -/
def cpRunning (s : State) (cl : Nat) : Nat :=
  ((List.range 8).map (fun k => ((getCore s cl k).cpq.filter (fun c => c.started)).length)).sum

/-- Whether a command is ready: it may start, or its wait object has failed. -/
def cpReady (s : State) (c : Cmd) : Bool :=
  !iterStopping s c.iter && (match cmdOwner s c with
  | none => false
  | some x => match startHold s x c with
    | .why _ _ => false
    | _ => true)

/-- The command the engine starts: highest launch priority, then round-robin in core number after the last one. -/
def cpChoice (s : State) (cl : Nat) : Option Cmd :=
  (((List.range 8).map (fun i => ((getCl s cl).lastCp + 1 + i) % 8)).filterMap (cpNext s cl)).foldl (fun best c =>
    if !cpReady s c then best
    else match best with
      | none => some c
      | some b => if b.prio < c.prio then some c else some b) none

/-- CP_COMMAND_START: a command whose wait object has failed ends without an access (10 R502); one that starts has read the set of
FROZEN ranges (12 R422). -/
def execCpCommandStart (cl : Nat) (s : State) : Host.Outcome State Fault Refusal :=
  if 8 ≤ cpRunning s cl then .refused (.notEnabled "CP_COMMAND_START")
  else match cpChoice s cl with
  | none => .refused (.notEnabled "CP_COMMAND_START")
  | some c => match cmdOwner s c with
    | none => .refused (.notEnabled "CP_COMMAND_START")
    | some x =>
      let s1 := modCl s cl (fun y => { y with lastCp := c.ctx.core })
      match startHold s x c with
      | .fails t => .next (finishCmd s1 c (some (t.cause, t.addr)))
      | _ => .next (compared (putCmd s1 { c with started := true, waitOk := true }) 3)

/-! ## Outcomes -/

/-- How far a started command comes: it stops at an access with what it has done, the requests it has sent and the reason;
it waits for answers; it ends; it fails, with requests still under way. -/
inductive CpRes where
  | stop (s : State) (prog : Nat) (rids : List Nat) (why what : Nat)
  | pend (s : State) (prog : Nat) (rids : List Nat) (phase : Nat)
  | ok (s : State)
  | fail (s : State) (rids : List Nat) (cause addr : Nat)
  deriving Inhabited

/-- Reads a range and goes on with its bytes; what it needs from other packages is asked for first. -/
def withRead (s : State) (x : Ctx) (c : Cmd) (w a n : Nat) (k : State → List Byte → CpRes) : CpRes :=
  let r := readRange s x c w a n
  match r.2.wait, r.2.bad with
  | some (y, z), _ => .stop r.1 c.prog [] y z
  | none, some (cause, addr) => .fail r.1 [] cause addr
  | none, none =>
    if r.2.asks = [] then k r.1 r.2.bs
    else
      let q := sendAsks r.1 c w r.2.asks
      .pend q.1 c.prog q.2 1

/-- Writes a range and goes on; the command then waits for the acknowledgements of what it sent. -/
def withWrite (s : State) (x : Ctx) (c : Cmd) (w a : Nat) (bs : List Byte) (k : State → State) : CpRes :=
  match writeWait s x c w a bs.length with
  | some (y, z) => .stop s c.prog [] y z
  | none =>
    let r := writeRange s x c w a bs
    match r.2.bad with
    | some (cause, addr) => .fail r.1 r.2.sent cause addr
    | none => if r.2.sent = [] then .ok (k r.1) else .pend (k r.1) c.prog r.2.sent 2

/-- CHK_MULTI with its record (10 R326). -/
def cpChkFail (s : State) (c : Cmd) (pre : List (Nat × Nat)) (data : Nat) : CpRes := .fail (postRecs s c 2 (pre ++ [(2, data)])) [] 15 data

/-! ## `cpy` (10 R323, R324) -/

/-- The byte offset of element i: dimension 0 innermost. -/
def nestOff : List Nat → List Int → Nat → Int
  | e :: es, t :: ts, i => ((i % e : Nat) : Int) * t + nestOff es ts (i / e)
  | _, _, _ => 0

/-- The address of element i on the side whose word stands at bit wlo and whose strides start at bit slo. -/
def cpyAt (d wlo slo i : Nat) : Nat := wrapNat ((bits d (wlo + 55) wlo : Int) + nestOff (cpyE d) (strides d slo) i) 56

/-- Data that came for some pieces is used once: what reads the same bytes later asks again (10 R324). -/
def dropPieces (s : State) (x : Ctx) (c : Cmd) (ks : List Nat) : State × Ctx :=
  match findOp x c.seq with
  | none => (s, x)
  | some o =>
    let used (z : Ctx) : Ctx := setOp z { o with gathered := o.gathered.filter (fun g => !ks.contains g.1) }
    if o.gathered.any (fun g => ks.contains g.1) then (again s x used, used x) else (s, x)

/-- The source address of element i. -/
def cpySrc (d i : Nat) : Nat := cpyAt d 0 256 i
def cpyDst (d i : Nat) : Nat := cpyAt d 64 448 i

/-- Reads elements from i on without moving them: what to ask other packages for, how far they can be read, and why no further. -/
def cpyReads (c : Cmd) (d : Nat) (x : Ctx) : Nat → Nat → State → List Ask → State × List Ask × Nat × RdRes
  | 0, i, s, l => (s, l, i, .data [])
  | n + 1, i, s, l =>
    match readPiece s x c (bits d 63 0) (cpySrc d i) (cpyEs d) with
    | (s1, .data _) => cpyReads c d x n (i + 1) s1 l
    | (s1, .ask node role t) =>
      let q : Ask := { va := cpySrc d i, len := cpyEs d, node := node, role := role, addr := t }
      cpyReads c d x n (i + 1) s1 (if l.contains q then l else l ++ [q])
    | (s1, r) => (s1, l, i, r)

/-- Finds where elements from i on go: how far they can be written, why no further, and whether one of them must wait for the answer
of a write to the same bytes (11 R357). -/
def cpyPuts (c : Cmd) (d : Nat) (x : Ctx) (sent : List Nat) : Nat → Nat → State → State × Nat × WrRes × Bool
  | 0, i, s => (s, i, .done, false)
  | n + 1, i, s =>
    match writeLoc s x c (bits d 127 64) (cpyDst d i) with
    | (s1, .done) => cpyPuts c d x sent n (i + 1) s1
    | (s1, .send node role t) =>
      let r := cpyPuts c d x sent n (i + 1) s1
      if unanswered s1 sent node t (cpyEs d) then (r.1, r.2.1, r.2.2.1, true) else r
    | (s1, r) => (s1, i, r, false)

/-- An element's bytes for another package: its address word's address, node, role, address there. -/
structure FarElem where
  va : Nat
  node : Nat
  role : Option (Nat × Nat)
  addr : Nat
  bs : List Byte
  deriving DecidableEq, Repr, Inhabited

/-- Whether two elements of other packages are the same bytes: elements are aligned, so they coincide or do not meet. -/
def FarElem.same (a : FarElem) (node : Nat) (role : Option (Nat × Nat)) (t : Nat) : Bool := a.node == node && a.role == role && a.addr == t

/-- The bytes of element i: those that an earlier element of its sector writes to another package, else those read. -/
def cpyBytes (s : State) (x : Ctx) (c : Cmd) (d i : Nat) (far : List FarElem) : State × List Byte :=
  let early := match (wordLoc s x c (bits d 63 0) (cpySrc d i) false).2 with
    | .far node role t => (far.find? (fun q => q.same node role t)).map (·.bs)
    | _ => none
  match early with
  | some bs => (s, bs)
  | none => match readPiece s x c (bits d 63 0) (cpySrc d i) (cpyEs d) with
    | (s1, .data bs) => (s1, bs)
    | (s1, _) => (s1, List.replicate (cpyEs d) 0)

/-- Moves elements from i on, each read and then written; what goes to other packages is gathered, of equal addresses the last. -/
def cpyMoves (c : Cmd) (d : Nat) (x : Ctx) : Nat → Nat → State → List FarElem → State × List FarElem
  | 0, _, s, far => (s, far)
  | n + 1, i, s, far =>
    let r := cpyBytes s x c d i far
    match writePiece r.1 x c (bits d 127 64) (cpyDst d i) r.2 with
    | (s1, .send node role t) =>
      cpyMoves c d x n (i + 1) s1 (far.filter (fun q => !q.same node role t)
        ++ [{ va := cpyDst d i, node := node, role := role, addr := t, bs := r.2 }])
    | (s1, _) => cpyMoves c d x n (i + 1) s1 far

/-- Elements of a `cpy` in a 32-byte sector of its own count (10 R316). -/
def cpyPer (d : Nat) : Nat := 32 / cpyEs d

/-- Elements from i on, in order, sector by sector: it is stopped between sectors alone (10 R342, 12 R419). What a sector reads of other
packages is asked for once the writes sent before it are acknowledged (11 R357). -/
def cpyGo (c : Cmd) (d total : Nat) : Nat → Nat → State → Ctx → List Nat → CpRes
  | 0, i, s, _, sent => if sent = [] then .ok s else .pend s i sent 1
  | f + 1, i, s, x, sent =>
    if total ≤ i then (if sent = [] then .ok s else .pend s i sent 1)
    else
      let e := min total ((i / cpyPer d + 1) * cpyPer d)
      match cpyReads c d x (e - i) i s [] with
      | (s1, asks, j, why) =>
        if asks != [] then
          if sent = [] then
            let q := sendAsks s1 c (bits d 63 0) asks
            .pend q.1 i q.2 1
          else .pend s1 i sent 1
        else match cpyPuts c d x sent (j - i) i s1 with
          | (_, _, _, true) => .pend s1 i sent 1
          | (s2, k, put, false) =>
            let m := cpyMoves c d x (k - i) i s2 []
            let r := dropPieces m.1 x c ((List.range (k - i)).map (fun n => pieceKey (bits d 63 0) (cpySrc d (i + n))))
            let t := m.2.foldl (fun u q => let v := sendPut u.1 c q.va q.node q.role q.addr q.bs; (v.1, u.2 ++ [v.2])) (r.1, sent)
            match k == j, put, why with
            | false, .wait y z, _ => .stop t.1 k t.2 y z
            | false, .bad a b, _ => .fail t.1 t.2 a b
            | true, _, .wait y z => .stop t.1 k t.2 y z
            | true, _, .bad a b => .fail t.1 t.2 a b
            | _, _, _ => cpyGo c d total f k t.1 r.2 t.2

def runCpy (s : State) (x : Ctx) (c : Cmd) : CpRes :=
  let d := c.desc.toNat
  let total := (cpyE d).foldl (· * ·) 1
  cpyGo c d total (total - c.prog + 1) c.prog s x []

/-! ## `cpz` (10 R330) -/

def cpzGo (x : Ctx) (c : Cmd) (d : Nat) : Nat → Nat → State → List Nat → CpRes
  | 0, i, s, sent => if sent = [] then .ok s else .pend s i sent 1
  | f + 1, i, s, sent =>
    let a := (bits d 55 0 + 8 * i) % 2 ^ 56
    let bs := natLe 8 (bits d 191 128)
    match writePiece s x c (bits d 63 0) a bs with
    | (s1, .wait y z) => .stop s1 i sent y z
    | (s1, .bad k t) => .fail s1 sent k t
    | (s1, .send node role t) =>
      if unanswered s1 sent node t 8 then .pend s1 i sent 1
      else
        let q := sendPut s1 c a node role t bs
        cpzGo x c d f (i + 1) q.1 (sent ++ [q.2])
    | (s1, .done) => cpzGo x c d f (i + 1) s1 sent

def runCpz (s : State) (x : Ctx) (c : Cmd) : CpRes :=
  let d := c.desc.toNat
  cpzGo x c d (bits d 104 64 / 8 - c.prog) c.prog s []

/-! ## Tiles (10 R325 to R330, R503) -/

/-- What a probe for a tile's format finds. -/
inductive Found where
  | fmt (f : Fmt)
  | none
  | stop (r : CpRes)
  deriving Inhabited

/-- The header string read at a candidate's offset. -/
def probeHead (bs : List Byte) : Nat := (List.range 128).foldr (fun j acc => acc * 2 + (bit (imgNat bs (8 * j) 8) 63).toNat) 0

/-- Probes the candidates in order; a probe that leaves the granules ends the search (10 R503). -/
def findFmt (s : State) (x : Ctx) (c : Cmd) (w a : Nat) : List (Nat × List Nat) → State × Found
  | [] => (s, .none)
  | (off, codes) :: rest =>
    let r := readRange s x c w (a + off) 1024
    match r.2.wait, r.2.bad with
    | some (y, z), _ => (r.1, .stop (.stop r.1 c.prog [] y z))
    | .none, some (cause, addr) => if cause = 10 then (r.1, .stop (.fail r.1 [] 10 addr)) else (r.1, .none)
    | .none, .none =>
      if r.2.asks != [] then
        let q := sendAsks r.1 c w r.2.asks
        (q.1, .stop (.pend q.1 c.prog q.2 1))
      else
        let h := probeHead r.2.bs
        if headProbe h codes then (r.1, .fmt (fmtOfCode (BitVec.ofNat 4 (headFmt h)))) else findFmt r.1 x c w a rest

/-- A checked tile with its records; or a failure. -/
inductive Checked where
  | ok (s : State) (t : Tile) (recs : List (Nat × Nat))
  | bad (r : CpRes)
  deriving Inhabited

/-- Steps 1 and 2 of 10 R326. -/
def cpCheck (s : State) (c : Cmd) (f : Fmt) (bs : List Byte) (check : Bool) : Checked :=
  let t := tileOf f bs
  if !headOk t.head f then .bad (cpChkFail s c [] (badHeadData 0))
  else if !check then .ok s t []
  else
    let w := (smGet s.pkg.chktol (fmtCode f) 0).toNat
    match checkTile f (bits w 63 32) (bits w 31 0) t with
    | .ok t1 (some d) nf => .ok (incCorr s 1) t1 ((1, d) :: countRec 3 nf)
    | .ok t1 .none nf => .ok s t1 (countRec 3 nf)
    | .failed _ d nf => .bad (.fail (postRecs s c 2 ((2, d) :: countRec 3 nf)) [] 15 d)

/-- The rounding mode of a command's field. -/
def cpRm (c : Cmd) (r : Nat) : Rm := rmOfNat (if r = 7 then c.rm else r)

/-- Writes a tile to the destination of a `cpyt` and posts its records. -/
def putTile (s : State) (x : Ctx) (c : Cmd) (f : Fmt) (t : Tile) (recs : List (Nat × Nat)) : CpRes :=
  let d := c.desc.toNat
  withWrite s x c (bits d 63 0) (bits d 55 0) (tileImage f t) (fun u => postRecs u c 2 recs)

/-- Steps 3 to 5 of 10 R326. -/
def convertTile (s : State) (x : Ctx) (c : Cmd) (fs : Fmt) (regen : Bool) (t : Tile) (recs : List (Nat × Nat)) : CpRes :=
  let d := c.desc.toNat
  let fd := fmtOfCode (BitVec.ofNat 4 (bits d 99 96))
  if fd = fs && !regen then putTile s x c fd t recs
  else
    let q := convertRows fd (cpRm c (bits d 102 100)) c.sat (bits d 255 192) (fun _ => none) (tileVals fs t)
    let u := sealTile fd q.1 q.2.1 (bits d 95 64)
    putTile s x c fd u (recs ++ countRec 3 (nonfinCount fd u) ++ countRec 4 q.2.2)

/-- A stop before the first write takes back what its check counted: the check is made again when the command goes on. -/
def uncounted (s : State) (r : CpRes) : CpRes :=
  match r with
  | .stop _ prog rids y z => .stop s prog rids y z
  | other => other

/-- A failure after the check posts the check's records too: what it corrected has been counted (10 R326). -/
def withRecs (c : Cmd) (recs : List (Nat × Nat)) (r : CpRes) : CpRes :=
  match r with
  | .fail s rids k a => .fail (postRecs s c 2 recs) rids k a
  | other => other

def cpytSource (s : State) (x : Ctx) (c : Cmd) (o : CD) (fs : Fmt) (bs : List Byte) : CpRes :=
  match cpCheck s c fs bs (!ctRegen o) with
  | .bad r => r
  | .ok s1 t recs => uncounted s (withRecs c recs (convertTile s1 x c fs (ctRegen o) t recs))

/-- Reads a whole tile whose format is known: it must lie inside the granules, else the first address outside is reported
(10 R503). -/
def withTile (s : State) (x : Ctx) (c : Cmd) (w a n : Nat) (k : State → List Byte → CpRes) : CpRes :=
  if !inMere a then .fail s [] 7 a
  else
    let r := readRange s x c w a n
    match r.2.bads.find? (fun q => q.1 != 10) with
    | some (_, t) => .fail r.1 [] 7 t
    | none => withRead s x c w a n k

def runCpyt (s : State) (x : Ctx) (c : Cmd) (o : CD) : CpRes :=
  let d := c.desc.toNat
  let fd := fmtOfCode (BitVec.ofNat 4 (bits d 99 96))
  if c.phase = 2 then .ok s
  else if ctMere o then
    let w := bits d 191 128
    let a := bits d 183 128
    if roleLost s x c w then .fail s [] 17 a
    else match findFmt s x c w a probes with
    | (_, .stop r) => r
    | (s1, .none) => cpChkFail s1 c [] (badHeadData 0)
    | (s1, .fmt f) => withTile s1 x c w a (tileBytes f) (fun s2 bs => cpytSource s2 x c o f bs)
  else
    match seeEntry s x c.hidx with
    | (s1, none) => .fail s1 [] 7 (entryAddr s1 c.hidx)
    | (s1, some e) =>
      if hTiles e ≤ bits d 95 64 then putTile s1 x c fd (zeroTile fd (bits d 95 64)) []
      else withRead s1 x c 0 (e.base + bits d 95 64 * tileLen (hFmt e)) (tileBytes (hFmt e)) (fun s2 bs => cpytSource s2 x c o (hFmt e) bs)

def runCpzTile (s : State) (x : Ctx) (c : Cmd) (o : CD) : CpRes :=
  if c.phase = 2 then .ok s else putTile s x c (czFmt o) (zeroTile (czFmt o) (bits c.desc.toNat 95 64)) []

/-- Writes sectors of a compressed tensor with their codes (07 R231, R232). -/
def writeSectors (s : State) (x : Ctx) (c : Cmd) (a : Nat) (bs : List Byte) : Nat → State × Option (Nat × Nat)
  | 0 => (s, none)
  | f + 1 =>
    if bs = [] then (s, none)
    else
      match ownLoc s x c a true with
      | (s1, .here p _) =>
        let z := compress (padTo 512 (bs.take 512))
        let s2 := if z.2 = [] then s1 else writePlace s1 p z.2
        let nb := nibblePlace s2 x a
        writeSectors (homeStored (nibblePut nb.1 nb.2 z.1) a p) x c (a + 512) (bs.drop 512) f
      | (s1, .bad k t) => (s1, some (k, t))
      | (s1, .far _ _ _) => (s1, some (8, a))
      | (s1, .wait _ _) => (s1, some (7, a))

/-- `amo.fmax.w.pkg` of a on the amax word, as an access of the command (10 R329), which makes its sector raw (R321). -/
def amaxWord (s : State) (x : Ctx) (c : Cmd) (va a : Nat) : State × Option (Nat × Nat) :=
  match ownLoc s x c va true with
  | (s1, .here p comp) =>
    if p.space = .hbm || p.space = .carved then
      let nb := if comp then nibblePlace s1 x va else (s1, none)
      match rmwAt (rawSector nb.1 p nb.2) va p 4 (fun t => some (amoNew 11 32 t a)) with
      | (s2, some _) => (s2, none)
      | (s2, none) => (s2, some (10, va))
    else (s1, some (8, va))
  | (s1, .bad k t) => (s1, some (k, t))
  | (s1, _) => (s1, some (8, va))

/-- The end of a `cpst`: its atomic, its records, those of its check first. -/
def cpstEnd (s : State) (x : Ctx) (c : Cmd) (a above : Nat) (checked made : List (Nat × Nat)) : CpRes :=
  let d := c.desc.toNat
  let all := checked ++ made ++ countRec 4 above ++ [(5, a + bits d 95 64 * 2 ^ 32)]
  if bits d 183 128 = 0 then .ok (postRecs s c 2 all)
  else match amaxWord s x c (bits d 183 128) a with
    | (s1, none) => .ok (postRecs s1 c 2 all)
    | (s1, some (k, t)) => .fail (postRecs s1 c 2 (checked ++ made)) [] k t

/-- What the amax word of a `cpst` waits for: a page that is FROZEN. -/
def amaxWait (s : State) (x : Ctx) (c : Cmd) : Option (Nat × Nat) :=
  let va := bits c.desc.toNat 183 128
  if va = 0 then none
  else match (ownLoc s x c va true).2 with
    | .wait 5 i => some (5, i)
    | _ => none

/-- Writes the tile of a `cpst` at its place in the tensor; where that fails, the check's records are posted. -/
def cpstPut (s : State) (x : Ctx) (c : Cmd) (e : HEntry) (bs : List Byte) (checked : List (Nat × Nat)) (fin : State → CpRes) : CpRes :=
  let va := e.base + bits c.desc.toNat 95 64 * tileLen (hFmt e)
  match (writeWait s x c 0 va bs.length).or (amaxWait s x c) with
  | some (y, z) => .stop s c.prog [] y z
  | none =>
    if e.comp then
      match writeSectors s x c va bs (bs.length / 512 + 1) with
      | (s1, some (k, t)) => withRecs c checked (.fail s1 [] k t)
      | (s1, none) => fin s1
    else
      let r := writeRange s x c 0 va bs
      match r.2.bad with
      | some (k, t) => withRecs c checked (.fail r.1 r.2.sent k t)
      | none => match fin r.1, r.2.sent with
        | .ok s2, [] => .ok s2
        | .ok s2, rids => .pend s2 c.prog rids 2
        | .fail s2 _ k t, rids => .fail s2 rids k t
        | other, _ => other

/-- Steps 1 to 5 of 10 R329 for a source tile of format fs. -/
def cpstTile (s : State) (x : Ctx) (c : Cmd) (o : CD) (e : HEntry) (fs : Fmt) (bs : List Byte) : CpRes :=
  let d := c.desc.toNat
  match cpCheck s c fs bs true with
  | .bad r => r
  | .ok s1 t recs =>
    let rows := tileVals fs t
    let sc := decodeVal .fp32 (bits d 127 96)
    let fd := hFmt e
    let q := convertRows fd (cpRm c (o.x.extractLsb' 5 3).toNat) c.sat (bits d 255 192) (fun _ => none)
      (rows.map (fun r => r.map (fun v => (mulExact v sc).1)))
    let u := sealTile fd q.1 q.2.1 (bits d 95 64)
    uncounted s (cpstPut s1 x c e (tileImage fd u) recs (fun s2 =>
      cpstEnd s2 x c (amaxRows rows) q.2.2 recs (countRec 3 (nonfinCount fd u))))

/-- Where a `cpst` reads its source tile of format f. -/
def cpstAt (c : Cmd) (f : Fmt) : Nat :=
  wrapNat ((bits c.desc.toNat 55 0 : Int) + (c.ops.getD 0 0).toInt * ((tileGranules f * 4096 : Nat) : Int)) 56

/-- `cpst` (10 R328, R329): the step moves the source by tiles of the format found at the unmoved address (R320). -/
def runCpst (s : State) (x : Ctx) (c : Cmd) (o : CD) : CpRes :=
  let d := c.desc.toNat
  if c.phase = 2 then .ok s
  else match seeEntry s x c.hidx with
  | (s1, none) => .fail s1 [] 7 (entryAddr s1 c.hidx)
  | (s1, some e) =>
    if hTiles e ≤ bits d 95 64 then .ok s1
    else
      let a := bits d 55 0
      match findFmt s1 x c 0 a probes with
      | (_, .stop r) => r
      | (s2, .none) => cpChkFail s2 c [] (badHeadData 0)
      | (s2, .fmt f) =>
        withTile s2 x c 0 (cpstAt c f) (tileBytes f) (fun s3 bs => cpstTile s3 x c o e f bs)

/-- The headers read in the search that finds format f at an address. -/
def probedAt (a : Nat) (f : Fmt) : List (Nat × Nat) := (probes.filter (fun p => p.1 ≤ tCheckOff f)).map (fun p => (a + p.1, 1024))

/-- What a command touches whose source tile's format can be told (08 R259; log 39): a `cpst` of a tile out of its tensor touches
nothing. -/
def tileRangesNow (s : State) (x : Ctx) (c : Cmd) : Option (List (Nat × Nat)) :=
  let d := c.desc.toNat
  match cmdInstr c with
  | some (.cpyt o) =>
    if !ctMere o then none
    else match (findFmt s x c (bits d 191 128) (bits d 183 128) probes).2 with
    | .fmt f => some (wordRange s x (bits d 63 0) (ceilDiv (tileBytes (fmtOfCode (BitVec.ofNat 4 (bits d 99 96)))) 4096 * 4096)
        ++ wordRange s x (bits d 191 128) (tileBytes f))
    | _ => none
  | some (.cpst _) =>
    match (seeEntry s x c.hidx).2 with
    | none => none
    | some e =>
      if hTiles e ≤ bits d 95 64 then some []
      else match (findFmt s x c 0 (bits d 55 0) probes).2 with
      | .fmt f => some (probedAt (bits d 55 0) f ++ (cpstAt c f, tileBytes f) :: tileRanges e (bits d 95 64)
          ++ (if bits d 183 128 = 0 then [] else [(bits d 183 128, 4)]))
      | _ => none
  | _ => none

/-- The context with what a command touches narrowed. -/
def narrowed (s : State) (x : Ctx) (c : Cmd) : Ctx :=
  match tileRangesNow s x c with
  | none => x
  | some rs => setRanges s x c rs

/-! ## `cpx` (10 R331) -/

/-- The metadata bytes that a `cpx` moves: none where the tensor is not compressed. -/
def cpxMeta (e : HEntry) (d : Nat) : Option (Nat × Nat) :=
  if e.comp then some (e.metaB + bits d 111 64 / 2, bits d 175 128 / 2) else none

def runCpxOut (s : State) (x : Ctx) (c : Cmd) : CpRes :=
  let d := c.desc.toNat
  if c.phase = 2 then .ok s
  else match seeEntry s x c.hidx with
  | (s1, none) => .fail s1 [] 7 (entryAddr s1 c.hidx)
  | (s1, some e) => match cpxMeta e d with
    | some (m, n) => withRead s1 x c 0 m n (fun s2 bs => withWrite s2 x c (bits d 63 0) (bits d 55 0) bs id)
    | none => withWrite s1 x c (bits d 63 0) (bits d 55 0) (List.replicate (bits d 175 128 / 2) 0) id

def runCpxIn (s : State) (x : Ctx) (c : Cmd) : CpRes :=
  let d := c.desc.toNat
  if c.phase = 2 then .ok s
  else match seeEntry s x c.hidx with
  | (s1, none) => .fail s1 [] 7 (entryAddr s1 c.hidx)
  | (s1, some e) => withRead s1 x c (bits d 63 0) (bits d 55 0) (bits d 175 128 / 2) (fun s2 bs => match cpxMeta e d with
    | some (m, _) => withWrite s2 x c 0 m bs id
    | none => .ok s2)

/-! ## `cpn` (10 R332, 11 R377) -/

/-- A byte of the queue-pair table. -/
def qpPlace (s : State) (qp off : Nat) : Place := tablePlace s.dev.qpBase (64 * qp + off)

/-- The words of a queue pair. -/
def qpWord (s : State) (qp i : Nat) : Nat := leNat (readPlace s (qpPlace s qp (8 * i)) 8)
def setQpWord (s : State) (qp i v : Nat) : State := writePlace s (qpPlace s qp (8 * i)) (natLe 8 v)

/-- Bytes of a packet of a queue pair. -/
def qpMtu (w : Nat) : Nat := if bits w 9 7 = 3 then 1024 else if bits w 9 7 = 4 then 2048 else 4096

/-- Whether a queue pair may be used by a port: it exists, is in state 3 and names the port. -/
def qpReady (s : State) (qp port : Nat) : Bool :=
  qp < 4096 && bits (qpWord s qp 0) 2 0 == 3 && bits (qpWord s qp 0) 6 3 == port

/-- Advances the send sequence number of a queue pair by the packets of n bytes. -/
def qpAdvance (s : State) (qp n : Nat) : State :=
  let w := qpWord s qp 1
  setQpWord s qp 1 (w - bits w 23 0 + (bits w 23 0 + ceilDiv n (qpMtu (qpWord s qp 0))) % 2 ^ 24)

/-- The packets of a message with data: one, or First, Middle and Last of the path MTU, with consecutive sequence numbers (11 R376,
R377). -/
def partsGo (m : RdmaMsg) (mtu : Nat) : Nat → RdmaPart → List Byte → List RdmaMsg
  | 0, _, _ => []
  | f + 1, p, bs =>
    if bs.length ≤ mtu then [{ m with data := bs, part := if p = .first then .only else .last }]
    else { m with data := bs.take mtu, part := p } :: partsGo { m with psn := (m.psn + 1) % 2 ^ 24 } mtu f .middle (bs.drop mtu)

def rdmaParts (s : State) (m : RdmaMsg) : List RdmaMsg := partsGo m (qpMtu (qpWord s m.qp 0)) (m.data.length + 1) .first m.data

/-- Sends packets on their port; on a paused one they wait (11 R376). -/
def rdmaSend (s : State) (l : List RdmaMsg) : State :=
  modNet s (fun n => { n with
    rdmaOut := n.rdmaOut ++ l.filter (fun m => !n.paused.contains m.port)
    rdmaHeld := n.rdmaHeld ++ l.filter (fun m => n.paused.contains m.port) })

/-- Sends the one operation of a `cpn`, with the next sequence number of its queue pair. -/
def sendRdma (s : State) (c : Cmd) (m0 : RdmaMsg) : State :=
  let m := { m0 with psn := bits (qpWord s m0.qp 1) 23 0 }
  modNet (rdmaSend (qpAdvance s m.qp m.len) (rdmaParts s m)) (fun n => { n with
    rdma := n.rdma ++ [{ ctx := c.ctx, seq := c.seq, iter := c.iter, since := s.ran, tries := 0, msg := m }] })

/-- The message of a `cpn`, its data read. -/
def cpnMsg (d : Nat) (rd : Bool) (bs : List Byte) : RdmaMsg :=
  { port := bits d 219 216, qp := bits d 215 192, kind := rd.toNat, va := bits d 127 64, rkey := bits d 159 128,
    len := bits d 191 160, data := bs }

/-- The data of a read's responses, once all of it has come. -/
def rdmaData (x : Ctx) (c : Cmd) : Option (List Byte) :=
  (findOp x c.seq).bind (fun o => (o.gathered.find? (fun g => g.1 == 0)).map (·.2))

/-- Phase 1 stands for the operation sent; the acknowledgement of a write sets phase 2, and all data of a read is then
written (RDMA_RECEIVE). -/
def runCpn (s : State) (x : Ctx) (c : Cmd) (rd : Bool) : CpRes :=
  let d := c.desc.toNat
  if c.phase = 2 then .ok s
  else match (if rd then rdmaData x c else none) with
  | some bs => withWrite s x c (bits d 63 0) (bits d 55 0) bs id
  | none =>
    if !qpReady s (bits d 215 192) (bits d 219 216) then .fail s [] 17 (bits d 119 64)
    else if rd then .pend (sendRdma s c (cpnMsg d true [])) 0 [] 1
    else withRead s x c (bits d 63 0) (bits d 55 0) (bits d 191 160) (fun s1 bs => .pend (sendRdma s1 c (cpnMsg d false bs)) 0 [] 1)

/-! ## `coll` (11 R368 to R373) -/

/-- What a command asks of its target. -/
def collSpecOf (s : State) (c : Cmd) (cl tag : Nat) : CollSpec :=
  let d := c.desc.toNat
  { dst := bits d 119 64, dstSt := if bits d 255 192 = 0 then 0 else bits d 247 192, fmt := collFmt d, op := collOpc d,
    rescale := collRescale d, lossy := collLossy d, nb := collNb d, n := collN d, tsig := bits d 383 320, cl := cl,
    tag := tag, t0 := devNs s }

/-- The blocks to send, from the source bytes and the state words. -/
def collBlocks (q : CollSpec) (src st : List Byte) : List Block :=
  (List.range q.nb).map (fun b =>
    let bs := (src.drop (256 * b)).take 256
    let l := blockLanes q.fmt (blockCodes q.fmt bs)
    { b := b, nv := if st = [] then 1 else bits (imgNat st (4 * b) 4) 11 0, sl := l.1, al := l.2, ok := true, bs := bs })

/-- Applies blocks in the issuing package up to the first NACK: the state, the counts, the failing block. -/
structure Near where
  s : State
  nonfin : Nat
  novalid : Nat
  firstNv : Nat
  bad : Option Nat
  deriving Inhabited

def nearBlocks (g : Nat × Nat × Nat) (q : CollSpec) : List Block → Near → Near
  | [], r => r
  | k :: rest, r =>
    match applyBlock r.s g q k with
    | .nack => { r with bad := some k.b }
    | .done s1 _ nf nv => nearBlocks g q rest { r with
        s := s1, nonfin := r.nonfin + nf.toNat,
        novalid := r.novalid + nv.toNat, firstNv := if nv && r.novalid = 0 then k.b else r.firstNv }

/-- A collective of the reliable class whose role lies in the issuing package. -/
def collNear (s : State) (c : Cmd) (g : Nat × Nat × Nat) (q : CollSpec) (ks : List Block) : CpRes :=
  let r := nearBlocks g q ks { s := s, nonfin := 0, novalid := 0, firstNv := 0, bad := none }
  match r.bad with
  | some b => .fail r.s [] 17 (q.dst + 256 * b)
  | none =>
    .ok (postRecs (if q.tsig = 0 then r.s else collSignal r.s g q) c 2 (collRecs r.nonfin r.novalid r.firstNv))

/-- The high half of a block packet's `spec` (11 R371). -/
def blockSpec (q : CollSpec) (k : Block) : Nat :=
  k.sl * 2 ^ 96 + k.al * 2 ^ 64 + k.nv * 2 ^ 52 + k.b % 2 ^ 20 * 2 ^ 32 + q.t0 % 2 ^ 32

/-- Option byte of a block packet (log 11). -/
def collOpByte (q : CollSpec) : Nat := q.fmt + q.op * 16 + q.rescale.toNat * 32 + q.lossy.toNat * 64

/-- Sends the blocks of the reliable class, each a request of its own. -/
def sendReliable (s : State) (c : Cmd) (node : Nat) (q : CollSpec) (ks : List Block) : State × List Nat :=
  ks.foldl (fun t k =>
    let r := sendReq t.1 (cmdOrigin c) node 0 .collBlock (collOpByte q) (q.dst + 256 * k.b) (q.dst + 256 * k.b) 256 (blockSpec q k)
      k.bs 0 (specBytes q)
    (r.1, t.2 ++ [r.2])) (s, [])

/-- Sends the open packet and the blocks of the lossy class under one request, which the close packet answers. -/
def sendLossy (s : State) (c : Cmd) (node : Nat) (q : CollSpec) (ks : List Block) : State × List Nat :=
  let r := sendReq s (cmdOrigin c) node 3 .collOpen (collOpByte q) q.dst q.dst (256 * q.nb) (q.nb + q.t0 * 2 ^ 32) [] 0 (specBytes q)
  let pk (k : Block) : Packet :=
    { dst := node, src := nodeNo s, tc := 2, kind := .collBlock, tag := c.tag.toNat, op := BitVec.ofNat 8 (collOpByte q),
      addr := BitVec.ofNat 56 (q.dst + 256 * k.b), spec := BitVec.ofNat 128 (blockSpec q k), data := k.bs, rid := r.2,
      ss := (originStream s (cmdOrigin c)).1, pm := (originStream s (cmdOrigin c)).2 }
  (sendPkts r.1 (ks.map pk), [r.2])

/-- A collective whose role lies in the issuing package: over the mesh, with the rules of its class (11 R373). -/
def collHere (s : State) (c : Cmd) (g : Nat × Nat × Nat) (src st : List Byte) : CpRes :=
  let q : CollSpec := { collSpecOf s c g.1 0 with near := g.2.1 + 1 }
  let ks := collBlocks q src st
  if q.lossy then
    let t := sendLossy s c (nodeNo s) q ks
    .pend t.1 0 t.2 2
  else collNear s c g q ks

/-- Sends a collective, once its source is read. -/
def collSend (s : State) (x : Ctx) (c : Cmd) (src st : List Byte) : CpRes :=
  let d := c.desc.toNat
  match roleOf x (bits d 127 64) with
  | none => .fail s [] 17 (bits d 119 64)
  | some r =>
    let v := r.toNat
    if bits v 1 0 ≤ 1 then
      match (findIter s c.iter).bind (fun i => gangOn i (bits v 8 2)) with
      | none => .fail s [] 17 (bits d 119 64)
      | some g => collHere s c (bits v 8 2, c.iter, g) src st
    else if bits v 1 0 = 3 then
      let tag := if bits v 36 21 = 0 then c.tag.toNat else bits v 36 21
      if bits v 13 2 = nodeNo s then
        match taggedGang s (bits v 20 14) tag with
        | none => .fail s [] 17 (bits d 119 64)
        | some (u, g) => collHere s c (bits v 20 14, u, g) src st
      else if reachable s (bits v 13 2) then
        let q := collSpecOf s c (bits v 20 14) tag
        let ks := collBlocks q src st
        let t := if q.lossy then sendLossy s c (bits v 13 2) q ks else sendReliable s c (bits v 13 2) q ks
        .pend t.1 0 t.2 2
      else .fail s [] 17 (bits d 119 64)
    else .fail s [] 17 (bits d 119 64)

def runColl (s : State) (x : Ctx) (c : Cmd) : CpRes :=
  let d := c.desc.toNat
  if c.phase = 2 then .ok (postRecs s c 2 (collRecs c.nonfin c.novalid c.firstNv))
  else withRead s x c 0 (bits d 55 0) (256 * collNb d) (fun s1 src =>
    if bits d 191 128 = 0 then collSend s1 x c src []
    else withRead s1 x c (bits d 191 128) (bits d 183 128) (4 * collNb d) (fun s2 st => collSend s2 x c src st))

/-! ## The events -/

/-- A started command goes on. -/
def runCp (s : State) (x : Ctx) (c : Cmd) : CpRes :=
  match cmdInstr c with
  | some (.cpy _) => runCpy s x c
  | some (.cpyt o) => runCpyt s x c o
  | some (.cpst o) => runCpst s x c o
  | some (.cpz _) => runCpz s x c
  | some (.cpzTile o) => runCpzTile s x c o
  | some (.cpxOut _) => runCpxOut s x c
  | some (.cpxIn _) => runCpxIn s x c
  | some (.cpnWr _) => runCpn s x c false
  | some (.cpnRd _) => runCpn s x c true
  | some (.coll _) => runColl s x c
  | _ => .ok s

/-- Whether a `cpn` waits for its remote answer. -/
def rdmaPending (s : State) (c : Cmd) : Bool := s.net.rdma.any (fun r => r.ctx == c.ctx && r.seq == c.seq && r.iter == c.iter)

/-- Whether a `cpn` has still to send while its port is paused (11 R376). -/
def portPaused (s : State) (c : Cmd) : Bool :=
  c.phase == 0 && (match cmdInstr c with
    | some (.cpnWr _) | some (.cpnRd _) => s.net.paused.contains (bits c.desc.toNat 219 216)
    | _ => false)

/-- A started copy command by its issuing context. -/
def startedCp (s : State) (id : CtxId) (seq : Nat) : Option Cmd :=
  (getCore s id.cl id.core).cpq.find? (fun c => c.started && c.ctx == id && c.seq == seq)

/-- What a failure that came from outside reports. Where the target says that a piece lies outside its gang's granules, a `.mere`
source has no header, or its tile is not present (10 R503); any other access has met a fault at its target. -/
def farFailure (s : State) (x : Ctx) (c : Cmd) (k a : Nat) : CpRes :=
  if k != 7 then .fail s [] k a
  else match cmdInstr c with
  | some (.cpyt o) =>
    if ctMere o && c.phase ≤ 1 then
      match findFmt s x c (bits c.desc.toNat 191 128) (bits c.desc.toNat 183 128) probes with
      | (_, .fmt _) => .fail s [] 7 a
      | _ => cpChkFail s c [] (badHeadData 0)
    else .fail s [] 17 a
  | _ => .fail s [] 17 a

/-- A step of a started command that waits for no answer. -/
def advanceCp (s : State) (x : Ctx) (c : Cmd) : CpRes :=
  match c.failed with
  | some (k, a) => farFailure s x c k a.toNat
  | none => runCp s x c

/-- Narrows what the operation of a command touches, where its source tile's format can be told. -/
def narrowOp (s : State) (c : Cmd) : State :=
  match cmdInstr c, cmdOwner s c with
  | some (.cpyt _), some x | some (.cpst _), some x => putOwner s (narrowed s x c)
  | _, _ => s

/-- The state after a step of a command, with what it touches narrowed. A stop keeps the address word of its reason; a failure
first waits for the answers of what it sent. -/
def settleCp (c : Cmd) (r : CpRes) : State :=
  let narrow (s : State) (d : Cmd) : State := putCmd (narrowOp s d) d
  match r with
  | .stop s prog rids _ what => narrow s { c with prog := prog, stop := some what, awaiting := rids }
  | .pend s prog rids phase => narrow s { c with prog := prog, awaiting := rids, phase := phase }
  | .ok s => finishCmd s c none
  | .fail s [] k a => finishCmd s c (some (k, a))
  | .fail s rids k a => putCmd s { c with awaiting := rids, phase := 3, failed := some (k, BitVec.ofNat 64 a) }

/-- Whether a started command is paused by the stop of its iteration: a `coll` never is (10 R345, 11 R375). -/
def pauses (s : State) (c : Cmd) : Bool :=
  iterStopping s c.iter && (match cmdInstr c with
    | some (.coll _) => false
    | _ => true)

/-- CP_COMMAND_COMPLETE (10 R313, R316, R317, R322): the effects of a started command, up to its completion, to answers
that it must await, or to an access at which it stops; one that a `qflush` stops leaves instead (R342). -/
def execCpCommandComplete (id : CtxId) (seq : Nat) (s : State) : Host.Outcome State Fault Refusal :=
  match startedCp s id seq with
  | none => .refused (.notEnabled "CP_COMMAND_COMPLETE")
  | some c => match cmdOwner s c with
    | none => .refused (.notEnabled "CP_COMMAND_COMPLETE")
    | some x =>
      if c.flush.isSome && c.awaiting.isEmpty && !rdmaPending s c then .next (flushLeave s c)
      else if c.stop.isSome || !c.awaiting.isEmpty || rdmaPending s c || portPaused s c || pauses s c || (overlapAt (narrowed s x c) c).isSome then
        .refused (.notEnabled "CP_COMMAND_COMPLETE")
      else .next (settleCp c (advanceCp s x c))

/-- Whether a stopped command's access may now go on. -/
def mayResume (s : State) (x : Ctx) (c : Cmd) : Bool :=
  match advanceCp s x c with
  | .stop _ prog _ _ _ => prog != c.prog
  | _ => true

/-- ENGINE_ACCESS_RESUME (07 R238, 10 R313): the access at which a started command stopped may go on. -/
def execEngineAccessResume (id : CtxId) (seq : Nat) (s : State) : Host.Outcome State Fault Refusal :=
  match startedCp s id seq with
  | none => .refused (.notEnabled "ENGINE_ACCESS_RESUME")
  | some c => match cmdOwner s c, c.stop with
    | some x, some _ =>
      if c.awaiting.isEmpty && !pauses s c && mayResume s x c then .next (putCmd s { c with stop := none })
      else .refused (.notEnabled "ENGINE_ACCESS_RESUME")
    | _, _ => .refused (.notEnabled "ENGINE_ACCESS_RESUME")

end Sys2Proof.Machine
end

