-- ==== Sys2Proof/Machine/Jobs.lean ====
section
/-!
DEFINITION. Job control blocks at their home (13 R445, R446): the completion post and what a completing task does.
-/
namespace Sys2Proof.Machine

/-- What identifies the block of an iteration: its address space, its address, its launch entry, task and tag. -/
structure JobRef where
  asn : Nat
  root : Nat
  jcb : Nat
  entry : Nat
  task : Nat
  tag : Nat
  deriving DecidableEq, Repr, Inhabited

/-- Tells Spring that a task is complete (13 R446 step 4). -/
def markComplete (s : State) (entry task : Nat) : State :=
  modSpring s (fun p => { p with insts := p.insts.map (fun i =>
    if i.entry == entry then
      { i with tasks := i.tasks.map (fun t => if t.1 = task && t.2.state == .released then (t.1, { t.2 with state := .complete }) else t) }
    else i) })

/-- The agent that a completing block arrives for: the launch's address space at supervisor level, in no gang. -/
def jobAgent (s : State) (j : JobRef) : Agent :=
  { cl := 0, iter := s.spring.nextUid, gang := 0, asn := j.asn, root := j.root, lvl := 2 }

/-- JOB_COMPLETION_ARRIVAL: an anonymous arrival at a phaser or a `tbarr` arrival at a barrier; notice 13 where none can be
made (13 R446 step 2). -/
def jobArrive (s : State) (j : JobRef) (o : Word) : State :=
  if o = 0 then s
  else if objBad o then postNotice s 13 j.tag j.jcb
  else if objKind o = 1 then putPh s (objPhaser o) (phAnon (getPh s (objPhaser o)))
  else match reachBarrier s (jobAgent s j) (objBarrier o) true with
    | (s1, .bad _) => postNotice s1 13 j.tag j.jcb
    | (s1, .ok p) => writeBarrier s1 p (tbArrive (readBarrier s1 p))

/-- The steps of a completing block (13 R446). -/
def completeJob (s : State) (j : JobRef) (img : List Byte) : State :=
  let st := imgNat img 0x10 8
  let act := imgNat img 0x18 8
  let s1 := sharedWrite (sharedWrite s j.asn j.root (j.jcb + 0x10) (st / 8 * 8 + 2)) j.asn j.root (j.jcb + 0x28) (devNs s)
  let s2 := if bit act 0 then jobArrive s1 j (BitVec.ofNat 64 (imgNat img 0x20 8)) else s1
  let s3 := if bit act 1 then postNotice s2 4 j.tag j.jcb else s2
  markComplete s3 j.entry j.task

/-- A completion post (13 R446): adds 1 to the completed count, and completes the task where it reaches the expected one. A
block that cannot be read takes no post. -/
def postJob (s : State) (j : JobRef) : State :=
  match sharedRead s j.asn j.root j.jcb 8 with
  | (s1, none) => s1
  | (s1, some img) =>
    let e := bits (imgNat img 0 8) 47 0
    let c := imgNat img 8 8
    let n := (bits c 47 0 + 1) % 2 ^ 48
    let s2 := sharedWrite s1 j.asn j.root (j.jcb + 8) (c / 2 ^ 48 * 2 ^ 48 + n)
    if n = e then completeJob s2 j img else s2

/-- The block of an iteration. -/
def jobOfCtx (x : Ctx) (i : Option Iter) : JobRef :=
  { asn := x.env.asn, root := x.env.root, jcb := x.env.jcb, entry := (i.map (fun k => k.id.entry)).getD 256,
    task := (i.map (fun k => k.id.task)).getD 0, tag := x.env.tag.toNat }

/-- Whether an iteration has posted (01 R36, R38). -/
def hasPosted (s : State) (uid : Nat) : Bool :=
  match findIter s uid with
  | some i => i.posted
  | none => false

/-- Marks an iteration as having posted. -/
def markPosted (s : State) (uid : Nat) : State :=
  modSpring s (fun p => { p with iters := p.iters.map (fun i => if i.uid == uid then { i with posted := true } else i) })

/-- Marks an iteration as posting once the operations of a context before a sequence number are home (01 R37). -/
def markDue (s : State) (uid : Nat) (c : CtxId) (q : Nat) : State :=
  modSpring s (fun p => { p with iters := p.iters.map (fun i => if i.uid == uid then { i with posted := true, postDue := some (c, q) } else i) })

end Sys2Proof.Machine
end

