-- ==== Sys2Proof/Machine/System.lean ====
section
/-!
DEFINITION. The SY slot: owner bits (07 R239, R240), stream waits (13 R427), barriers (R430 to R435), phasers (R436 to R444), jobs
(R447, R448), launches (12 R408), event records (10 R339), queue flushes (R342), handles (12 R394 to R396), purges (R421), time (13
R454, R455).
-/
namespace Sys2Proof.Machine

/-- A SY operation without suffix: weight 1 (13 R449). -/
def syOp (reads : List RegId) (writes : List RegId) (run : Iss → Ctx → State → OpRes) : SlotOp :=
  plainOp (fun _ => reads) writes 1 run

/-- A SY operation with a suffix: a memory operation. -/
def syMem (o : YF) (reads : List RegId) (writes : List RegId) (run : Iss → Ctx → State → OpRes) : SlotOp :=
  memOp o.ss (fun _ => reads) writes 1 run

/-- ILLEGAL_OP of a register value outside its limits (13 R433, R438). -/
def illWhen (b : State → Ctx → Bool) (_ : Iss) (s : State) (x : Ctx) : Option (State × TrapC) :=
  if b s x then some (s, { cause := 2, sub := 2, reg := 0, addr := 0 }) else none

def sd (o : YF) : Nat := o.d.toNat
def sa (o : YF) (x : Ctx) : Nat := (rdS x o.a.toNat).toNat
def sb (o : YF) (x : Ctx) : Nat := (rdS x o.b.toNat).toNat

/-- An operation that is performed later and then brings `s[d]`. -/
def startSy (o : YF) (i : Iss) (x : Ctx) (s : State) (k : OpKind) : OpRes :=
  .ok (startLoad s x i o.ss.toNat o.pm 3 k (.s (sd o))) [] 0

/-- Package scope (08 R242). -/
def pkgScope : Nat := 3

/-! ## `give` and `take` (07 R239, R240) -/

def gvN (o : YF) : Nat := (o.x.extractLsb' 0 10).toNat + 1

/-- The first granule number of a range. -/
def gvFirst (o : YF) (x : Ctx) : Nat := (sa o x - mereBase) / 4096

/-- The first granule of the range whose owner bit is `engine`. -/
def ownedAt (s : State) (x : Ctx) (first n : Nat) (engine : Bool) : Option Nat :=
  (List.range n).findSome? (fun i => match granOf s x.id.cl x.env.iter x.env.gang (first + i) with
    | some (_, g) => if ownerSeen s (some (ctxKey x.id)) g == engine then some (first + i) else none
    | none => none)

/-- The traps of `give` and `take`: alignment, range, owner. -/
def gvTrap (o : YF) (engine : Bool) (s : State) (x : Ctx) : Option TrapC :=
  match alignBad 4096 (sa o x) with
  | some t => some t
  | none => match mereInside s x (sa o x) (gvN o * 4096) with
    | some t => some t
    | none => (ownedAt s x (gvFirst o x) (gvN o) engine).map (fun g => trapC 9 0 (mereBase + g * 4096))

/-- The accesses to a range that a `give` waits for: its context's earlier ones, and those of its gang that have passed their
owner check (07 R239). Engine commands wait for the owner bits themselves. -/
def gangAccesses (s : State) (x : Ctx) (r : Nat × Nat) : List (Nat × Nat × Nat) :=
  ((allCtxs s ++ s.ghosts).filter (fun y => y.env.iter == x.env.iter && y.env.gang == x.env.gang)).flatMap (fun y =>
    (y.ops.filter (fun e => (ownerChecked e.kind || (y.id == x.id && (match e.kind with
        | .cmd _ => false
        | _ => true))) && rangesMeet [r] (opRanges e.kind))).map (fun e => (ctxKey y.id, y.env.iter, e.seq)))

def opGive (o : YF) : SlotOp :=
  syMem o [.s o.a.toNat] [] (fun i x s =>
    match gvTrap o true s x with
    | some t => .trap t
    | none => .ok (startOp (setOwners s (ctxKey x.id) x.id.cl x.env.iter x.env.gang (gvFirst o x) (gvN o) true) x i o.ss.toNat o.pm pkgScope
        (.give (gvFirst o x) (gvN o) (gangAccesses s x (mereBase + gvFirst o x * 4096, gvN o * 4096)))) [] 0)

/-- Whether a command reaches Mere by a role: `take` waits for those of its gang as well (07 R240). -/
def byRole (c : Cmd) : Bool := c.slot == 9 && (c.desc.getLsbD 63 || c.desc.getLsbD 127 || c.desc.getLsbD 191)

/-- Whether an engine command of the gang may still touch a range. -/
def gangCommands (s : State) (x : Ctx) (r : Nat × Nat) : Bool :=
  (allCtxs s ++ s.ghosts).any (fun y => y.env.iter == x.env.iter && y.env.gang == x.env.gang
    && y.ops.any (fun e => match e.kind with
      | .cmd rs => rangesMeet [r] rs || (match findCmd s { ctx := y.id, seq := e.seq, iter := y.env.iter } with
          | some c => byRole c
          | none => false)
      | _ => false))

/-- What an operation of the SY slot waits for by its mask (08 R258). -/
def maskWaits (o : YF) (e : MemOp) : Bool := o.pm.getLsbD e.ss && !doneAt e pkgScope

def opTake (o : YF) : SlotOp :=
  { syMem o [.s o.a.toNat] [] (fun _ x s =>
      match gvTrap o false s x with
      | some t => .trap t
      | none => match lowerDone s x.id (maskWaits o) with
        | none => .wait (some .take)
        | some s1 =>
          if gangCommands s1 x (sa o x, gvN o * 4096) then .wait (some .take)
          else .ok (setOwners (passOp s1 x o.ss.toNat) (ctxKey x.id) x.id.cl x.env.iter x.env.gang (gvFirst o x) (gvN o) false) [] 0) with
    consumes := fun x f => o.pm.getLsbD f.ss || f.grans.any (fun g => gvFirst o x ≤ g && g < gvFirst o x + gvN o)
    block := fun _ s x =>
      if gangCommands s x (sa o x, gvN o * 4096) || !predsDone x o.pm pkgScope then some .take else none }

/-! ## `waits` (13 R427) -/

/-- The mask: word bits [25:10]. -/
def wtMask (o : YF) : BitVec 16 := o.a ++ o.b ++ o.x.extractLsb' 10 4
def wtN (o : YF) : Nat := (o.x.extractLsb' 0 6).toNat

def opWaits (o : YF) : SlotOp :=
  { syOp [] [] (fun _ _ s => .ok s [] 0) with
    consumes := fun _ f => (wtMask o).getLsbD f.ss
    block := fun _ _ x =>
      if (List.range 16).any (fun j => (wtMask o).getLsbD j && decide (wtN o < smGet x.cnt j 0)) then some .waits else none }

/-! ## Phasers (13 R436 to R444) -/

def phN (o : YF) (x : Ctx) : Nat := bits (sa o x) 11 0

/-- A phaser number above 4,095. -/
def phIll (o : YF) : Iss → State → Ctx → Option (State × TrapC) := illWhen (fun _ x => bits (sa o x) 63 12 != 0)

def phTrap (sub : Nat) : OpRes := .trap { cause := 13, sub := sub, reg := 0, addr := 0 }

/-- The mode of `phreg`. -/
def phMode (o : YF) : Nat := (o.x.extractLsb' 0 2).toNat

/-- `phreg`'s count: that of `.anon` from its register. -/
def phCount (o : YF) (x : Ctx) : Nat := if phMode o = 3 then bits (sb o x) 19 0 else 1

/-- A phaser after a registration of c signallers, or of a WAIT member, and the first phase. -/
def phRegister (p : Phaser) (mode c : Nat) : Phaser × Nat :=
  if mode = 1 then ({ p with err := false }, p.phase.toNat)
  else
    let q := if mode = 3 then { p with nanon := p.nanon + c, err := false } else { p with err := false }
    if p.nsig = 0 then ({ q with nsig := p.nsig + c, pend := p.pend + c }, p.phase.toNat)
    else ({ q with join := p.join + c }, (p.phase + 1).toNat)

/-- Whether a count would pass 2^20 − 1 (13 R438). -/
def phFull (p : Phaser) : Bool :=
  [p.pend, p.nsig, p.nanon, p.join, p.leave].any (fun c => decide (2 ^ 20 - 1 < c))

def opPhreg (o : YF) : SlotOp :=
  { syOp (.s o.a.toNat :: (if phMode o = 3 then [.s o.b.toNat] else [])) [.s (sd o)] (fun _ x s =>
      let n := phN o x
      let p := getPh s n
      let r := phRegister p (phMode o) (phCount o x)
      let m : Member := { ctx := x.id, iter := x.env.iter, mode := phMode o, first := r.2, arrived := false, waiting := false,
                          waitPhase := 0, leaving := false,
                          joining := decide (phMode o ≠ 1) && p.nsig != 0 }
      if phMode o = 3 then (if phFull r.1 then phTrap 3 else .ok (putPh s n r.1) [(.s (sd o), r.2)] 0)
      else if (phMember p x.id x.env.iter).isSome then phTrap 4
      else if 4096 ≤ nodeMembers s (n / 256) || phFull r.1 then phTrap 3
      else .ok (putPh s n { r.1 with members := r.1.members ++ [m] }) [(.s (sd o), r.2)] 0) with
    illReg := illWhen (fun _ x => bits (sa o x) 63 12 != 0 || (phMode o == 3 && bits (sb o x) 19 0 == 0))
    hold := fun _ _ x => phBusy x (phN o x) }

/-- `.anon` of `phdrop`. -/
def phAnonOpt (o : YF) : Bool := o.x.getLsbD 0

def opPhdrop (o : YF) : SlotOp :=
  { syOp (.s o.a.toNat :: (if phAnonOpt o then [.s o.b.toNat] else [])) [.s (sd o)] (fun _ x s =>
      let n := phN o x
      let p := getPh s n
      if phAnonOpt o then
        let c := bits (sb o x) 19 0
        let q := { p with nanon := p.nanon - c, leave := p.leave + c }
        if p.nanon < c then phTrap 5
        else if phFull q then phTrap 3
        else .ok (putPh s n q) [(.s (sd o), p.phase.toNat)] 0
      else match phMember p x.id x.env.iter with
        | none => phTrap 1
        | some m =>
          if m.leaving then phTrap 1
          else if phFull (phDropMember p m) then phTrap 3
          else .ok (putPh s n (phDropMember p m)) [(.s (sd o), p.phase.toNat)] 0) with
    illReg := phIll o
    hold := fun _ _ x => phBusy x (phN o x) }

/-- The check of `pharr`: none where it passes, else its sub-cause (13 R442); `both` asks for SIGWAIT. -/
def phArrCheck (p : Phaser) (m : Option Member) (both : Bool) : Option Nat :=
  match m with
  | none => some 1
  | some m =>
    if m.mode = 1 || (both && m.mode != 2) || !phTakesPart m then some 1
    else if m.arrived then some 2 else none

def opPharr (o : YF) : SlotOp :=
  { syMem o [.s o.a.toNat] [.s (sd o)] (fun i x s =>
      let n := phN o x
      let p := getPh s n
      let m := phMember p x.id x.env.iter
      match phArrCheck p m false with
      | some sub => phTrap sub
      | none =>
        let s1 := putPh s n (phSet p { m.getD default with arrived := true })
        startSy o i x s1 (.pharr (sd o) n p.phase.toNat)) with
    illReg := phIll o
    hold := fun _ _ x => phBusy x (phN o x) }

/-- The member that may wait: WAIT or SIGWAIT. -/
def phWaiter (p : Phaser) (x : Ctx) : Option Member :=
  match phMember p x.id x.env.iter with
  | some m => if m.mode = 0 then none else some m
  | none => none

/-- Whether a phaser wait waits on a failed operation: by its stream, or as an arrival at the phaser (06 R204). -/
def phConsumes (o : YF) (x : Ctx) (f : Failure) : Bool :=
  o.pm.getLsbD f.ss || (objKind f.sig == 1 && objPhaser f.sig == phN o x)

def opPhwait (o : YF) : SlotOp :=
  { syMem o [.s o.a.toNat, .s o.b.toNat] [.s (sd o)] (fun _ x s =>
      let p := getPh s (phN o x)
      match phWaiter p x with
      | none => phTrap 1
      | some _ => match lowerDone s x.id (maskWaits o) with
        | none => .wait (some .phaser)
        | some s1 => .ok (passOp s1 x o.ss.toNat) [(.s (sd o), p.phase.toNat)] 0) with
    illReg := phIll o
    consumes := phConsumes o
    block := fun _ s x =>
      let p := getPh s (phN o x)
      match phWaiter p x with
      | none => none
      | some _ =>
        if phPassed p.phase (BitVec.ofNat 32 (sb o x)) && predsDone x o.pm pkgScope && !phBusy x (phN o x) then none
        else some .phaser }

/-- Whether the arrive part of a `phaw` may be made now. -/
def phawMay (o : YF) (x : Ctx) : Bool := predsDone x o.pm pkgScope && !phBusy x (phN o x)

/-- The arrive part of `phaw` (13 R444). -/
def phawArrive (o : YF) (s : State) (x : Ctx) : State :=
  let n := phN o x
  let p := getPh s n
  match phMember p x.id x.env.iter with
  | none => s
  | some m =>
    if m.waiting || (phArrCheck p (some m) true).isSome || !phawMay o x then s
    else
      let q := phSet p { m with arrived := true, waiting := true, waitPhase := p.phase.toNat }
      putPh (publish s x.id x.env.iter o.pm) n (phDue { q with pend := q.pend - 1 })

def opPhaw (o : YF) : SlotOp :=
  { syMem o [.s o.a.toNat] [.s (sd o)] (fun _ x s =>
      let n := phN o x
      let p := getPh s n
      match phMember p x.id x.env.iter with
      | none => phTrap 1
      | some m =>
        if m.waiting then
          .ok (passOp (putPh s n (phSet p { m with waiting := false })) x o.ss.toNat) [(.s (sd o), p.phase.toNat)] 0
        else phTrap ((phArrCheck p (some m) true).getD 1)) with
    illReg := phIll o
    consumes := phConsumes o
    after := some (o.pm, .phaser)
    early := fun _ s x => phawArrive o s x
    block := fun _ s x =>
      let p := getPh s (phN o x)
      match phMember p x.id x.env.iter with
      | none => none
      | some m =>
        if m.waiting then (if p.phase.toNat = m.waitPhase then some .phaser else none)
        else if (phArrCheck p (some m) true).isSome then none
        else some .phaser }

/-! ## Transaction barriers (13 R430 to R435) -/

/-- Earlier operations of the context on the bytes of a barrier (08 R259, 13 R429). -/
def tbBusy (x : Ctx) (a : Nat) : Bool := x.ops.any (fun e => rangesMeet [(a, 16)] (opRanges e.kind))

/-- What a barrier operation that is performed at its issue follows: the operations of its mask, and those on its bytes. -/
def tbWaits (o : YF) (a : Nat) (e : MemOp) : Bool := maskWaits o e || rangesMeet [(a, 16)] (opRanges e.kind)

/-- The checks of a barrier's address at issue. -/
def tbCheck (s : State) (x : Ctx) (a : Nat) (write : Bool) : State × Option TrapC :=
  match alignBad 16 a with
  | some t => (s, some t)
  | none => match objAccess s x.id.cl x.env.iter x.env.gang x.env.asn x.env.root x.lvl a (tbReq write) with
    | (s1, .bad t) => (s1, some t)
    | (s1, .ok _) => (s1, none)

def opTbinit (o : YF) : SlotOp :=
  { syMem o [.s o.a.toNat, .s o.b.toNat] [] (fun i x s =>
      match tbCheck s x (sa o x) true with
      | (_, some t) => .trap t
      | (s1, none) => .ok (startOp s1 x i o.ss.toNat o.pm pkgScope (.tbinit (sa o x) (bits (sb o x) 19 0))) [] 0) with
    illReg := illWhen (fun _ x => bits (sb o x) 63 20 != 0 || bits (sb o x) 19 0 == 0) }

/-- A checked or blocking barrier operation that meets poison: a failed operation, consumed at the reader of `s[d]`. -/
def tbPoison (o : YF) (i : Iss) (x : Ctx) (s : State) (a : Nat) : OpRes :=
  let q := nextSeq s x.id
  let s1 := startLoad s x i o.ss.toNat o.pm pkgScope (.tbarr (sd o) a) (.s (sd o))
  .ok (modCtx s1 x.id (fun y => match findOp y q with
    | none => y
    | some e => withUnits (poisonedIn s1 x [(a, 16)]) q (opFails y e 10 a 0 []))) [] 0

/-- A barrier operation that is performed at its issue, once those it follows are: its checks, then what it does to the barrier at
its home, or the poison it meets there. -/
def tbAtIssue (o : YF) (i : Iss) (x : Ctx) (s : State) (write : Bool) (why : Option BlockWhy) (act : State → Place → Barrier → OpRes) : OpRes :=
  let a := sa o x
  match lowerDone s x.id (tbWaits o a) with
  | none => .wait why
  | some s0 => match tbCheck s0 x a write with
    | (_, some t) => .trap t
    | (s1, none) => match reachBarrier s1 (agentOf x x.lvl) a write with
      | (s2, .bad t) => if t.cause = 10 then tbPoison o i x s2 a else .trap t
      | (s2, .ok p) => act s2 p (readBarrier s2 p)

def opTbexp (o : YF) : SlotOp :=
  { syMem o [.s o.a.toNat, .s o.b.toNat] [.s (sd o)] (fun i x s => tbAtIssue o i x s true none (fun s2 p b =>
      if bits (sb o x) 31 0 = 0 && !o.x.getLsbD 0 then .ok (passOp s2 x o.ss.toNat) [(.s (sd o), b.phase)] 0
      else match tbExpect b (bits (sb o x) 31 0) (o.x.getLsbD 0) with
        | none => .trap (trapC 12 0 (sa o x))
        | some b1 => .ok (passOp (writeBarrier (publish s2 x.id x.env.iter o.pm) p b1) x o.ss.toNat) [(.s (sd o), b.phase)] 0)) with
    illReg := illWhen (fun _ x => bits (sb o x) 63 32 != 0)
    hold := fun _ _ x => !predsDone x o.pm pkgScope || tbBusy x (sa o x) }

def opTbarr (o : YF) : SlotOp :=
  syMem o [.s o.a.toNat] [.s (sd o)] (fun i x s =>
    match tbCheck s x (sa o x) true with
    | (_, some t) => .trap t
    | (s1, none) => startSy o i x s1 (.tbarr (sd o) (sa o x)))

/-- A barrier as `tbwait` finds it; none where its access fails. -/
def tbSeen (o : YF) (s : State) (x : Ctx) : Option Barrier :=
  match tbCheck s x (sa o x) false with
  | (_, some _) => none
  | (s1, none) => match reachBarrier s1 (agentOf x x.lvl) (sa o x) false with
    | (_, .bad _) => none
    | (s2, .ok p) => some (readBarrier s2 p)

def opTbwait (o : YF) : SlotOp :=
  { syMem o [.s o.a.toNat, .s o.b.toNat] [.s (sd o)] (fun i x s => tbAtIssue o i x s false (some .barrier) (fun s2 _ b =>
      .ok (passOp s2 x o.ss.toNat) [(.s (sd o), b.phase + b.err.toNat * 16)] 0)) with
    illReg := illWhen (fun _ x => bits (sb o x) 63 4 != 0)
    consumes := fun x f => o.pm.getLsbD f.ss || (objKind f.sig == 2 && objBarrier f.sig == sa o x)
    block := fun _ s x =>
      match tbSeen o s x with
      | none => none
      | some b =>
        if b.phase != bits (sb o x) 3 0 && predsDone x o.pm pkgScope && !tbBusy x (sa o x) then none else some .barrier }

/-! ## Jobs (13 R447, R448) -/

/-- Whether no operation of a context is under way or on its way home: those of lower slots of the same issue are looked at too
(01 R37, 03 R85). -/
def opsHome (s : State) (x : Ctx) : Bool :=
  match getCtx s x.id with
  | none => true
  | some y => y.ops.isEmpty

/-- `done`: the post is made at the issue, or once the operations before it are home. -/
def opDone (_ : YF) : SlotOp :=
  { syOp [] [] (fun _ x s =>
      if hasPosted s x.env.iter then .ok s [] 0
      else if opsHome s x then .ok (postJob (publishIter (markPosted s x.env.iter) x.env.iter) (jobOfCtx x (findIter s x.env.iter))) [] 0
      else .ok (markDue s x.env.iter x.id (nextSeq s x.id)) [] 0) with
    consumes := fun _ _ => true
    block := fun _ _ x => if (List.range 16).all (fun j => smGet x.cnt j 0 == 0) then none else some .done }

def opJraise (o : YF) : SlotOp :=
  { syMem o [.s o.a.toNat] [] (fun i x s =>
      if hasPosted s x.env.iter then .trap (trapC 14 0 x.env.jcb)
      else .ok (startOp s x i o.ss.toNat o.pm pkgScope (.jraise x.env.jcb (bits (sa o x) 31 0))) [] 0) with
    illReg := illWhen (fun _ x => bits (sa o x) 63 32 != 0) }

/-! ## Launches (12 R408) -/

def launchOp (o : YF) (on : Bool) : SlotOp :=
  { syMem o [.s o.a.toNat] [.s (sd o)] (fun i x s => startSy o i x s (.launch (sd o) (bits (sa o x) 7 0) on)) with
    illReg := illWhen (fun _ x => bits (sa o x) 63 8 != 0) }

def opLaunchOn (o : YF) : SlotOp := launchOp o true
def opLaunchOff (o : YF) : SlotOp := launchOp o false

/-! ## `evrd` (10 R339) -/

def opEvrd (o : YF) : SlotOp :=
  syOp [] [.s (sd o), .s o.b.toNat] (fun _ x s =>
    match x.events with
    | [] => .ok s [(.s (sd o), 0), (.s o.b.toNat, 0)] 0
    | r :: _ =>
      let s1 := if o.x.getLsbD 0 then s else modCtx s x.id (fun y => { y with events := y.events.drop 1 })
      .ok s1 [(.s (sd o), (r.extractLsb' 0 64).toNat), (.s o.b.toNat, (r.extractLsb' 64 64).toNat)] 0)

/-! ## Handle instructions (12 R394 to R396) -/

def hReg (o : YF) : Nat := (o.a.extractLsb' 0 5).toNat

/-- Starts a handle instruction on the entry its register names. -/
def handleOp (o : YF) (code : Nat) (reads : List RegId) (op1 op2 : Ctx → Word) (extra : State → Ctx → Option TrapC) : SlotOp :=
  syMem o (.h (hReg o) :: reads) [.s (sd o)] (fun i x s =>
    match extra s x with
    | some t => .trap t
    | none => match handleTrap x (hReg o) with
      | some t => .trap t
      | none => startSy o i x s (.handle (sd o) code (o.x.extractLsb' 0 1).toNat (hIdx (rdH x (hReg o))) (op1 x) (op2 x)))

def noOperand (_ : Ctx) : Word := 0
def noTrap (_ : State) (_ : Ctx) : Option TrapC := none

def opHpinOn (o : YF) : SlotOp := handleOp o 0x15 [] noOperand noOperand noTrap
def opHpinOff (o : YF) : SlotOp := handleOp o 0x15 [] noOperand noOperand noTrap
def opHdem (o : YF) : SlotOp := handleOp o 0x17 [] noOperand noOperand noTrap
def opHevict (o : YF) : SlotOp := handleOp o 0x18 [] noOperand noOperand noTrap

def opHpri (o : YF) : SlotOp :=
  { handleOp o 0x16 [.s o.b.toNat] (fun x => rdS x o.b.toNat) noOperand noTrap with
    illReg := illWhen (fun _ x => bits (sb o x) 63 3 != 0) }

/-- ALIGN of the bases of `hmov`: 4 KiB for data, 128 bytes for metadata where the tensor is compressed. -/
def hmovAlign (o : YF) (s : State) (x : Ctx) : Option TrapC :=
  let d := (rdS x o.b.toNat).toNat
  let m := (rdS x (o.b.toNat + 1)).toNat
  match alignBad 4096 d with
  | some t => some t
  | none => match entryOf s x (hReg o) with
    | some e => if e.comp then alignBad 128 m else none
    | none => none

def opHmov (o : YF) : SlotOp :=
  handleOp o 0x19 [.s o.b.toNat, .s (o.b.toNat + 1)] (fun x => rdS x o.b.toNat) (fun x => rdS x (o.b.toNat + 1)) (hmovAlign o)

/-! ## `purge` and `qflush` (12 R421, 10 R342) -/

/-- PRIV of a supervisor instruction below SH (06 R186). -/
def shOnly (x : Ctx) : Option TrapC := if x.lvl < 2 then some { cause := 4, sub := 0, reg := 0, addr := 0 } else none

def opPurge (o : YF) : SlotOp :=
  { syMem o [.s o.a.toNat] [.s (sd o)] (fun i x s => startSy o i x s (.purge (sd o) (bits (sa o x) 15 0))) with
    illReg := illWhen (fun _ x => bits (sa o x) 63 16 != 0)
    priv := shOnly }

/-- The commands a `qflush` flushes: those that no other is flushing. -/
def flushSet (y : Core) (mx : Bool) : List Cmd := if mx then y.mxq.filter (fun c => !c.started) else y.cpq.filter (fun c => c.flush.isNone)

/-- The core a `qflush` names. -/
def flushCore (o : YF) (x : Ctx) : Nat := bits (sa o x) 2 0

/-- The `qflush` of a queue that an issue has begun at a core. -/
def flushOf (y : Core) (mx : Bool) (x : Ctx) : Option Flush :=
  y.flushes.find? (fun f => f.mx == mx && f.ctx == x.id && f.iter == x.env.iter && f.pos == x.pos)

/-- It begins: the queue's commands that have not started leave at once, the started ones at their next boundary. -/
def flushBegin (s : State) (x : Ctx) (core : Nat) (mx : Bool) : State :=
  let y := getCore s x.id.cl core
  if (flushOf y mx x).isSome then s
  else
    let s1 := modCore s x.id.cl core (fun z => { z with
      flushes := z.flushes ++ [{ mx := mx, ctx := x.id, iter := x.env.iter, pos := x.pos, left := [] }]
      cpq := if mx then z.cpq else z.cpq.map (fun c => if c.started && c.flush.isNone then { c with flush := some x.id } else c) })
    ((flushSet y mx).filter (fun c => !c.started)).foldl (fun u c => flushLeave u { c with flush := some x.id }) s1

/-- Whether it holds its bundle: to begin, and until every flushed command has left. -/
def flushHeld (s : State) (x : Ctx) (core : Nat) (mx : Bool) : Bool :=
  let y := getCore s x.id.cl core
  if (flushOf y mx x).isSome then !mx && y.cpq.any (fun c => c.flush == some x.id) else !(flushSet y mx).isEmpty

/-- Its end: the commands that left count out, and their number is its result. -/
def flushEnd (s : State) (x : Ctx) (core : Nat) (mx : Bool) : State × Nat :=
  match flushOf (getCore s x.id.cl core) mx x with
  | none => (s, 0)
  | some f => (endFlush x.id.cl core s f, f.left.length)

def qflushOp (o : YF) (mx : Bool) : SlotOp :=
  { syOp [.s o.a.toNat] [.s (sd o)] (fun _ x s =>
      let r := flushEnd s x (flushCore o x) mx
      .ok r.1 [(.s (sd o), r.2)] 0) with
    illReg := illWhen (fun s x => bits (sa o x) 63 3 != 0 || (sa o x % 2 == 1 && coreJoined s x.id.cl (flushCore o x)))
    priv := shOnly
    hold := fun _ s x => flushHeld s x (flushCore o x) mx
    begins := fun _ s x => flushBegin s x (flushCore o x) mx }

def opQflushCp (o : YF) : SlotOp := qflushOp o false
def opQflushMx (o : YF) : SlotOp := qflushOp o true

/-! ## Time (13 R454, R455) -/

def opRdtime (o : YF) : SlotOp :=
  syOp [] [.s (sd o), .s o.b.toNat] (fun _ _ s =>
    .ok s [(.s (sd o), devNs s), (.s o.b.toNat, s.pkg.devtime.toNat % 65536)] 0)

/-- The target of `sleep`; a relative one counts from the first presentation of its bundle. -/
def sleepTarget (o : YF) (s : State) (x : Ctx) : Nat :=
  if o.x.getLsbD 0 then (sa o x + x.sleepAt.getD (devNs s)) % 2 ^ 64 else sa o x

def opSleep (o : YF) : SlotOp :=
  { syOp [.s o.a.toNat] [] (fun _ _ s => .ok s [] 0) with
    timed := o.x.getLsbD 0
    block := fun _ s x => if sleepTarget o s x ≤ devNs s then none else some .sleep }

/-! ## Meanings, one per arm of `exec` -/

/-- GIVE (R239). -/
def execGive (o : YF) (s : State) : Host.Outcome State Fault Refusal := issueAlone (.give o) (opGive o) s

/-- TAKE (R240). -/
def execTake (o : YF) (s : State) : Host.Outcome State Fault Refusal := issueAlone (.take o) (opTake o) s

/-- WAITS (R427). -/
def execWaits (o : YF) (s : State) : Host.Outcome State Fault Refusal := issueAlone (.waits o) (opWaits o) s

/-- PHREG (R439). -/
def execPhreg (o : YF) (s : State) : Host.Outcome State Fault Refusal := issueAlone (.phreg o) (opPhreg o) s

/-- PHDROP (R440). -/
def execPhdrop (o : YF) (s : State) : Host.Outcome State Fault Refusal := issueAlone (.phdrop o) (opPhdrop o) s

/-- PHARR (R442). -/
def execPharr (o : YF) (s : State) : Host.Outcome State Fault Refusal := issueAlone (.pharr o) (opPharr o) s

/-- PHWAIT (R443). -/
def execPhwait (o : YF) (s : State) : Host.Outcome State Fault Refusal := issueAlone (.phwait o) (opPhwait o) s

/-- PHAW (R444). -/
def execPhaw (o : YF) (s : State) : Host.Outcome State Fault Refusal := issueAlone (.phaw o) (opPhaw o) s

/-- TBINIT (R433). -/
def execTbinit (o : YF) (s : State) : Host.Outcome State Fault Refusal := issueAlone (.tbinit o) (opTbinit o) s

/-- TBEXP (R434). -/
def execTbexp (o : YF) (s : State) : Host.Outcome State Fault Refusal := issueAlone (.tbexp o) (opTbexp o) s

/-- TBARR (R433). -/
def execTbarr (o : YF) (s : State) : Host.Outcome State Fault Refusal := issueAlone (.tbarr o) (opTbarr o) s

/-- TBWAIT (R433). -/
def execTbwait (o : YF) (s : State) : Host.Outcome State Fault Refusal := issueAlone (.tbwait o) (opTbwait o) s

/-- DONE (R447). -/
def execDone (o : YF) (s : State) : Host.Outcome State Fault Refusal := issueAlone (.done o) (opDone o) s

/-- JRAISE (R448). -/
def execJraise (o : YF) (s : State) : Host.Outcome State Fault Refusal := issueAlone (.jraise o) (opJraise o) s

/-- LAUNCH_ON (R408). -/
def execLaunchOn (o : YF) (s : State) : Host.Outcome State Fault Refusal := issueAlone (.launchOn o) (opLaunchOn o) s

/-- LAUNCH_OFF (R408). -/
def execLaunchOff (o : YF) (s : State) : Host.Outcome State Fault Refusal := issueAlone (.launchOff o) (opLaunchOff o) s

/-- EVRD (R339). -/
def execEvrd (o : YF) (s : State) : Host.Outcome State Fault Refusal := issueAlone (.evrd o) (opEvrd o) s

/-- HPIN_ON (R395). -/
def execHpinOn (o : YF) (s : State) : Host.Outcome State Fault Refusal := issueAlone (.hpinOn o) (opHpinOn o) s

/-- HPIN_OFF (R395). -/
def execHpinOff (o : YF) (s : State) : Host.Outcome State Fault Refusal := issueAlone (.hpinOff o) (opHpinOff o) s

/-- HPRI (R395). -/
def execHpri (o : YF) (s : State) : Host.Outcome State Fault Refusal := issueAlone (.hpri o) (opHpri o) s

/-- HDEM (R395). -/
def execHdem (o : YF) (s : State) : Host.Outcome State Fault Refusal := issueAlone (.hdem o) (opHdem o) s

/-- HEVICT (R395). -/
def execHevict (o : YF) (s : State) : Host.Outcome State Fault Refusal := issueAlone (.hevict o) (opHevict o) s

/-- HMOV (R396). -/
def execHmov (o : YF) (s : State) : Host.Outcome State Fault Refusal := issueAlone (.hmov o) (opHmov o) s

/-- PURGE (R421). -/
def execPurge (o : YF) (s : State) : Host.Outcome State Fault Refusal := issueAlone (.purge o) (opPurge o) s

/-- QFLUSH_CP (R342). -/
def execQflushCp (o : YF) (s : State) : Host.Outcome State Fault Refusal := issueAlone (.qflushCp o) (opQflushCp o) s

/-- QFLUSH_MX (R342). -/
def execQflushMx (o : YF) (s : State) : Host.Outcome State Fault Refusal := issueAlone (.qflushMx o) (opQflushMx o) s

/-- RDTIME (R454). -/
def execRdtime (o : YF) (s : State) : Host.Outcome State Fault Refusal := issueAlone (.rdtime o) (opRdtime o) s

/-- SLEEP (R455). -/
def execSleep (o : YF) (s : State) : Host.Outcome State Fault Refusal := issueAlone (.sleep o) (opSleep o) s

end Sys2Proof.Machine
end

