-- ==== Sys2Proof/Machine/Csr.lean ====
section
/-!
DEFINITION. Control registers (06 R187 to R201 and the maps R187 names): what each reads as, what a write does, and the four
control register instructions. `registerOf` and `setRegister` serve the management window too (17 R481).
-/
namespace Sys2Proof.Machine

/-! ## Wait-state registers (10 R340, R341) -/

def waitWord (why core ctx what : Nat) : Nat := why * 2 ^ 61 + core * 2 ^ 58 + ctx * 2 ^ 56 + what % 2 ^ 56

def waitOfHold (c : Cmd) (h : Hold) : Option Nat :=
  match h with
  | .why y w => some (waitWord y c.ctx.core c.ctx.ctx w)
  | _ => none

/-- Why a command of the CP queue waits: the lowest reason of those that hold (10 R341). -/
def cpWaits (s : State) (c : Cmd) : Option Nat :=
  match cmdOwner s c with
  | none => none
  | some x =>
    if !c.started then waitOfHold c (startHold s x c)
    else
      let held := overlapAt x c
      let access := if c.stop.isSome || held.isSome then (match advanceCp s x c with
        | .stop _ p _ y w => if c.stop.isSome || p = c.prog then some (y, w) else none
        | _ => none) else none
      match access, held with
      | some (y, w), some a => some (if y < 6 then waitWord y c.ctx.core c.ctx.ctx w else waitWord 6 c.ctx.core c.ctx.ctx a)
      | some (y, w), none => some (waitWord y c.ctx.core c.ctx.ctx w)
      | none, some a => some (waitWord 6 c.ctx.core c.ctx.ctx a)
      | none, none => none

/-- The started commands of a CP queue and the next one to start, oldest first. -/
def cpShown (q : List Cmd) : List Cmd :=
  let next := (q.find? (fun c => !c.started)).map refOf
  q.filter (fun c => c.started || some (refOf c) == next)

/-- WAITSTATE_CP. -/
def waitstateCp (s : State) (cl core : Nat) : Nat := ((cpShown (getCore s cl core).cpq).findSome? (cpWaits s)).getD 0

/-- WAITSTATE_ARR. -/
def waitstateArr (s : State) (cl : Nat) : Nat :=
  match (getCl s cl).arrq with
  | [] => 0
  | r :: _ => match findCmd s r with
    | none => 0
    | some c => match cmdOwner s c with
      | none => 0
      | some x => (waitOfHold c (arrayHold s x c)).getD 0

/-- The word of reason 7: the core of the command at the head of the array queue, and whether that queue is full. -/
def arrWhat (s : State) (cl : Nat) : Nat :=
  (match (getCl s cl).arrq with
   | [] => 0
   | r :: _ => r.ctx.core) + (if 64 ≤ arrEntries s cl then 8 else 0)

/-- WAITSTATE_MX. -/
def waitstateMx (s : State) (cl core : Nat) : Nat :=
  match (getCore s cl core).mxq.find? (fun c => !c.started) with
  | none => 0
  | some c => match cmdOwner s c with
    | none => 0
    | some x => (waitOfHold c (arrayHold s x c)).getD (waitWord 7 c.ctx.core c.ctx.ctx (arrWhat s cl))

/-! ## Values -/

/-- CTXID (06 R192). -/
def ctxidOf (s : State) (x : Ctx) : Nat :=
  s.dev.tz * 2 ^ 28 + s.dev.ty * 2 ^ 24 + s.dev.tx * 2 ^ 20 + x.id.cl * 2 ^ 13 + x.id.core * 2 ^ 10 + x.id.ctx * 2 ^ 8
    + x.joined.toNat * 2 ^ 7

/-- TRAPSTATE (06 R195). -/
def trapstateOf (x : Ctx) : Nat := x.use1.toNat * 8 + x.use0.toNat * 4 + x.lvl

/-- PAIRMODE (06 R201). -/
def pairmodeOf (s : State) (cl : Nat) : Nat :=
  ((List.range 4).map (fun j =>
    let p := getPair s cl j
    (p.cur.toNat + p.req.toNat * 2 + p.pend.toNat * 4 + p.dis.toNat * 8) * 2 ^ (8 * j))).sum

/-- DEVTIME_L and DEVTIME_H (13 R453). -/
def devtimeL (s : State) : Nat := s.pkg.devtime.toNat % 2 ^ 64
def devtimeH (s : State) : Nat := s.pkg.devtime.toNat / 2 ^ 64

/-- The value of control register n as a context reads it. -/
def registerOf (s : State) (x : Ctx) (n : Nat) : Nat :=
  let cl := x.id.cl
  let core := x.id.core
  let y := getCore s cl core
  match n with
  | 0x000 => ctxidOf s x
  | 0x001 => s.pkg.units.toNat
  | 0x002 => s.pkg.unitsA.toNat
  | 0x003 => s.pkg.unitsB.toNat
  | 0x010 => x.fpctl.toNat
  | 0x011 => x.fpflags.toNat
  | 0x012 => vwinOf x
  | 0x013 => x.streamCfg.toNat
  | 0x014 => x.issueSeq.toNat
  | 0x020 => trapstateOf x
  | 0x021 => x.cause.toNat
  | 0x022 => x.info.toNat
  | 0x023 => x.taddr.toNat
  | 0x024 => x.uvec.toNat
  | 0x025 => x.ctxsave.toNat
  | 0x028 => y.trapRoute.toNat
  | 0x029 => y.svec.toNat
  | 0x02A => y.wdog.toNat
  | 0x02B => y.fifoMax.toNat
  | 0x030 => pairmodeOf s cl
  | 0x040 => waitstateCp s cl core
  | 0x041 => waitstateMx s cl core
  | 0x042 => waitstateArr s cl
  | 0x048 => (getCl s cl).leaseMax.toNat
  | 0x050 => weightSum y s.cyc 16 + 16 * 2 ^ 16
  | 0x051 => limitOf s y
  | 0x052 => y.freeze.toNat
  | 0x058 => devtimeL s
  | 0x059 => devtimeH s
  | 0x060 => s.pkg.lossyDeadline.toNat
  | 0x080 => s.pkg.errCorr.toNat
  | 0x081 => s.pkg.errRowret.toNat
  | 0x082 => s.pkg.errReplay.toNat
  | 0x083 => s.pkg.errLossy.toNat
  | 0x084 => s.pkg.errPair.toNat
  | m => if 0x070 ≤ m ∧ m ≤ 0x07F then (smGet s.pkg.chktol (m - 0x070) 0).toNat else 0

/-! ## Writes -/

/-- A tolerance that a write may set: an FP32 code that is not negative, −0, infinite or NaN (02 R76). -/
def tolOk (c : Nat) : Bool := !bit c 31 && valIsFinite (decodeVal .fp32 c)

/-- A write of one pair's fields: req, and dis cleared by a 1 where `w1c` is set (06 R201). -/
def pairWrite (p : Pair) (v : Nat) (w1c : Bool) : Pair :=
  let req := bit v 1
  { p with req := req, pend := req != p.cur, dis := if w1c && bit v 3 then false else p.dis }

/-- A write of PAIRMODE. -/
def setPairmode (s : State) (cl v : Nat) (w1c : Bool) : State :=
  (List.range 4).foldl (fun t j => modPair t cl j (fun p => pairWrite p (v / 2 ^ (8 * j)) w1c)) s

/-- A write of DEVTIME_L steps all 80 bits (13 R453). -/
def stepTime (s : State) (v : Nat) : State :=
  modPkg s (fun g => { g with devtime := g.stagedH ++ BitVec.ofNat 64 v })

/-- Writes v to the writable fields of control register n; `w1c` marks a `csrw`, whose ones clear W1C fields. -/
def setRegister (s : State) (x : Ctx) (n v : Nat) (w1c : Bool) : State :=
  let cl := x.id.cl
  let core := x.id.core
  let w : Word := BitVec.ofNat 64 v
  match n with
  | 0x010 => modCtx s x.id (fun y => { y with fpctl := fpctlWrite y.fpctl w })
  | 0x011 => modCtx s x.id (fun y => { y with fpflags := BitVec.ofNat 6 v })
  | 0x013 => modCtx s x.id (fun y => { y with streamCfg := w &&& 0x3F01 })
  | 0x024 => modCtx s x.id (fun y => { y with uvec := w &&& 0x0000_FFFF_FFFF_FFF8 })
  | 0x028 => modCore s cl core (fun y => { y with trapRoute := w &&& 0x1F_FFFE })
  | 0x029 => modCore s cl core (fun y => { y with svec := w &&& 0x0000_FFFF_FFFF_FFF8 })
  | 0x02A => modCore s cl core (fun y => { y with wdog := w &&& 0x0000_FFFF_FFFF_FFFF })
  | 0x02B => modCore s cl core (fun y => { y with fifoMax := w &&& 0xFFFF_FFFF })
  | 0x030 => setPairmode s cl v w1c
  | 0x048 => modCl s cl (fun c => { c with leaseMax := w &&& 0xFFFF_FFFF })
  | 0x051 => if v % 2 ^ 16 < 48 then s else modCore s cl core (fun y => { y with curLimit := v % 2 ^ 16 })
  | 0x052 => modCore s cl core (fun y => { y with freeze := BitVec.ofNat 48 v })
  | 0x058 => stepTime s v
  | 0x059 => modPkg s (fun g => { g with stagedH := BitVec.ofNat 16 v })
  | 0x060 => if v % 2 ^ 32 < 1000 then s else modPkg s (fun g => { g with lossyDeadline := BitVec.ofNat 32 v })
  | 0x080 => modPkg s (fun g => { g with errCorr := BitVec.ofNat 48 v })
  | 0x081 => modPkg s (fun g => { g with errRowret := BitVec.ofNat 48 v })
  | 0x082 => modPkg s (fun g => { g with errReplay := BitVec.ofNat 48 v })
  | 0x083 => modPkg s (fun g => { g with errLossy := BitVec.ofNat 48 v })
  | 0x084 => modPkg s (fun g => { g with errPair := BitVec.ofNat 48 v })
  | m =>
    if 0x070 ≤ m ∧ m ≤ 0x07F then
      (if tolOk (bits v 63 32) && tolOk (bits v 31 0) then modPkg s (fun g => { g with chktol := smSet g.chktol (m - 0x070) w 0 }) else s)
    else s

/-! ## The instructions (06 R186, R188) -/

/-- Registers that user levels may not read; those that they may write (06 R187). -/
def csrHidden (n : Nat) : Bool := [0x028, 0x029, 0x02A, 0x02B, 0x048].contains n
def csrUser (n : Nat) : Bool := [0x010, 0x011, 0x013, 0x024].contains n

def csrPriv (n : Nat) (write : Bool) (x : Ctx) : Option TrapC :=
  if x.lvl < 2 && (csrHidden n || (write && !csrUser n)) then
    some { cause := 4, sub := if write then 2 else 1, reg := n, addr := 0 } else none

/-- The state as of the start of a context's issue, as control registers read it (03 R84): without the commands that lower slots
of the same issue have enqueued. -/
def asOfIssue (s : State) (x : Ctx) : State :=
  let old (c : Cmd) : Bool := !(c.ctx == x.id && c.iter == x.env.iter && decide (x.issueSeq.toNat ≤ c.seq))
  modCore s x.id.cl x.id.core (fun y => { y with mxq := y.mxq.filter old, cpq := y.cpq.filter old })

def opCsrr (o : YF) : SlotOp :=
  { syOp [] [.s (sd o)] (fun _ x s => .ok s [(.s (sd o), registerOf (asOfIssue s x) x (yCsr o))] 0) with
    priv := csrPriv (yCsr o) false }

/-- A write: `f old v` is what the RW fields become. -/
def csrWriteOp (o : YF) (w1c : Bool) (f : Nat → Nat → Nat) : SlotOp :=
  { syOp [.s o.a.toNat] [.s (sd o)] (fun _ x s =>
      let old := registerOf (asOfIssue s x) x (yCsr o)
      .ok (setRegister s x (yCsr o) (f old (sa o x)) w1c) [(.s (sd o), old)] 0) with
    priv := csrPriv (yCsr o) true }

def opCsrw (o : YF) : SlotOp := csrWriteOp o true (fun _ v => v)
def opCsrs (o : YF) : SlotOp := csrWriteOp o false (fun old v => old ||| v)
def opCsrc (o : YF) : SlotOp := csrWriteOp o false (fun old v => old &&& (2 ^ 64 - 1 - v % 2 ^ 64))

/-! ## Meanings, one per arm of `exec` -/

/-- CSRR (R188). -/
def execCsrr (o : YF) (s : State) : Host.Outcome State Fault Refusal := issueAlone (.csrr o) (opCsrr o) s

/-- CSRW (R188). -/
def execCsrw (o : YF) (s : State) : Host.Outcome State Fault Refusal := issueAlone (.csrw o) (opCsrw o) s

/-- CSRS (R188). -/
def execCsrs (o : YF) (s : State) : Host.Outcome State Fault Refusal := issueAlone (.csrs o) (opCsrs o) s

/-- CSRC (R188). -/
def execCsrc (o : YF) (s : State) : Host.Outcome State Fault Refusal := issueAlone (.csrc o) (opCsrc o) s

end Sys2Proof.Machine
end

