-- ==== Sys2Proof/Machine/Present.lean ====
section
/-!
DEFINITION. The steps of a core: the presentation of a bundle (03 R79 to R94, 06 R205), its holds, blocks, limits and wakes
(01 R29, R30; 06 R200; 09 R284), interlocked writes and landings, and the match of a joined pair (06 R215, R216).
-/
namespace Sys2Proof.Machine

/-! ## Slot operations by name -/

/-- The operation that a slot word stands for. Events have none. -/
def slotOpOf : Instr → Option SlotOp
  | .nop _ => some opNop
  | .tree o => some (opTree o)
  | .jmp o => some (opJmp o)
  | .jmpr o => some (opJmpr o)
  | .call o => some (opCall o)
  | .callr o => some (opCallr o)
  | .ret => some opRet
  | .trap o => some (opTrap o)
  | .eret => some opEret
  | .halt => some opHalt
  | .yield => some opYield
  | .add o => some (opAdd o)
  | .sub o => some (opSub o)
  | .mul o => some (opMul o)
  | .mulh o => some (opMulh o)
  | .mulhz o => some (opMulhz o)
  | .div o => some (opDiv o)
  | .divz o => some (opDivz o)
  | .rem o => some (opRem o)
  | .remz o => some (opRemz o)
  | .and o => some (opAnd o)
  | .or o => some (opOr o)
  | .xor o => some (opXor o)
  | .andn o => some (opAndn o)
  | .shl o => some (opShl o)
  | .shr o => some (opShr o)
  | .sar o => some (opSar o)
  | .rot o => some (opRot o)
  | .min o => some (opMin o)
  | .max o => some (opMax o)
  | .minz o => some (opMinz o)
  | .maxz o => some (opMaxz o)
  | .abs o => some (opAbs o)
  | .clz o => some (opClz o)
  | .ctz o => some (opCtz o)
  | .popc o => some (opPopc o)
  | .sext o => some (opSext o)
  | .bfx o => some (opBfx o)
  | .bfxz o => some (opBfxz o)
  | .bfi o => some (opBfi o)
  | .lea o => some (opLea o)
  | .addi o => some (opAddi o)
  | .andi o => some (opAndi o)
  | .ori o => some (opOri o)
  | .xori o => some (opXori o)
  | .movi o => some (opMovi o)
  | .movhi o => some (opMovhi o)
  | .cmpi o => some (opCmpi o)
  | .mov o => some (opMov o)
  | .sel o => some (opSel o)
  | .cmp o => some (opCmp o)
  | .cset o => some (opCset o)
  | .fadd o => some (opFadd o)
  | .fsub o => some (opFsub o)
  | .fmul o => some (opFmul o)
  | .ffma o => some (opFfma o)
  | .fdiv o => some (opFdiv o)
  | .fsqrt o => some (opFsqrt o)
  | .fmin o => some (opFmin o)
  | .fmax o => some (opFmax o)
  | .fcmp o => some (opFcmp o)
  | .fcvt o => some (opFcvt o)
  | .fclass o => some (opFclass o)
  | .vadd o => some (opVadd o)
  | .vsub o => some (opVsub o)
  | .vmul o => some (opVmul o)
  | .vmin o => some (opVmin o)
  | .vmax o => some (opVmax o)
  | .vcopysgn o => some (opVcopysgn o)
  | .vabs o => some (opVabs o)
  | .vneg o => some (opVneg o)
  | .vround o => some (opVround o)
  | .vrcp o => some (opVrcp o)
  | .vrsq o => some (opVrsq o)
  | .vsqrt o => some (opVsqrt o)
  | .vfn o => some (opVfn o)
  | .vfma o => some (opVfma o)
  | .vfms o => some (opVfms o)
  | .vclamp o => some (opVclamp o)
  | .vdot o => some (opVdot o)
  | .vcmp o => some (opVcmp o)
  | .vsel o => some (opVsel o)
  | .vand o => some (opVand o)
  | .vor o => some (opVor o)
  | .vxor o => some (opVxor o)
  | .vnot o => some (opVnot o)
  | .vshl o => some (opVshl o)
  | .vshr o => some (opVshr o)
  | .vsar o => some (opVsar o)
  | .vcvt o => some (opVcvt o)
  | .vpack o => some (opVpack o)
  | .vunpk o => some (opVunpk o)
  | .vperm o => some (opVperm o)
  | .vshuf o => some (opVshuf o)
  | .vbcast o => some (opVbcast o)
  | .vmovs o => some (opVmovs o)
  | .vins o => some (opVins o)
  | .vidx o => some (opVidx o)
  | .vredSum o => some (opVredSum o)
  | .vredMin o => some (opVredMin o)
  | .vredMax o => some (opVredMax o)
  | .vredVsum o => some (opVredVsum o)
  | .vredRsum o => some (opVredRsum o)
  | .vscan o => some (opVscan o)
  | .vnfchk o => some (opVnfchk o)
  | .mand o => some (opMand o)
  | .mor o => some (opMor o)
  | .mxor o => some (opMxor o)
  | .mnot o => some (opMnot o)
  | .mpop o => some (opMpop o)
  | .mfirst o => some (opMfirst o)
  | .mset o => some (opMset o)
  | .vrand o => some (opVrand o)
  | .kld o => some (opKld o)
  | .kst o => some (opKst o)
  | .kmov o => some (opKmov o)
  | .kset o => some (opKset o)
  | .kmax o => some (opKmax o)
  | .xtr o => some (opXtr o)
  | .xexp o => some (opXexp o)
  | .xcvt o => some (opXcvt o)
  | .xqnt o => some (opXqnt o)
  | .xamx o => some (opXamx o)
  | .xswz o => some (opXswz o)
  | .ld o => some (opLd o)
  | .st o => some (opSt o)
  | .vld o => some (opVld o)
  | .vst o => some (opVst o)
  | .vlds o => some (opVlds o)
  | .vgth o => some (opVgth o)
  | .vsct o => some (opVsct o)
  | .amo o => some (opAmo o)
  | .cas o => some (opCas o)
  | .red o => some (opRed o)
  | .vredm o => some (opVredm o)
  | .pref o => some (opPref o)
  | .mma o => some (opMma o)
  | .mmao o => some (opMmao o)
  | .mzero o => some (opMzero o)
  | .mload o => some (opMload o)
  | .mchk o => some (opMchk o)
  | .mdrain o => some (opMdrain o)
  | .mrel o => some (opMrel o)
  | .cpy o => some (opCpy o)
  | .cpyt o => some (opCpyt o)
  | .cpst o => some (opCpst o)
  | .cpz o => some (opCpz o)
  | .cpzTile o => some (opCpzTile o)
  | .cpxOut o => some (opCpxOut o)
  | .cpxIn o => some (opCpxIn o)
  | .cpnWr o => some (opCpnWr o)
  | .cpnRd o => some (opCpnRd o)
  | .coll o => some (opColl o)
  | .give o => some (opGive o)
  | .take o => some (opTake o)
  | .waits o => some (opWaits o)
  | .phreg o => some (opPhreg o)
  | .phdrop o => some (opPhdrop o)
  | .pharr o => some (opPharr o)
  | .phwait o => some (opPhwait o)
  | .phaw o => some (opPhaw o)
  | .tbinit o => some (opTbinit o)
  | .tbexp o => some (opTbexp o)
  | .tbarr o => some (opTbarr o)
  | .tbwait o => some (opTbwait o)
  | .done o => some (opDone o)
  | .jraise o => some (opJraise o)
  | .launchOn o => some (opLaunchOn o)
  | .launchOff o => some (opLaunchOff o)
  | .evrd o => some (opEvrd o)
  | .csrr o => some (opCsrr o)
  | .csrw o => some (opCsrw o)
  | .csrs o => some (opCsrs o)
  | .csrc o => some (opCsrc o)
  | .hpinOn o => some (opHpinOn o)
  | .hpinOff o => some (opHpinOff o)
  | .hpri o => some (opHpri o)
  | .hdem o => some (opHdem o)
  | .hevict o => some (opHevict o)
  | .hmov o => some (opHmov o)
  | .purge o => some (opPurge o)
  | .qflushCp o => some (opQflushCp o)
  | .qflushMx o => some (opQflushMx o)
  | .rdtime o => some (opRdtime o)
  | .sleep o => some (opSleep o)
  | _ => none

/-- Whether an operation carries a step field (03 R80, R88). -/
def hasStep : Instr → Bool
  | .ld _ | .st _ | .vld _ | .vst _ | .vlds _ | .pref _ | .kld _ | .kst _ => true
  | .cpy _ | .cpyt _ | .cpst _ | .cpz _ | .cpzTile _ | .cpxOut _ | .cpxIn _ | .cpnWr _ | .cpnRd _ | .coll _ => true
  | _ => false

/-! ## Fetch (12 R385) -/

/-- A fault of the bundle as a whole. -/
def wholeTrap (t : TrapC) : TrapT := trapB 15 t

/-- The header and the words after it; a header that R82 refuses is fetched alone (log 18). -/
def fetchBundle (s : State) (x : Ctx) : State × ((Word × List Word) ⊕ TrapT) :=
  match fetchWord s x x.pc.toNat with
  | (s1, .inr t) => (s1, .inr (wholeTrap t))
  | (s1, .inl h) =>
    let hw := BitVec.ofNat 64 h
    match headerCase hw with
    | some _ => (s1, .inl (hw, []))
    | none => match fetchWords s1 x ((x.pc.toNat + 8) % 2 ^ 48) (hdrCnt hw) with
      | (s2, .inr t) => (s2, .inr (wholeTrap t))
      | (s2, .inl ws) => (s2, .inl (hw, ws.map (BitVec.ofNat 64)))

/-! ## One issue of a bundle (03 R83) -/

/-- What decoding found: the slots decoded, and the error. -/
structure Decoded where
  bundle : Bundle
  bad : Option TrapT
  deriving DecidableEq, Repr, Inhabited

/-- The slots before a slot index, decoded. -/
def decodeBelow (h : Word) (ws : List Word) (j : Nat) : List SlotDec :=
  let sw := splitWords h ws
  match decodeSlots sw.2 (sw.1.filter (fun p => decide (p.1 < j))) with
  | .inl l => l
  | .inr _ => []

/-- A bundle's decoding with its first error (03 R82, R106). -/
def decodeWhole (h : Word) (ws : List Word) : Decoded :=
  let b (l : List SlotDec) : Bundle :=
    { pres := hdrPres h, rep := hdrRep h, sten := hdrSten h, clr := hdrClr h, words := 1 + hdrCnt h, ops := l }
  match decodeBundle h ws with
  | .inl d => { bundle := d, bad := none }
  | .inr (.bundle c) => { bundle := b [], bad := some { cause := 1, info := infoB 15 c 0, addr := 0 } }
  | .inr (.op j sub) => { bundle := b (decodeBelow h ws j), bad := some { cause := 2, info := infoB j sub 0, addr := 0 } }

/-- The `tree` of a bundle. -/
def treeIn (b : Bundle) : Option BT :=
  b.ops.findSome? (fun d => match d.op with
    | .tree o => some o
    | _ => none)

/-- Whether the issue to come is the bundle's first. -/
def firstIssue (x : Ctx) : Bool := x.rep.isNone

/-- Issues still to do, with the one to come. -/
def issuesLeft (x : Ctx) (b : Bundle) : Nat :=
  match x.rep with
  | none => b.rep + 1
  | some r => r.left

/-- The leaf of the issue to come: recorded, or selected now (03 R90). -/
def leafNow (x : Ctx) (b : Bundle) : Nat :=
  match x.rep with
  | some r => r.leaf
  | none => match treeIn b with
    | some o => leafOf o (settled x)
    | none => 0

/-- The sticky state that the issue starts from: the clear and fresh actions belong to the first issue (03 R83). -/
def stickyNow (x : Ctx) (b : Bundle) (leaf : Nat) : SMap Sticky :=
  if firstIssue x then
    let m := if b.clr then [] else x.sticky
    match treeIn b with
    | some o => if leaf != 0 && freshLeaf o leaf then m.filter (fun p => b.pres.getLsbD p.1) else m
    | none => m
  else x.sticky

/-- `sten(s)` of 03 R83. -/
def stenOf (b : Bundle) (j : Nat) (i : Instr) : Int := if b.sten.getLsbD j && hasStep i then 1 else 0

/-- The step count of a named slot: 0 at the first issue, then that of the previous issue and its step. -/
def namedK (x : Ctx) (b : Bundle) (d : SlotDec) : Int :=
  if firstIssue x then 0 else ((smFind x.sticky d.slot).map (·.k)).getD 0 + stenOf b d.slot d.op

/-- A slot's operation, with the leaf of a `tree`. -/
def opAt (leaf : Nat) (i : Instr) : SlotOp :=
  match i with
  | .tree o => opTreeAt o leaf
  | _ => (slotOpOf i).getD opNop

/-- A named word as an operation of the issue. -/
def namedOp (x : Ctx) (b : Bundle) (leaf : Nat) (d : SlotDec) : IssOp :=
  { slot := d.slot, k := namedK x b d, word := d.word, so := opAt leaf d.op }

/-- Whether a named word executes in this issue: it is not squashed, and BR acts after the last issue (03 R83, R89). -/
def executes (leaf : Nat) (last : Bool) (d : SlotDec) : Bool :=
  if d.slot = 0 then last else d.tag == 0 || d.tag == leaf

/-- A re-issue of a sticky slot (03 R83), or its decode error (06 R212). -/
def reissue (b : Bundle) (p : Nat × Sticky) : IssOp ⊕ TrapT :=
  match decodeSlot (slotOfIdx p.1) none p.2.word with
  | .inr sub => .inr { cause := 2, info := infoB p.1 sub 0, addr := 0 }
  | .inl i => .inl { slot := p.1, k := p.2.k + stenOf b p.1 i, word := p.2.word, so := opAt 0 i }

/-- The re-issues of the slots that the bundle does not name. -/
def reissues (b : Bundle) (m : SMap Sticky) : List (IssOp ⊕ TrapT) :=
  (m.filter (fun p => !b.pres.getLsbD p.1)).map (reissue b)

/-- The slot a decode trap names. -/
def trapSlot (t : TrapT) : Nat := t.info.toNat % 16

/-- The first of two decode errors: ILLEGAL_BUNDLE, then the lower slot (03 R106). -/
def firstError (a b : Option TrapT) : Option TrapT :=
  match a, b with
  | none, u => u
  | t, none => t
  | some t, some u => if t.cause = 1 then some t else if trapSlot u < trapSlot t then some u else some t

/-- Inserts by slot index. -/
def bySlot (o : IssOp) : List IssOp → List IssOp
  | [] => [o]
  | p :: rest => if o.slot < p.slot then o :: p :: rest else p :: bySlot o rest

/-- Operations in increasing slot index, BR last: its effect follows the issue (03 R83). -/
def inOrder (l : List IssOp) : List IssOp := l.foldr bySlot []

/-- The issue of a bundle that the context's repeat state makes next. -/
def bundleIssue (x : Ctx) (d : Decoded) : Issue :=
  let b := d.bundle
  let leaf := leafNow x b
  let m := stickyNow x b leaf
  let left := issuesLeft x b
  let last := decide (left ≤ 1)
  let re := reissues b m
  let ops := inOrder ((b.ops.filter (executes leaf last)).map (namedOp x b leaf)
    ++ re.filterMap (fun r => match r with
      | .inl o => some o
      | .inr _ => none))
  let reBad := re.findSome? (fun r => match r with
      | .inl _ => none
      | .inr t => some t)
  { bad := firstError d.bad reBad, named := b.ops.map (namedOp x b leaf), exec := ops, len := 8 * b.words,
    sticky := ops.foldl (fun n o => stickyAfter n o.slot o.word o.k) m,
    rep := if last then none else some { left := left - 1, leaf := leaf }, last := last, advance := !b.pres.getLsbD 0 }

/-- Whether the tree reads a condition register whose interlocked write is still to come. -/
def treeHeld (x : Ctx) (b : Bundle) : Bool :=
  firstIssue x && (match treeIn b with
    | some o => heldOn x ((opTree o).reads x)
    | none => false)

/-! ## PRESENT_BUNDLE -/

/-- A fault of the fetch: POISON acts on its record (12 R417), the others trap at the bundle. -/
def fetchTrap (s : State) (x : Ctx) (t : TrapT) : Present :=
  if x.lvl < 2 && unfinished x then .hold s
  else if t.cause = 10 then .act (takePoison s x.id (poisonedIn s x [(t.addr.toNat, 8)]) t x.pc) else .act (takeTrap s x.id t x.pc)

/-- The return of an `eret` whose bundle has acted: once that bundle's accesses to the save area are performed (06 R212). -/
def lateReturn (s : State) (x : Ctx) : Present :=
  if eretBusy x then .hold s
  else
    let y := { x with eretWait := false }
    match returnTrap (putCtx s y) y with
    | .ok s1 => .act s1
    | .trap t => trapNow (putCtx s y) y (trapB 0 t)

/-- The presentation of the bundle at the context's program counter; a `trap` that waits for its entry goes first, and so does
an `eret` that waits for its bundle. -/
def presentation (s : State) (x : Ctx) : Present :=
  match x.trapWait with
  | some w =>
    if unfinished x then .hold s
    else .act (takeTrap (putCtx s { x with trapWait := none }) x.id { cause := 20, info := w.1, addr := 0 } w.2)
  | none =>
    if x.eretWait then lateReturn s x
    else match fetchBundle s x with
    | (s1, .inr t) => fetchTrap s1 x t
    | (s1, .inl (h, ws)) =>
      let d := decodeWhole h ws
      if d.bad.isNone && treeHeld x d.bundle then .hold (firstSeen s1 x (bundleIssue x d)).1 else present s1 x (bundleIssue x d)

/-- The resident context of a core position, if it is ready. -/
def readyAt (s : State) (cl core n : Nat) : Option Ctx :=
  match getCtx s { cl := cl, core := core, ctx := n } with
  | some x => if x.status = .ready then some x else none
  | none => none

/-- The context that a core issues from: the running one, else the next ready one in round-robin order (01 R29, R30). -/
def pickCtx (s : State) (cl core : Nat) : Option Ctx :=
  let c := (getCore s cl core).cur
  [c % 4, (c + 1) % 4, (c + 2) % 4, (c + 3) % 4].findSome? (readyAt s cl core)

/-- The core issues from the context x. -/
def runs (s : State) (x : Ctx) : State := modCore s x.id.cl x.id.core (fun y => { y with cur := x.id.ctx })

/-- A step that does not occur in the state. -/
def notNow (row : String) : Host.Outcome State Fault Refusal := .refused (.notEnabled row)

/-- An issue of a joined pair that waits for the match of its signatures. -/
def awaitMatch (s : State) (x : Ctx) : State :=
  modPair s x.id.cl (x.id.core / 2) (fun q => { q with unmatched := some x.id.ctx })

/-- The `qflush`es begun at a cluster's cores. -/
def flushesOf (s : State) (cl : Nat) : List Flush := (List.range 8).flatMap (fun k => (getCore s cl k).flushes)

/-- Whether what a bundle does before it issues, the arrive part of a `phaw` or the begin of a `qflush`, changes shared state. -/
def actsEarly (s t : State) (cl : Nat) : Bool := t.pkg.phasers != s.pkg.phasers || flushesOf t cl != flushesOf s cl

/-- Whether a presentation changes shared state or traps: an issue, a trap, or what a bundle does before it issues. -/
def changesShared (s : State) (cl : Nat) (p : Present) : Bool :=
  match p with
  | .act _ => true
  | .blocked t _ | .hold t | .freeze t => actsEarly s t cl

/-- A pair's presentation: of a joined pair what changes shared state or traps waits for the match of its signatures (06 R207,
R215). -/
def pairPresented (s : State) (x : Ctx) : State :=
  let p := presentation s x
  if x.joined && changesShared s x.id.cl p then awaitMatch s x else presented x p

/-- Whether an issue of a core's joined pair awaits the match of its signatures. -/
def awaitsMatch (s : State) (cl core : Nat) : Bool :=
  match (getPair s cl (core / 2)).unmatched with
  | none => false
  | some n => (getCtx s { cl := cl, core := core, ctx := n }).isSome

/-- PRESENT_BUNDLE (R205). -/
def execPresentBundle (cl core : Nat) (s : State) : Host.Outcome State Fault Refusal :=
  match pickCtx s cl core with
  | none => notNow "PRESENT_BUNDLE"
  | some x =>
    if x.joined && awaitsMatch s cl core then notNow "PRESENT_BUNDLE"
    else .next (pairPresented (runs s x) x)

/-! ## Blocks, limits and wakes -/

/-- Whether the condition of a blocked context has cleared (01 R30): a presentation of it would no longer block, or it would
now make the arrive part of its `phaw`, which waited for the operations of its mask (13 R444). -/
def unblocked (s : State) (x : Ctx) : Bool :=
  match presentation s x with
  | .blocked t _ => t.pkg.phasers != s.pkg.phasers
  | _ => true

/-- Slots and reasons of a blocked context. -/
def blockedOn (x : Ctx) : List (Nat × BlockWhy) :=
  match x.status with
  | .blocked w => w
  | _ => []

def sleeping (x : Ctx) : Bool := (blockedOn x).any (fun p => p.2 == .sleep)
def onFifo (x : Ctx) : Option (Nat × Nat) :=
  (blockedOn x).findSome? (fun p => match p.2 with
    | .fifo n => some (p.1, n)
    | _ => none)
/-- The slot that waits for the lease or for a bank, with the bank. -/
def onLease (x : Ctx) : Option (Nat × Option Nat) :=
  (blockedOn x).findSome? (fun p => match p.2 with
    | .lease => some (p.1, none)
    | .bank b => some (p.1, some b)
    | _ => none)

/-- A blocked context becomes ready. -/
def wake (s : State) (x : Ctx) : State := putCtx s { x with status := .ready }

/-- BLOCK_CLEARS (R30): of every block but that of `sleep`. -/
def execBlockClears (c : CtxId) (s : State) : Host.Outcome State Fault Refusal :=
  match getCtx s c with
  | none => notNow "BLOCK_CLEARS"
  | some x => if (blockedOn x).isEmpty || sleeping x || awaitsMatch s c.cl c.core || !unblocked s x then notNow "BLOCK_CLEARS" else .next (wake s x)

/-- SLEEP_WAKE (R455): at the target time. -/
def execSleepWake (c : CtxId) (s : State) : Host.Outcome State Fault Refusal :=
  match getCtx s c with
  | none => notNow "SLEEP_WAKE"
  | some x => if sleeping x && !awaitsMatch s c.cl c.core && unblocked s x then .next (wake s x) else notNow "SLEEP_WAKE"

/-- The limit registers of a context's core and cluster: 0 disables. -/
def pastLimit (n limit : Nat) : Bool := limit != 0 && decide (limit < n)

def wdogDue (s : State) (x : Ctx) : Bool := pastLimit x.blockedFor ((getCore s x.id.cl x.id.core).wdog.toNat % 2 ^ 48)
def fifoDue (s : State) (x : Ctx) : Bool :=
  (onFifo x).isSome && pastLimit x.fifoFor ((getCore s x.id.cl x.id.core).fifoMax.toNat % 2 ^ 32)
def leaseDue (s : State) (x : Ctx) : Bool :=
  (onLease x).isSome && pastLimit x.leaseFor ((getCl s x.id.cl).leaseMax.toNat % 2 ^ 32)

/-- Whether a limit trap can be taken: the context is blocked at U or UH with every interlocked result there (06 R200,
R208). -/
def mayTimeOut (x : Ctx) : Bool := decide (x.lvl < 2) && !(blockedOn x).isEmpty && !unfinished x

/-- A blocked context with the reasons that a presentation of it finds now; none where its bundle no longer blocks (01 R30, 09 R284). -/
def blocksNow (s : State) (x : Ctx) : Option Ctx :=
  if (blockedOn x).isEmpty then none
  else match presentation s x with
    | .blocked _ w => some { x with status := .blocked w }
    | _ => none

/-- The class W trap that is due for the reasons a context is blocked for: cause, slot and register; the lease's before the FIFO's
before the watchdog's (06 R203, R205). A bundle blocked in `sleep` is not counted (06 R200). -/
def limitFor (s : State) (x : Ctx) : Option (Nat × Nat × Nat) :=
  if !mayTimeOut x then none
  else if leaseDue s x then some (16, ((onLease x).map (·.1)).getD 15, 0)
  else if sleeping x then none
  else if fifoDue s x then (onFifo x).map (fun f => (18, f.1, f.2))
  else if wdogDue s x then some (19, ((blockedOn x).head?.map (·.1)).getD 15, 0)
  else none

/-- The class W trap that is due at a bundle that still blocks. -/
def dueLimit (s : State) (x : Ctx) : Option (Nat × Nat × Nat) := (blocksNow s x).bind (limitFor s)

/-- A class W trap at the blocked bundle (06 R203). -/
def timeOut (s : State) (x : Ctx) (t : Nat × Nat × Nat) : State :=
  takeTrap s x.id { cause := t.1, info := infoB t.2.1 0 t.2.2, addr := 0 } x.pc

/-- A limit trap of one cause: of a joined pair it waits for the match of the signatures (06 R207). -/
def limitTrap (cause : Nat) (row : String) (c : CtxId) (s : State) : Host.Outcome State Fault Refusal :=
  match getCtx s c with
  | none => notNow row
  | some x => match dueLimit s x with
    | none => notNow row
    | some t =>
      if t.1 != cause || (x.joined && awaitsMatch s c.cl c.core) then notNow row
      else if x.joined then .next (awaitMatch s x) else .next (timeOut s x t)

/-- LEASE_TIMEOUT (R284). -/
def execLeaseTimeout (c : CtxId) (s : State) : Host.Outcome State Fault Refusal := limitTrap 16 "LEASE_TIMEOUT" c s

/-- FIFO_TIMEOUT (R200). -/
def execFifoTimeout (c : CtxId) (s : State) : Host.Outcome State Fault Refusal := limitTrap 18 "FIFO_TIMEOUT" c s

/-- WATCHDOG (R200). -/
def execWatchdog (c : CtxId) (s : State) : Host.Outcome State Fault Refusal := limitTrap 19 "WATCHDOG" c s

/-- The record of a long lease wait: the holding core in [2:0], 0 where no core holds the lease (log 119), the bank in [4:3] (09
R284, 10 R338). -/
def leaseRec (s : State) (x : Ctx) (slot : Nat) (bank : Option Nat) : BitVec 128 :=
  eventRec 6 slot 0 x.id.ctx x.pc (((getCl s x.id.cl).lease.holder.getD 0) + (bank.getD 0) * 8)

/-- LEASE_WAIT_EVENT (R284): once, as the wait passes 16,384 cycles. -/
def execLeaseWaitEvent (c : CtxId) (s : State) : Host.Outcome State Fault Refusal :=
  match getCtx s c with
  | none => notNow "LEASE_WAIT_EVENT"
  | some x => match (blocksNow s x).bind onLease with
    | none => notNow "LEASE_WAIT_EVENT"
    | some (slot, b) =>
      if 16384 < x.leaseFor && !x.leaseNoted then .next (putCtx s (queueEvent { x with leaseNoted := true } (leaseRec s x slot b)))
      else notNow "LEASE_WAIT_EVENT"

/-! ## Interlocked writes and landings (03 R93) -/

/-- INTERLOCKED_WRITE (R93): the results that are there are written, in issue order. -/
def execInterlockedWrite (c : CtxId) (s : State) : Host.Outcome State Fault Refusal :=
  match getCtx s c with
  | none => notNow "INTERLOCKED_WRITE"
  | some x =>
    if (readyPend [] x.pend).isEmpty then notNow "INTERLOCKED_WRITE"
    else match flushSaved s x with
      | none => .next (stopAndPurge s x)
      | some (s1, x1) => .next (putCtx s1 x1)

/-- Vector groups that due landings are written to. -/
def dueGroups (x : Ctx) : List Nat := groupsOf ((x.land.filter (landsAt x.pos)).filterMap (fun l => l.vreg.map RegId.v))

/-- LANDING (R93): the results due at the issue to come become visible together, once each of them has its data (R94). -/
def execLanding (c : CtxId) (s : State) : Host.Outcome State Fault Refusal :=
  match getCtx s c with
  | none => notNow "LANDING"
  | some x =>
    if x.land.any (landsAt x.pos) && !lateDue x then
      match saveGroups s x (dueGroups x) with
      | none => .next (stopAndPurge s x)
      | some (s1, x1) => .next (putCtx s1 (landDue x1))
    else notNow "LANDING"

/-! ## Joined pairs (06 R201, R215, R216) -/

/-- The issue that a presentation of a context makes: its number, its iteration and its position. -/
def issueKey (x : Ctx) : Nat × Nat × Nat := (x.id.ctx, x.env.iter, x.pos)

/-- The held effects of an issue are discarded and it is presented again; the third mismatch of one issue with no match between
is hard: the work is purged by its tag, the pair goes out of service. The host is told by the purge's notice. A context that
pre-emption stops re-executes before its frame is closed (01 R42). -/
def mismatch (s : State) (cl pair : Nat) (x : Ctx) : State :=
  let q := getPair s cl pair
  let n := if q.missAt = some (issueKey x) then q.mismatches + 1 else 1
  let s1 := incPair s
  if n < 3 then modPair s1 cl pair (fun r =>
    { r with unmatched := if x.status = .stopped then r.unmatched else none, mismatches := n, missAt := some (issueKey x) })
  else purgeWork (modPair s1 cl pair (fun r => { r with unmatched := none, mismatches := 0, missAt := none, dis := true }))
    x.env.tag x.env.iter 6

/-- A context that pre-emption stopped stays stopped after the issue that it finished (01 R42). -/
def stayStopped (x : Ctx) (s : State) : State :=
  if x.status = .stopped then modCtx s x.id (fun y => if y.env.iter = x.env.iter then { y with status := .stopped } else y) else s

/-- What a joined pair does once the signatures of its issue have matched: the limit trap that is due, else the issue. -/
def matched (s : State) (x : Ctx) : State :=
  match dueLimit s x with
  | some t => timeOut s x t
  | none => stayStopped x (presented x (presentation s x))

/-- SIGNATURE_MATCH (R215). -/
def execSignatureMatch (cl pair : Nat) (equal : Bool) (s : State) : Host.Outcome State Fault Refusal :=
  match (getPair s cl pair).unmatched with
  | none => notNow "SIGNATURE_MATCH"
  | some n => match getCtx s { cl := cl, core := 2 * pair, ctx := n } with
    | none => notNow "SIGNATURE_MATCH"
    | some x =>
      if equal then .next (matched (modPair s cl pair (fun q => { q with unmatched := none, mismatches := 0, missAt := none })) x)
      else .next (mismatch s cl pair x)

/-- Whether the eight contexts of a pair are idle (01 R33). -/
def pairIdle (s : State) (cl pair : Nat) : Bool :=
  s.ctxs.all (fun p => !(p.2.id.cl == cl && p.2.id.core / 2 == pair))

end Sys2Proof.Machine
end

