-- ==== Sys2Proof/Machine/Spring.lean ====
section
/-!
DEFINITION. Spring and the nest walkers: launch starts and time slots (12 R399 to R409), the release of tasks (01 R19 to R22,
12 R405, R410, R411), the order and placement of iterations (01 R23 to R28, 12 R407), completion (13 R446) and the end of an
launch run (12 R409).
-/
namespace Sys2Proof.Machine

/-! ## Launch entries (12 R400 to R404) -/

/-- Whether a purge of a tag is under way: starts with the tag wait for it (12 R419). -/
def purging (s : State) (tag : Nat) : Bool := tag != 0 && s.pkg.purges.any (fun p => p.tag.toNat == tag)

def modInst (s : State) (e : Nat) (f : Inst → Inst) : State :=
  modSpring s (fun p => { p with insts := p.insts.map (fun i => if i.entry == e then f i else i) })

/-- The sixteen words of a launch entry; none where they are poisoned. -/
def readEntry (s : State) (e : Nat) : State × Option (List Word) :=
  let p := launchPlace s e 0
  let s1 := probeRange s p 128
  match firstPoisoned s1 p 128 with
  | some u => (makeRecord s1 p.space u, none)
  | none => (s1, some ((List.range 16).map (fun w => BitVec.ofNat 64 (launchWord s1 e w))))

/-- Word n of a captured entry or record. -/
def wordN (ws : List Word) (n : Nat) : Nat := (ws.getD n 0).toNat

/-- A misaligned base: context and engine save areas, task records, job control blocks (12 R400, R404). -/
def badBases (ws : List Word) : Bool :=
  wordN ws 6 % 4096 != 0 || wordN ws 7 % 4096 != 0 || wordN ws 8 % 128 != 0 || wordN ws 9 % 64 != 0

def entryTag (ws : List Word) : Nat := bits (wordN ws 0) 47 32
def entryTasks (ws : List Word) : Nat := bits (wordN ws 0) 19 16 + 1
def entryAsn (ws : List Word) : Nat := bits (wordN ws 5) 63 52
def entryRoot (ws : List Word) : Nat := bits (wordN ws 5) 51 12 * 4096

/-- A run of n 8-byte words read for Spring. -/
def readWords (s : State) (asn root va n : Nat) : State × Option (List Word) :=
  match sharedRead s asn root va n with
  | (s1, none) => (s1, none)
  | (s1, some bs) => (s1, some ((List.range n).map (fun i => BitVec.ofNat 64 (imgNat bs (8 * i) 8))))

/-- The task records of an entry (12 R405); none where one cannot be read (R404). -/
def readTasks (s : State) (ws : List Word) (t : Nat) : Nat → State × Option (List (List Word))
  | 0 => (s, some [])
  | n + 1 =>
    match readWords s (entryAsn ws) (entryRoot ws) (bits (wordN ws 8) 55 7 * 128 + 128 * t) 16 with
    | (s1, none) => (s1, none)
    | (s1, some r) => match readTasks s1 ws (t + 1) n with
      | (s2, none) => (s2, none)
      | (s2, some l) => (s2, some (r :: l))

/-- A task's dependence mask. -/
def depMask (r : List Word) : Nat := bits (wordN r 9) 15 0

/-- The tasks that can start once the tasks of a mask have completed. -/
def grow (masks : List Nat) (done : Nat) : Nat :=
  (zipIdx masks).foldl (fun d p => if p.2 &&& done = p.2 then d ||| 2 ^ p.1 else d) done

def growN (masks : List Nat) : Nat → Nat → Nat
  | 0, d => d
  | n + 1, d => growN masks n (grow masks d)

/-- A dependence mask that names its own task, a task beyond the count, or a cycle (12 R404). -/
def badMasks (masks : List Nat) : Bool :=
  (zipIdx masks).any (fun p => bit p.2 p.1 || decide (2 ^ masks.length ≤ p.2)) || growN masks masks.length 0 != 2 ^ masks.length - 1

/-- The captured binding group of a task: its role words; none where it cannot be read or its header is not valid
(12 R410, R411). -/
def readBinding (s : State) (ws : List Word) (r : List Word) : State × Option (List Word) :=
  let a := bits (wordN r 8) 55 0
  if a % 8 != 0 then (s, none)
  else match readWords s (entryAsn ws) (entryRoot ws) a 1 with
    | (s1, none) => (s1, none)
    | (s1, some h) =>
      let n := wordN h 0
      if n = 0 || 64 < n then (s1, none) else readWords s1 (entryAsn ws) (entryRoot ws) (a + 8) n

/-- Captures the tasks of an entry with their bindings. A task enters its walker's round-robin with no turn taken, so before every
equal task that has had one (log 96). -/
def captureTasks (s : State) (ws : List Word) (t : Nat) : List (List Word) → State × SMap Task
  | [] => (s, [])
  | r :: rest =>
    let b := readBinding s ws r
    let tail := captureTasks b.1 ws (t + 1) rest
    let k : Task :=
      { words := r, roles := b.2, bindOk := b.2.isSome, state := .idle, jcb := bits (wordN ws 9) 55 6 * 64 + 64 * t,
        next := 0, scan := none, walker := 0, served := 0, order := 0 }
    (tail.1, (t, k) :: tail.2)

/-- The mask of the tasks whose dependence mask names task t (13 R445). -/
def succMask (tasks : SMap Task) (t : Nat) : Nat :=
  ((tasks.filter (fun p => bit (depMask p.2.words) t)).map (fun p => 2 ^ p.1)).sum

/-- Writes a job control block at a start or a release (13 R445). -/
def writeJcb (s : State) (i : Inst) (t : Nat) (k : Task) (expected st : Nat) : State :=
  let put (u : State) (off w : Nat) : State := sharedWrite u (instAsn i) (instRoot i) (k.jcb + off) w
  put (put (put (put s 0 expected) 8 0) 0x10 (st + t * 16 + succMask i.tasks t * 2 ^ 16)) 0x28 0

/-- LAUNCH_REJECTED: arm is cleared and the host is told (12 R404). -/
def rejectLaunch (s : State) (e tag : Nat) : State := postNotice (setCtl s e 0 false) 2 tag e

/-- The start of a launch run (12 R402, R404): checks, act, the trigger's bookkeeping, the blocks of its tasks. -/
def startEntry (s : State) (e : Nat) : State :=
  match readEntry s e with
  | (s1, none) => rejectLaunch s1 e 0
  | (s1, some ws) =>
    let ctl := wordN ws 0
    let trig := bits ctl 4 3
    if trig = 3 || bits ctl 6 5 = 3 || badBases ws then rejectLaunch s1 e (entryTag ws)
    else match readTasks s1 ws 0 (entryTasks ws) with
      | (s2, none) => rejectLaunch s2 e (entryTag ws)
      | (s2, some recs) =>
        if badMasks (recs.map depMask) then rejectLaunch s2 e (entryTag ws)
        else
          let c := captureTasks s2 ws 0 recs
          let i : Inst := { entry := e, words := ws, tag := BitVec.ofNat 16 (entryTag ws), prio := bits ctl 9 7, tasks := c.2,
                            rejected := false, purged := false }
          let s3 := setCtl c.1 e 1 true
          let s4 := if trig = 2 && wordN ws 1 != 0 then s3 else setCtl s3 e 0 false
          let s5 := if trig = 1 then
              let d := launchWord s4 e 3
              setLaunchWord s4 e 3 (d / 2 ^ 16 * 2 ^ 16 + bits d 31 16) else s4
          let s6 := i.tasks.foldl (fun u p => writeJcb u i p.1 p.2 0 0) s5
          modDev (modSpring s6 (fun p => { p with insts := p.insts ++ [i] })) (fun d => { d with launched := true })

/-- Whether an entry's start is due: its trigger is met, it has no active launch run, and no purge of its tag is under way
(12 R402, R419). -/
def startDue (s : State) (e : Nat) : Bool :=
  let c := launchWord s e 0
  let trig := bits c 4 3
  !bit c 1 && (findInst s e).isNone && !purging s (bits c 47 32) &&
    (s.spring.deferred.contains e || (bit c 0 && (trig = 0 || trig = 3 || (trig = 1 && launchWord s e 3 % 2 ^ 16 = 0))))

/-- The candidate that `which` asks for, else the first. -/
def choose (s : State) (l : List Nat) : Option Nat := if l.contains s.which then some s.which else l.head?

/-- LAUNCH_START (R402). -/
def execLaunchStart (s : State) : Host.Outcome State Fault Refusal :=
  match choose s ((List.range 256).filter (startDue s)) with
  | none => notNow "LAUNCH_START"
  | some e => .next (compared (startEntry (modSpring s (fun p => { p with deferred := p.deferred.filter (fun x => x != e) })) e) 2)

/-! ## Time slots (12 R402, R403) -/

/-- The number of an entry's next slot, and the latest slot that has passed; none where no slot is due. -/
def slotPassed (s : State) (e : Nat) : Option (Nat × Nat) :=
  let c := launchWord s e 0
  let k := launchWord s e 10 % 2 ^ 48
  let period := launchWord s e 1
  let off := launchWord s e 2
  let now := devNs s
  if !bit c 0 || bits c 4 3 != 2 then none
  else if period = 0 then (if k = 0 && off ≤ now then some (0, 0) else none)
  else if off + k * period ≤ now then some (k, (now - off) / period) else none

/-- Adds to an entry's overrun count, saturating. -/
def addOverrun (s : State) (e n : Nat) : State :=
  let w := launchWord s e 10
  setLaunchWord s e 10 (w % 2 ^ 48 + min (w / 2 ^ 48 + n) (2 ^ 16 - 1) * 2 ^ 48)

def setNextSlot (s : State) (e k : Nat) : State :=
  setLaunchWord s e 10 (launchWord s e 10 / 2 ^ 48 * 2 ^ 48 + k % 2 ^ 48)

/-- Ends an active launch run with tag 0: its own items alone (12 R420). -/
def abortInst (s : State) (i : Inst) : State :=
  let mine := s.spring.iters.filter (fun k => k.id.entry == i.entry)
  let s1 := mine.foldl (fun u k => purgeLocal u (.iter k.uid)) s
  let s2 := setCtl (purgeTasks s1 i (fun _ => true)) i.entry 1 false
  postNotice (modSpring s2 (fun p => { p with insts := p.insts.filter (fun j => j.entry != i.entry) })) 1 0 3

/-- A slot that falls while a launch run is active (12 R403). -/
def overrun (s : State) (e : Nat) (i : Inst) : State :=
  let s1 := addOverrun s e 1
  match bits (launchWord s e 0) 6 5 with
  | 1 => if bit (launchWord s1 e 0) 2 then s1 else setCtl s1 e 2 true
  | 2 =>
    let s2 := modSpring s1 (fun p => { p with deferred := p.deferred ++ [e] })
    if i.tag = 0 then abortInst s2 i else startPurge s2 i.tag 3
  | _ => s1

/-- Fires the latest slot that has passed; the others are overruns (12 R403). -/
def fireSlot (s : State) (e k m : Nat) : State :=
  let s1 := setNextSlot (addOverrun s e (m - k)) e (m + 1)
  match findInst s1 e with
  | some i => overrun s1 e i
  | none =>
    if purging s1 (bits (launchWord s1 e 0) 47 32) then modSpring s1 (fun p => { p with deferred := p.deferred ++ [e] })
    else startEntry s1 e

/-- TIME_SLOT (R403). -/
def execTimeSlot (s : State) : Host.Outcome State Fault Refusal :=
  match choose s ((List.range 256).filter (fun e => (slotPassed s e).isSome)) with
  | none => notNow "TIME_SLOT"
  | some e => match slotPassed s e with
    | none => notNow "TIME_SLOT"
    | some p => .next (fireSlot (compared s 2) e p.1 p.2)

/-! ## Task records (12 R405, R406; 01 R20, R23) -/

/-- The fields of a record. -/
def extent (r : List Word) (d : Nat) : Nat := bits (wordN r (1 + d / 2)) (32 * (d % 2) + 31) (32 * (d % 2))
def shape (r : List Word) : Nat := wordN r 4
def shGran (r : List Word) : Nat := bits (shape r) 48 39
def shWin (r : List Word) : Nat := (bits (shape r) 38 35 + 1) * 64
def shSpan (r : List Word) : Bool := bit (shape r) 29
def shGangs (r : List Word) : Nat := if shSpan r then bits (shape r) 33 30 + 1 else 1
def shCtxs (r : List Word) : Nat := bits (shape r) 28 24 + 1
def shSwz (r : List Word) : Bool := bit (shape r) 18
def shPerm (r : List Word) (i : Nat) : Nat := bits (shape r) (3 * i + 2) (3 * i)

/-- Protected when either bit is set (12 R407). -/
def shProt (i : Inst) (r : List Word) : Bool := bit (shape r) 34 || bit (wordN i.words 0) 10

/-- The iteration count. -/
def iterCount (r : List Word) : Nat := (List.range 6).foldl (fun p d => p * extent r d) 1

/-- A record that its limits refuse (01 R23, 12 R405, R406). -/
def badRecord (i : Inst) (r : List Word) : Bool :=
  768 < shGran r || (shProt i r && 16 < shCtxs r)
    || !((List.range 6).all (fun d => (List.range 6).any (fun j => shPerm r j == d)))
    || (List.range 6).any (fun d => extent r d == 0) || decide (2 ^ 48 - 1 < iterCount r)

/-! ## Bindings (12 R410, R411) -/

/-- Bits a role may have set, by its kind. -/
def roleMask (kind : Nat) : Word :=
  match kind with
  | 0 => 0x1FF
  | 1 => 0xFFF
  | 2 => 0x1F
  | _ => 0x1F_FFFF_FFFF

/-- Whether a cluster is present (00 R7). -/
def clPresent (s : State) (cl : Nat) : Bool :=
  if cl < 64 then s.pkg.unitsA.getLsbD cl else cl < 80 && s.pkg.unitsB.getLsbD (cl - 64)

/-- The cluster a kind-0 or kind-1 role names. -/
def roleCl (w : Word) : Option Nat := if bits w.toNat 1 0 ≤ 1 then some (bits w.toNat 8 2) else none

/-- A role that its group is rejected for. -/
def badRole (s : State) (w : Word) : Bool :=
  let v := w.toNat
  match bits v 1 0 with
  | 0 => w &&& ~~~(roleMask 0) != 0 || !clPresent s (bits v 8 2)
  | 1 => w &&& ~~~(roleMask 1) != 0 || !clPresent s (bits v 8 2)
  | 2 => w &&& ~~~(roleMask 2) != 0 || decide (5 < bits v 4 2) || !s.pkg.units.getLsbD (bits v 4 2)
  | _ => w &&& ~~~(roleMask 3) != 0 || s.dev.txn < bits v 5 2 || s.dev.tyn < bits v 9 6 || s.dev.tzn < bits v 13 10
      || decide (79 < bits v 20 14) || (bits v 13 2 == nodeNo s && !clPresent s (bits v 20 14))

/-- The quarter of a cluster (01 R21). -/
def quarter (cl : Nat) : Nat := 2 * (cl / 10 / 4) + cl % 10 / 5

/-- Eligible clusters in role order, each at its first appearance. -/
def eligible (roles : List Word) : List Nat := (roles.filterMap roleCl).eraseDups

/-- The cores that kind-1 roles name in a cluster; none where they name none: then every core is eligible. -/
def namedCores (roles : List Word) (cl : Nat) : Option (List Nat) :=
  let l := roles.filter (fun w => bits w.toNat 1 0 == 1 && bits w.toNat 8 2 == cl)
  if l.isEmpty then none else some (l.map (fun w => bits w.toNat 11 9))

/-- A group that is rejected, or whose clusters lie in two quarters (01 R20). -/
def badBinding (s : State) (roles : List Word) : Bool :=
  let cls := eligible roles
  cls.isEmpty || roles.any (badRole s) || cls.any (fun c => quarter c != quarter (cls.headD 0))

/-! ## Gang slots (01 R24, R25) -/

/-- What a gang needs and what its contexts start with. -/
structure Want where
  inst : Inst
  task : Nat
  rec_ : List Word
  roles : List Word
  jcb : Nat
  uid : Nat
  ord : Nat
  deriving DecidableEq, Repr, Inhabited

/-- Cores of a cluster as software sees them, of the pairs that take work: number, whether joined (01 R32, 06 R201). -/
def openCores (s : State) (w : Want) (cl : Nat) : List (Nat × Bool) :=
  let l := (List.range 4).flatMap (fun p =>
    let q := getPair s cl p
    if q.pend || q.dis then [] else if q.cur then [(2 * p, true)] else [(2 * p, false), (2 * p + 1, false)])
  let l1 := if shProt w.inst w.rec_ then l.filter (fun c => c.2) else l
  match namedCores w.roles cl with
  | none => l1
  | some cs => l1.filter (fun c => cs.contains c.1)

/-- A position whose save area holds a frame of a pre-empted iteration of the same launch (12 R407). -/
def posKept (s : State) (e : Nat) (c : CtxId) : Bool :=
  s.spring.iters.any (fun i => i.state == .preempted && i.id.entry == e && i.frames.any (fun x => x.id == c))

/-- The lowest free context position of a core. -/
def freePos (s : State) (e cl core : Nat) : Option CtxId :=
  (([0, 1, 2, 3] : List Nat).map (fun n => ({ cl := cl, core := core, ctx := n } : CtxId))).find? (fun c =>
    (getCtx s c).isNone && !posKept s e c)

/-- The vector windows in use on a core. -/
def windowsOn (s : State) (cl core : Nat) : List (Nat × Nat) :=
  ((allCtxs s).filter (fun x => x.id.cl == cl && x.id.core == core)).map (fun x => (x.winBase, x.win))

/-- Whether registers [b, b + n) of a core's file are free. -/
def roomAt (s : State) (cl core b n : Nat) : Bool :=
  decide (b + n ≤ 2048) && (windowsOn s cl core).all (fun u => decide (b + n ≤ u.1) || decide (u.1 + u.2 ≤ b))

/-- The lowest base with room for a window: a multiple of 64 (05 R147). -/
def freeBase (s : State) (cl core n : Nat) : Option Nat :=
  ((List.range 32).map (fun i => 64 * i)).find? (fun b => roomAt s cl core b n)

/-- Index of dimension d at ordinal n (01 R23). -/
def indexOf (r : List Word) (n d : Nat) : Nat :=
  let e (j : Nat) : Nat := extent r (shPerm r j)
  let inner := e 4 * e 5
  let o := n / inner
  let m := n % inner
  let ab : Nat × Nat :=
    if shSwz r then
      let g := m / (8 * e 5)
      let q := m % (8 * e 5)
      let w := min 8 (e 4 - 8 * g)
      (8 * g + q % w, q / w)
    else (m / e 5, m % e 5)
  let at_ (j : Nat) : Nat :=
    match j with
    | 0 => o / (e 3 * e 2 * e 1)
    | 1 => o / (e 3 * e 2) % e 1
    | 2 => o / e 3 % e 2
    | 3 => o % e 3
    | 4 => ab.1
    | _ => ab.2
  ((List.range 6).filter (fun j => shPerm r j == d)).foldl (fun _ j => at_ j) 0

/-- The size of a context's save area: three frames of the largest window of the launch, in pages (12 R407). -/
def saveStride (i : Inst) : Nat :=
  let wmax := i.tasks.foldl (fun m p => max m (shWin p.2.words)) 0
  ceilDiv (3 * frameBytes wmax) 4096 * 4096

/-- The request tag of an iteration (12 R407). -/
def wantTag (w : Want) : BitVec 16 :=
  let t : BitVec 16 := BitVec.ofNat 16 (bits (wordN w.rec_ 9) 31 16)
  if t = 0 then w.inst.tag else t

/-- The scalar registers a context starts with (01 R28). -/
def startRegs (w : Want) (gang rank : Nat) : SMap Word :=
  let vals := (List.range 6).map (indexOf w.rec_ w.ord) ++ [w.ord, w.jcb, bits (wordN w.rec_ 8) 55 0, rank, if shSpan w.rec_ then gang else 0]
  (zipIdx vals).foldl (fun m p => smSet m (p.1 + 1) (BitVec.ofNat 64 p.2) 0) []

/-- A context as placement leaves it, stopped until the fill has finished (01 R27, R28). -/
def newCtx (w : Want) (gang rank : Nat) (id : CtxId) (joined : Bool) (base : Nat) : Ctx :=
  { (default : Ctx) with
    id := id, joined := joined,
    env := { iter := w.uid, gang := gang, rank := rank, tag := wantTag w, prio := w.inst.prio, root := instRoot w.inst,
             asn := instAsn w.inst, jcb := w.jcb, bind := bits (wordN w.rec_ 8) 55 0, roles := w.roles },
    pc := BitVec.ofNat 48 (wordN w.rec_ 0) &&& 0xFFFF_FFFF_FFF8, s := startRegs w gang rank, winBase := base, win := shWin w.rec_,
    streamCfg := BitVec.ofNat 64 (wordN w.rec_ 7) &&& 0x3F01, fpctl := fpctlWrite 0 (BitVec.ofNat 64 (wordN w.rec_ 5)),
    uvec := BitVec.ofNat 64 (wordN w.rec_ 6) &&& 0x0000_FFFF_FFFF_FFF8,
    ctxsave := BitVec.ofNat 64 (bits (wordN w.inst.words 6) 55 12 * 4096 + (32 * id.cl + 4 * id.core + id.ctx) * saveStride w.inst),
    status := .stopped }

/-- Places one rank: the first core of the rotation with a free position and room for the window; the rotation goes on after
it (01 R25). -/
def placeRank (s : State) (w : Want) (cl gang rank : Nat) (tried : List (Nat × Bool)) :
    List (Nat × Bool) → Option (State × CtxId × List (Nat × Bool))
  | [] => none
  | c :: rest =>
    match freePos s w.inst.entry cl c.1, freeBase s cl c.1 (shWin w.rec_) with
    | some id, some b => some (putCtx s (newCtx w gang rank id c.2 b), id, rest ++ tried ++ [c])
    | _, _ => placeRank s w cl gang rank (tried ++ [c]) rest

/-- Places the ranks of a gang from a rank on. -/
def placeRanks (s : State) (w : Want) (cl gang rank : Nat) (rot : List (Nat × Bool)) : Nat → Option (State × List CtxId)
  | 0 => some (s, [])
  | n + 1 =>
    match placeRank s w cl gang rank [] rot with
    | none => none
    | some (s1, id, rot1) => match placeRanks s1 w cl gang (rank + 1) rot1 n with
      | none => none
      | some (s2, ids) => some (s2, id :: ids)

/-- A granule whose save area holds one of a pre-empted iteration of the same launch (12 R407). -/
def granKept (s : State) (e cl p : Nat) : Bool :=
  s.spring.iters.any (fun i => i.state == .preempted && i.id.entry == e && i.savedGrans.any (fun g => g.cl == cl && g.phys == p))

/-- Free physical granules of a cluster. -/
def freeGranules (s : State) (e cl : Nat) : List Nat :=
  (List.range 768).filter (fun p => (smFind (getCl s cl).grans p).isNone && !granKept s e cl p)

/-- Gives a gang its granules. -/
def takeGranules (s : State) (w : Want) (cl gang : Nat) (ps : List Nat) : State :=
  modCl s cl (fun x => { x with grans := (zipIdx ps).foldl (fun m p =>
    smPut m p.2 { iter := w.uid, gang := gang, num := p.1, engine := false }) x.grans })

/-- Reserves a gang slot on a cluster (01 R24, R25). -/
def placeGang (s : State) (w : Want) (gang cl : Nat) : Option (State × GangSlot) :=
  let ps := (freeGranules s w.inst.entry cl).take (shGran w.rec_)
  if ps.length < shGran w.rec_ then none
  else match placeRanks s w cl gang 0 (openCores s w cl) (shCtxs w.rec_) with
    | none => none
    | some (s1, ids) => some (takeGranules s1 w cl gang ps, { cl := cl, ctxs := ids, wins := ids.map (fun c => ((getCtx s1 c).map (·.winBase)).getD 0), grans := ps })

/-- The eligible clusters in scan order: cyclic, after the last one used (01 R24 step 2). -/
def scanOrder (cls : List Nat) (last : Option Nat) : List Nat :=
  match last with
  | none => cls
  | some c => match cls.findIdx? (fun d => d == c) with
    | none => cls
    | some i => cls.drop (i + 1) ++ cls.take (i + 1)

/-- Reserves gangs of an iteration from number `gang` on while slots are free, each scan after the cluster of the gang before
(01 R24 step 4). -/
def placeGangs (s : State) (w : Want) (cls : List Nat) (scan : Option Nat) (gang : Nat) : Nat → State × List GangSlot
  | 0 => (s, [])
  | n + 1 =>
    match (scanOrder cls scan).findSome? (placeGang s w gang) with
    | none => (s, [])
    | some (s1, g) => let r := placeGangs s1 w cls (some g.cl) (gang + 1) n; (r.1, g :: r.2)

/-- The iteration of a task of which some gangs have their slots (01 R24 step 4). -/
def reservingOf (s : State) (e t : Nat) : Option Iter :=
  s.spring.iters.find? (fun i => i.state == .reserving && i.id.entry == e && i.id.task == t)

/-- The gang slots reserved for it. -/
def reserved (s : State) (e t : Nat) : List GangSlot := ((reservingOf s e t).map (·.gangs)).getD []

/-- The next iteration of a released task: the one being reserved, else the next of its order. -/
def wantOf (s : State) (i : Inst) (t : Nat) (k : Task) : Want :=
  let r := reservingOf s i.entry t
  { inst := i, task := t, rec_ := k.words, roles := k.roles.getD [], jcb := k.jcb, uid := (r.map (·.uid)).getD s.spring.nextUid,
    ord := (r.map (·.id.ord)).getD k.next }

/-- Whether a task has an iteration that is not placed. -/
def hasNext (s : State) (e t : Nat) (k : Task) : Bool := decide (k.next < iterCount k.words) || (reservingOf s e t).isSome

/-- The gang slots that a task's next iteration can take now, after those it has. -/
def placementOf (s : State) (i : Inst) (t : Nat) (k : Task) : State × List GangSlot :=
  let w := wantOf s i t k
  let n := (reserved s i.entry t).length
  placeGangs s w (eligible w.roles) k.scan n (shGangs k.words - n)

/-- Whether every gang of a task's next iteration has its slot then. -/
def placementFull (s : State) (i : Inst) (t : Nat) (k : Task) : Bool :=
  (reserved s i.entry t).length + (placementOf s i t k).2.length == shGangs k.words

/-- A cluster with its granules free and its pairs in service. -/
def emptiedCl (x : Cluster) : Cluster :=
  { x with grans := [], pairs := x.pairs.map (fun p => (p.1, { p.2 with pend := false, dis := false })) }

/-- The machine with every position, window and granule free and every pair in service, its modes as they are. -/
def emptied (s : State) : State :=
  { s with ctxs := [], spring := { s.spring with iters := [] }, clusters := s.clusters.map (fun c => (c.1, emptiedCl c.2)) }

/-- Whether some cluster of the binding could ever hold a gang of the task under the present pair modes and units (01 R26). -/
def couldHold (s : State) (i : Inst) (t : Nat) (k : Task) : Bool :=
  let w := wantOf s i t k
  (eligible w.roles).any (fun c => (placeGang (emptied s) w 0 c).isSome)

/-! ## RELEASE_TASK (01 R19, R20, R26) -/

def getTask (s : State) (e t : Nat) : Option (Inst × Task) :=
  match findInst s e with
  | none => none
  | some i => (smFind i.tasks t).map (fun k => (i, k))

def putTask (s : State) (e t : Nat) (k : Task) : State := modInst s e (fun i => { i with tasks := smPut i.tasks t k })

/-- Whether every task of a mask has completed. -/
def depsDone (i : Inst) (m : Nat) : Bool :=
  (List.range 16).all (fun j => !bit m j || (match smFind i.tasks j with
    | some k => k.state == .complete
    | none => true))

/-- A task among others in the order of their releases. -/
def byOrder (l : List (Inst × Nat × Task)) (x : Inst × Nat × Task) : List (Inst × Nat × Task) :=
  l.takeWhile (fun y => y.2.2.order ≤ x.2.2.order) ++ [x] ++ l.dropWhile (fun y => y.2.2.order ≤ x.2.2.order)

/-- The tasks released to a walker, with their launches, in the order of their releases. -/
def releasedTo (s : State) (q : Nat) : List (Inst × Nat × Task) :=
  (s.spring.insts.flatMap (fun i => (i.tasks.filter (fun p => p.2.state == .released && p.2.walker == q)).map (fun p => (i, p.1, p.2)))).foldl
    byOrder []

/-- The tasks whose records a walker holds: of those released to it the first eight; a later one waits in Spring (01 R22). A
position frees when its task completes, is rejected or is purged, and the task that was released first takes it (log 96). -/
def walkerTasks (s : State) (q : Nat) : List (Inst × Nat × Task) := (releasedTo s q).take 8

/-- Whether a walker holds a task's record. -/
def walkerHolds (s : State) (e t : Nat) (k : Task) : Bool :=
  (walkerTasks s k.walker).any (fun x => x.1.entry == e && x.2.1 == t)

/-- The place of the next release in their order. -/
def nextOrder (s : State) : Nat :=
  (s.spring.insts.flatMap (fun i => i.tasks.map (fun p => p.2.order + 1))).foldl max 0

/-- TASK_REJECTED: the block takes the state REJECTED and the launch run releases no further task (01 R20, 12 R404). -/
def rejectTask (s : State) (i : Inst) (t : Nat) (k : Task) : State :=
  modInst (putTask (setJcbState s i k.jcb 3) i.entry t { k with state := .rejected }) i.entry (fun j => { j with rejected := true })

/-- Whether a task is to be released or rejected: its dependences have completed (01 R19). -/
def releasable (i : Inst) (k : Task) : Bool := k.state == .idle && depsDone i (depMask k.words)

/-- What makes a release a rejection: the binding, the record, or that no cluster could ever hold a gang (01 R20, R23, R26;
12 R404, R411). -/
def badRelease (s : State) (i : Inst) (t : Nat) (k : Task) : Bool :=
  !k.bindOk || badRecord i k.words || badBinding s (k.roles.getD []) || !couldHold s i t k

/-- The release of one task to the walker of its first cluster's quarter, with its block (01 R20; 13 R445), or its rejection. -/
def releaseOne (s : State) (i : Inst) (t : Nat) (k : Task) : State :=
  if badRelease s i t k then rejectTask s i t k
  else
    let q := quarter ((eligible (k.roles.getD [])).headD 0)
    putTask (writeJcb s i t k (iterCount k.words) 1) i.entry t { k with state := .released, walker := q, order := nextOrder s }

/-- The tasks of a launch run whose dependences have completed are released in one step (01 R19). -/
def releaseAll (s : State) (i : Inst) : State :=
  (i.tasks.filter (fun p => releasable i p.2)).foldl (fun u p => releaseOne u i p.1 p.2) s

/-- RELEASE_TASK (R19): of the task and of every other of its launch run that is to be released. -/
def execReleaseTask (e t : Nat) (s : State) : Host.Outcome State Fault Refusal :=
  match getTask s e t with
  | none => notNow "RELEASE_TASK"
  | some (i, k) => if i.rejected || !releasable i k then notNow "RELEASE_TASK" else .next (releaseAll s i)

/-! ## Pre-empted iterations: what resumes (01 R45) -/

/-- Whether a frame's position, window and pair are free again. -/
def frameFits (s : State) (x : Ctx) : Bool :=
  let q := getPair s x.id.cl (x.id.core / 2)
  (getCtx s x.id).isNone && roomAt s x.id.cl x.id.core x.winBase x.win && q.cur == x.joined && !q.pend && !q.dis

/-- Whether every position, granule and bank of a pre-empted iteration is free (01 R45, 09 R281). -/
def resumable (s : State) (i : Iter) : Bool :=
  i.state == .preempted && i.frames.all (frameFits s)
    && i.savedGrans.all (fun g => (smFind (getCl s g.cl).grans g.phys).isNone)
    && i.savedBanks.all (fun b => (getBank s b.cl b.bank).bound.isNone)

/-- A task's pre-empted iterations in the order of their first placements: the first that fits resumes first (log 97). -/
def preemptedOf (s : State) (e t : Nat) : List Iter :=
  s.spring.iters.filter (fun i => i.state == .preempted && i.id.entry == e && i.id.task == t)

/-! ## PLACE_ITERATION (01 R22 to R25) -/

/-- Whether a task has an iteration ready to resume, or to place or reserve a gang of. -/
def taskReady (s : State) (i : Inst) (t : Nat) (k : Task) : Bool :=
  (preemptedOf s i.entry t).any (resumable s) || (hasNext s i.entry t k && !(placementOf s i t k).2.isEmpty)

/-- Whether a walker serves the first of two tasks before the second (01 R22). -/
def before (a b : Inst × Nat × Task) : Bool :=
  let pr (x : Inst × Nat × Task) : Nat := bits (wordN x.2.2.words 9) 34 32
  if a.1.prio != b.1.prio then decide (b.1.prio < a.1.prio)
  else if pr a != pr b then decide (pr b < pr a)
  else decide (a.2.2.served < b.2.2.served)

/-- The task a walker serves at its next step. -/
def walkerChoice (s : State) (q : Nat) : Option (Nat × Nat) :=
  (((walkerTasks s q).filter (fun x => taskReady s x.1 x.2.1 x.2.2)).foldl (fun (b : Option (Inst × Nat × Task)) x => match b with
    | none => some x
    | some y => if before x y then some x else some y) none).map (fun x => (x.1.entry, x.2.1))

def modIter (s : State) (uid : Nat) (f : Iter → Iter) : State :=
  modSpring s (fun p => { p with iters := p.iters.map (fun i => if i.uid == uid then f i else i) })

/-- Gives an iteration gang slots: with the last of them it is placed, and its fill begins. -/
def addGangs (s : State) (w : Want) (gs : List GangSlot) : State :=
  let fill (i : Iter) : Iter :=
    { i with state := if i.gangs.length = shGangs w.rec_ then .filling else .reserving,
             fillLeft := 2 * shGran w.rec_ * i.gangs.length, placedAt := s.ran }
  match reservingOf s w.inst.entry w.task with
  | some j => modIter s j.uid (fun i => fill { i with gangs := i.gangs ++ gs })
  | none =>
    let i : Iter :=
    { uid := w.uid, id := { entry := w.inst.entry, task := w.task, ord := w.ord },
      idx := (List.range 6).map (indexOf w.rec_ w.ord), gangs := gs, state := .reserving, posted := false, postDue := none,
      fillLeft := 0, placedAt := s.ran, lost := false, tag := wantTag w, prio := w.inst.prio, savedBanks := [],
      savedGrans := [], frames := [], cmds := [] }
    modSpring s (fun p => { p with iters := p.iters ++ [fill i], nextUid := p.nextUid + 1 })

/-- A task takes its turn: the walker serves every equal one before it again (01 R22). -/
def takeTurn (s : State) (e t : Nat) : State :=
  match getTask s e t with
  | none => s
  | some (_, k) => modSpring (putTask s e t { k with served := s.spring.nextUid + 1 }) (fun p => { p with nextUid := p.nextUid + 1 })

/-- What a walker's step does for a task's next iteration: the gangs that now have slots are reserved; with the last of them
the iteration is placed and the task's turn is over. -/
def placeNext (s : State) (i : Inst) (t : Nat) (k : Task) : State :=
  let r := placementOf s i t k
  let w := wantOf s i t k
  let s1 := putTask (addGangs r.1 w r.2) i.entry t { k with next := w.ord + 1, scan := (r.2.getLast?).map (·.cl) }
  if placementFull s i t k then takeTurn s1 i.entry t else s1

/-- PLACE_ITERATION (R24). -/
def execPlaceIteration (e t : Nat) (s : State) : Host.Outcome State Fault Refusal :=
  match getTask s e t with
  | none => notNow "PLACE_ITERATION"
  | some (i, k) =>
    if walkerChoice s k.walker != some (e, t) || (preemptedOf s e t).any (resumable s) then notNow "PLACE_ITERATION"
    else .next (placeNext s i t k)

/-! ## PLACEMENT_COMPLETE (01 R27) -/

def findIterId (s : State) (id : IterId) : Option Iter := s.spring.iters.find? (fun i => i.id == id)

/-- Zeroes a physical granule: bytes, poison, flips, codes. -/
def zeroGranule (s : State) (cl p : Nat) : State :=
  let a := cl * 2 ^ 22 + p * 4096
  let inside (x : Nat) : Bool := decide (a ≤ x) && decide (x < a + 4096)
  let s1 := modMem s (fun m => { m with
    mere := cellsPut m.mere a (List.replicate 4096 0)
    poisonMere := m.poisonMere.filter (fun u => !inside u)
    flips := m.flips.filter (fun f => !(f.place == 0 && inside f.addr)) })
  modCl s1 cl (fun x => { x with sectors := x.sectors.filter (fun q => !(p * 8 ≤ q.1 && q.1 < p * 8 + 8)) })

/-- The contexts of an iteration that are resident. -/
def ctxsOf (s : State) (uid : Nat) : List Ctx := (allCtxs s).filter (fun x => x.env.iter == uid)

/-- Starts every context of an iteration. -/
def startCtxs (s : State) (uid : Nat) : State :=
  { s with ctxs := s.ctxs.map (fun p => if p.2.env.iter == uid then (p.1, { p.2 with status := .ready }) else p) }

/-- PLACEMENT_COMPLETE (R27). -/
def execPlacementComplete (id : IterId) (s : State) : Host.Outcome State Fault Refusal :=
  match findIterId s id with
  | none => notNow "PLACEMENT_COMPLETE"
  | some i =>
    if i.state != .filling || s.ran < i.placedAt + i.fillLeft then notNow "PLACEMENT_COMPLETE"
    else
      let s1 := i.gangs.foldl (fun u g => g.grans.foldl (fun v p => zeroGranule v g.cl p) u) s
      .next (modIter (startCtxs s1 i.uid) i.uid (fun j => { j with state := .running }))

/-! ## PAIR_MODE_CHANGE (06 R201, 01 R26, R33) -/

/-- The slots reserved for an iteration of a task are free again. -/
def dropReserved (s : State) (e t : Nat) : State :=
  match reservingOf s e t with
  | none => s
  | some j => purgeLocal s (.iter j.uid)

/-- Rejects the released tasks that no cluster could ever hold a gang of under the new pair modes (01 R26). -/
def recheckTasks (s : State) : State :=
  s.spring.insts.foldl (fun u i => i.tasks.foldl (fun v p =>
    if p.2.state == .released && hasNext v i.entry p.1 p.2 && !couldHold v i p.1 p.2 then
      rejectTask (dropReserved v i.entry p.1) i p.1 p.2 else v) u) s

/-- PAIR_MODE_CHANGE (R201). -/
def execPairModeChange (cl pair : Nat) (s : State) : Host.Outcome State Fault Refusal :=
  if (getPair s cl pair).pend && pairIdle s cl pair then
    .next (recheckTasks (modPair s cl pair (fun q => { q with cur := q.req, pend := false })))
  else notNow "PAIR_MODE_CHANGE"

/-! ## COMPLETION_POST (01 R35, R36; 13 R446) -/

/-- What an iteration's post carries. -/
def jobOfIter (s : State) (i : Iter) : JobRef :=
  match getTask s i.id.entry i.id.task with
  | some (n, k) => { asn := instAsn n, root := instRoot n, jcb := k.jcb, entry := i.id.entry, task := i.id.task, tag := i.tag.toNat }
  | none => { asn := 0, root := 0, jcb := 0, entry := 256, task := 0, tag := i.tag.toNat }

/-- Retired contexts of an iteration whose operations still drain. -/
def ghostsOf (s : State) (uid : Nat) : List Ctx := s.ghosts.filter (fun x => x.env.iter == uid)

/-- Whether the operations that a `done` covers have reached their homes: those of its context before it (01 R37). -/
def postReady (s : State) (i : Iter) (c : CtxId) (q : Nat) : Bool :=
  i.state != .preempted && (match getOwner s c i.uid with
    | none => true
    | some x => x.ops.all (fun o => decide (q ≤ o.seq)))

/-- COMPLETION_POST (R446): the post of a `done` that waited; or, once every context has retired and every stream has drained,
that of the iteration unless `done` made it, and its granules and banks are free. -/
def execCompletionPost (id : IterId) (s : State) : Host.Outcome State Fault Refusal :=
  match findIterId s id with
  | none => notNow "COMPLETION_POST"
  | some i => match i.postDue with
    | some d =>
      if postReady s i d.1 d.2 then .next (postJob (publishIter (modIter s i.uid (fun j => { j with postDue := none })) i.uid) (jobOfIter s i))
      else notNow "COMPLETION_POST"
    | none =>
    if i.state != .running || !(ctxsOf s i.uid).isEmpty || !(ghostsOf s i.uid).all drained then notNow "COMPLETION_POST"
    else
      let s1 := if i.posted then s else postJob (publishIter s i.uid) (jobOfIter s i)
      let s2 := { freeIter s1 i.uid with ghosts := s.ghosts.filter (fun x => x.env.iter != i.uid) }
      .next (modSpring s2 (fun p => { p with iters := p.iters.filter (fun j => j.uid != i.uid) }))

/-! ## INSTANCE_COMPLETE (12 R404, R409) -/

/-- Whether a launch run has ended: every task complete; or, once a task was rejected or purged, none running. -/
def instEnded (s : State) (i : Inst) : Bool :=
  if i.rejected then
    !(i.tasks.any (fun p => p.2.state == .released)) && !(s.spring.iters.any (fun j => j.id.entry == i.entry))
  else i.tasks.all (fun p => p.2.state == .complete)

/-- A successor field's entry (12 R400). -/
def successors (ws : List Word) : List Nat :=
  (List.range 4).filterMap (fun j => let f := bits (wordN ws 4) (16 * j + 15) (16 * j); if bit f 8 then some (f % 256) else none)

/-- Decrements an entry's pending count, stopping at 0. -/
def decPending (s : State) (e : Nat) : State :=
  let d := launchWord s e 3
  setLaunchWord s e 3 (if d % 2 ^ 16 = 0 then d else d - 1)

/-- Whether a dependence trigger is met. -/
def dependenceDue (s : State) (e : Nat) : Bool := bits (launchWord s e 0) 4 3 == 1 && startDue s e

/-- Steps 2 and 3 of 12 R409. -/
def wakeSuccessors (s : State) (l : List Nat) : State :=
  l.eraseDups.foldl (fun u e => if dependenceDue u e then startEntry u e else u) (l.foldl decPending s)

/-- Step 4 of 12 R409: the deferred slot starts; under a purge of the tag it waits (R419). -/
def startDeferred (s : State) (e : Nat) : State :=
  if bit (launchWord s e 0) 2 then
    let s1 := setCtl s e 2 false
    if (findInst s1 e).isSome then s1
    else if purging s1 (bits (launchWord s1 e 0) 47 32) then modSpring s1 (fun p => { p with deferred := p.deferred ++ [e] })
    else startEntry s1 e
  else s

/-- The end of a launch run: of a rejected one without its successors, with a notice for each rejected task (12 R404). -/
def endInst (s : State) (i : Inst) : State :=
  let s1 := modSpring (setCtl s i.entry 1 false) (fun p => { p with insts := p.insts.filter (fun j => j.entry != i.entry) })
  let s2 := if i.rejected then
      i.tasks.foldl (fun u p => if p.2.state == .rejected then postNotice u 3 i.tag.toNat p.2.jcb else u) s1
    else wakeSuccessors s1 (successors i.words)
  startDeferred s2 i.entry

/-- INSTANCE_COMPLETE (R409). -/
def execInstanceComplete (s : State) : Host.Outcome State Fault Refusal :=
  match choose s ((s.spring.insts.filter (instEnded s)).map (·.entry)) with
  | none => notNow "INSTANCE_COMPLETE"
  | some e => match findInst s e with
    | none => notNow "INSTANCE_COMPLETE"
    | some i => .next (endInst s i)

end Sys2Proof.Machine
end

