-- ==== Sys2Proof/Machine/Preempt.lean ====
section
/-!
DEFINITION. Pre-emption (01 R41 to R46, 06 R214, 07 R236, 09 R281, 10 R343 to R345, 11 R375): the choice of victims, the stop,
the frames of slot 2 with their engine records, and the resumption.
-/
namespace Sys2Proof.Machine

/-! ## Victims (01 R41) -/

/-- The machine as it will be once the stopping iterations have left. -/
def afterStops (s : State) : State :=
  (s.spring.iters.filter (fun i => i.state == .stopping)).foldl (fun u i =>
    let v := freeIter u i.uid
    { v with ctxs := v.ctxs.filter (fun p => p.2.env.iter != i.uid) }) s

/-- Whether a task's next iteration, pre-empted or unplaced, fits. -/
def nextFits (s : State) (i : Inst) (t : Nat) (k : Task) : Bool :=
  match preemptedOf s i.entry t with
  | [] => placementFull s i t k
  | l => l.any (resumable s)

/-- Whether a task has an iteration that cannot be placed, even once the stopping ones have left. -/
def wantsRoom (s : State) (i : Inst) (t : Nat) (k : Task) : Bool :=
  walkerHolds s i.entry t k && (!(preemptedOf s i.entry t).isEmpty || hasNext s i.entry t k)
    && !nextFits s i t k && !nextFits (afterStops s) i t k

/-- Whether the first iteration is the better victim: the lower priority, among equals the later placed. -/
def worse (a b : Iter) : Bool :=
  if a.prio != b.prio then decide (a.prio < b.prio)
  else if a.placedAt != b.placedAt then decide (b.placedAt < a.placedAt) else decide (b.uid < a.uid)

/-- The next victim of a task: a running iteration of a launch of lower priority on its eligible clusters. One whose contexts
have not started, reserved or filling, is no victim (log 97). -/
def victimOf (s : State) (i : Inst) (k : Task) : Option Iter :=
  let cls := eligible (k.roles.getD [])
  (s.spring.iters.filter (fun v => v.state == .running && decide (v.prio < i.prio) && v.gangs.any (fun g => cls.contains g.cl))).foldl
    (fun (b : Option Iter) v => match b with
      | none => some v
      | some u => if worse v u then some v else some u) none

/-! ## The stop (01 R42, R43) -/

/-- A context at its stop: its limit counts are reset; a blocked bundle is not issued. -/
def stopCtx (s : State) (x : Ctx) : Ctx :=
  { x with status := .stopped, blockedFor := 0, fifoFor := 0, leaseFor := 0, leaseNoted := false, sleepAt := none, stopAt := s.ran }

/-- Stops every context of an iteration at its bundle boundary; an issue that awaits the match of its signatures is finished
before the frame is closed (01 R42). The operations of its retired contexts drain with the others. -/
def stopIter (s : State) (i : Iter) : State :=
  let s1 := (ctxsOf s i.uid).foldl (fun u x => putCtx u (stopCtx s x)) s
  let s2 := { s1 with ghosts := s1.ghosts.map (fun g => if g.env.iter == i.uid then { g with stopAt := s.ran } else g) }
  modIter s2 i.uid (fun j => { j with state := .stopping, lost := false })

/-- Whether a stopped context's issue still awaits its match. -/
def unmatchedNow (s : State) (x : Ctx) : Bool :=
  x.joined && (getPair s x.id.cl (x.id.core / 2)).unmatched == some x.id.ctx

/-- Commands of an iteration in the queues of its context's core, in queue order, MX before CP. -/
def cmdsOf (s : State) (x : Ctx) : List Cmd :=
  let y := getCore s x.id.cl x.id.core
  (y.mxq ++ y.cpq).filter (fun c => c.ctx == x.id && c.iter == x.env.iter)

/-- Whether every ordinary memory operation of a context is performed. -/
def opsDrained (x : Ctx) : Bool :=
  x.ops.all (fun o => match o.kind with
    | .cmd _ => true
    | _ => doneAt o o.scope && o.awaiting.isEmpty)

/-- A started `coll`, which is never paused (11 R375). -/
def startedColl (c : Cmd) : Bool :=
  c.started && (match cmdInstr c with
    | some (.coll _) => true
    | _ => false)

/-- Whether a command lets the frame be closed: no request under way, not a started `coll` (11 R375), and no `qflush` that it
has still to leave for (10 R342). -/
def cmdQuiet (c : Cmd) : Bool := c.awaiting.isEmpty && !startedColl c && c.flush.isNone

/-- Whether what the stop waits for within its bound is performed: memory operations and started `coll` commands (01 R44, 11 R375). -/
def stopDone (s : State) (x : Ctx) : Bool := opsDrained x && !(cmdsOf s x).any startedColl

/-- Whether a stopped context's operations are performed and its commands paused (01 R44). -/
def ctxQuiet (s : State) (x : Ctx) : Bool := opsDrained x && !unmatchedNow s x && (cmdsOf s x).all cmdQuiet

/-- Whether the array runs a command of an iteration (09 R281). -/
def arrayBusy (s : State) (i : Iter) : Bool :=
  i.gangs.any (fun g => match (getCl s g.cl).running with
    | some r => r.iter == i.uid
    | none => false)

/-- The contexts of an iteration that a stop concerns: those resident, and those retired whose operations remain (01 R46). -/
def stopCtxs (s : State) (uid : Nat) : List Ctx := ctxsOf s uid ++ ghostsOf s uid

/-- Whether a stopping iteration's frames can be closed. A retired context's operations drain and its commands pause as the
others' do (log 113). -/
def mayClose (s : State) (i : Iter) : Bool :=
  i.state == .stopping && !i.lost && (stopCtxs s i.uid).all (ctxQuiet s) && !arrayBusy s i

/-! ## Engine records (10 R343 to R345) -/

def isMx (c : Cmd) : Bool := c.slot == 8

/-- Whether a started command pauses where it is: a `cpy` or a `cpz`; every other one runs again from its start. -/
def keepsProg (c : Cmd) : Bool :=
  match cmdInstr c with
  | some (.cpy _) | some (.cpz _) => true
  | _ => false

/-- The progress a record holds. -/
def keptProg (c : Cmd) : Nat := if keepsProg c then c.prog else 0

/-- A command as its record holds it: the source address of a `cpst` after its step, once the tile there tells the unit
(10 R320, R344; log 99). -/
def recCmd (s : State) (x : Ctx) (c : Cmd) : Cmd :=
  match cmdInstr c with
  | some (.cpst _) => match (findFmt s x c 0 (bits c.desc.toNat 55 0) probes).2 with
    | .fmt f => { c with desc := BitVec.ofNat 640 (setField c.desc.toNat 55 0 (cpstAt c f)), ops := [0] }
    | _ => c
  | _ => c

/-- Bytes of a descriptor. -/
def descBytes (c : Cmd) (off n : Nat) : List Byte := natLe n (c.desc.toNat / 2 ^ (8 * off))

/-- The operand area of a command, and its extension. -/
def operandArea (c : Cmd) : List Byte := if isMx c then c.ops.flatMap (fun w => natLe 8 w.toNat) else descBytes c 0 32

def extensionOf (c : Cmd) : List Byte :=
  if c.entries < 2 then []
  else match cmdInstr c with
    | some (.mdrain _) => padTo 64 (natLe 32 c.kval.toNat)
    | some (.coll _) => padTo 64 (descBytes c 32 16)
    | _ => padTo 64 (descBytes c 32 48)

/-- The second word of a record. -/
def recWord (c : Cmd) : Nat :=
  c.bundle.toNat / 8 + (!isMx c).toNat * 2 ^ 45 + c.started.toNat * 2 ^ 46 + (decide (2 ≤ c.entries)).toNat * 2 ^ 47 + c.rm % 8 * 2 ^ 48
    + c.sat.toNat * 2 ^ 51 + c.hidx % 4096 * 2 ^ 52

/-- An engine record with its extension. -/
def engineRec (c : Cmd) : List Byte :=
  natLe 8 c.word.toNat ++ natLe 8 (recWord c) ++ natLe 8 (if c.started then keptProg c else c.wait.toNat) ++ natLe 8 c.sig.toNat
    ++ padTo 32 (operandArea c) ++ extensionOf c

/-- Records of a command: itself and its extension. -/
def recCount (c : Cmd) : Nat := if 2 ≤ c.entries then 2 else 1

/-- A command reinstated from its record: what the record holds is taken from it; it waits for nothing it had asked for. A failure
that a paused one had met at its target stays its own (10 R345). -/
def recBack (c : Cmd) (img : List Byte) (off : Nat) : Cmd :=
  let w1 := imgNat img (off + 8) 8
  let w2 := imgNat img (off + 16) 8
  let started := bit w1 46
  let mx := { c with
    word := BitVec.ofNat 64 (imgNat img off 8), bundle := BitVec.ofNat 48 (bits w1 44 0 * 8), started := started, waitOk := started,
    rm := bits w1 50 48, sat := bit w1 51, hidx := bits w1 63 52, prog := if started then bits w2 47 0 else 0,
    wait := if started then c.wait else BitVec.ofNat 64 w2, sig := BitVec.ofNat 64 (imgNat img (off + 24) 8), inArr := false,
    stop := none, awaiting := [], phase := 0, nonfin := 0, novalid := 0, firstNv := 0,
    failed := if keepsProg c then c.failed else none }
  if isMx c then
    { mx with ops := (List.range 4).map (fun i => BitVec.ofNat 64 (imgNat img (off + 32 + 8 * i) 8)),
              kval := if 2 ≤ c.entries then BitVec.ofNat 256 (imgNat img (off + 64) 32) else c.kval }
  else { mx with desc := BitVec.ofNat 640 (imgNat img (off + 32) 32 + (if 2 ≤ c.entries then imgNat img (off + 64) 48 * 2 ^ 256 else 0)) }

/-- The engine area of a frame (06 R209). -/
def recArea : Nat := 0x1980

/-- Commands reinstated from the engine area of a frame, from record n on. -/
def recsBack (img : List Byte) (n : Nat) : List Cmd → List Cmd
  | [] => []
  | c :: rest => recBack c img (recArea + 64 * n) :: recsBack img (n + recCount c) rest

/-! ## Closing the frames (06 R214, 07 R236, 09 R281) -/

/-- The window's contents. -/
def windowBytes (x : Ctx) : List Byte := (List.range x.win).flatMap (fun i => natLe 128 (rdV x i).toNat)

/-- Writes slot 2 of a context; none where the frame cannot be written. -/
def saveCtx (s : State) (x : Ctx) : Option State :=
  match flushSaved s x with
  | none => none
  | some (s0, y) =>
    let cs := (cmdsOf s0 x).map (recCmd s0 x)
    let img := frameImage y y.pc (issueWord y true) y.cause y.info y.taddr y.vsaved.toNat (cs.flatMap engineRec) ((cs.map recCount).sum) true
    match areaWrite s0 y (frameAddr y 2) img areaPages with
    | none => none
    | some s1 => areaWrite s1 y (frameAddr y 2 + 0x2800) (windowBytes y) areaPages

/-- The address space of an iteration's launch, at supervisor level, on a cluster. -/
def savior (i : Iter) (n : Inst) (cl : Nat) : Ctx :=
  { (default : Ctx) with
    id := { cl := cl, core := 0, ctx := 0 }, lvl := 2,
    env := { (default : Env) with iter := i.uid, asn := instAsn n, root := instRoot n } }

/-- The engine save area of a cluster (12 R407). -/
def engineArea (n : Inst) (cl : Nat) : Nat := bits (wordN n.words 7) 55 12 * 4096 + cl * 0x408000

/-- The granules of an iteration's gangs. -/
def gransOf (s : State) (i : Iter) : List SavedGran :=
  ((i.gangs.map (·.cl)).eraseDups).flatMap (fun cl =>
    ((getCl s cl).grans.filter (fun p => p.2.iter == i.uid)).map (fun p =>
      { cl := cl, phys := p.1, gran := p.2, codes := (List.range 8).map (fun k => smGet (getCl s cl).sectors (8 * p.1 + k) 0),
        poison := (s.mem.poisonMere.filter (fun u => u / 4096 == cl * 1024 + p.1)).map (fun u => u % 4096) }))

/-- Writes a granule's bytes to its place in the save area. -/
def saveGran (i : Iter) (n : Inst) (s : State) (g : SavedGran) : Option State :=
  areaWrite s (savior i n g.cl) (engineArea n g.cl + 4096 * g.phys)
    (readPlace s { space := .mere, addr := g.cl * 2 ^ 22 + g.phys * 4096, node := 0 } 4096) areaPages

/-- The banks of an iteration's gangs. -/
def banksOf (s : State) (i : Iter) : List SavedBank :=
  ((i.gangs.map (·.cl)).eraseDups).flatMap (fun cl => (List.range 4).filterMap (fun b =>
    match (getBank s cl b).bound with
    | some (u, g) => if u = i.uid then some { cl := cl, bank := b, gang := g, poison := (getBank s cl b).poison } else none
    | none => none))

/-- Writes a bank's image to its place in the save area (09 R294, 12 R407). -/
def saveBank (i : Iter) (n : Inst) (s : State) (v : SavedBank) : Option State :=
  let b := getBank s v.cl v.bank
  areaWrite s (savior i n v.cl) (engineArea n v.cl + 0x300000 + v.bank * 0x42000) (imageOf (dense b.el 65536 0) b) areaPages

/-- Folds a step that may fail. -/
def foldOpt {α β : Type} (f : β → α → Option β) : List α → β → Option β
  | [], b => some b
  | a :: rest, b => match f b a with
    | none => none
    | some c => foldOpt f rest c

/-- Takes a `trap` whose entry still waited (04 R141). -/
def trapFirst (s : State) (x : Ctx) : State :=
  match x.trapWait with
  | none => s
  | some w => takeTrap (putCtx s { x with trapWait := none }) x.id { cause := 20, info := w.1, addr := 0 } w.2

/-- What stays of a context in its frame record: its commands' operations, without the data they had gathered. -/
def frameOf (x : Ctx) : Ctx :=
  { x with status := .stopped, ops := (x.ops.filter (fun o => match o.kind with
      | .cmd _ => true
      | _ => false)).map (fun o => { o with gathered := [], awaiting := [], started := false }) }

/-- Takes an iteration's commands out of its clusters' queues. -/
def dropCmds (s : State) (uid : Nat) : State :=
  { s with clusters := s.clusters.map (fun c => (c.1, purgeCluster (.iter uid) c.2)) }

/-- The commands of an iteration that a `qflush` under way has flushed count out as the frames are closed: none is in a frame
(10 R342, 13 R426; log 113). -/
def flushedOut (s : State) (uid : Nat) : State :=
  (s.clusters.flatMap (fun c => c.2.cores.flatMap (fun y => y.2.flushes.flatMap (fun f => f.left.filter (fun r => r.iter == uid))))).foldl refOut s

/-- Closes the frames of a stopped iteration: frames, granules and banks go to the save areas, and its positions, granules
and banks are free. A fault while writing purges it (06 R213). The commands of a context that had retired stay with the
iteration, in no frame (log 113). -/
def closeIter (s : State) (i : Iter) : State :=
  let s0 := (ctxsOf s i.uid).foldl (fun u x => trapFirst u x) (flushedOut s i.uid)
  match findIter s0 i.uid, findInst s0 i.id.entry with
  | some j, some n =>
    let xs := ctxsOf s0 j.uid
    let gs := gransOf s0 j
    let bs := banksOf s0 j
    match foldOpt (fun u x => saveCtx u x) xs s0 with
    | none => purgeWork s0 j.tag j.uid 5
    | some s1 => match foldOpt (saveGran j n) gs s1 with
      | none => purgeWork s1 j.tag j.uid 5
      | some s2 => match foldOpt (saveBank j n) bs s2 with
        | none => purgeWork s2 j.tag j.uid 5
        | some s3 =>
          let rs := ghostsOf s3 j.uid
          let cs := (xs ++ rs).flatMap (fun x => (cmdsOf s3 x).map (recCmd s3 x))
          let s4 := (xs ++ rs).foldl drainAccepted s3
          let s5 := freeIter (dropCmds s4 j.uid) j.uid
          let s6 := { s5 with ctxs := s5.ctxs.filter (fun p => p.2.env.iter != j.uid), ghosts := s5.ghosts.filter (fun x => x.env.iter != j.uid) }
          let s7 := modNet s6 (fun m => { m with rdma := m.rdma.filter (fun r => r.iter != j.uid) })
          modIter s7 j.uid (fun k => { k with state := .preempted, savedBanks := bs, savedGrans := gs, frames := xs.map (fun x => frameOf (keepUnits 2 x)), cmds := cs, retired := rs.map frameOf })
  | _, _ => s0

/-- PREEMPT (R41): the frames of a stopped iteration whose operations have drained are closed; else a victim of the task
stops. -/
def execPreempt (e t : Nat) (s : State) : Host.Outcome State Fault Refusal :=
  match s.spring.iters.find? (mayClose s) with
  | some i => .next (closeIter s i)
  | none => match getTask s e t with
    | none => notNow "PREEMPT"
    | some (i, k) =>
      if wantsRoom s i t k then
        match victimOf s i k with
        | none => notNow "PREEMPT"
        | some v => .next (stopIter s v)
      else notNow "PREEMPT"

/-! ## PREEMPT_DRAIN_TIMEOUT (01 R44) -/

/-- PREEMPT_DRAIN_TIMEOUT (R44): the iteration's operations are lost; it is purged and not resumed. -/
def execPreemptDrainTimeout (id : IterId) (s : State) : Host.Outcome State Fault Refusal :=
  match findIterId s id with
  | none => notNow "PREEMPT_DRAIN_TIMEOUT"
  | some i => if i.state == .stopping && i.lost then .next (purgeWork s i.tag i.uid 4) else notNow "PREEMPT_DRAIN_TIMEOUT"

/-! ## RESUME_ITERATION (01 R45, 06 R214, 10 R338, R345) -/

/-- Unread records discarded at the stop: a lost-record record stands for its number (10 R338; log 122). -/
def lostCount (l : List (BitVec 128)) : Nat := (l.map (fun r => if recKind r = 7 then bits r.toNat 95 64 else 1)).sum

/-- The held failures of a frame; what identifies their consumers (06 R204) a frame does not hold. -/
def failsBack (x : Ctx) (img : List Byte) : List Failure :=
  (List.range (min 16 (bits (imgNat img 0x50 8) 28 24))).map (fun i =>
    let w := imgNat img (0x2580 + 16 * i) 8
    { x.fails.getD i default with bundle := BitVec.ofNat 48 w, slot := bits w 51 48, cause := bits w 57 52, addr := BitVec.ofNat 64 (imgNat img (0x2588 + 16 * i) 8) })

/-- The context that slot 2 holds (06 R214). -/
def ctxBack (x : Ctx) (img vec : List Byte) : Ctx :=
  let st := imgNat img 8 8
  let y := restoreRegs { x with pend := [] } 2 img
  { y with
    win := bits (imgNat img 0x40 8) 10 0, winBase := bits (imgNat img 0x40 8) 26 16,
    lvl := min 2 (bits st 13 12), use0 := bit st 14, use1 := bit st 15, cause := causeBack img,
    info := BitVec.ofNat 64 (imgNat img 0x18 8), taddr := BitVec.ofNat 64 (imgNat img 0x20 8), vsaved := BitVec.ofNat 16 (imgNat img 0x48 2),
    issueSeq := BitVec.ofNat 48 (imgNat img 0x58 6),
    cnt := (List.range 16).foldl (fun m i => smSet m i (bits (imgNat img (0x480 + 8 * i) 8) 5 0) 0) [],
    lastSeq := (List.range 16).foldl (fun m i => smSet m i (bits (imgNat img (0x480 + 8 * i) 8) 63 16) 0) [],
    v := (List.range x.win).foldl (fun m i => smSet m i (BitVec.ofNat 1024 (imgNat vec (128 * i) 128)) 0) [],
    fails := failsBack x img, failsLost := bit (imgNat img 0x50 8) 29, status := .ready,
    events := if x.events.isEmpty then [] else [lostRec x.id.ctx (lostCount x.events)] }

/-- Commands put back into a core's queues. -/
def requeue (s : State) (cl core : Nat) (l : List Cmd) : State :=
  modCore s cl core (fun y => { y with mxq := y.mxq ++ l.filter isMx, cpq := y.cpq ++ l.filter (fun c => !isMx c) })

/-- Loads a context from slot 2 with its engine records; none where the frame cannot be read. -/
def loadCtx (cs : List Cmd) (s : State) (x : Ctx) : Option State :=
  match areaRead s x 2 (frameAddr x 2) 0x2800 areaPages with
  | (_, .inr _) => none
  | (s1, .inl img) => match areaRead s1 x 2 (frameAddr x 2 + 0x2800) (x.win * 128) areaPages with
    | (_, .inr _) => none
    | (s2, .inl vec) =>
      let mine := recsBack img 0 (cs.filter (fun c => c.ctx == x.id))
      some (requeue (putCtx s2 (ctxBack x img vec)) x.id.cl x.id.core mine)

/-- A retired context's commands go on as those of a frame do (10 R345; log 113). -/
def retiredBack (cs : List Cmd) (s : State) (x : Ctx) : State :=
  let mine := cs.filter (fun c => c.ctx == x.id)
  requeue { s with ghosts := s.ghosts ++ [x] } x.id.cl x.id.core
    (recsBack (List.replicate recArea 0 ++ mine.flatMap engineRec) 0 mine)

/-- Reads a granule back: bytes, codes, poison, the owner bit. -/
def loadGran (i : Iter) (n : Inst) (s : State) (g : SavedGran) : Option State :=
  match areaRead s (savior i n g.cl) 2 (engineArea n g.cl + 4096 * g.phys) 4096 areaPages with
  | (_, .inr _) => none
  | (s1, .inl bs) =>
    let a := g.cl * 2 ^ 22 + g.phys * 4096
    let s2 := zeroGranule s1 g.cl g.phys
    let s3 := modMem s2 (fun m => { m with mere := cellsPut m.mere a bs, poisonMere := g.poison.map (fun o => a + o) ++ m.poisonMere })
    some (modCl s3 g.cl (fun x => { x with
      grans := smPut x.grans g.phys g.gran
      sectors := (zipIdx g.codes).foldl (fun m c => smSet m (8 * g.phys + c.1) c.2 0) x.sectors }))

/-- Reloads and rebinds a bank; reloading makes no check. -/
def loadBank (i : Iter) (n : Inst) (s : State) (v : SavedBank) : Option State :=
  match areaRead s (savior i n v.cl) 2 (engineArea n v.cl + 0x300000 + v.bank * 0x42000) imageBytes areaPages with
  | (_, .inr _) => none
  | (s1, .inl bs) => some (putBank s1 v.cl v.bank { bankOfImage (freshBank (i.uid, v.gang)) bs with poison := v.poison })

/-- Queues of a core with the reinstated commands ahead of those that were there. -/
def queuesAhead (s0 s1 : State) (cl core : Nat) : State :=
  let a := getCore s0 cl core
  modCore s1 cl core (fun y => { y with mxq := y.mxq.drop a.mxq.length ++ a.mxq, cpq := y.cpq.drop a.cpq.length ++ a.cpq })

/-- The resumption of an iteration; a fault while reading purges it. It is its task's turn, and it counts as placed now where
victims are chosen (log 97). -/
def resumeIter (s : State) (i : Iter) (n : Inst) : State :=
  match foldOpt (loadGran i n) i.savedGrans s with
  | none => purgeWork s i.tag i.uid 5
  | some s1 => match foldOpt (loadBank i n) i.savedBanks s1 with
    | none => purgeWork s1 i.tag i.uid 5
    | some s2 => match foldOpt (loadCtx i.cmds) i.frames s2 with
      | none => purgeWork s2 i.tag i.uid 5
      | some s3 =>
        let cores := ((i.frames ++ i.retired).map (fun x => (x.id.cl, x.id.core))).eraseDups
        let s4 := cores.foldl (fun u p => queuesAhead s2 u p.1 p.2) (i.retired.foldl (retiredBack i.cmds) s3)
        let s5 := modIter s4 i.uid (fun k => { k with state := .running, placedAt := s.ran, savedBanks := [], savedGrans := [], frames := [], cmds := [], retired := [] })
        takeTurn s5 i.id.entry i.id.task

/-- RESUME_ITERATION (R45): the first of its task's pre-empted iterations that fits, at its task's turn. -/
def execResumeIteration (id : IterId) (s : State) : Host.Outcome State Fault Refusal :=
  match findIterId s id with
  | none => notNow "RESUME_ITERATION"
  | some i => match getTask s i.id.entry i.id.task with
    | none => notNow "RESUME_ITERATION"
    | some (n, k) =>
      if (preemptedOf s i.id.entry i.id.task).find? (resumable s) == some i
          && (k.state != .released || walkerChoice s k.walker == some (i.id.entry, i.id.task)) then
        .next (resumeIter s i n)
      else notNow "RESUME_ITERATION"

end Sys2Proof.Machine
end

