-- ==== Sys2Proof/Machine/Ports.lean ====
section
/-!
DEFINITION. The ports of the torus as targets and as originators (11 R356 to R361; 08 R266): requests that arrive, their
answers, the remote-fault log, and link FIFO words (R353, R355).
-/
namespace Sys2Proof.Machine

/-! ## Answers -/

/-- An answer to a packet in a traffic class. -/
def answerIn (s : State) (p : Packet) (tc : Nat) (k : PktKind) (op spec : Nat) (data : List Byte) : State :=
  sendPkts s [{ dst := p.src, src := nodeNo s, tc := tc, kind := k, tag := p.tag, op := BitVec.ofNat 8 op, addr := p.addr,
                spec := BitVec.ofNat 128 spec, data := data, rid := p.rid }]

/-- An answer in TC1 (11 R349). -/
def answer (s : State) (p : Packet) (k : PktKind) (op spec : Nat) (data : List Byte) : State := answerIn s p 1 k op spec data

/-- The reply to a logged write, in TC3 (11 R349, R361). -/
def faultReply (s : State) (p : Packet) (k : PktKind) : State := answerIn s p 3 k 0 0 []

def ackTo (s : State) (p : Packet) : State := answer s p .ack 0 0 []
def nackTo (s : State) (p : Packet) : State := answer s p .nack 0 0 []
/-- A role with no gang: a NACK or an error response whose `op` is 1 (log 11). -/
def noGang (s : State) (p : Packet) (k : PktKind) : State := answer s p k 1 0 []
def dataTo (s : State) (p : Packet) (bs : List Byte) : State := answer s p .readData 0 0 bs
/-- An error response: its `op` is the cause, 17 or 10, or 7 outside the gang's granules (log 11). -/
def errTo (s : State) (p : Packet) (cause : Nat) : State := answer s p .error cause 0 []

/-! ## The target's address space (log 22) -/

/-- The launch in whose space a packet's address lies: the active one of its tag with the lowest entry, else the active one
with the lowest entry. -/
def portInst (s : State) (tag : Nat) : Option Inst :=
  let low (l : List Inst) : Option Inst := l.foldl (fun b i => match b with
    | none => some i
    | some j => if i.entry < j.entry then some i else some j) none
  (low (s.spring.insts.filter (fun i => i.tag.toNat == tag))).or (low s.spring.insts)

/-- An address space: its ASN and its root. -/
abbrev AddrSpace : Type := Nat × Nat

def portSpace (s : State) (tag : Nat) : Option AddrSpace := (portInst s tag).map (fun i => (instAsn i, instRoot i))

/-- A place with whether its page holds compressed sectors, or the fault. -/
inductive PortLoc where
  | at_ (p : Place) (comp : Bool)
  | bad (t : TrapC)
  deriving DecidableEq, Repr, Inhabited

/-- Translates an address of the package for a port. -/
def portAt (s : State) (i : Option AddrSpace) (va : Nat) (r : AccReq) : State × PortLoc :=
  match i with
  | none => (s, .bad (trapC 7 0 va))
  | some n =>
    if inMere va || inFifo va || inInval va 16 || inContain va then (s, .bad (trapC 8 3 va))
    else match lookupShared s n.1 n.2 va with
      | (s1, none) => (s1, .bad (trapC 7 0 va))
      | (s1, some leaf) => match leafAcc s1 leaf va 2 { r with frozen := false } with
        | .bad t => (s1, .bad t)
        | .ok p => (s1, .at_ p (p.space == .hbm && bit leaf 9))

/-- A port's accesses: peers are not forwarded to other peers. -/
def portReq (write noHost : Bool) : AccReq := { write := write, noHost := noHost, noPeer := true, noComp := false, frozen := false }

/-! ## Compressed pages under EXPANDED_VIEW (07 R235) -/

/-- The metadata nibble of a global sector, found in an address space. -/
def portNibble (s : State) (i : Option AddrSpace) (va : Nat) : State × Option (Place × Bool) :=
  let s0 := probeTable s
  match i, handleOf s0 va with
  | some n, some h =>
    let e := hEntryOf (entryWords s0 h)
    let k := (va - e.base) / 512
    match lookupShared s0 n.1 n.2 (e.metaB + k / 2) with
    | (s1, none) => (s1, none)
    | (s1, some leaf) => nibbleIn s1 (leafPlace s1 leaf (e.metaB + k / 2)) k
  | _, _ => (s0, none)

/-- Reads a run of one sector through the controller. -/
def viewPiece (s : State) (i : Option AddrSpace) (p : Place) (va n : Nat) : State × Option (List Byte) :=
  let nb := portNibble s i va
  match readSector nb.1 p nb.2 va n with
  | (s1, .inr _) => (s1, none)
  | (s1, .inl bs) => (s1, some bs)

def viewPieces (s : State) (i : Option AddrSpace) (p : Place) (va : Nat) : List (Nat × Nat) → State × Option (List Byte)
  | [] => (s, some [])
  | (a, n) :: rest =>
    match viewPiece s i { p with addr := p.addr + (a - va) } a n with
    | (s1, none) => (s1, none)
    | (s1, some bs) => match viewPieces s1 i p va rest with
      | (s2, none) => (s2, none)
      | (s2, some cs) => (s2, some (bs ++ cs))

/-- A read of n bytes by a peer or the host: stored bytes, or expanded ones under EXPANDED_VIEW; none where poisoned. -/
def viewRead (s : State) (i : Option AddrSpace) (p : Place) (comp : Bool) (va n : Nat) : State × Option (List Byte) :=
  if comp && s.dev.expanded then viewPieces s i p va (cutGo 512 va n (n / 512 + 2))
  else match rawRead (hostSettled s none p n) p va n with
    | (s1, .inr _) => (s1, none)
    | (s1, .inl bs) => (s1, some bs)

/-- A sector becomes raw before a write under EXPANDED_VIEW. -/
def viewRaw (i : Option AddrSpace) (p : Place) (va : Nat) (s : State) (a : Nat) : State :=
  let nb := portNibble s i a
  rawSector nb.1 { p with addr := p.addr + (a - va) } nb.2

/-- A write by a peer or the host; one that the view expands makes its sectors raw first. -/
def viewStore (s : State) (i : Option AddrSpace) (p : Place) (expand : Bool) (va : Nat) (bs : List Byte) : State :=
  let s1 := if expand then
      ((cutGo 512 va bs.length (bs.length / 512 + 2)).map (·.1)).foldl (viewRaw i p va) s else s
  homeStored (homeWrite s1 p bs) va p

/-- A write that arrives now. -/
def viewWrite (s : State) (i : Option AddrSpace) (p : Place) (comp : Bool) (va : Nat) (bs : List Byte) : State :=
  viewStore s i p (comp && s.dev.expanded) va bs

/-! ## Writes that arrive (11 R356, R359, R360) -/

/-- The runs of a write packet: a masked line, or one run. -/
def writeRuns (p : Packet) : List (Nat × List Byte) :=
  if p.data.length = 128 && p.spec != 0 && !inMere p.addr.toNat then
    (maskRuns p.spec).map (fun r => (p.addr.toNat + r.1, (p.data.drop r.1).take r.2))
  else [(p.addr.toNat, p.data)]

/-- The tag in a packet that names Mere by role (log 11). -/
def roleTag (p : Packet) : Nat := p.spec.toNat / 2 ^ 112

/-- Whether a write's fault goes to the log. -/
def logged (t : TrapC) : Bool := t.cause == 7 || (t.cause == 8 && (t.sub == 1 || t.sub == 2))

def logPlace (s : State) (i off : Nat) : Place := tablePlace s.pkg.logBase (256 * i + off)
def logWord (s : State) (i w : Nat) : Nat := leNat (readPlace s (logPlace s i (8 * w)) 8)
def setLogWord (s : State) (i w v : Nat) : State := writePlace s (logPlace s i (8 * w)) (natLe 8 v)

/-- Free entries of the remote-fault log. -/
def freeLog (s : State) : List Nat := (List.range 1024).filter (fun i => logWord s i 1 % 4 == 0)

/-- The lines of 128 bytes that runs touch. -/
def runLines (ws : List (Nat × List Byte)) : List Nat :=
  (ws.flatMap (fun w => (List.range (((w.1 + w.2.length - 1) / 128) - w.1 / 128 + 1)).map (fun k => (w.1 / 128 + k) * 128))).eraseDups

/-- The part of runs that lies in a line: byte i and its value. -/
def lineBits (ws : List (Nat × List Byte)) (l i : Nat) : Option Byte :=
  ws.findSome? (fun w => if w.1 ≤ l + i ∧ l + i < w.1 + w.2.length then some (w.2.getD (l + i - w.1) 0) else none)

/-- Fills an entry (11 R360) and makes the arrival at the notification phaser. -/
def logLine (p : Packet) (t : TrapC) (ws : List (Nat × List Byte)) (s : State) (e : Nat × Nat) : State :=
  let l := e.2
  let img := natLe 8 l ++ natLe 8 (1 + t.cause * 4 + t.sub * 64 + p.src % 4096 * 2 ^ 10 + p.tag % 65536 * 2 ^ 22)
    ++ natLe 16 ((List.range 128).foldl (fun m i => if (lineBits ws l i).isSome then m + 2 ^ i else m) 0)
    ++ (List.range 128).map (fun i => (lineBits ws l i).getD 0) ++ List.replicate 96 0
  let s1 := writePlace s (logPlace s e.1 0) img
  let s2 := modNet s1 (fun n => { n with logRid := smPut n.logRid e.1 (p.src, p.rid) })
  putPh s2 s2.pkg.notifyPh (phAnon (getPh s2 s2.pkg.notifyPh))

/-- REMOTE_FAULT_LOG: a write that faults is logged, or answered with a NACK where the log is full. -/
def logWrite (s : State) (p : Packet) (t : TrapC) (ws : List (Nat × List Byte)) : State :=
  let ls := runLines ws
  let free := freeLog s
  if free.length < ls.length then nackTo s p else (free.zip ls).foldl (logLine p t ws) s

/-- A write into Mere by role (11 R359, 12 R412): outside the gang's granules it is logged; a thread-owned granule, or a role
with no gang, is answered with a NACK. -/
def writeMere (s : State) (p : Packet) : State :=
  match taggedGang s p.op.toNat (roleTag p) with
  | none => noGang s p .nack
  | some (u, g) => match mereLoc s p.op.toNat u g p.addr.toNat (fun _ => false) 7 with
    | .here q _ => ackTo (writePlace s q p.data) p
    | .bad k a => logWrite s p (trapC k 0 a) [(p.addr.toNat, p.data)]
    | _ => nackTo s p

/-- The first fault of a write's runs, and their places. -/
def runPlaces (s : State) (i : Option AddrSpace) : List (Nat × List Byte) → State × (List (Nat × Place × Bool × List Byte) ⊕ TrapC)
  | [] => (s, .inl [])
  | (va, bs) :: rest =>
    match portAt s i va (portReq true false) with
    | (s1, .bad t) => (s1, .inr t)
    | (s1, .at_ p c) => match runPlaces s1 i rest with
      | (s2, .inr t) => (s2, .inr t)
      | (s2, .inl l) => (s2, .inl ((va, p, c, bs) :: l))

/-! ## The write queue of a receiving port (08 R256) -/

def coordOf (n d : Nat) : Nat := match d with | 0 => n % 16 | 1 => n / 16 % 16 | _ => n / 256
def extentOf (s : State) (d : Nat) : Nat := 1 + (match d with | 0 => s.dev.txn | 1 => s.dev.tyn | _ => s.dev.tzn)

/-- The port by which a packet of a source comes in: the link of its last hop (11 R347; log 11). -/
def portOf (s : State) (src : Nat) : Nat :=
  match ([2, 1, 0] : List Nat).find? (fun d => coordOf src d != coordOf (nodeNo s) d) with
  | none => 6
  | some d =>
    let e := extentOf s d
    let dist := (coordOf (nodeNo s) d + e - coordOf src d) % e
    if 2 * dist ≤ e then 2 * d + 1 else 2 * d

/-- The port by which a packet has come in. -/
def portIn (s : State) (p : Packet) : Nat := p.via.getD (portOf s p.src)

/-- The physical runs of a queued write. -/
def queueRanges (w : PortWrite) : List (Nat × Nat) := w.runs.map (fun r => (r.2.1, r.2.2.2.length))

/-- Bytes read at a place through a port: its queue forwards to the packets that arrive through it, and to no other agent. -/
def queueOver (s : State) (port : Nat) (p : Place) (bs : List Byte) : List Byte :=
  if p.space = .hbm || p.space = .carved then
    (s.net.portq.filter (fun w => w.port == port)).foldl (fun r w => w.runs.foldl (fun t u => overlayRun (placeKey p) t (u.2.1, u.2.2.2)) r) bs
  else bs

/-- Whether a write of a port's queue touches a run: an atomic there waits until it is home. -/
def queueMeets (s : State) (port : Nat) (p : Place) (n : Nat) : Bool :=
  (p.space == .hbm || p.space == .carved)
    && (s.net.portq.filter (fun w => w.port == port)).any (fun w => rangesMeet [(placeKey p, n)] (queueRanges w))

/-- Whether an earlier write of the same queue to the same bytes remains: each address is passed on in acceptance order. -/
def queueWaits (s : State) (w : PortWrite) : Bool :=
  (s.net.portq.takeWhile (fun v => v.pkt != w.pkt)).any (fun v => v.port == w.port && rangesMeet (queueRanges v) (queueRanges w))

/-- A queued write is accepted at the home Tarn slice and acknowledged (11 R356). -/
def queueHome (s : State) (w : PortWrite) : State :=
  let i := portSpace s w.pkt.tag
  let s1 := modNet s (fun n => { n with portq := n.portq.erase w })
  ackTo (w.runs.foldl (fun u r => viewStore u i (keyPlace r.2.1) r.2.2.1 r.1 r.2.2.2) s1) w.pkt

/-- A write that arrives: into Mere or the host at once, into the port's queue where it goes to a home Tarn slice. -/
def takeWrite (s : State) (p : Packet) : State :=
  if inMere p.addr.toNat then writeMere s p
  else
    let i := portSpace s p.tag
    let ws := writeRuns p
    match runPlaces s i ws with
    | (s1, .inr t) => if logged t then logWrite s1 p t ws else nackTo s1 p
    | (s1, .inl l) =>
      if l.all (fun w => w.2.1.space == .hbm || w.2.1.space == .carved) then
        let e : PortWrite := { port := portIn s1 p, asn := (i.map (·.1)).getD 0, pkt := p, runs := l.map (fun w => (w.1, placeKey w.2.1, w.2.2.1 && s1.dev.expanded, w.2.2.2)) }
        modNet s1 (fun n => { n with portq := n.portq ++ [e] })
      else ackTo (l.foldl (fun u w => viewWrite u i w.2.1 w.2.2.1 w.1 w.2.2.2) s1) p

/-! ## Reads, atomics and reductions that arrive (11 R358, R359) -/

/-- Poison that a peer reads is consumed by it (12 R417). -/
def poisonTo (s : State) (p : Packet) (q : Place) (n : Nat) : State :=
  errTo ((unitsOf q.space q.addr n).foldl (fun u a => if (poisonList u q.space).contains a then
    markConsumed u q.space a (BitVec.ofNat 16 p.tag) else u) s) p 10

/-- Bytes a read packet asks for. -/
def readLen (p : Packet) : Nat := p.spec.toNat % 2 ^ 112

/-- The runs a read packet asks for: the active bytes of a `vld`, the elements of a `vlds`, or one run. -/
def readRuns (p : Packet) : List (Nat × Nat) :=
  if inMere p.addr.toNat || p.op = 0 then [(p.addr.toNat, readLen p)]
  else if p.op = 1 then (maskRuns p.spec).map (fun r => (p.addr.toNat + r.1, r.2))
  else (List.range (p.ext.length / 8)).map (fun i => (imgNat p.ext (8 * i) 8, p.spec.toNat))

/-- What a port's read of some runs finds: their bytes, a fault, or poison at a place. -/
inductive PortRead where
  | data (l : List (Nat × List Byte))
  | fault
  | poison (q : Place) (n : Nat)
  deriving DecidableEq, Repr, Inhabited

/-- Reads runs in an address space, through a port. -/
def portRuns (s : State) (i : Option AddrSpace) (port : Nat) : List (Nat × Nat) → List (Nat × List Byte) → State × PortRead
  | [], l => (s, .data l)
  | (va, n) :: rest, l =>
    match portAt s i va (portReq false false) with
    | (s1, .bad _) => (s1, .fault)
    | (s1, .at_ q c) => match viewRead s1 i q c va n with
      | (s2, none) => (s2, .poison q n)
      | (s2, some bs) => portRuns (homeTouch s2 va q) i port rest (l ++ [(va, queueOver s2 port q bs)])

/-- The data of an answer: a line with its inactive bytes 0, or the runs one after another. -/
def readAnswer (p : Packet) (l : List (Nat × List Byte)) : List Byte :=
  if p.op = 1 && !inMere p.addr.toNat then lineBytes p.addr.toNat l else (l.map (·.2)).flatten

def takeRead (s : State) (p : Packet) : State :=
  let va := p.addr.toNat
  let n := readLen p
  if inMere va then
    match taggedGang s p.op.toNat (roleTag p) with
    | none => noGang s p .error
    | some (u, g) => match mereLoc s p.op.toNat u g va (fun _ => false) 7 with
      | .bad k _ => errTo s p k
      | .wait _ _ | .far _ _ _ => errTo s p 17
      | .here q _ =>
        let s1 := probeRange s q n
        if isPoisoned s1 q n then poisonTo s1 p q n else dataTo s1 p (readPlace s1 q n)
  else match portRuns s (portSpace s p.tag) (portIn s p) (readRuns p) [] with
    | (s1, .fault) => errTo s1 p 17
    | (s1, .poison q k) => poisonTo s1 p q k
    | (s1, .data l) => dataTo s1 p (readAnswer p l)

/-- Size of an atomic from its operation byte (log 11). -/
def opSize (op : Nat) : Nat :=
  match bits op 5 4 with
  | 0 => 8 | 1 => 4 | 2 => 2 | _ => 1

/-- Whether host memory takes an atomic: add, swap and compare-and-swap of 32 or 64 bits (07 R224). -/
def hostTakes (op : Nat) : Bool := 4 ≤ opSize op && (bit op 7 || bits op 3 0 == 0 || bits op 3 0 == 8)

/-- An atomic: its old value returns. -/
def takeAtomic (s : State) (p : Packet) : State :=
  let op := p.op.toNat
  let n := opSize op
  let va := p.addr.toNat
  match portAt s (portSpace s p.tag) va { portReq true (!hostTakes op) with noComp := true } with
  | (s1, .bad _) => errTo s1 p 17
  | (s1, .at_ q _) =>
    let u := leNat (p.data.take n)
    let f : Nat → Option Nat := if bit op 7 then (fun t => if t = u then some (leNat ((p.data.drop n).take n)) else none)
      else (fun t => some (amoNew (bits op 3 0) (8 * n) t u))
    match rmwAt s1 va q n f with
    | (s2, none) => poisonTo s2 p q n
    | (s2, some old) => dataTo s2 p (natLe n old)

/-- The lanes of a `vredm` packet with their codes. -/
def packetLanes (p : Packet) : List (Nat × Nat) :=
  let w := laneWidth (fmtOfCode (BitVec.ofNat 4 (bits p.op.toNat 3 0))) / 8
  ((List.range (128 / w)).filter (fun i => p.spec.getLsbD (w * i))).map (fun i => (i, imgNat p.data (w * i) w))

/-- A reduction: `red`, or a unit of `vredm` (07 R250, R251). Poison is one of its faults (11 R359). -/
def takeReduction (s : State) (p : Packet) : State :=
  let op := p.op.toNat
  let va := p.addr.toNat
  match portAt s (portSpace s p.tag) va { portReq true true with noComp := true } with
  | (s1, .bad _) => errTo s1 p 17
  | (s1, .at_ q _) =>
    if bit op 7 then
      match vredmAt s1 va q (fmtOfCode (BitVec.ofNat 4 (bits op 3 0))) (bits op 6 4) (packetLanes p) with
      | (s2, none) => ackTo s2 p
      | (s2, some _) => errTo s2 p 17
    else
      let n := opSize op
      match rmwAt s1 va q n (fun t => some (amoNew (bits op 3 0) (8 * n) t (leNat (p.data.take n)))) with
      | (s2, none) => errTo s2 p 17
      | (s2, some _) => ackTo s2 p

/-- The runs of an access that a packet asks for. -/
def packetRuns (p : Packet) : List (Nat × Nat) :=
  match p.kind with
  | .write => (writeRuns p).map (fun w => (w.1, w.2.length))
  | .read => readRuns p
  | .atomic => [(p.addr.toNat, opSize p.op.toNat)]
  | .reduction => [(p.addr.toNat, if p.op.getLsbD 7 then 128 else opSize p.op.toNat)]
  | _ => []

/-- Whether runs touch a FROZEN range (12 R397). -/
def frozenMeets (s : State) (l : List (Nat × Nat)) : Bool :=
  s.pkg.migrations.any (fun m => rangesMeet [(m.base, m.len), (m.metaBase, m.metaLen)] l)

/-- Whether an atomic or a reduction meets a write still in its port's queue. -/
def behindQueue (s : State) (p : Packet) : Bool :=
  (p.kind == .atomic || p.kind == .reduction) && (packetRuns p).any (fun r =>
    match (portAt s (portSpace s p.tag) r.1 (portReq true false)).2 with
    | .at_ q _ => queueMeets s (portIn s p) q r.2
    | .bad _ => false)

/-- Whether a packet must wait at its port: its address is FROZEN (12 R397), or it is an atomic behind a queued write. -/
def portHeld (s : State) (p : Packet) : Bool :=
  !inMere p.addr.toNat && (frozenMeets s (packetRuns p) || behindQueue s p)

/-- What a request that a port admits does. -/
def takeRequest (s : State) (p : Packet) : State :=
  match p.kind with
  | .read => takeRead s p
  | .write => takeWrite s p
  | .atomic => takeAtomic s p
  | _ => takeReduction s p

/-- The kinds of request that PACKET_RECEIVE takes. -/
def isRequest (k : PktKind) : Bool := k == .read || k == .write || k == .atomic || k == .reduction

/-- A packet of this package to itself never leaves it: it is no longer under way (11 R347). -/
def landed (s : State) (p : Packet) : State :=
  if p.src = nodeNo s && p.dst = nodeNo s then
    modNet s (fun n => { n with out := match n.out.find? (fun o => o.pkt == p) with
      | some o => n.out.erase o
      | none => n.out })
  else s

/-- A packet that a port discards and counts: of a kind that no unit sends, or with a header that fails its check (11 R351). -/
def badHeader (p : Packet) : Bool := p.kind == .unsent || !p.ok

/-- A request for this node is executed; one for another node goes on; in FATAL it is answered with an error (12 R422). The packet of a queued write comes a second time when its queue passes
it on (08 R256). -/
def receiveRequest (p : Packet) (s : State) : Host.Outcome State Fault Refusal :=
  if badHeader p then .next (incReplay s 1)
  else if p.dst != nodeNo s then .next (sendPkts s [p])
  else if !isRequest p.kind then notNow "PACKET_RECEIVE"
  else match s.net.portq.find? (fun w => w.pkt == p) with
  | some w => if queueWaits s w then notNow "PACKET_RECEIVE" else .next (queueHome s w)
  | none =>
    if s.dev.fatal then .next (errTo s p 17)
    else if portHeld s p then notNow "PACKET_RECEIVE"
    else .next (takeRequest (compared s 3) p)

/-- PACKET_RECEIVE (R356). -/
def execPacketReceive (p : Packet) (s : State) : Host.Outcome State Fault Refusal := receiveRequest p (landed s p)

/-! ## Answers that arrive (08 R266, 11 R356, R359) -/

/-- A request is answered. -/
def answered (s : State) (rid : Nat) : State :=
  modNet s (fun n => { n with reqs := n.reqs.filter (fun r => r.rid != rid), out := n.out.filter (fun o => o.pkt.rid != rid || o.pkt.src != nodeNo s) })

/-- The end of an operation whose last answer has come. -/
def opAnswered (x : Ctx) (o : MemOp) : Ctx :=
  match o.kind with
  | .loadS _ _ _ _ | .loadV _ _ _ | .loadL _ _ _ _ | .kld _ _ =>
    finishLoad x o (o.gathered.filter (fun g => g.1 != oldKey) ++ o.gathered.filter (fun g => g.1 == oldKey))
  | .amo d _ _ n _ sx => match d with
    | none => opOut x o
    | some r => opOut (opResult x o.seq (.s r) (extTo sx (8 * n) (leNat ((o.gathered.headD (0, [])).2)))) o
  | .cas d _ n _ _ sx => opOut (opResult x o.seq (.s d) (extTo sx (8 * n) (leNat ((o.gathered.headD (0, [])).2)))) o
  | _ => opOut x o

/-- The data of an answer by their keys: those of a `vlds` lane by lane. -/
def answerData (r : Req) (bs : List Byte) : List (Nat × List Byte) :=
  if r.lanes = [] then [(r.lane, bs)]
  else ((List.range r.lanes.length).zip r.lanes).map (fun p => (p.2, (bs.drop (r.len * p.1)).take r.len))

/-- An answer to an operation of a context. -/
def answerOp (s : State) (r : Req) (p : Packet) : State :=
  match getOwner s r.ctx r.iter with
  | none => s
  | some x => match findOp x r.seq with
    | none => s
    | some o =>
      let cause := if p.kind == .error && p.op == 10 then 10 else 17
      if p.kind == .nack || p.kind == .error then loadFails s x o cause r.addr
      else
        let got := if p.kind == .readData then answerData r p.data else []
        let o1 := { o with awaiting := o.awaiting.filter (fun n => n != r.rid), gathered := o.gathered ++ got }
        if o1.awaiting.isEmpty then putOwner s (opAnswered (setOp x o1) o1) else putOwner s (setOp x o1)

/-- Counts that the answer of a block or a close packet carries (11 R372, R373; log 11). -/
def addCounts (c : Cmd) (r : Req) (p : Packet) : Cmd :=
  let v := p.spec.toNat
  match cmdInstr c with
  | some (.coll _) =>
    if p.kind == .collClose then { c with nonfin := c.nonfin + bits v 31 0, novalid := c.novalid + bits v 63 32, firstNv := bits v 95 64 }
    else
      let b := (r.addr - bits c.desc.toNat 119 64) / 256
      { c with nonfin := c.nonfin + bits v 0 0, novalid := c.novalid + bits v 1 1,
               firstNv := if bit v 1 && (c.novalid = 0 || b < c.firstNv) then b else c.firstNv }
  | _ => c

/-- The address that the word of a command's reading or writing side names. -/
def sideAddr (c : Cmd) (write : Bool) : Nat :=
  let d := c.desc.toNat
  match cmdInstr c with
  | some (.cpy _) => if write then bits d 119 64 else bits d 55 0
  | some (.cpyt _) => if write then bits d 55 0 else bits d 183 128
  | some (.coll _) => bits d 119 64
  | _ => bits d 55 0

/-- The failure that a negative answer to a command's request reports: cause and address (10 R319, R503; 11 R359). -/
def answerFailure (c : Cmd) (r : Req) (p : Packet) : Nat × Nat :=
  if p.op == 1 then (17, sideAddr c r.write)
  else if p.kind == .error && (p.op == 10 || p.op == 7) then (p.op.toNat, r.addr)
  else (17, r.addr)

/-- The first failure, but of several pieces outside the granules the one at the lowest address (10 R503). -/
def joinFailure (a : Option (Nat × Word)) (b : Nat × Nat) : Option (Nat × Word) :=
  match a with
  | some (7, t) => some (7, if b.1 = 7 && b.2 < t.toNat then BitVec.ofNat 64 b.2 else t)
  | some f => if b.1 = 7 then some (7, BitVec.ofNat 64 b.2) else some f
  | none => some (b.1, BitVec.ofNat 64 b.2)

/-- Keeps the data that came for a piece with the command's operation; no data for a piece that is poisoned. -/
def keepData (s : State) (r : Req) (bs : List Byte) : State :=
  match getOwner s r.ctx r.iter with
  | none => s
  | some x => match findOp x r.seq with
    | none => s
    | some o => putOwner s (setOp x { o with gathered := o.gathered ++ [(r.lane, bs)] })

/-- An answer to a command. Poison in an operand tile of an array command stops it at the step it is read for (09 R299). -/
def answerCmd (s : State) (r : Req) (p : Packet) : State :=
  match findCmd s { ctx := r.ctx, seq := r.seq, iter := r.iter } with
  | none => s
  | some c =>
    let c1 := { c with awaiting := c.awaiting.filter (fun n => n != r.rid) }
    if p.kind == .error && p.op == 10 && c.inArr then keepData (putCmd s c1) r []
    else if p.kind == .nack || p.kind == .error then putCmd s { c1 with failed := joinFailure c1.failed (answerFailure c r p) }
    else
      let s1 := putCmd s (addCounts c1 r p)
      if p.kind != .readData then s1 else keepData s1 r p.data

/-- An answer reaches its originator; one whose request is gone is discarded. A purge's packet has request 0. -/
def takeAnswer (s : State) (p : Packet) : State :=
  match s.net.reqs.find? (fun r => r.rid == p.rid) with
  | none => if p.kind == .error && p.rid == 0 then cutPurge s p else s
  | some r => let s1 := answered s p.rid; if r.cmd then answerCmd s1 r p else answerOp s1 r p

/-- An answer for this node, or for another. -/
def receiveAnswer (p : Packet) (s : State) : Host.Outcome State Fault Refusal :=
  if badHeader p then .next (incReplay s 1)
  else if p.dst != nodeNo s then .next (sendPkts s [p])
  else match p.kind with
  | .readData | .ack | .nack | .error => .next (takeAnswer s p)
  | _ => notNow "RESPONSE_RECEIVE"

/-- RESPONSE_RECEIVE (R266). -/
def execResponseReceive (p : Packet) (s : State) : Host.Outcome State Fault Refusal := receiveAnswer p (landed s p)

/-! ## The remote-fault log's entries (11 R361) -/

/-- Frees an entry. -/
def freeEntry (s : State) (i : Nat) : State :=
  let w := logWord s i 1
  modNet (setLogWord s i 1 (w / 4 * 4)) (fun n => { n with logRid := smDel n.logRid i })

/-- The packet whose answer an entry owes. -/
def owedPacket (s : State) (i : Nat) (r : Nat × Nat) : Packet :=
  { dst := nodeNo s, src := r.1, tc := 0, kind := .write, tag := bits (logWord s i 1) 37 22, op := 0,
    addr := BitVec.ofNat 56 (logWord s i 0), spec := 0, data := [], rid := r.2 }

/-- LOG_ENTRY_REPLAYED (R361): the acknowledgement goes out once every entry of the write is replayed. -/
def execLogEntryReplayed (i : Nat) (s : State) : Host.Outcome State Fault Refusal :=
  if logWord s i 1 % 4 != 2 then notNow "LOG_ENTRY_REPLAYED"
  else match smFind s.net.logRid i with
    | none => .next (freeEntry s i)
    | some r =>
      let s1 := freeEntry s i
      .next (if s1.net.logRid.any (fun e => e.2 == r) then s1 else faultReply s1 (owedPacket s i r) .ack)

/-- LOG_ENTRY_ABANDONED (R361): a NACK; the other entries of the write then owe no answer. -/
def execLogEntryAbandoned (i : Nat) (s : State) : Host.Outcome State Fault Refusal :=
  if logWord s i 1 % 4 != 3 then notNow "LOG_ENTRY_ABANDONED"
  else match smFind s.net.logRid i with
    | none => .next (freeEntry s i)
    | some r =>
      let s1 := modNet (freeEntry s i) (fun n => { n with logRid := n.logRid.filter (fun e => e.2 != r) })
      .next (faultReply s1 (owedPacket s i r) .nack)

/-! ## Link FIFO words (11 R353 to R355) -/

/-- The neighbour's node over a link (11 R346). -/
def neighbour (s : State) (l : Nat) : Nat :=
  let d := s.dev
  let step (v n : Nat) : Nat := if l % 2 = 0 then (v + 1) % (n + 1) else (v + n) % (n + 1)
  match l / 2 with
  | 0 => 256 * d.tz + 16 * d.ty + step d.tx d.txn
  | 1 => 256 * d.tz + 16 * step d.ty d.tyn + d.tx
  | _ => 256 * step d.tz d.tzn + 16 * d.ty + d.tx

/-- The packet of a word: cluster and FIFO of its arrival in the address (log 11); the tag, stream and mask of its push (08 R266). -/
def wordPacket (s : State) (cl l : Nat) (f : FifoWord) : Packet :=
  let q := originStream s { ctx := f.ctx, iter := f.iter, seq := f.seq, tag := 0, cmd := false }
  { dst := neighbour s l, src := nodeNo s, tc := 0, kind := .fifoWord, tag := ((getOwner s f.ctx f.iter).map (fun x => x.env.tag.toNat)).getD 0,
    op := 0, addr := BitVec.ofNat 56 (cl * 8 + (l + 1 - 2 * (l % 2))), spec := BitVec.ofNat 128 f.w.toNat, data := [], rid := 0,
    ss := q.1, pm := q.2 }

/-- Whether the push of a word may leave: its predecessors are performed at fabric scope. -/
def pushReady (s : State) (f : FifoWord) : Bool :=
  match getOwner s f.ctx f.iter with
  | none => true
  | some x => match findOp x f.seq with
    | none => true
    | some o => mayPerform x o

/-- The push counts out of its stream. -/
def pushDone (s : State) (f : FifoWord) : State :=
  match getOwner s f.ctx f.iter with
  | none => s
  | some x => match findOp x f.seq with
    | none => s
    | some o => putOwner s (opOut x o)

/-- FIFO_WORD_ARRIVE (R353): the word at the head of a send FIFO passes into the neighbour's receive FIFO, which has room, and its push
counts out (R355); its flit stands in the link's replay buffer until that is acknowledged (R362). Or one of ours accepts a
neighbour's. -/
def execFifoWordArrive (mv : FifoMove) (s : State) : Host.Outcome State Fault Refusal :=
  match mv with
  | .depart cl l =>
    match sendFifo s cl l with
    | [] => notNow "FIFO_WORD_ARRIVE"
    | f :: rest =>
      if (getLink s l).health != .up || !pushReady s f then notNow "FIFO_WORD_ARRIVE"
      else
        let s1 := modCl s cl (fun c => { c with sendF := smSet c.sendF l rest [] })
        let o : OutPkt := { pkt := wordPacket s cl l f, sent := some l }
        .next (pushDone (modNet s1 (fun n => { n with out := n.out ++ [o] })) f)
  | .arrive cl l w =>
    if 64 ≤ (recvFifo s cl l).length then notNow "FIFO_WORD_ARRIVE"
    else .next (modCl s cl (fun c => { c with recvF := smSet c.recvF l (recvFifo s cl l ++ [w]) [] }))

end Sys2Proof.Machine
end

