-- ==== Sys2Proof/Machine/Links.lean ====
section
/-!
DEFINITION. Links and their health (11 R347, R348, R362 to R365), collectives at their target and their close (R366, R367, R372 to
R374), and the scale-out ports (R376 to R378).
-/
namespace Sys2Proof.Machine

/-! ## Routing (11 R347, R348) -/

/-- The first dimension in which a node differs from this one. -/
def firstDim (s : State) (n : Nat) : Option Nat := ([0, 1, 2] : List Nat).find? (fun d => coordOf n d != coordOf (nodeNo s) d)

/-- The link of the shorter way from one coordinate of a dimension to another's, half the extent going positive. -/
def shortLink (s : State) (d a b : Nat) : Nat :=
  let e := extentOf s d
  if 2 * ((coordOf b d + e - coordOf a d) % e) ≤ e then 2 * d else 2 * d + 1

/-- The link by which a packet that came in this dimension goes straight on. -/
def straight (d : Nat) (p : Packet) : Option Nat :=
  match p.via with
  | some k => if k / 2 = d then some (2 * d + (1 - k % 2)) else none
  | none => none

/-- The link of a packet's next hop: the shorter way, and then straight on (11 R347). Where that link is not up the packet goes the
other way round the ring (R363, R364); one that has turned so already, or that finds no better link there, waits. -/
def nextLink (s : State) (p : Packet) : Option Nat :=
  (firstDim s p.dst).map (fun d =>
    let on := (straight d p).getD (shortLink s d (nodeNo s) p.dst)
    let turned := match straight d p with
      | some l => l != shortLink s d p.src p.dst
      | none => false
    let back := 2 * d + (1 - on % 2)
    if turned || (getLink s on).health = .up || ((getLink s on).health = .retraining && (getLink s back).health != .up) then on else back)

/-- Whether a packet stands on VC1 once it has taken a link: it crosses the dateline, or has crossed it in this dimension
(11 R348). -/
def crosses (s : State) (l : Nat) (p : Packet) : Bool :=
  let c := coordOf (nodeNo s) (l / 2)
  (if l % 2 = 0 then c + 1 == extentOf s (l / 2) else c == 0) || (p.vc && (straight (l / 2) p).isSome)

/-- The buffer in which a packet waits: its output link, and 2 × class + virtual channel, or 8 for the escape channel. -/
def bufferOf (s : State) (o : OutPkt) : Option (Nat × Nat) :=
  if o.sent.isSome || o.pkt.dst = nodeNo s then none
  else (nextLink s o.pkt).map (fun l => (l, if o.pkt.esc then 8 else 2 * o.pkt.tc + (crosses s l o.pkt).toNat))

/-- Whether a packet waits in virtual channel vc of a link's classes, or in its escape channel as 2. -/
def standsIn (s : State) (l vc : Nat) (o : OutPkt) : Bool :=
  match bufferOf s o with
  | none => false
  | some b => b.1 == l && (if vc = 2 then b.2 == 8 else b.2 != 8 && b.2 % 2 == vc)

/-! ## The service of the output links (11 R350, R362; log 101) -/

/-- Changes the first element that f selects by g, or takes it out. -/
def onFirst {α : Type} (f : α → Bool) (g : α → Option α) : List α → List α
  | [] => []
  | a :: rest => if f a then (match g a with
    | some b => b :: rest
    | none => rest) else a :: onFirst f g rest

/-- The buffers of a link in the order of its service: the escape channel and TC3 first, the others from the class on whose
turn it is. -/
def serviceOrder (s : State) (l : Nat) : List Nat :=
  [8, 6, 7] ++ (List.range 3).flatMap (fun i => let c := (smGet s.net.turn l 0 + i) % 3; [2 * c, 2 * c + 1])

/-- A link that is up sends the head of the first buffer that has a packet and a credit; it then stands in the replay buffer. -/
def serveLink (s : State) (l : Nat) : State :=
  if (getLink s l).health != .up then s
  else match (serviceOrder s l).find? (fun b => s.net.out.any (fun o => bufferOf s o == some (l, b)) && Config.credit l b s.cyc) with
  | none => s
  | some b => modNet s (fun n => { n with
      out := onFirst (fun o => bufferOf s o == some (l, b)) (fun o => some { o with
        sent := some l, head := none, came := o.pkt.vc, pkt := { o.pkt with vc := b != 8 && b % 2 == 1 } }) n.out
      turn := if b < 6 then smPut n.turn l ((b / 2 + 1) % 3) else n.turn })

def serveTimes (l : Nat) : Nat → State → State
  | 0, s => s
  | f + 1, s => serveTimes l f (serveLink s l)

/-- The far end of a link acknowledges its oldest packet, which leaves the replay buffer. -/
def ackLink (s : State) (l : Nat) : State :=
  if (getLink s l).health == .up && s.net.out.any (fun o => o.sent == some l) && Config.acked l s.cyc then
    modNet s (fun n => { n with out := onFirst (fun o => o.sent == some l) (fun _ => none) n.out })
  else s

/-- Notes since when a packet stands at the head of its buffer. -/
def noteHeads (s : State) : List (Nat × Nat) → List OutPkt → List OutPkt
  | _, [] => []
  | seen, o :: rest => match bufferOf s o with
    | none => o :: noteHeads s seen rest
    | some b =>
      if seen.contains b then { o with head := none } :: noteHeads s seen rest
      else { o with head := o.head.or (some s.ran) } :: noteHeads s (b :: seen) rest

/-! ## Link health (11 R362 to R365) -/

def setHealth (s : State) (l : Nat) (h : LinkHealth) : State := putLink s l { health := h, since := s.cyc }

/-- Whether a link's replay buffer holds a flit: one of TC0, TC1 or TC3 that the far end has not acknowledged. -/
def replays (s : State) (l : Nat) : Bool := s.net.out.any (fun o => o.sent == some l && o.pkt.tc != 2)

/-- FLIT_REPLAY (R362): the flit is sent again from the replay buffer and counted; it is delivered once. -/
def execFlitReplay (l : Nat) (s : State) : Host.Outcome State Fault Refusal :=
  if s.pkg.units.getLsbD l && (getLink s l).health == .up && replays s l then .next (incReplay s 1) else notNow "FLIT_REPLAY"

/-- LINK_RETRAIN (R363): the TC2 packets on their way over the link are lost. -/
def execLinkRetrain (l : Nat) (s : State) : Host.Outcome State Fault Refusal :=
  if s.pkg.units.getLsbD l && (getLink s l).health == .up then
    .next (modNet (setHealth s l .retraining) (fun n => { n with out := n.out.filter (fun o => !(o.sent == some l && o.pkt.tc == 2)) }))
  else notNow "LINK_RETRAIN"

/-- The error response of a packet that cannot be delivered, a request or a purge's: to this package's own operation, or to the
packet's source. It names the node that it could not reach as its own source (log 101). -/
def cutResponse (s : State) (p : Packet) : State :=
  if p.tc = 2 || !(asks p.kind || p.kind == .purge) then s
  else
    let e : Packet := { dst := p.src, src := p.dst, tc := 1, kind := .error, tag := p.tag, op := 17, addr := p.addr, spec := 0, data := [], rid := p.rid }
    if p.src = nodeNo s then takeAnswer s e else sendPkts s [e]

/-- Whether a packet waits for a link that is down, where both ways round its ring are cut (11 R364). -/
def undeliverable (s : State) (o : OutPkt) : Bool :=
  match bufferOf s o with
  | some b => (getLink s b.1).health == .down
  | none => false

/-- Packets that cannot be delivered leave; in the reliable classes a request returns an error response (11 R364). A request
of this package whose node can no longer answer fails with it (log 101). -/
def failCut (s : State) : State :=
  let cut := (s.net.out.filter (undeliverable s)).map (·.pkt)
  let s1 := modNet s (fun n => { n with out := n.out.filter (fun o => !undeliverable s o) })
  let s2 := cut.foldl cutResponse s1
  (s2.net.reqs.filter (fun r => !reachable s r.node)).foldl (fun t r =>
    takeAnswer t { dst := nodeNo s, src := r.node, tc := 1, kind := .error, tag := 0, op := 17, addr := 0, spec := 0, data := [], rid := r.rid }) s2

/-- The links over n cycles: a packet that cannot be delivered leaves, and at most one packet a cycle leaves by each. -/
def serveLinks (n : Nat) (s : State) : State :=
  if s.net.out.isEmpty then s
  else
    let s0 := if s.net.out.any (undeliverable s) then failCut s else s
    let s1 := (List.range 6).foldl (fun t l => ackLink (serveTimes l (min n t.net.out.length) t) l) s0
    modNet s1 (fun m => { m with out := noteHeads s1 [] m.out })

/-- Data of notice 8: the link, and bit 8 for restored (log 24). -/
def linkNotice (s : State) (l : Nat) (restored : Bool) : State := postNotice s 8 0 (l + restored.toNat * 256)

/-- 2 ms in cycles (00 R4). -/
def retrainBound : Nat := 2400000

/-- Nodes that a purge can no longer reach count as acknowledged (12 R420). -/
def dropCutAcks (s : State) : State :=
  modPkg s (fun g => { g with purges := (g.purges.map (fun p => { p with awaiting := p.awaiting.filter (reachable s) })).filter (fun p => !p.awaiting.isEmpty) })

/-- The packets of a link's replay buffer wait again: they go the other way round the ring (11 R364); a FIFO word among them has been
accepted. -/
def backFrom (l : Nat) (s : State) : State :=
  modNet s (fun n => { n with out := (n.out.filter (fun o => !(o.sent == some l && o.pkt.kind == .fifoWord))).map (fun o =>
    if o.sent == some l then { o with sent := none, pkt := { o.pkt with vc := o.came } } else o) })

/-- Flits of the replay buffer of a link: a packet's header and its data of 32 bytes each (11 R351, R362). -/
def replayFlits (s : State) (l : Nat) : Nat :=
  ((s.net.out.filter (fun o => o.sent == some l && o.pkt.tc != 2)).map (fun o => 1 + ceilDiv o.pkt.data.length 32)).sum

/-- LINK_DOWN (R364): a link that has not retrained within 2 ms; the flits that are resent are counted (13 R456). -/
def execLinkDown (l : Nat) (s : State) : Host.Outcome State Fault Refusal :=
  let k := getLink s l
  if k.health == .retraining && k.since + retrainBound ≤ s.cyc then
    .next (dropCutAcks (failCut (backFrom l (incReplay (linkNotice (setHealth s l .down) l false) (replayFlits s l)))))
  else notNow "LINK_DOWN"

/-- LINK_RESTORED (R363): a link that has retrained within 2 ms replays its replay buffer; of a link that was down the host is
told. -/
def execLinkRestored (l : Nat) (s : State) : Host.Outcome State Fault Refusal :=
  let k := getLink s l
  match k.health with
  | .up => notNow "LINK_RESTORED"
  | .retraining =>
    if k.since + retrainBound ≤ s.cyc then notNow "LINK_RESTORED"
    else .next (setHealth (incReplay s (replayFlits s l)) l .up)
  | .down => .next (linkNotice (setHealth s l .up) l true)

/-- The cycles a packet may stand at the head of a buffer (11 R365). -/
def deadlockCycles : Nat := 65536

/-- Whether the timer of the packet at a buffer's head has expired: one of another class than TC2 waits in the escape channel. -/
def timerDue (s : State) (l vc : Nat) (o : OutPkt) : Bool :=
  standsIn s l vc o && (match o.head with
    | some t => decide (t + deadlockCycles ≤ s.ran)
    | none => false) && (vc != 2 || o.pkt.tc == 2)

/-- DEADLOCK_TIMER (R365): the head packet moves to the escape channel; at the head of an escape buffer a TC2 packet is
dropped. -/
def execDeadlockTimer (l vc : Nat) (s : State) : Host.Outcome State Fault Refusal :=
  if !s.net.out.any (timerDue s l vc) then notNow "DEADLOCK_TIMER"
  else .next (modNet s (fun n => { n with
    out := onFirst (timerDue s l vc) (fun o => if vc = 2 then none else some { o with head := none, pkt := { o.pkt with esc := true } }) n.out }))

/-! ## Collectives at their target (11 R367, R372, R373) -/

/-- The gang that a collective names. -/
def collGang (s : State) (q : CollSpec) : Option (Nat × Nat × Nat) :=
  if q.near = 0 then (taggedGang s q.cl q.tag).map (fun g => (q.cl, g.1, g.2))
  else (findIter s (q.near - 1)).bind (fun i => (gangOn i q.cl).map (fun g => (q.cl, i.uid, g)))

/-- A block from its packet (11 R371). -/
def blockOf (p : Packet) (ok : Bool) : Block :=
  let v := p.spec.toNat
  { b := bits v 51 32, nv := bits v 63 52, sl := bits v 127 96, al := bits v 95 64, ok := ok, bs := p.data.take 256 }

/-- Whether a block's lanes pass the port's check (02 R75, 11 R371). -/
def lanesPass (s : State) (q : CollSpec) (k : Block) : Bool := (blockCheck s q.fmt (blockCodes q.fmt k.bs) k.sl k.al).1

def findColl (s : State) (src rid : Nat) : Option CollRx := s.net.colls.find? (fun c => c.src == src && c.rid == rid)

def putColl (s : State) (c : CollRx) : State :=
  modNet s (fun n => { n with colls := c :: n.colls.filter (fun d => !(d.src == c.src && d.rid == c.rid)) })

def dropColl (s : State) (c : CollRx) : State :=
  modNet s (fun n => { n with colls := n.colls.filter (fun d => !(d.src == c.src && d.rid == c.rid)) })

def newColl (p : Packet) (rid : Nat) (q : CollSpec) : CollRx :=
  { src := p.src, rid := rid, tag := BitVec.ofNat 16 p.tag, spec := specWords q, blocks := [], nb := q.nb, t0 := q.t0,
    lossy := q.lossy, nonfin := 0, novalid := 0, firstNv := 0, refused := false }

/-- Notes a block's outcome and counts. -/
def noteBlock (c : CollRx) (b st : Nat) (nf nv : Bool) : CollRx :=
  { c with blocks := smPut c.blocks b st, nonfin := c.nonfin + nf.toNat, novalid := c.novalid + nv.toNat,
           firstNv := if nv && (c.novalid = 0 || b < c.firstNv) then b else c.firstNv, refused := c.refused || (st == 2 && !c.lossy) }

/-- A block of the reliable class: applied and acknowledged with its counts, or refused; the last one makes the arrival at
`tsig`, if all were applied. Its packets carry consecutive request numbers from block 0 (log 11). -/
def reliableBlock (s : State) (p : Packet) : State :=
  let q := specOfWords (wordsOfBytes p.ext)
  let k := blockOf p true
  match collGang s q with
  | none => noGang s p .nack
  | some g =>
    let c := (findColl s p.src (p.rid - k.b)).getD (newColl p (p.rid - k.b) q)
    let r := match applyBlock s g q k with
      | .nack => (nackTo s p, noteBlock c k.b 2 false false)
      | .done s1 _ nf nv => (answer s1 p .ack 0 (nf.toNat + 2 * nv.toNat) [], noteBlock c k.b 1 nf nv)
    if r.2.blocks.length < r.2.nb then putColl r.1 r.2
    else
      let s2 := dropColl r.1 r.2
      if r.2.refused || q.tsig = 0 then s2 else collSignal s2 g q

/-- The close time of a lossy command (11 R366, R367). -/
def closeAt (s : State) (c : CollRx) : Nat := c.t0 + s.pkg.lossyDeadline.toNat

/-- A block of an open lossy command with the time at which it arrived: an intact one is applied; another fails; one that came
at or after the close time is discarded. -/
def lossyBlock (s : State) (c : CollRx) (p : Packet) (crcOk : Bool) (at_ : Nat) : State :=
  let q := specOfWords c.spec
  let k := blockOf p true
  if closeAt s c ≤ at_ || (smFind c.blocks k.b).isSome || c.nb ≤ k.b then s
  else if !crcOk || !lanesPass s q k then putColl s (noteBlock c k.b 2 false false)
  else match collGang s q with
    | none => putColl s { c with refused := true }
    | some g => match applyBlock s g q k with
      | .nack => putColl s { c with refused := true }
      | .done s1 _ nf nv => putColl s1 (noteBlock c k.b 1 nf nv)

/-- The command is open and takes the blocks that came before; a role with no gang is answered with
a NACK. -/
def receiveOpen (p : Packet) (s : State) : Host.Outcome State Fault Refusal :=
  if badHeader p then .next (incReplay s 1)
  else if p.kind != .collOpen then notNow "COLL_OPEN_RECEIVE"
  else if p.dst != nodeNo s then .next (sendPkts s [p])
  else if s.dev.fatal then .next (errTo s p 17)
  else
    let q := specOfWords (wordsOfBytes p.ext)
    let mine := s.net.early.filter (fun e => e.src == p.src && e.rid == p.rid)
    let s1 := modNet s (fun n => { n with early := n.early.filter (fun e => !(e.src == p.src && e.rid == p.rid)) })
    match collGang s1 q with
    | none => .next (noGang s1 p .nack)
    | some _ =>
      .next (mine.foldl (fun u e => match findColl u p.src p.rid with
        | none => u
        | some c => lossyBlock u c e.pkt e.ok e.since) (putColl s1 (newColl p p.rid q)))

/-- COLL_OPEN_RECEIVE (R367). -/
def execCollOpenReceive (p : Packet) (s : State) : Host.Outcome State Fault Refusal := receiveOpen p (landed s p)

/-- Whether the close time that a block's header gives, by the low bits of T0, has passed (11 R367, R371). -/
def pastClose (s : State) (p : Packet) : Bool :=
  let d := (devNs s + 2 ^ 32 - bits p.spec.toNat 31 0) % 2 ^ 32
  decide (d < 2 ^ 31) && decide (s.pkg.lossyDeadline.toNat ≤ d)

/-- In the reliable class a block whose flits or lanes fail is replayed from its source, so it has
no effect here. A lossy block before its open packet is held, up to 64 for each port; one after the close is discarded.
None fails its CRC over the mesh. In FATAL a lossy block is discarded (12 R422). A refused open packet frees the places of the blocks
held for it; blocks that come after it are held as blocks before an open packet are, and keep their places (log 118). -/
def receiveBlock (p : Packet) (crcOk : Bool) (s : State) : Host.Outcome State Fault Refusal :=
  if badHeader p then .next (incReplay s 1)
  else if p.kind != .collBlock then notNow "COLL_BLOCK_RECEIVE"
  else if p.dst != nodeNo s then .next (sendPkts s [p])
  else if p.tc != 2 then
    if s.dev.fatal then .next (errTo s p 17)
    else if crcOk && lanesPass s (specOfWords (wordsOfBytes p.ext)) (blockOf p true) then .next (reliableBlock s p)
    else .next s
  else if s.dev.fatal then .next s
  else if p.src = nodeNo s && !crcOk then notNow "COLL_BLOCK_RECEIVE"
  else match findColl s p.src p.rid with
    | some c => .next (lossyBlock s c p crcOk (devNs s))
    | none =>
      if pastClose s p then .next s
      else if (s.net.early.filter (fun e => portIn s e.pkt == portIn s p)).length < 64 then
        .next (modNet s (fun n => { n with early := n.early ++ [{ src := p.src, rid := p.rid, pkt := p, ok := crcOk, since := devNs s }] }))
      else .next s

/-- COLL_BLOCK_RECEIVE (R372). -/
def execCollBlockReceive (p : Packet) (crcOk : Bool) (s : State) : Host.Outcome State Fault Refusal := receiveBlock p crcOk (landed s p)

/-- The zero-filled delivery of a block that is not intact (11 R367, R372). -/
def zeroBlock (g : Nat × Nat × Nat) (q : CollSpec) (r : State × CollRx) (b : Nat) : State × CollRx :=
  let k : Block := { b := b, nv := 0, sl := 0, al := 0, ok := false, bs := List.replicate 256 0 }
  match applyBlock r.1 g q k with
  | .nack => (r.1, { r.2 with refused := true })
  | .done s1 _ nf nv => (incLossy s1 1, noteBlock r.2 b 2 nf nv)

/-- The close of a lossy command: what is not intact is zero-filled, `tsig` arrives, the close packet goes out with the
counts. -/
def closeColl (s : State) (c : CollRx) : State :=
  let q := specOfWords c.spec
  let back (u : State) (k : PktKind) (spec : Nat) : State :=
    sendPkts u [{ dst := c.src, src := nodeNo s, tc := if k == .collClose then 3 else 1, kind := k, tag := c.tag.toNat, op := 0, addr := BitVec.ofNat 56 q.dst,
                  spec := BitVec.ofNat 128 spec, data := [], rid := c.rid }]
  match collGang s q with
  | none => back (dropColl s c) .nack 0
  | some g =>
    let lost := (List.range c.nb).filter (fun b => smFind c.blocks b != some 1)
    let r := lost.foldl (zeroBlock g q) (s, c)
    let s1 := dropColl r.1 c
    if r.2.refused then back s1 .nack 0
    else back (if q.tsig = 0 then s1 else collSignal s1 g q) .collClose
      (r.2.nonfin % 2 ^ 32 + r.2.novalid % 2 ^ 32 * 2 ^ 32 + r.2.firstNv % 2 ^ 32 * 2 ^ 64)

/-- LOSSY_CLOSE (R367): at the close time; not in FATAL, where the ports answer alone (12 R422). -/
def execLossyClose (s : State) : Host.Outcome State Fault Refusal :=
  match (if s.dev.fatal then none else s.net.colls.find? (fun c => c.lossy && decide (closeAt s c ≤ devNs s))) with
  | none => notNow "LOSSY_CLOSE"
  | some c => .next (closeColl s c)

/-- The originator's command is performed when it completes after this. -/
def receiveClose (p : Packet) (s : State) : Host.Outcome State Fault Refusal :=
  if badHeader p then .next (incReplay s 1)
  else if p.kind != .collClose then notNow "COLL_CLOSE_RECEIVE"
  else if p.dst != nodeNo s then .next (sendPkts s [p])
  else .next (takeAnswer s p)

/-- COLL_CLOSE_RECEIVE (R373). -/
def execCollCloseReceive (p : Packet) (s : State) : Host.Outcome State Fault Refusal := receiveClose p (landed s p)

/-! ## Scale-out ports (11 R376 to R378) -/

/-- Words of a memory-region entry. -/
def mrWord (s : State) (i w : Nat) : Nat := leNat (readPlace s (tablePlace s.dev.mrBase (32 * i + 8 * w)) 8)

/-- The region that a key and a range match, with the permission. -/
def regionFor (s : State) (rkey va n : Nat) (write : Bool) : Option Nat :=
  (List.range 1024).find? (fun i =>
    let base := bits (mrWord s i 0) 55 0
    let k := mrWord s i 2
    bits k 31 0 == rkey && (if write then bit k 32 else bit k 33) && decide (base ≤ va) && decide (va + n ≤ base + bits (mrWord s i 1) 39 0))

/-- The pages of a range with their places; none where one cannot be accessed. -/
def regionPlaces (s : State) (i : Option AddrSpace) (write : Bool) : List (Nat × Nat) → State × Option (List (Nat × Place × Bool × Nat))
  | [] => (s, some [])
  | (va, n) :: rest =>
    match portAt s i va (portReq write false) with
    | (s1, .bad _) => (s1, none)
    | (s1, .at_ p c) => match regionPlaces s1 i write rest with
      | (s2, none) => (s2, none)
      | (s2, some l) => (s2, some ((va, p, c, n) :: l))

def pagesOf (va n : Nat) : List (Nat × Nat) := cutGo 4096 va n (n / 4096 + 2)

/-- Sends an answer on a port, in packets where it carries more data than one holds. -/
def rdmaOut (s : State) (port qp kind va rkey psn : Nat) (bs : List Byte) : State :=
  rdmaSend s (rdmaParts s { port := port, qp := qp, kind := kind, va := va, rkey := rkey, len := bs.length, data := bs, psn := psn })

/-- The expected receive sequence number of a queue pair. -/
def qpExpected (s : State) (qp : Nat) : Nat := bits (qpWord s qp 1) 47 24

/-- Advances it by the packets that n bytes take. -/
def qpReceive (s : State) (qp n : Nat) : State :=
  let w := qpWord s qp 1
  setQpWord s qp 1 (w - bits w 47 24 * 2 ^ 24 + (bits w 47 24 + max 1 (ceilDiv n (qpMtu (qpWord s qp 0)))) % 2 ^ 24 * 2 ^ 24)

/-- Whether a sequence number is one that the queue pair has passed: its packet has come before (log 115). -/
def seenBefore (s : State) (qp psn : Nat) : Bool :=
  let d := (qpExpected s qp + 2 ^ 24 - psn % 2 ^ 24) % 2 ^ 24
  decide (0 < d) && decide (d ≤ 2 ^ 23)

/-- Whether a queue pair of a port receives: in RTR or RTS (11 R377). -/
def qpReceives (s : State) (port qp : Nat) : Bool :=
  qp < 4096 && (bits (qpWord s qp 0) 2 0 == 2 || bits (qpWord s qp 0) 2 0 == 3) && bits (qpWord s qp 0) 6 3 == port

/-- Where a packet of a write goes: its region, its address and the bytes to come after it; none where it is out of its message's
order, of a wrong size, or no region takes the whole message. -/
def writeSpot (s : State) (part : RdmaPart) (qp va rkey len n : Nat) : Option RdmaRx :=
  let mtu := qpMtu (qpWord s qp 0)
  match part, smFind s.net.rdmaRx qp with
  | .only, none => if n = len && n ≤ mtu then (regionFor s rkey va len true).map (fun r => { region := r, va := va, left := 0 }) else none
  | .first, none => if n = mtu && n < len then (regionFor s rkey va len true).map (fun r => { region := r, va := va, left := len - n }) else none
  | .middle, some x => if n = mtu && n < x.left then some { x with left := x.left - n } else none
  | .last, some x => if n = x.left && n ≤ mtu then some { x with left := 0 } else none
  | _, _ => none

def setRx (s : State) (qp : Nat) (x : Option RdmaRx) : State :=
  modNet s (fun n => { n with rdmaRx := match x with
    | none => smDel n.rdmaRx qp
    | some r => smPut n.rdmaRx qp r })

/-- A NAK of a queue pair: the message under way is given up. -/
def rdmaNak (s : State) (port qp va rkey psn : Nat) : State := rdmaOut (setRx s qp none) port qp 3 va rkey psn []

/-- A packet of an arriving write: performed at its home; with the last one the region's arrival and the acknowledgement. A NAK
writes nothing. -/
def rdmaWrite (s : State) (port qp rkey psn : Nat) (x : RdmaRx) (bs : List Byte) : State :=
  let i := portSpace s 0
  match regionPlaces s i true (pagesOf x.va bs.length) with
  | (s1, none) => rdmaNak s1 port qp x.va rkey psn
  | (s1, some l) =>
    let s2 := qpReceive (l.foldl (fun u w => viewWrite u i w.2.1 w.2.2.1 w.1 ((bs.drop (w.1 - x.va)).take w.2.2.2)) s1) qp bs.length
    if x.left != 0 then setRx s2 qp (some { x with va := x.va + bs.length })
    else
      let k := mrWord s2 x.region 2
      let s3 := if bit k 34 then putPh s2 (bits k 46 35) (phAnon (getPh s2 (bits k 46 35))) else s2
      rdmaOut (setRx s3 qp none) port qp 2 x.va rkey psn []

/-- Reads the places of a range; none where poisoned. -/
def regionRead (s : State) (i : Option AddrSpace) : List (Nat × Place × Bool × Nat) → State × Option (List Byte)
  | [] => (s, some [])
  | (va, p, c, n) :: rest =>
    match viewRead s i p c va n with
    | (s1, none) => (s1, none)
    | (s1, some bs) => match regionRead s1 i rest with
      | (s2, none) => (s2, none)
      | (s2, some cs) => (s2, some (bs ++ cs))

/-- An arriving read: a response with its data, or a NAK. One that comes again is answered again and counts once. -/
def rdmaRead (s : State) (port qp va rkey psn n : Nat) : State :=
  let nak (u : State) : State := rdmaOut u port qp 3 va rkey psn []
  let i := portSpace s 0
  match regionFor s rkey va n false with
  | none => nak s
  | some _ => match regionPlaces s i false (pagesOf va n) with
    | (s1, none) => nak s1
    | (s1, some l) => match regionRead s1 i l with
      | (s2, none) => nak s2
      | (s2, some bs) => rdmaOut (if seenBefore s qp psn then s2 else qpReceive s2 qp n) port qp 4 va rkey psn bs

/-- The operation of a command that awaits its answer. -/
def findRdma (s : State) (c : CtxId) (seq : Nat) : Option RdmaWait := s.net.rdma.find? (fun r => r.ctx == c && r.seq == seq)

def dropRdma (s : State) (r : RdmaWait) : State :=
  modNet s (fun n => { n with rdma := n.rdma.filter (fun q => !(q.ctx == r.ctx && q.seq == r.seq && q.iter == r.iter)) })

/-- Changes the command that a sent operation belongs to. -/
def onRdmaCmd (s : State) (r : RdmaWait) (f : Cmd → Cmd) : State :=
  match findCmd s { ctx := r.ctx, seq := r.seq, iter := r.iter } with
  | none => s
  | some c => putCmd s (f c)

def rdmaFails (s : State) (r : RdmaWait) : State :=
  onRdmaCmd (dropRdma s r) r (fun c => { c with failed := some (17, BitVec.ofNat 64 (r.msg.va % 2 ^ 56)) })

/-- A packet of a read's response: the parts are kept under key 1 until the last one has come. -/
def rdmaPart (s : State) (r : RdmaWait) (part : RdmaPart) (bs : List Byte) : State × Option (List Byte) :=
  let before := match getOwner s r.ctx r.iter with
    | none => []
    | some x => match findOp x r.seq with
      | none => []
      | some o => ((o.gathered.find? (fun g => g.1 == 1)).map (·.2)).getD []
  let all := if part = .only || part = .first then bs else before ++ bs
  let keep (l : List (Nat × List Byte)) : State := match getOwner s r.ctx r.iter with
    | none => s
    | some x => match findOp x r.seq with
      | none => s
      | some o => putOwner s (setOp x { o with gathered := o.gathered.filter (fun g => g.1 != 1) ++ l })
  if part = .only || part = .last then (keep [], some all) else (keep [(1, all)], none)

/-- The data of a read joins its command's operation. -/
def rdmaData_ (s : State) (r : RdmaWait) (bs : List Byte) : State :=
  match getOwner s r.ctx r.iter with
  | none => s
  | some x => match findOp x r.seq with
    | none => s
    | some o => putOwner s (setOp x { o with gathered := o.gathered ++ [(0, bs)] })

/-- A pause of a port's priority, or its end, at which what has waited goes out (11 R376). -/
def pausePort (s : State) (port : Nat) (on : Bool) : State :=
  if on then modNet s (fun n => { n with paused := port :: n.paused.filter (· != port) })
  else modNet s (fun n => { n with
    paused := n.paused.filter (· != port)
    rdmaOut := n.rdmaOut ++ n.rdmaHeld.filter (fun m => m.port == port)
    rdmaHeld := n.rdmaHeld.filter (fun m => m.port != port) })

/-- RDMA_RECEIVE (R378). A congestion notification slows its queue pair, which is timing alone (log 31). In FATAL a request is
answered with a NAK (12 R422). A packet out of its sequence is answered with a NAK, and one of a write that has come before is
acknowledged again and writes nothing (log 115). -/
def execRdmaReceive (port : Nat) (op : RdmaOp) (s : State) : Host.Outcome State Fault Refusal :=
  let drop : Host.Outcome State Fault Refusal := .next (modNet s (fun n => { n with dropped := n.dropped + 1 }))
  let held (va n : Nat) (s1 : State) : Host.Outcome State Fault Refusal := if frozenMeets s [(va, n)] then notNow "RDMA_RECEIVE" else .next (compared s1 3)
  match op with
  | .write part qp psn va rkey len bs =>
    if !qpReceives s port qp then drop
    else if s.dev.fatal then .next (rdmaNak s port qp va rkey.toNat psn)
    else if seenBefore s qp psn then .next (if part = .only || part = .last then rdmaOut s port qp 2 va rkey.toNat psn [] else s)
    else if psn != qpExpected s qp then .next (rdmaOut s port qp 3 va rkey.toNat psn [])
    else match writeSpot s part qp va rkey.toNat len bs.length with
      | none => .next (rdmaNak s port qp va rkey.toNat psn)
      | some x => held x.va bs.length (rdmaWrite s port qp rkey.toNat psn x bs)
  | .read qp psn va rkey n =>
    if !qpReceives s port qp then drop
    else if s.dev.fatal then .next (rdmaNak s port qp va rkey.toNat psn)
    else if !seenBefore s qp psn && psn != qpExpected s qp then .next (rdmaOut s port qp 3 va rkey.toNat psn [])
    else held va n (rdmaRead s port qp va rkey.toNat psn n)
  | .ack c seq => match findRdma s c seq with
    | some r => if r.msg.kind = 0 then .next (onRdmaCmd (dropRdma s r) r (fun k => { k with phase := 2 })) else drop
    | none => drop
  | .nak c seq => match findRdma s c seq with
    | some r => .next (rdmaFails s r)
    | none => drop
  | .readResponse part c seq bs => match findRdma s c seq with
    | some r =>
      if r.msg.kind != 1 then drop
      else match rdmaPart s r part bs with
        | (s1, none) => .next s1
        | (s1, some all) => if all.length = r.msg.len then .next (rdmaData_ (dropRdma s1 r) r all) else drop
    | none => drop
  | .marked qp => if qpReceives s port qp then .next (rdmaOut s port qp 5 0 0 0 []) else drop
  | .congestion qp => if qpReceives s port qp then .next s else drop
  | .pause on => .next (pausePort s port on)
  | .unsupported => drop

/-- The ACK timeout of a queue pair in cycles: 4.096 µs × 2^t at 1.2 GHz, rounded up (11 R377). -/
def ackTimeout (s : State) (qp : Nat) : Nat := ceilDiv (4096 * 2 ^ bits (qpWord s qp 1) 55 51 * 12) 10000

/-- RDMA_ACK_TIMEOUT (R377): the operation is sent again; with its retries exhausted the queue pair enters ERROR and the
command fails (10 R332). -/
def execRdmaAckTimeout (s : State) : Host.Outcome State Fault Refusal :=
  match s.net.rdma.find? (fun r => decide (r.since + ackTimeout s r.msg.qp ≤ s.ran)) with
  | none => notNow "RDMA_ACK_TIMEOUT"
  | some r =>
    if r.tries < bits (qpWord s r.msg.qp 1) 50 48 then
      .next (modNet (rdmaSend s (rdmaParts s r.msg)) (fun n => { n with
        rdma := n.rdma.map (fun q => if q.ctx == r.ctx && q.seq == r.seq && q.iter == r.iter then { q with since := s.ran, tries := q.tries + 1 } else q) }))
    else
      let w := qpWord s r.msg.qp 0
      .next (rdmaFails (setQpWord s r.msg.qp 0 (w / 8 * 8 + 4)) r)

end Sys2Proof.Machine
end

