-- ==== Sys2Proof/Machine/Contain.lean ====
section
/-!
DEFINITION. Purges as steps (12 R420, R421), the scrub and soft errors (12 R422, 07 R225, 09 R279), invalidations performed
(R388) and the migration of a tensor (R396).
-/
namespace Sys2Proof.Machine

/-! ## Purges (12 R420, R421) -/

/-- Whether something here is a cause of a purge of a tag (12 R420): poison that the tag consumed, a `purge` under way, an active
launch whose policy is ABORT, a drain over its bound, a context at SH, or one of a joined pair; a host may ask for it at
any time, and another node's packet comes as one (log 104). -/
def purgeCaused (s : State) (tag : Nat) (cause : PurgeCause) : Bool :=
  let mine (x : Ctx) : Bool := x.env.tag.toNat == tag
  match cause with
  | .poison => s.pkg.poisonRecs.any (fun r => r.2.consumed && r.2.tag.toNat == tag)
  | .instr => (allCtxs s ++ s.ghosts).any (fun x => x.ops.any (fun o => o.started && (match o.kind with
    | .purge _ t => t == tag
    | _ => false)))
  | .abort => s.spring.insts.any (fun i => i.tag.toNat == tag && bits (launchWord s i.entry 0) 6 5 == 2)
  | .drain => s.spring.iters.any (fun i => i.tag.toNat == tag && i.state == .stopping && i.lost)
  | .shTrap => (allCtxs s).any (fun x => mine x && x.lvl == 2)
  | .mismatch => (allCtxs s).any (fun x => mine x && x.joined)
  | .host => true
  | .remote => false

/-- PURGE_START (R420) of a tag that is not 0, for a cause. -/
def execPurgeStart (tag : Nat) (cause : PurgeCause) (s : State) : Host.Outcome State Fault Refusal :=
  if tag = 0 || 65536 ≤ tag || !purgeCaused s tag cause then notNow "PURGE_START"
  else .next (startPurge s (BitVec.ofNat 16 tag) (purgeCode cause))

/-- A purge by another node: the local purge, a notice, the acknowledgement (R420). -/
def purgeFor (s : State) (p : Packet) : State :=
  let s1 := postNotice (purgeLocal s (.tag (BitVec.ofNat 16 p.tag))) 1 p.tag (purgeCode .remote)
  sendPkts s1 [purgePacket s1 p.src .purgeAck p.tag (bits p.spec.toNat 3 0) (bits p.spec.toNat 15 4)]

/-- PURGE_PACKET_RECEIVE (R420). -/
def execPurgePacketReceive (p : Packet) (s : State) : Host.Outcome State Fault Refusal :=
  if badHeader p then .next (incReplay s 1)
  else if p.kind != .purge then notNow "PURGE_PACKET_RECEIVE"
  else if p.dst != nodeNo s then .next (sendPkts s [p])
  else if s.dev.fatal then .next (errTo s p 17)
  else if p.tag = 0 then notNow "PURGE_PACKET_RECEIVE"
  else .next (purgeFor s p)

/-- PURGE_ACK_RECEIVE (R420). -/
def execPurgeAckReceive (p : Packet) (s : State) : Host.Outcome State Fault Refusal :=
  if badHeader p then .next (incReplay s 1)
  else if p.kind != .purgeAck then notNow "PURGE_ACK_RECEIVE"
  else if p.dst != nodeNo s then .next (sendPkts s [p])
  else if s.pkg.purges.any (fun q => q.tag.toNat == p.tag && q.awaiting.contains p.src) then
    .next (modPkg (compared s 2) (fun g => ackPurge g (BitVec.ofNat 16 p.tag) p.src))
  else notNow "PURGE_ACK_RECEIVE"

/-! ## Errors of themselves (07 R225, 09 R279, 12 R422) -/

/-- SCRUB (R422): the two copies of each table are compared. -/
def execScrub (s : State) : Host.Outcome State Fault Refusal := .next (([0, 1, 2, 3] : List Nat).foldl compared s)

/-- Marks a flipped bit; a second flip of the same bit restores it. -/
def flipMark (l : List Flip) (f : Flip) : List Flip := if l.contains f then l.filter (fun g => g != f) else f :: l

/-- A bit of a memory unit flips. -/
def flipUnit (s : State) (f : Flip) : State := modMem s (fun m => { m with flips := flipMark m.flips f })

/-- Flips bit b of a value of a sparse map. -/
def flipIn (m : SMap Nat) (k b : Nat) : SMap Nat := smSet m k (smGet m k 0 ^^^ (2 ^ b)) 0

/-- A bit of a bank flips, at once in what the bank holds. -/
def flipBank (s : State) (cl b : Nat) (f : Bank → Bank) : Option State :=
  if cl < 80 && b < 4 then some (putBank s cl b (f (getBank s cl b))) else none

/-- The state with a bit flipped; none where there is no such bit. -/
def flipped (s : State) (f : FlipAt) : Option State :=
  match f with
  | .mere cl off b =>
    if cl < 80 && off < 768 * 4096 && b < 8 then
      some (flipUnit s { place := 0, addr := cl * 2 ^ 22 + off / 8 * 8, bit := off % 8 * 8 + b }) else none
  | .hbm pa b => if pa < hbmBytes && b < 8 then some (flipUnit s { place := 2, addr := pa / 32 * 32, bit := pa % 32 * 8 + b }) else none
  | .carved o b =>
    if o < s.pkg.carve * 64 * 2 ^ 20 && b < 8 then some (flipUnit s { place := 3, addr := o / 32 * 32, bit := o % 32 * 8 + b }) else none
  | .bankElem cl bn i j b =>
    if i < 256 && j < 256 && b < 32 then flipBank s cl bn (fun y => { y with el := flipIn y.el (256 * i + j) b }) else none
  | .bankSrow cl bn i b => if i < 256 && b < 32 then flipBank s cl bn (fun y => { y with srow := flipIn y.srow i b }) else none
  | .bankArow cl bn i b => if i < 256 && b < 32 then flipBank s cl bn (fun y => { y with arow := flipIn y.arow i b }) else none
  | .bankScol cl bn j b => if j < 256 && b < 32 then flipBank s cl bn (fun y => { y with scol := flipIn y.scol j b }) else none
  | .bankAcol cl bn j b => if j < 256 && b < 32 then flipBank s cl bn (fun y => { y with acol := flipIn y.acol j b }) else none
  | .table t w c b =>
    if t < 4 && c < 2 && b < 72 then
      let f : Flip := { place := t, addr := 2 * w + c, bit := b }
      some (modPkg s (fun g => { g with damage := flipMark g.damage f }))
    else none

/-- SOFT_ERROR (07 R225). -/
def execSoftError (f : FlipAt) (s : State) : Host.Outcome State Fault Refusal :=
  match flipped s f with
  | none => notNow "SOFT_ERROR"
  | some s1 => .next s1

/-! ## Invalidations (12 R387, R388) -/

/-- An invalidation's word: kind, and its fields where every unused bit is 0. -/
inductive InvalKind where
  | page (asn va : Nat)
  | space (asn : Nat)
  | all
  | handle (idx : Nat)
  | nothing
  deriving DecidableEq, Repr, Inhabited

def invalKind (w : Nat) : InvalKind :=
  let asn := bits w 61 50
  let v := bits w 43 0
  if bits w 49 44 != 0 then .nothing
  else match bits w 63 62 with
    | 0 => .page asn (v * 4096)
    | 1 => if v = 0 then .space asn else .nothing
    | 2 => if asn = 0 && v = 0 then .all else .nothing
    | _ => if asn = 0 && v < 4096 then .handle v else .nothing

/-- Whether an invalidation matches a TLB entry. -/
def invalHits (k : InvalKind) (e : TlbEntry) : Bool :=
  match k with
  | .page asn va => tlbHit asn va e
  | .space asn => e.asn == asn
  | .all => true
  | _ => false

/-- Whether an address of an address space may have been translated with a matching entry, which a TLB may have given up since:
one of any page size (log 98). -/
def invalTouches (k : InvalKind) (asn va : Nat) : Bool :=
  match k with
  | .page a v => a == asn && va / 2 ^ 34 == v / 2 ^ 34
  | .space a => a == asn
  | .all => true
  | _ => false

/-- Writes accepted at a holder below package scope, or in the queue of a receiving port, that a matching entry translated (R388,
condition 3). -/
def invalHeld (s : State) (k : InvalKind) : Bool :=
  (allCtxs s ++ s.ghosts).any (fun x => x.ops.any (fun o => isBuffered o && (match o.kind with
    | .store _ ws => ws.any (fun w => invalTouches k x.env.asn w.1)
    | _ => false)))
    || s.net.portq.any (fun w => w.runs.any (fun r => invalTouches k w.asn r.1))

/-- Drops the matching TLB entries and handle-cache entries of the package. -/
def dropMatches (s : State) (k : InvalKind) : State :=
  let keep (l : List TlbEntry) : List TlbEntry := l.filter (fun e => !invalHits k e)
  let core (y : Core) : Core := match k with
    | .handle i => { y with hcache := smDel y.hcache i }
    | _ => y
  let s1 := { s with clusters := s.clusters.map (fun c =>
    (c.1, { c.2 with tlb := keep c.2.tlb, cores := c.2.cores.map (fun y => (y.1, core y.2)) })) }
  modPkg s1 (fun g => { g with tlb := keep g.tlb })

/-- The store of an invalidation is performed with it. -/
def invalDone (s : State) (i : Inval) : State :=
  match i.src with
  | none => s
  | some (c, seq) => match findOwner s c seq with
    | none => s
    | some x => match findOp x seq with
      | none => s
      | some o => putOwner s (opOut x o)

/-- INVALIDATION_PERFORMED (R388): of the accepted invalidation that `which` names. -/
def execInvalidationPerformed (s : State) : Host.Outcome State Fault Refusal :=
  let l := s.pkg.invals
  let ready (n : Nat) : Bool := match l[n]? with
    | some i => !invalHeld s (invalKind i.word.toNat)
    | none => false
  match choose s ((List.range l.length).filter ready) with
  | none => notNow "INVALIDATION_PERFORMED"
  | some n => match l[n]? with
    | none => notNow "INVALIDATION_PERFORMED"
    | some i =>
      let s1 := modPkg s (fun g => { g with invals := g.invals.eraseIdx n })
      .next (invalDone (dropMatches s1 (invalKind i.word.toNat)) i)

/-! ## Migration (12 R396) -/

/-- Step 3: whether a write accepted at a holder touches the old ranges. -/
def migrationHeld (s : State) (m : Migration) : Bool :=
  let old := [(m.base, m.len), (m.metaBase, m.metaLen)]
  (allCtxs s ++ s.ghosts).any (fun x => x.ops.any (fun o => isBuffered o && rangesMeet old (opRanges o.kind)))
    || s.net.portq.any (fun w => rangesMeet old (w.runs.map (fun r => (r.1, r.2.2.2.length))))

/-- The accesses of the copy: stored bytes, whatever the page holds. -/
def moveReq (write : Bool) : AccReq := { write := write, noHost := false, noPeer := true, noComp := false, frozen := false }

/-- Copies n pieces of u bytes; the failure that abandons the migration. -/
def moveBytes (s : State) (m : Migration) (from_ dst u : Nat) : Nat → State × Option (Nat × Nat)
  | 0 => (s, none)
  | n + 1 =>
    match translate s m.cl m.asn m.root m.lvl from_ (moveReq false) with
    | (s1, .bad t) => (s1, some (t.cause, t.addr))
    | (s1, .ok p) => match translate s1 m.cl m.asn m.root m.lvl dst (moveReq true) with
      | (s2, .bad t) => (s2, some (t.cause, t.addr))
      | (s2, .ok q) =>
        let s3 := probeRange s2 p u
        match firstPoisoned s3 p u with
        | some a => (s3, some (10, poisonAt p from_ a))
        | none => moveBytes (writePlace s3 q (readPlace s3 p u)) m (from_ + u) (dst + u) u n

/-- The end of a `hmov` with a status (12 R394). -/
def hmovStatus (st : Nat) (x : Ctx) (o : MemOp) : Ctx :=
  match o.kind with
  | .handle d _ _ _ _ _ => opOut (opResult x o.seq (.s d) st) o
  | _ => x

/-- Steps 4 and 5: the copy, the new bases, the previous state, the lines of a PINNED tensor, status 0. -/
def moveTensor (s : State) (m : Migration) : State :=
  let ws := entryWords s m.idx
  let dst := bits (ws.getD 4 0).toNat 55 0
  let toMeta := bits (ws.getD 5 0).toNat 55 0
  let r := match moveBytes s m m.base dst 4096 (m.len / 4096) with
    | (s1, some f) => (s1, some f)
    | (s1, none) => moveBytes s1 m m.metaBase toMeta 4 (m.metaLen / 4)
  match r with
  | (s1, some (cause, a)) => abandonMigration s1 m cause a
  | (s1, none) =>
    let put (t : State) (w v : Nat) : State := writePlace t (tablePlace t.pkg.hBase (128 * m.idx + 8 * w)) (natLe 8 v)
    let s2 := put s1 1 dst
    let s3 := if (hEntryOf ws).comp then put s2 3 toMeta else s2
    let s4 := setRes (put (put s3 4 0) 5 0) m.idx m.prev
    let s5 := dropMatches (dropLines s4 m.idx) (.handle m.idx)
    let load (t : State) (va : Nat) : State × Acc := translate t m.cl m.asn m.root m.lvl va (moveReq false)
    let s6 := if m.prev = 2 then (loadTensor s5 m.idx load (hEntryOf (entryWords s5 m.idx))).1 else s5
    let s7 := modPkg s6 (fun g => { g with migrations := g.migrations.filter (fun n => n.idx != m.idx),
                                           frozen := g.frozen.filter (fun n => n != m.idx) })
    match getOwner s7 m.ctx m.iter with
    | none => s7
    | some x => match findOp x m.seq with
      | none => s7
      | some o => putOwner s7 (hmovStatus 0 x o)

/-- The entry is read again first: where its bytes are poisoned it is recorded, the migration is given up and the `hmov` reports
status 3 (12 R389; log 116). -/
def finishMigration (s0 : State) (m : Migration) : State :=
  let s := probeEntry s0 m.idx
  if entryPoisoned s m.idx then giveUpMigration s m (hmovStatus 3) else moveTensor s m

/-- HMOV_MIGRATE (R396): of the migration in progress that `which` names by its entry. -/
def execHmovMigrate (s : State) : Host.Outcome State Fault Refusal :=
  match choose s ((s.pkg.migrations.filter (fun m => !migrationHeld s m)).map (·.idx)) with
  | none => notNow "HMOV_MIGRATE"
  | some i => match s.pkg.migrations.find? (fun m => m.idx == i) with
    | none => notNow "HMOV_MIGRATE"
    | some m => .next (finishMigration s m)

end Sys2Proof.Machine
end

