-- ==== Sys2Proof/Machine/Boot.lean ====
section
/-!
DEFINITION. The boot flash and the boot ROM (17 R486 to R496), and the resets (R499, R500).
-/
namespace Sys2Proof.Machine

/-! ## Boot flash (17 R486, R487) -/

/-- Flash of 64 MiB; a cell holds the complement of its byte, so that an erased byte is not listed (log 8). -/
def flashBytes : Nat := 2 ^ 26
def flashGet (s : State) (a n : Nat) : List Byte := (cellsGet s.dev.flash a n).map (fun b => ~~~b)
def flashPut (s : State) (a : Nat) (bs : List Byte) : State :=
  modDev s (fun d => { d with flash := cellsPut d.flash a (bs.map (fun b => ~~~b)) })

/-- A field of n bytes of a block read from flash. -/
def fld (bs : List Byte) (off n : Nat) : Nat := leNat ((bs.drop off).take n)
def slice (bs : List Byte) (off n : Nat) : List Byte := (bs.drop off).take n
def allZero (bs : List Byte) : Bool := bs.all (fun b => b == 0)

/-- One step of the CRC-32 of IEEE 802.3, bit by bit. -/
def crcBits (c : Nat) : Nat → Nat
  | 0 => c
  | n + 1 => crcBits (if c % 2 = 1 then (c / 2) ^^^ 0xEDB88320 else c / 2) n

def crc32 (bs : List Byte) : Nat := (bs.foldl (fun c b => crcBits (c ^^^ b.toNat) 8) 0xFFFF_FFFF) ^^^ 0xFFFF_FFFF

/-! ## Status record (17 R488, R492) -/

def statusCopy (s : State) (k : Nat) : List Byte := flashGet s (4096 * k) 4096

def statusOk (r : List Byte) : Bool :=
  fld r 0 8 == 0x57A7 && fld r 0xFFC 4 == crc32 (r.take 0xFFC) && fld r 0x10 8 / 8 == 0 && fld r 0x18 8 / 2 ^ 18 == 0
    && fld r 0x28 8 / 2 ^ 16 == 0 && allZero (slice r 0x38 4036)

/-- The copy in use and its bytes; none where neither qualifies. -/
def statusUsed (s : State) : Option (Nat × List Byte) :=
  let a := statusCopy s 0
  let b := statusCopy s 1
  if statusOk a then (if statusOk b && fld a 8 8 < fld b 8 8 then some (1, b) else some (0, a))
  else if statusOk b then some (1, b) else none

def statusWord (s : State) (off : Nat) : Nat := ((statusUsed s).map (fun u => fld u.2 off 8)).getD 0

/-- The boot ROM's record after a self-test: TRANSPORTED and bit 1 clear, bit 2 its outcome, the time; into the copy not in
use, with the next sequence number. -/
def writeStatus (s : State) (failed : Bool) : State :=
  let seq := statusWord s 8 + 1
  let body := natLe 8 0x57A7 ++ natLe 8 seq ++ natLe 8 (4 * failed.toNat) ++ natLe 8 (statusWord s 0x18) ++ natLe 8 (statusWord s 0x20)
    ++ natLe 8 (statusWord s 0x28) ++ natLe 8 (devNs s) ++ List.replicate 4036 0
  flashPut s (match statusUsed s with
    | some (0, _) => 4096
    | some _ => 0
    | none => 0) (body ++ natLe 4 (crc32 body))

/-! ## Configuration block (17 R489, R491 steps 1 and 2) -/

def configBlock (s : State) : List Byte := flashGet s 0x2000 4096

/-- The key that signs the block and the image: the owner key, certified by the root key, or the root key. -/
def signKey (cfg : List Byte) : Option (List Byte) :=
  if bit (fld cfg 0x58 8) 0 then
    let owner := slice cfg 0x60 96
    if Config.ecdsaOk Config.rootKey (Config.sha384 owner) (slice cfg 0xC0 96) then some owner else none
  else some Config.rootKey

/-- Units of a form (06 R193): UNITS, UNITS_CLA, UNITS_CLB. -/
def formUnits (form : Nat) : Nat × Nat × Nat := (if form = 1 then 0xF else 0x3FFFF, 2 ^ 64 - 1, 0xFFFF)

/-- Clusters that two masks name. -/
def clustersOf (a b : Nat) : List Nat := (List.range 80).filter (fun c => if c < 64 then bit a c else bit b (c - 64))

/-- Units that a block may name: present on the form; on an OBZ-V6-P-C four clusters of each quarter are cleared. -/
def unitsOk (form u a b : Nat) : Bool :=
  let f := formUnits form
  (u &&& f.1) == u && b < 2 ^ 16 &&
    (form != 2 || (List.range 4).all (fun q => ((clustersOf a b).filter (fun c => quarter c == q)).length == 16))

/-- A table base: its bits, alignment, and the span in its memory. -/
def baseOkAt (carve b al n : Nat) : Bool :=
  bits b 62 52 == 0 && bits b 51 0 % al == 0 && decide (bits b 51 0 + n ≤ (if bit b 63 then carve * 64 * 2 ^ 20 else hbmBytes))

def spansApart (a n b m : Nat) : Bool :=
  bit a 63 != bit b 63 || decide (bits a 51 0 + n ≤ bits b 51 0) || decide (bits b 51 0 + m ≤ bits a 51 0)

/-- The field checks of R491 step 2. -/
def configOk (s : State) (cfg : List Byte) : Bool :=
  let w (o : Nat) : Nat := fld cfg o 8
  let carve := w 0x30
  fld cfg 0 8 == 0xC0F6 && w 8 % 2 ^ 32 == 1 && w 0x10 == s.dev.part.toNat + s.dev.form.toNat * 2 ^ 16
    && unitsOk s.dev.form.toNat (w 0x18) (w 0x20) (w 0x28) && decide (carve ≤ 16)
    && baseOkAt carve (w 0x38) 128 (2 ^ 19) && baseOkAt carve (w 0x40) 128 (2 ^ 15) && baseOkAt carve (w 0x48) 256 (2 ^ 18)
    && spansApart (w 0x38) (2 ^ 19) (w 0x40) (2 ^ 15) && spansApart (w 0x38) (2 ^ 19) (w 0x48) (2 ^ 18)
    && spansApart (w 0x40) (2 ^ 15) (w 0x48) (2 ^ 18) && decide (w 0x50 < 4096) && decide (w 0x58 < 4) && allZero (slice cfg 0x150 3664)

/-- Whether the block's signature verifies. -/
def configSigned (cfg : List Byte) : Bool :=
  match signKey cfg with
  | none => false
  | some k => Config.ecdsaOk k (Config.sha384 (cfg.take 0xFA0)) (slice cfg 0xFA0 96)

/-! ## Supervisor image (17 R490) -/

def imageAt : Nat := 0x10_0000
def imageHead (s : State) : List Byte := flashGet s imageAt 0x80
def imageLen (s : State) : Nat := fld (imageHead s) 0x18 8
/-- The signed bytes of the image. -/
def signedImage (s : State) : List Byte := flashGet s imageAt (0x80 + imageLen s)

def imageOk (s : State) (cfg : List Byte) : Bool :=
  let h := imageHead s
  let base := fld h 0x10 8
  let n := imageLen s
  fld h 0 8 == 0x5B1E && decide (fld h 8 8 < 2 ^ 32) && decide (fld cfg 8 8 / 2 ^ 32 ≤ fld h 8 8) && base % 4096 == 0
    && n % 8 == 0 && decide (n ≤ 62 * 2 ^ 20) && decide (base + n ≤ hbmBytes) && fld h 0x20 8 % 8 == 0 && decide (fld h 0x20 8 < 2 ^ 48)
    && allZero (slice h 0x28 88) && (match signKey cfg with
        | none => false
        | some k => Config.ecdsaOk k (Config.sha384 (signedImage s)) (flashGet s (imageAt + 0x80 + n) 96))

/-! ## Retired-row maps (12 R414, 17 R487, R491 step 4) -/

/-- The 64 bytes of a map. -/
def mapBytes (m : RowMap) : List Byte :=
  m.spares.flatMap (fun v => natLe 2 v.toNat) ++ natLe 8 m.mode.toNat ++ natLe 40 m.retired.toNat

def mapOf (bs : List Byte) : RowMap :=
  { spares := (List.range 8).map (fun i => BitVec.ofNat 9 (fld bs (2 * i) 2)), mode := BitVec.ofNat 2 (fld bs 0x10 8),
    retired := BitVec.ofNat 320 (fld bs 0x18 40) }

/-- A copy of the maps: its sequence number and 80 maps; none where it is ignored. -/
def mapsCopy (s : State) (at_ : Nat) : Option (Nat × List RowMap) :=
  let b := flashGet s at_ 0x1440
  if fld b 0 8 == 0x7A4D && fld b 0x10 4 == crc32 (b.take 0x10 ++ b.drop 0x40) then
    some (fld b 8 8, (List.range 80).map (fun c => mapOf (slice b (64 + 64 * c) 64)))
  else none

/-- A map with one more row retired: onto a free spare, else in halves, else out of service (09 R306 to R308). -/
def retireMap (m : RowMap) (p : Nat) : RowMap :=
  if m.retired.getLsbD p then m
  else
    let m1 : RowMap := { m with retired := m.retired ||| (1#320 <<< p) }
    let l := logicalRow m p
    if l = 511 then m1
    else match (if m.mode = 0 then freeSpare m1 else none) with
      | some sp => { m1 with spares := (m.spares.map (fun v => if v.toNat = l then 511 else v)).set sp (BitVec.ofNat 9 l) }
      | none => { m1 with mode := if (goodRows m1).length < 129 then 2 else 1 }

/-- Retires every row of a mask. -/
def retireAll (m : RowMap) (mask : Nat) : RowMap := ((List.range 265).filter (fun p => bit mask p)).foldl retireMap m

/-- The maps the boot ROM loads: of two valid copies the newer, with the rows that only the older retires. -/
def loadedMaps (s : State) : List RowMap :=
  match mapsCopy s 0x1_0000, mapsCopy s 0x2_0000 with
  | some a, some b =>
    let hi := if a.1 < b.1 then b.2 else a.2
    let lo := if a.1 < b.1 then a.2 else b.2
    (hi.zip lo).map (fun p => retireAll p.1 p.2.retired.toNat)
  | some a, none => a.2
  | none, some b => b.2
  | none, none => List.replicate 80 RowMap.initial

/-! ## Self-test (17 R495, R496; log 15) -/

/-- A report entry of 64 bytes. -/
def testEntry (unit result : Nat) (detail : BitVec 448) : List Byte :=
  natLe 2 unit ++ natLe 6 result ++ natLe 56 detail.toNat

/-- The array test of a cluster: the rows found faulty are retired. -/
def testArray (s : State) (cl : Nat) : State × List Byte × Bool :=
  let d := Config.selfTestDetail s.draws cl
  let m := (getCl s cl).rowMap
  let m1 := retireAll m (d.toNat % 2 ^ 265)
  if m1 = m then (s, testEntry cl 0 0, false)
  else
    let n := ((List.range 265).filter (fun p => m1.retired.getLsbD p && !m.retired.getLsbD p)).length
    let s1 := tellMap (modPkg (modCl s cl (fun x => { x with rowMap := m1 })) (fun g => { g with errRowret := satInc g.errRowret n })) cl
    (s1, testEntry cl (if m1.mode = 2 then 2 else 1) d, m1.mode == 2)

/-- Tests of Mere, Tarn, links and ports: reported only. -/
def testUnit (s : State) (unit : Nat) : List Byte × Bool :=
  let r := (Config.selfTestResult s.draws unit).toNat % 3
  (testEntry unit r (Config.selfTestDetail s.draws unit), r == 2)

/-- The units tested beside the arrays: Mere of each cluster, Tarn slices, links and ports present (log 15). -/
def otherUnits (s : State) : List Nat :=
  ((List.range 80).filter (clPresent s)).map (fun c => 128 + c) ++ (List.range 64).map (fun t => 256 + t)
    ++ ((List.range 18).filter (fun l => s.pkg.units.getLsbD l)).map (fun l => 384 + l)

/-- SELF_TEST: the tests, the report, notice 10, and the status record. -/
def selfTestRun (s : State) : State :=
  let a := ((List.range 80).filter (clPresent s)).foldl (fun (r : State × List Byte × Bool) cl =>
    let t := testArray r.1 cl
    (t.1, r.2.1 ++ t.2.1, r.2.2 || t.2.2)) (s, [], false)
  let o := (otherUnits s).map (testUnit s)
  let report := a.2.1 ++ o.flatMap (·.1)
  let s1 := modDev a.1 (fun d => { d with selfTest := report })
  writeStatus (postNotice { s1 with draws := s1.draws + 1 } 10 0 report.length) (a.2.2 || o.any (·.2))

/-! ## Boot (17 R491) -/

/-- A boot that fails: only BAR0 and the management interface answer. -/
def bootFails (s : State) (code : Nat) : State := modDev s (fun d => { d with boot := BitVec.ofNat 8 code })

/-- Step 2's results: units less the disabled ones, carve, bases (06 R193, 07 R222, 17 R492). -/
def takeConfig (s : State) (cfg : List Byte) : State :=
  let w (o : Nat) : Word := BitVec.ofNat 64 (fld cfg o 8)
  let off (o : Nat) : Word := ~~~(BitVec.ofNat 64 (statusWord s o))
  modPkg s (fun g => { g with
    units := w 0x18 &&& off 0x18, unitsA := w 0x20 &&& off 0x20, unitsB := w 0x28 &&& off 0x28, carve := fld cfg 0x30 8,
    hBase := w 0x38, lBase := w 0x40, logBase := w 0x48, notifyPh := fld cfg 0x50 8 })

/-- Step 4: the loaded maps, on every cluster. -/
def loadMaps (s : State) : State :=
  let maps := loadedMaps s
  { s with clusters := (List.range 80).map (fun c =>
      let x := getCl s c
      (c, { x with rowMap := maps.getD c RowMap.initial, cores := (List.range 8).map (fun k => (k, coreOf x k)) })) }

/-- SVEC on every core (step 6). -/
def loadVectors (s : State) (svec : Word) : State :=
  { s with clusters := s.clusters.map (fun c => (c.1, { c.2 with cores := c.2.cores.map (fun k => (k.1, { k.2 with svec := svec })) })) }

/-- Whether the certificate's hash is the one the block unlocks (17 R489, R501). -/
def unlocked (s : State) (cfg : List Byte) : Bool :=
  bit (fld cfg 0x58 8) 1
    && Config.sha384 (flashGet s 0x3004 (fld (flashGet s 0x3000 4) 0 4)) == BitVec.ofNat 384 (fld (slice cfg 0x120 48).reverse 0 48)

/-- The digests of what the boot ROM reads, which a report gives (17 R494); free ones where the flash does not answer (log 117). -/
def measure (s : State) (reads : Bool) : State :=
  modDev s (fun d =>
    if reads then { d with cfgDigest := Config.sha384 (configBlock s), imageDigest := Config.sha384 (signedImage s),
                           mapsDigest := Config.sha384 ((loadedMaps s).flatMap mapBytes) }
    else { d with cfgDigest := Config.unreadDigest s.draws, imageDigest := Config.unreadDigest (s.draws + 1),
                  mapsDigest := Config.unreadDigest (s.draws + 2) })

/-- 60 s, the most that the self-test takes (17 R495), in cycles. -/
def romBound : Nat := 72000000000

/-- A stage of the boot ROM begins at a cycle: it ends after a time that the manual does not give, of at most 60 s (log 75). -/
def romStage (s : State) (code from_ : Nat) : State :=
  { modDev s (fun d => { d with boot := BitVec.ofNat 8 code, st := code == 2,
                                romUntil := from_ + 1 + Config.romTime s.draws % romBound }) with draws := s.draws + 1 }

/-- BOOT begins: the part is in its ROM (17 R482, R491); `cold` after a power-on reset. -/
def boot (s : State) (cold : Bool) : State := romStage (modDev s (fun d => { d with bootCold := cold })) 1 s.cyc

/-- Step 6: the image is loaded and the part runs. -/
def bootEnds (s : State) : State :=
  let h := imageHead s
  let s1 := writePlace s { space := .hbm, addr := fld h 0x10 8, node := 0 } (flashGet s (imageAt + 0x80) (imageLen s))
  modDev (loadVectors s1 (BitVec.ofNat 64 (fld h 0x20 8))) (fun d =>
    { d with boot := 0, st := false, debugUnlock := unlocked s (configBlock s) })

/-- Whether the status record asks for the self-test: looked at after a power-on reset alone (17 R495, R500). -/
def testAsked (s : State) : Bool := s.dev.bootCold && statusWord s 0x10 % 4 != 0

/-- The code of the first of steps 1 to 3 that fails; none where they pass (17 R482, R491). -/
def bootFailure (s : State) (reads : Bool) : Option Nat :=
  let cfg := configBlock s
  if !reads then some 5
  else if !configSigned cfg then some 3
  else if !configOk s cfg then some 4
  else if !imageOk s cfg then some 3
  else none

/-- The boot ROM's steps up to the self-test, or up to the first failure; `from_` is the cycle at which they end. -/
def romSteps (s0 : State) (from_ : Nat) : State :=
  let reads := Config.flashAnswers s0.draws
  let s := { measure { s0 with draws := s0.draws + 1 } reads with draws := s0.draws + 4 }
  match bootFailure s reads with
  | some code => bootFails s code
  | none =>
    let s1 := loadMaps (takeConfig s (configBlock s))
    if testAsked s1 then romStage s1 2 from_ else bootEnds s1

/-- A stage of the boot ROM whose time has passed ends. -/
def romGo (s : State) : State :=
  if s.dev.romUntil ≤ s.cyc then
    if s.dev.boot = 1 then romSteps s s.dev.romUntil
    else if s.dev.boot = 2 then bootEnds (selfTestRun s)
    else s
  else s

/-- Whether the boot ROM runs. -/
def inRom (s : State) : Bool := s.dev.powered && (s.dev.boot == 1 || s.dev.boot == 2)

/-! ## Resets (17 R499, R500) -/

/-- A flash erase or program that power loss cuts off leaves free bytes (log 8). -/
def flashCut (s : State) : State :=
  match s.dev.flashBusy with
  | none => s
  | some (a, bs) =>
    let n := if bs = [] then 512 else 1
    let bytes := (List.range n).flatMap (fun i => natLe 8 (Config.freeWord (s.draws + i)).toNat)
    { flashPut s a bytes with draws := s.draws + n }

/-- The part without power: everything is lost but boot flash; the host's memory, the form and the schedule are not the
part's. -/
def powerLost (s : State) : State :=
  let s1 := flashCut (hostUpTo s (fun _ => true))
  { State.reset with
    cyc := s1.cyc, ran := s1.ran, agenda := s1.agenda, which := s1.which, draws := s1.draws
    mem := { Mem.empty with host := s1.mem.host }
    dev := { Dev.atReset with flash := s1.dev.flash, form := s1.dev.form, part := s1.dev.part, powered := false } }

/-- A power-on reset. -/
def powerOn (s : State) : State := boot (modDev (powerLost s) (fun d => { d with powered := true })) true

/-- Lines written in Tarn are lost with it: their bytes in HBM4 are free (log 25). -/
def loseLines (s : State) : State :=
  (s.pkg.lines.filter (fun l => s.mem.dirty.contains l.1)).foldl (fun t l =>
    let bytes := (List.range 16).flatMap (fun i => natLe 8 (Config.freeWord (t.draws + i)).toNat)
    { modMem t (fun m => { m with hbm := cellsPut m.hbm (128 * l.1) bytes }) with draws := t.draws + 16 }) s

/-- A flash operation goes on by itself while the part is reset. -/
def flashDone (s : State) : State :=
  match s.dev.flashBusy with
  | none => s
  | some (a, bs) => modDev (flashPut s a (if bs = [] then List.replicate 4096 0xFF else bs)) (fun d => { d with flashBusy := none })

/-- A warm reset: HBM4 and DEVTIME are kept (R500). -/
def warm (s : State) : State :=
  let s1 := flashDone (loseLines (hostUpTo s (fun _ => true)))
  boot { State.reset with
    cyc := s1.cyc, ran := s1.ran, agenda := s1.agenda, which := s1.which, draws := s1.draws
    mem := { Mem.empty with host := s1.mem.host, hbm := s1.mem.hbm, poisonHbm := s1.mem.poisonHbm,
                            flips := s1.mem.flips.filter (fun f => f.place == 2) }
    pkg := { Pkg.atReset with devtime := s1.pkg.devtime }
    dev := { Dev.atReset with flash := s1.dev.flash, form := s1.dev.form, part := s1.dev.part } } false

/-- An active launch is purged as by a host purge; with tag 0 its own items alone (12 R420). -/
def hostEnd (s : State) (i : Inst) : State :=
  let mine := s.spring.iters.filter (fun k => k.id.entry == i.entry)
  let tags := ((i.tag :: mine.map (·.tag)).filter (fun t => t != 0)).eraseDups
  let s1 := mine.foldl (fun u k => if k.tag = 0 then purgeWork u 0 k.uid 7 else u) s
  let s2 := tags.foldl (fun u t => startPurge u t 7) s1
  let s3 := if i.tag = 0 then setCtl (purgeTasks s2 i (fun _ => true)) i.entry 1 false else s2
  modSpring s3 (fun p => { p with insts := p.insts.filter (fun j => j.entry != i.entry) })

/-- A function-level reset (R500). -/
def functionReset (s : State) : State :=
  if s.dev.fatal then warm s
  else
    let s1 := modSpring (s.spring.insts.foldl hostEnd s) (fun p => { p with deferred := [] })
    modDev s1 (fun d => { d with
      expanded := false, launched := false, qpBase := 0, mrBase := 0, bar2 := 0, flashWin := 0, ringBase := 0, ringSize := 0,
      ringHead := 0, ringTail := 0, droppedN := 0, msix := 0, nonce := [], attNonce := [], attBusy := false, attReport := [] })

/-- POWER_ON_RESET (R500). -/
def execPowerOnReset (s : State) : Host.Outcome State Fault Refusal := .next (powerOn s)

/-- WARM_RESET (R500), by PERST#. -/
def execWarmReset (s : State) : Host.Outcome State Fault Refusal := .next (warm s)

/-- FUNCTION_LEVEL_RESET (R500). -/
def execFunctionLevelReset (s : State) : Host.Outcome State Fault Refusal := .next (functionReset s)

/-- RESETREQ_WRITE (R500): an 8-byte write of exactly 0x5EED. -/
def execResetreqWrite (v : Word) (n : Nat) (s : State) : Host.Outcome State Fault Refusal :=
  if n = 8 && v == 0x5EED then .next (warm s) else .next s

/-! ## Power and heat (13 R450, 17 R476, R477, R497 to R499) -/

/-- 100 µs, 20 µs and 2 ms in cycles of 1.2 GHz (00 R4). -/
def holdAfter : Nat := 120000
def holdSettle : Nat := 24000

/-- DROOP_ALARM (R450): its region freezes for at least 8 cycles. -/
def execDroopAlarm (region : Nat) (s : State) : Host.Outcome State Fault Refusal :=
  if 8 ≤ region || (smFind s.dev.alarms region).isSome then notNow "DROOP_ALARM"
  else .next (modDev s (fun d => { d with alarms := smPut d.alarms region s.cyc,
                                          freezeUntil := smSet d.freezeUntil region (s.cyc + 8) 0 }))

/-- DROOP_ALARM_CLEARED (R450). -/
def execDroopAlarmCleared (region : Nat) (s : State) : Host.Outcome State Fault Refusal :=
  if (smFind s.dev.alarms region).isNone then notNow "DROOP_ALARM_CLEARED"
  else .next (modDev s (fun d => { d with alarms := smDel d.alarms region, okSince := s.cyc }))

/-- HOLD_ENTER (R497): an alarm has stood for 100 µs. -/
def execHoldEnter (s : State) : Host.Outcome State Fault Refusal :=
  if !s.dev.hold && s.dev.alarms.any (fun a => decide (a.2 + holdAfter ≤ s.cyc)) then
    .next (postNotice (modDev s (fun d => { d with hold := true, holdSince := s.cyc })) 11 0 0)
  else notNow "HOLD_ENTER"

/-- Links idle for more than 2 ms retrain (R498). -/
def idleLinks (s : State) (n : Nat) : State :=
  if n ≤ retrainBound then s
  else ((List.range 6).filter (fun l => s.pkg.units.getLsbD l && (getLink s l).health == .up)).foldl (fun t l => setHealth t l .retraining) s

/-- HOLD_EXIT (R498): every supply has stayed within its limits for 20 µs; notice 12 gives the time in HOLD. -/
def execHoldExit (s : State) : Host.Outcome State Fault Refusal :=
  if s.dev.hold && s.dev.alarms.isEmpty && decide (s.dev.okSince + holdSettle ≤ s.cyc) then
    let n := s.cyc - s.dev.holdSince
    .next (postNotice (idleLinks (modDev s (fun d => { d with hold := false })) n) 12 0 (n * 5 / 6))
  else notNow "HOLD_EXIT"

/-- SUPPLY_RETENTION_LOSS (R499): all state is lost; a power-on reset follows. -/
def execSupplyRetentionLoss (s : State) : Host.Outcome State Fault Refusal :=
  if s.dev.hold then .next (powerLost s) else notNow "SUPPLY_RETENTION_LOSS"

/-- THROTTLE_ENTER (R476, R477): CUR_LIMIT is forced to 48. -/
def execThrottleEnter (s : State) : Host.Outcome State Fault Refusal :=
  if s.dev.throttle then notNow "THROTTLE_ENTER" else .next (modDev s (fun d => { d with throttle := true }))

/-- THROTTLE_EXIT (R477): the value that SH set returns. -/
def execThrottleExit (s : State) : Host.Outcome State Fault Refusal :=
  if s.dev.throttle then .next (modDev s (fun d => { d with throttle := false })) else notNow "THROTTLE_EXIT"

/-- THERMAL_TRIP (R476, R477): a power-off. -/
def execThermalTrip (s : State) : Host.Outcome State Fault Refusal := .next (powerLost s)

end Sys2Proof.Machine
end

