-- ==== Sys2Proof/Machine/Mgmt.lean ====
section
/-!
DEFINITION. The host port and the management window (17 R479 to R485), attestation (R494), the SMBus target and the IEEE 1149.1
port (R501).
-/
namespace Sys2Proof.Machine

/-! ## Registers of BAR0 (17 R481 to R485) -/

/-- DEVSTAT (R482). -/
def devstat (s : State) : Nat :=
  let d := s.dev
  d.boot.toNat * 2 ^ 24 + d.st.toNat * 2 ^ 22 + d.hold.toNat * 2 ^ 21 + d.fatal.toNat * 2 ^ 20 + d.form.toNat * 2 ^ 16 + d.part.toNat

/-- MGMTCFG (R483). -/
def mgmtcfg (s : State) : Nat :=
  let d := s.dev
  d.expanded.toNat * 2 ^ 32 + d.tz * 2 ^ 20 + d.ty * 2 ^ 16 + d.tx * 2 ^ 12 + d.tzn * 2 ^ 8 + d.tyn * 2 ^ 4 + d.txn

/-- The 8-byte word at an aligned offset of BAR0; what the table does not list, and write-only words, read 0. -/
def bar0Word (s : State) (o : Nat) : Nat :=
  let bytesAt (l : List Byte) (k : Nat) : Nat := leNat ((l.drop k).take 8)
  if o = 0 then devstat s
  else if o = 0x1000 then mgmtcfg s
  else if o = 0x1008 then s.pkg.rate.toNat
  else if o = 0x1010 then s.dev.qpBase.toNat
  else if o = 0x1018 then s.dev.mrBase.toNat
  else if o = 0x1030 then s.dev.bar2.toNat
  else if o = 0x1038 then s.dev.flashWin.toNat
  else if o = 0x1040 then s.dev.flashBusy.isSome.toNat
  else if 0x1100 ≤ o ∧ o < 0x1100 + 640 then pairmodeOf s ((o - 0x1100) / 8)
  else if 0x1_0000 ≤ o ∧ o < 0x1_0800 then launchWord s ((o - 0x1_0000) / 8) 0
  else if o = 0x2_0000 then s.dev.ringBase.toNat
  else if o = 0x2_0008 then s.dev.ringSize.toNat
  else if o = 0x2_0010 then s.dev.ringHead.toNat
  else if o = 0x2_0018 then s.dev.ringTail.toNat
  else if o = 0x2_0020 then s.dev.droppedN.toNat
  else if 0x3_0000 ≤ o ∧ o < 0x3_0030 then bytesAt s.dev.nonce (o - 0x3_0000)
  else if o = 0x3_0040 then s.dev.attBusy.toNat
  else if 0x3_0100 ≤ o ∧ o < 0x4_0000 then bytesAt s.dev.attReport (o - 0x3_0100)
  else if 0x4_0000 ≤ o ∧ o < 0x5_0000 then containWord s (o - 0x4_0000)
  else if 0x10_0000 ≤ o ∧ o < 0x20_0000 then bytesAt s.dev.selfTest (o - 0x10_0000)
  else if 0x20_0000 ≤ o ∧ o < 0x40_0000 then leNat (flashGet s (s.dev.flashWin.toNat * 2 ^ 21 + (o - 0x20_0000)) 8)
  else 0

/-- n bytes of BAR0. -/
def bar0Bytes (s : State) (o n : Nat) : List Byte :=
  (List.range n).map (fun i => BitVec.ofNat 8 (bar0Word s ((o + i) / 8 * 8) / 2 ^ (8 * ((o + i) % 8))))

/-- The dropped count clears when it is read (R485; 00 R9). -/
def clearDropped (s : State) : State := modDev s (fun d => { d with droppedN := 0 })

/-- What a host access returns. -/
def hostReturns (s : State) (bs : List Byte) : State := modDev s (fun d => { d with hostOut := bs, hostErr := false })
def hostFails (s : State) : State := modDev s (fun d => { d with hostOut := [], hostErr := true })

/-- A read of BAR0. -/
def bar0Read (s : State) (o n : Nat) : State :=
  let s1 := hostReturns s (bar0Bytes s o n)
  let s2 := if 0x4_0000 ≤ o ∧ o < 0x5_0000 then meetDamage s1 (o - 0x4_0000) else s1
  if o ≤ 0x2_0020 + 7 ∧ 0x2_0020 < o + n then clearDropped s2 else s2

/-! ## Writes to BAR0 -/

/-- The torus fields that a write gives, where they keep 11 R346: coordinates within their extents, one z plane on an
OBZ-V6-P-L. -/
def torusOk (s : State) (w : Nat) : Bool :=
  decide (bits w 15 12 ≤ bits w 3 0) && decide (bits w 19 16 ≤ bits w 7 4) && decide (bits w 23 20 ≤ bits w 11 8)
    && (s.dev.form != 1 || bits w 11 8 == 0)

/-- A write of MGMTCFG (R483). -/
def setMgmtcfg (s : State) (w : Nat) : State :=
  let s1 := modDev s (fun d => { d with expanded := bit w 32 })
  if s.dev.launched || !torusOk s w then s1
  else modDev s1 (fun d => { d with tx := bits w 15 12, ty := bits w 19 16, tz := bits w 23 20, txn := bits w 3 0,
                                    tyn := bits w 7 4, tzn := bits w 11 8 })

/-- An invalidation request of the host (R481). -/
def hostInval (s : State) (w : Word) : State := modPkg s (fun g => { g with invals := g.invals ++ [{ word := w, src := none }] })

/-- A purge request of the host (R481): tag 0 names no purge, and in FATAL no engine runs one (12 R422). -/
def hostPurge (s : State) (w : Word) : State :=
  let t := w.extractLsb' 0 16
  if t = 0 || s.dev.fatal then s else startPurge s t (purgeCode .host)

/-- A doorbell write (R484): no effect with a nonzero other bit, before the boot has ended, or in FATAL. -/
def doorbell (s : State) (e : Nat) (v : Word) : State :=
  if s.dev.boot != 0 || s.dev.fatal then s
  else if v == 1 then setArm s e true
  else if v == 0 then setArm s e false
  else s

/-- A write of the flash control (R481): with bit 0 an erase of a 4 KiB unit starts; ignored while one goes on. -/
def flashErase (s : State) (w : Word) : State :=
  if w.getLsbD 0 && s.dev.flashBusy.isNone then modDev s (fun d => { d with flashBusy := some (bits w.toNat 25 12 * 4096, []) }) else s

/-- A write through the flash window (R481) starts a program of 8 bytes; over bytes that are not erased it leaves free ones. -/
def flashProgram (s : State) (o : Nat) (w : Word) : State :=
  let a := s.dev.flashWin.toNat * 2 ^ 21 + o / 8 * 8
  if s.dev.flashBusy.isSome then s
  else if (flashGet s a 8).all (fun b => b == 0xFF) then modDev s (fun d => { d with flashBusy := some (a, natLe 8 w.toNat) })
  else { modDev s (fun d => { d with flashBusy := some (a, natLe 8 (Config.freeWord s.draws).toNat) }) with draws := s.draws + 1 }

/-- Eight bytes of the nonce at the mailbox (R494). -/
def putNonce (s : State) (k : Nat) (w : Word) : State :=
  let bs := natLe 8 w.toNat
  modDev s (fun d => { d with nonce := (List.range 48).map (fun i => if k ≤ i ∧ i < k + 8 then bs.getD (i - k) 0 else d.nonce.getD i 0) })

/-- An attestation request, with the nonce as it stands; ignored while a report is being built (R494). -/
def askAttest (s : State) : State := if s.dev.attBusy then s else modDev s (fun d => { d with attBusy := true, attNonce := d.nonce })

/-- A write to the mirror of the containment window (12 R413, R416): what it does not allow ends in an error. -/
def mirrorWrite (s : State) (o : Nat) (w : Word) : State :=
  if o = 0x4000 || (0x2000 ≤ o && o < 0x4000 && o % 16 == 0 && !w.getLsbD 56) then containPut s (containBase + o) w.toNat
  else hostFails s

/-- An 8-byte write of BAR0 at an aligned offset; what the table does not list takes no write. -/
def bar0Write (s : State) (o : Nat) (w : Word) : State :=
  if o = 0x40 then (if w == 0x5EED then warm s else s)
  else if o = 0x1000 then setMgmtcfg s w.toNat
  else if o = 0x1008 then modPkg s (fun g => { g with rate := w.extractLsb' 0 48 })
  else if o = 0x1010 then modDev s (fun d => { d with qpBase := w })
  else if o = 0x1018 then modDev s (fun d => { d with mrBase := w })
  else if o = 0x1020 then hostInval s w
  else if o = 0x1028 then hostPurge s w
  else if o = 0x1030 then modDev s (fun d => { d with bar2 := w &&& 0x000F_FFF0_0000_0000 })
  else if o = 0x1038 then modDev s (fun d => { d with flashWin := w &&& 0x1F })
  else if o = 0x1040 then flashErase s w
  else if 0x1100 ≤ o ∧ o < 0x1100 + 640 then setPairmode s ((o - 0x1100) / 8) w.toNat true
  else if 0x1_0000 ≤ o ∧ o < 0x1_0800 then doorbell s ((o - 0x1_0000) / 8) w
  else if o = 0x2_0000 then modDev s (fun d => { d with ringBase := w })
  else if o = 0x2_0008 then modDev s (fun d => { d with ringSize := w })
  else if o = 0x2_0010 then modDev s (fun d => { d with ringHead := w })
  else if 0x3_0000 ≤ o ∧ o < 0x3_0030 then putNonce s (o - 0x3_0000) w
  else if o = 0x3_0040 then (if w == 1 then askAttest s else s)
  else if 0x4_0000 ≤ o ∧ o < 0x5_0000 then mirrorWrite s (o - 0x4_0000) w
  else if 0x20_0000 ≤ o ∧ o < 0x40_0000 then flashProgram s (o - 0x20_0000) w
  else s

/-! ## Device global memory through BAR2 and CXL (17 R480) -/

/-- The physical address of a host access. -/
def hostPa (s : State) (hdm : Bool) (a : Nat) : Nat := if hdm then a else s.dev.bar2.toNat + a % 2 ^ 36

/-- The page of a run of virtual addresses, in 4 KiB steps, that a leaf maps to a physical page. -/
def pageAt (s : State) (asn root base n pa : Nat) : Option (Nat × Bool) :=
  (List.range (ceilDiv n 4096)).findSome? (fun k =>
    let va := base + 4096 * k
    match (lookupShared s asn root va).2 with
    | none => none
    | some leaf => match leafPlace s leaf va with
      | none => none
      | some p => if p.space = .hbm && p.addr / 4096 == pa / 4096 then some (va / 4096 * 4096 + pa % 4096, bit leaf 9) else none)

/-- The address spaces the package knows: of the active launches, then of the launch table's entries (12 R400). -/
def knownSpaces (s : State) : List AddrSpace :=
  (s.spring.insts.map (fun i => (instAsn i, instRoot i)) ++ (List.range 256).map (fun e =>
    (bits (launchWord s e 5) 63 52, bits (launchWord s e 5) 51 12 * 4096))).eraseDups

/-- The space and the virtual address under which a tensor's data lies at a physical address, and whether its page is compressed
(log 22). -/
def physVa (s : State) (pa : Nat) : Option (AddrSpace × Nat × Bool) :=
  (knownSpaces s).findSome? (fun sp => (validEntries s).findSome? (fun h =>
    let e := hEntryOf (entryWords s h)
    if hInvalid e then none else (pageAt s sp.1 sp.2 e.base (hDataLen e) pa).map (fun v => (sp, v))))

/-- The pieces of a physical range that lie in one page. -/
def physPieces (pa n : Nat) : List (Nat × Nat) := cutGo 4096 pa n (n / 4096 + 2)

/-- Whether a physical range touches a FROZEN one: the access is held at its port (12 R397). -/
def frozenPhys (s : State) (pa n : Nat) : Bool :=
  (physPieces pa n).any (fun q => s.pkg.migrations.any (fun m => [(m.base, m.len), (m.metaBase, m.metaLen)].any (fun r =>
    match pageAt s m.asn m.root r.1 r.2 q.1 with
    | none => false
    | some v => rangeMeets (v.1, q.2) r)))

/-- A piece of a host access as the controller meets it: space, virtual address, whether its page is compressed. -/
def hostView (s : State) (pa : Nat) : Option AddrSpace × Nat × Bool :=
  match physVa s pa with
  | some (sp, va, comp) => (some sp, va, comp)
  | none => (none, 2 ^ 60 + pa, false)

def hostPlace (pa : Nat) : Place := { space := .hbm, addr := pa, node := 0 }

/-- Reads the pieces of a host access; none where one is poisoned. -/
def hostRead (s : State) : List (Nat × Nat) → State × Option (List Byte)
  | [] => (s, some [])
  | (pa, n) :: rest =>
    let v := hostView s pa
    match viewRead s v.1 (hostPlace pa) v.2.2 v.2.1 n with
    | (s1, none) => (s1, none)
    | (s1, some bs) => match hostRead (homeTouch s1 v.2.1 (hostPlace pa)) rest with
      | (s2, none) => (s2, none)
      | (s2, some cs) => (s2, some (bs ++ cs))

/-- Writes the pieces of a host access. -/
def hostWrite (s : State) : List (Nat × Nat) → List Byte → State
  | [], _ => s
  | (pa, n) :: rest, bs =>
    let v := hostView s pa
    hostWrite (viewWrite s v.1 (hostPlace pa) v.2.2 v.2.1 (bs.take n)) rest (bs.drop n)

/-- An access of n bytes at a physical address: the bytes it finds, and what it writes of them (07 R235). Poison ends in an
error completion and is consumed (12 R417). -/
def hostAccess (s : State) (pa n : Nat) (f : List Byte → Option (List Byte)) (blind : Bool) : State :=
  if blind then hostReturns (hostWrite s (physPieces pa n) ((f []).getD [])) []
  else match hostRead s (physPieces pa n) with
    | (s1, none) => hostFails ((unitsOf .hbm pa n).foldl (fun u a => if (poisonList u .hbm).contains a then markConsumed u .hbm a 0 else u) s1)
    | (s1, some bs) => hostReturns (match f bs with
        | none => s1
        | some w => hostWrite s1 (physPieces pa n) w) bs

/-- The new value of a host atomic (R479). -/
def hostAtomic (op n u v t : Nat) : Option Nat :=
  match op with
  | 0 => some ((t + u) % 2 ^ (8 * n))
  | 1 => some u
  | _ => if t = u then some v else none

/-- The span of a host access to memory; none for BAR0. -/
def hostSpan (s : State) (a : HostAccess) : Option (Nat × Nat) :=
  match a with
  | .bar0 _ _ => none
  | .read h x n => some (hostPa s h x, n)
  | .write h x bs => some (hostPa s h x, bs.length)
  | .atomic h x _ n _ _ => some (hostPa s h x, n)

/-- What a host access does. -/
def hostDoes (s : State) (a : HostAccess) : State :=
  match a with
  | .bar0 o n => bar0Read s o n
  | .read h x n => hostAccess s (hostPa s h x) n (fun _ => none) false
  | .write h x bs => hostAccess s (hostPa s h x) bs.length (fun _ => some bs) true
  | .atomic h x op n u v =>
    hostAccess s (hostPa s h x) n (fun bs => (hostAtomic op n u v (leNat bs)).map (natLe n)) false

/-- Whether the port takes an access: atomics of 32 or 64 bits at aligned addresses; a read of at most 4,096 bytes, a write of at
most 512 (R479). -/
def hostShape (a : HostAccess) : Bool :=
  match a with
  | .bar0 o n => decide (o + n ≤ 2 ^ 22 ∧ n ≤ 4096)
  | .read _ _ n => decide (n ≤ 4096)
  | .write _ _ bs => decide (bs.length ≤ 512)
  | .atomic _ x _ n _ _ => (n == 4 || n == 8) && x % n == 0

/-- HOST_MEMORY_ACCESS (R480): an error completion in FATAL, before the boot has ended, and beyond HBM4; in HOLD and in a
FROZEN range the access is held. -/
def execHostMemoryAccess (a : HostAccess) (s : State) : Host.Outcome State Fault Refusal :=
  if !hostShape a then notNow "HOST_MEMORY_ACCESS"
  else match hostSpan s a with
  | none => .next (hostDoes s a)
  | some (pa, n) =>
    if s.dev.fatal || s.dev.boot != 0 || hbmBytes < pa + n then .next (hostFails s)
    else if s.dev.hold || frozenPhys s pa n then notNow "HOST_MEMORY_ACCESS"
    else .next (hostDoes (compared s 3) a)

/-! ## One arm per write of its own -/

/-- REGISTER_WRITE (00 R9, 17 R481): an 8-byte write at an aligned offset of BAR0. -/
def execRegisterWrite (o : Nat) (w : Word) (s : State) : Host.Outcome State Fault Refusal :=
  if o % 8 = 0 && o < 2 ^ 22 then .next (bar0Write s o w) else notNow "REGISTER_WRITE"

/-- DOORBELL_ARM (R484): a write with bit 0 = 1. -/
def execDoorbellArm (e : Nat) (v : Word) (s : State) : Host.Outcome State Fault Refusal :=
  if e < 256 && v.getLsbD 0 then .next (doorbell s e v) else notNow "DOORBELL_ARM"

/-- DOORBELL_DISARM (R484): a write with bit 0 = 0. -/
def execDoorbellDisarm (e : Nat) (v : Word) (s : State) : Host.Outcome State Fault Refusal :=
  if e < 256 && !v.getLsbD 0 then .next (doorbell s e v) else notNow "DOORBELL_DISARM"

/-- HOST_INVALIDATE (R481, 12 R387). -/
def execHostInvalidate (w : Word) (s : State) : Host.Outcome State Fault Refusal := .next (hostInval s w)

/-- HOST_PURGE_REQUEST (R481, 12 R420). -/
def execHostPurgeRequest (w : Word) (s : State) : Host.Outcome State Fault Refusal := .next (hostPurge s w)

/-- MGMTCFG_WRITE (R483). -/
def execMgmtcfgWrite (w : Word) (s : State) : Host.Outcome State Fault Refusal := .next (setMgmtcfg s w.toNat)

/-- PAIRMODE_WRITE (06 R201, 17 R481). -/
def execPairmodeWrite (cl : Nat) (w : Word) (s : State) : Host.Outcome State Fault Refusal :=
  if cl < 80 then .next (setPairmode s cl w.toNat true) else notNow "PAIRMODE_WRITE"

/-- DEVTIME_L_WRITE (13 R453): the step of all 80 bits. -/
def execDevtimeLWrite (w : Word) (s : State) : Host.Outcome State Fault Refusal := .next (stepTime s w.toNat)

/-- BOOT_FLASH_ERASE (R481). -/
def execBootFlashErase (w : Word) (s : State) : Host.Outcome State Fault Refusal := .next (flashErase s w)

/-- BOOT_FLASH_PROGRAM (R481). -/
def execBootFlashProgram (o : Nat) (w : Word) (s : State) : Host.Outcome State Fault Refusal :=
  if o < 2 ^ 21 then .next (flashProgram s o w) else notNow "BOOT_FLASH_PROGRAM"

/-- BOOT_FLASH_OPERATION_COMPLETE (R481): the erase or program in progress ends. -/
def execBootFlashOperationComplete (s : State) : Host.Outcome State Fault Refusal :=
  if s.dev.flashBusy.isNone then notNow "BOOT_FLASH_OPERATION_COMPLETE" else .next (flashDone s)

/-- DROPPED_COUNT_READ (R485): returns the count and clears it. -/
def execDroppedCountRead (s : State) : Host.Outcome State Fault Refusal := .next (bar0Read s 0x2_0020 8)

/-! ## Attestation (17 R494) -/

/-- A digest's bytes, most significant first. -/
def digestBytes (d : BitVec 384) : List Byte := (natLe 48 d.toNat).reverse

/-- The signed part of a report. -/
def reportBody (s : State) : List Byte :=
  natLe 8 (devstat s) ++ (List.range 48).map (fun i => s.dev.attNonce.getD i 0) ++ digestBytes Config.bootRomDigest ++ digestBytes s.dev.cfgDigest
    ++ digestBytes s.dev.imageDigest ++ digestBytes s.dev.mapsDigest ++ natLe 8 s.pkg.errRowret.toNat ++ natLe 8 s.pkg.errPair.toNat

/-- ATTESTATION_REQUEST (R494). -/
def execAttestationRequest (s : State) : Host.Outcome State Fault Refusal := .next (askAttest s)

/-- ATTESTATION_READY (R494): the report stands at 0x100 with its signature. -/
def execAttestationReady (s : State) : Host.Outcome State Fault Refusal :=
  if s.dev.attBusy then
    let b := reportBody s
    .next (modDev s (fun d => { d with attBusy := false, attReport := b ++ (natLe 96 (Config.identitySignature b).toNat).reverse }))
  else notNow "ATTESTATION_READY"

/-! ## SMBus and IEEE 1149.1 (17 R501) -/

def smbusGives (s : State) (bs : List Byte) : State := modDev s (fun d => { d with smbusOut := bs })

/-- SMBUS_READ_DEVSTAT. -/
def execSmbusReadDevstat (s : State) : Host.Outcome State Fault Refusal := .next (smbusGives s (natLe 8 (devstat s)))

/-- SMBUS_READ_TEMPERATURE: a sensor's reading. -/
def execSmbusReadTemperature (n : Nat) (s : State) : Host.Outcome State Fault Refusal :=
  .next { smbusGives s (natLe 8 (Config.sensorTemperature s.draws n).toNat) with draws := s.draws + 1 }

/-- SMBUS_READ_POWER: the power averaged over 1 ms. -/
def execSmbusReadPower (s : State) : Host.Outcome State Fault Refusal :=
  .next { smbusGives s (natLe 8 (Config.sensorPower s.draws).toNat) with draws := s.draws + 1 }

/-- SMBUS_READ_DROPPED: the dropped-notice count. -/
def execSmbusReadDropped (s : State) : Host.Outcome State Fault Refusal := .next (smbusGives s (natLe 8 s.dev.droppedN.toNat))

/-- SMBUS_WARM_RESET: as a write of RESETREQ. -/
def execSmbusWarmReset (v : Word) (s : State) : Host.Outcome State Fault Refusal := if v == 0x5EED then .next (warm s) else .next s

/-- IDCODE's 32 bits, least significant first. -/
def idcode : List Bool := (List.range 32).map (fun i => bit 0x0B061C4F i)

/-- JTAG_BYPASS: one bit of 0 stands between input and output. -/
def execJtagBypass (s : State) : Host.Outcome State Fault Refusal := .next (modDev s (fun d => { d with jtagIr := 3, jtagOut := [false] }))

/-- JTAG_IDCODE. -/
def execJtagIdcode (s : State) : Host.Outcome State Fault Refusal := .next (modDev s (fun d => { d with jtagIr := 1, jtagOut := idcode }))

/-- JTAG_SAMPLE_PRELOAD: the pins are sampled and the boundary register is loaded. -/
def execJtagSamplePreload (pins : List Bool) (s : State) : Host.Outcome State Fault Refusal :=
  .next { modDev s (fun d => { d with jtagIr := 2, jtagOut := Config.pinLevels s.draws, jtagBsr := pins }) with draws := s.draws + 1 }

/-- JTAG_EXTEST: the boundary register drives the pins, whose levels are captured. -/
def execJtagExtest (s : State) : Host.Outcome State Fault Refusal :=
  .next { modDev s (fun d => { d with jtagIr := 0, jtagOut := Config.pinLevels s.draws }) with draws := s.draws + 1 }

end Sys2Proof.Machine
end

