-- ==== Sys2Proof/Machine/Dispatch.lean ====
section
/-!
DEFINITION. `exec`: one arm per row of the opcode table, each a direct call of its meaning.
-/
namespace Sys2Proof.Machine

def exec (i : Instr) (s : State) : Host.Outcome State Fault Refusal :=
  match i with
  | .presentBundle cl core => Sys2Proof.Machine.execPresentBundle cl core s
  | .blockClears c => Sys2Proof.Machine.execBlockClears c s
  | .interlockedWrite c => Sys2Proof.Machine.execInterlockedWrite c s
  | .landing c => Sys2Proof.Machine.execLanding c s
  | .operationPerformed c seq => Sys2Proof.Machine.execOperationPerformed c seq s
  | .watchdog c => Sys2Proof.Machine.execWatchdog c s
  | .fifoTimeout c => Sys2Proof.Machine.execFifoTimeout c s
  | .leaseTimeout c => Sys2Proof.Machine.execLeaseTimeout c s
  | .leaseWaitEvent c => Sys2Proof.Machine.execLeaseWaitEvent c s
  | .sleepWake c => Sys2Proof.Machine.execSleepWake c s
  | .signatureMatch cl pair equal => Sys2Proof.Machine.execSignatureMatch cl pair equal s
  | .pairModeChange cl pair => Sys2Proof.Machine.execPairModeChange cl pair s
  | .launchStart => Sys2Proof.Machine.execLaunchStart s
  | .timeSlot => Sys2Proof.Machine.execTimeSlot s
  | .releaseTask e t => Sys2Proof.Machine.execReleaseTask e t s
  | .placeIteration e t => Sys2Proof.Machine.execPlaceIteration e t s
  | .placementComplete it => Sys2Proof.Machine.execPlacementComplete it s
  | .preempt e t => Sys2Proof.Machine.execPreempt e t s
  | .preemptDrainTimeout it => Sys2Proof.Machine.execPreemptDrainTimeout it s
  | .resumeIteration it => Sys2Proof.Machine.execResumeIteration it s
  | .completionPost it => Sys2Proof.Machine.execCompletionPost it s
  | .instanceComplete => Sys2Proof.Machine.execInstanceComplete s
  | .leaseGrant cl => Sys2Proof.Machine.execLeaseGrant cl s
  | .leaseEnd cl => Sys2Proof.Machine.execLeaseEnd cl s
  | .mxQueueTransfer cl => Sys2Proof.Machine.execMxQueueTransfer cl s
  | .arrayCommandStart cl => Sys2Proof.Machine.execArrayCommandStart cl s
  | .arrayCommandComplete cl => Sys2Proof.Machine.execArrayCommandComplete cl s
  | .rowRetire cl => Sys2Proof.Machine.execRowRetire cl s
  | .cpCommandStart cl => Sys2Proof.Machine.execCpCommandStart cl s
  | .engineAccessResume c seq => Sys2Proof.Machine.execEngineAccessResume c seq s
  | .cpCommandComplete c seq => Sys2Proof.Machine.execCpCommandComplete c seq s
  | .packetReceive p => Sys2Proof.Machine.execPacketReceive p s
  | .responseReceive p => Sys2Proof.Machine.execResponseReceive p s
  | .logEntryReplayed n => Sys2Proof.Machine.execLogEntryReplayed n s
  | .logEntryAbandoned n => Sys2Proof.Machine.execLogEntryAbandoned n s
  | .fifoWordArrive mv => Sys2Proof.Machine.execFifoWordArrive mv s
  | .flitReplay link => Sys2Proof.Machine.execFlitReplay link s
  | .linkRetrain link => Sys2Proof.Machine.execLinkRetrain link s
  | .linkDown link => Sys2Proof.Machine.execLinkDown link s
  | .linkRestored link => Sys2Proof.Machine.execLinkRestored link s
  | .deadlockTimer link vc => Sys2Proof.Machine.execDeadlockTimer link vc s
  | .collOpenReceive p => Sys2Proof.Machine.execCollOpenReceive p s
  | .collBlockReceive p crcOk => Sys2Proof.Machine.execCollBlockReceive p crcOk s
  | .lossyClose => Sys2Proof.Machine.execLossyClose s
  | .collCloseReceive p => Sys2Proof.Machine.execCollCloseReceive p s
  | .rdmaReceive port op => Sys2Proof.Machine.execRdmaReceive port op s
  | .purgeStart tag cause => Sys2Proof.Machine.execPurgeStart tag cause s
  | .purgePacketReceive p => Sys2Proof.Machine.execPurgePacketReceive p s
  | .purgeAckReceive p => Sys2Proof.Machine.execPurgeAckReceive p s
  | .scrub => Sys2Proof.Machine.execScrub s
  | .invalidationPerformed => Sys2Proof.Machine.execInvalidationPerformed s
  | .hmovMigrate => Sys2Proof.Machine.execHmovMigrate s
  | .droopAlarm region => Sys2Proof.Machine.execDroopAlarm region s
  | .holdEnter => Sys2Proof.Machine.execHoldEnter s
  | .holdExit => Sys2Proof.Machine.execHoldExit s
  | .supplyRetentionLoss => Sys2Proof.Machine.execSupplyRetentionLoss s
  | .throttleEnter => Sys2Proof.Machine.execThrottleEnter s
  | .throttleExit => Sys2Proof.Machine.execThrottleExit s
  | .thermalTrip => Sys2Proof.Machine.execThermalTrip s
  | .powerOnReset => Sys2Proof.Machine.execPowerOnReset s
  | .warmReset => Sys2Proof.Machine.execWarmReset s
  | .functionLevelReset => Sys2Proof.Machine.execFunctionLevelReset s
  | .resetreqWrite v bytes => Sys2Proof.Machine.execResetreqWrite v bytes s
  | .doorbellArm e v => Sys2Proof.Machine.execDoorbellArm e v s
  | .doorbellDisarm e v => Sys2Proof.Machine.execDoorbellDisarm e v s
  | .hostInvalidate w => Sys2Proof.Machine.execHostInvalidate w s
  | .hostPurgeRequest w => Sys2Proof.Machine.execHostPurgeRequest w s
  | .mgmtcfgWrite w => Sys2Proof.Machine.execMgmtcfgWrite w s
  | .pairmodeWrite cl w => Sys2Proof.Machine.execPairmodeWrite cl w s
  | .devtimeLWrite w => Sys2Proof.Machine.execDevtimeLWrite w s
  | .bootFlashErase w => Sys2Proof.Machine.execBootFlashErase w s
  | .bootFlashProgram off w => Sys2Proof.Machine.execBootFlashProgram off w s
  | .droppedCountRead => Sys2Proof.Machine.execDroppedCountRead s
  | .attestationRequest => Sys2Proof.Machine.execAttestationRequest s
  | .attestationReady => Sys2Proof.Machine.execAttestationReady s
  | .hostMemoryAccess a => Sys2Proof.Machine.execHostMemoryAccess a s
  | .registerWrite off w => Sys2Proof.Machine.execRegisterWrite off w s
  | .smbusReadDevstat => Sys2Proof.Machine.execSmbusReadDevstat s
  | .smbusReadTemperature n => Sys2Proof.Machine.execSmbusReadTemperature n s
  | .smbusReadPower => Sys2Proof.Machine.execSmbusReadPower s
  | .smbusReadDropped => Sys2Proof.Machine.execSmbusReadDropped s
  | .smbusWarmReset v => Sys2Proof.Machine.execSmbusWarmReset v s
  | .jtagBypass => Sys2Proof.Machine.execJtagBypass s
  | .jtagIdcode => Sys2Proof.Machine.execJtagIdcode s
  | .jtagSamplePreload pins => Sys2Proof.Machine.execJtagSamplePreload pins s
  | .jtagExtest => Sys2Proof.Machine.execJtagExtest s
  | .nop j => Sys2Proof.Machine.execNop j s
  | .tree o => Sys2Proof.Machine.execTree o s
  | .jmp o => Sys2Proof.Machine.execJmp o s
  | .jmpr o => Sys2Proof.Machine.execJmpr o s
  | .call o => Sys2Proof.Machine.execCall o s
  | .callr o => Sys2Proof.Machine.execCallr o s
  | .ret => Sys2Proof.Machine.execRet s
  | .trap o => Sys2Proof.Machine.execTrap o s
  | .eret => Sys2Proof.Machine.execEret s
  | .halt => Sys2Proof.Machine.execHalt s
  | .yield => Sys2Proof.Machine.execYield s
  | .add o => Sys2Proof.Machine.execAdd o s
  | .sub o => Sys2Proof.Machine.execSub o s
  | .mul o => Sys2Proof.Machine.execMul o s
  | .mulh o => Sys2Proof.Machine.execMulh o s
  | .mulhz o => Sys2Proof.Machine.execMulhz o s
  | .div o => Sys2Proof.Machine.execDiv o s
  | .divz o => Sys2Proof.Machine.execDivz o s
  | .rem o => Sys2Proof.Machine.execRem o s
  | .remz o => Sys2Proof.Machine.execRemz o s
  | .and o => Sys2Proof.Machine.execAnd o s
  | .or o => Sys2Proof.Machine.execOr o s
  | .xor o => Sys2Proof.Machine.execXor o s
  | .andn o => Sys2Proof.Machine.execAndn o s
  | .shl o => Sys2Proof.Machine.execShl o s
  | .shr o => Sys2Proof.Machine.execShr o s
  | .sar o => Sys2Proof.Machine.execSar o s
  | .rot o => Sys2Proof.Machine.execRot o s
  | .min o => Sys2Proof.Machine.execMin o s
  | .max o => Sys2Proof.Machine.execMax o s
  | .minz o => Sys2Proof.Machine.execMinz o s
  | .maxz o => Sys2Proof.Machine.execMaxz o s
  | .abs o => Sys2Proof.Machine.execAbs o s
  | .clz o => Sys2Proof.Machine.execClz o s
  | .ctz o => Sys2Proof.Machine.execCtz o s
  | .popc o => Sys2Proof.Machine.execPopc o s
  | .sext o => Sys2Proof.Machine.execSext o s
  | .bfx o => Sys2Proof.Machine.execBfx o s
  | .bfxz o => Sys2Proof.Machine.execBfxz o s
  | .bfi o => Sys2Proof.Machine.execBfi o s
  | .lea o => Sys2Proof.Machine.execLea o s
  | .addi o => Sys2Proof.Machine.execAddi o s
  | .andi o => Sys2Proof.Machine.execAndi o s
  | .ori o => Sys2Proof.Machine.execOri o s
  | .xori o => Sys2Proof.Machine.execXori o s
  | .movi o => Sys2Proof.Machine.execMovi o s
  | .movhi o => Sys2Proof.Machine.execMovhi o s
  | .cmpi o => Sys2Proof.Machine.execCmpi o s
  | .mov o => Sys2Proof.Machine.execMov o s
  | .sel o => Sys2Proof.Machine.execSel o s
  | .cmp o => Sys2Proof.Machine.execCmp o s
  | .cset o => Sys2Proof.Machine.execCset o s
  | .fadd o => Sys2Proof.Machine.execFadd o s
  | .fsub o => Sys2Proof.Machine.execFsub o s
  | .fmul o => Sys2Proof.Machine.execFmul o s
  | .ffma o => Sys2Proof.Machine.execFfma o s
  | .fdiv o => Sys2Proof.Machine.execFdiv o s
  | .fsqrt o => Sys2Proof.Machine.execFsqrt o s
  | .fmin o => Sys2Proof.Machine.execFmin o s
  | .fmax o => Sys2Proof.Machine.execFmax o s
  | .fcmp o => Sys2Proof.Machine.execFcmp o s
  | .fcvt o => Sys2Proof.Machine.execFcvt o s
  | .fclass o => Sys2Proof.Machine.execFclass o s
  | .vadd o => Sys2Proof.Machine.execVadd o s
  | .vsub o => Sys2Proof.Machine.execVsub o s
  | .vmul o => Sys2Proof.Machine.execVmul o s
  | .vmin o => Sys2Proof.Machine.execVmin o s
  | .vmax o => Sys2Proof.Machine.execVmax o s
  | .vcopysgn o => Sys2Proof.Machine.execVcopysgn o s
  | .vabs o => Sys2Proof.Machine.execVabs o s
  | .vneg o => Sys2Proof.Machine.execVneg o s
  | .vround o => Sys2Proof.Machine.execVround o s
  | .vrcp o => Sys2Proof.Machine.execVrcp o s
  | .vrsq o => Sys2Proof.Machine.execVrsq o s
  | .vsqrt o => Sys2Proof.Machine.execVsqrt o s
  | .vfn o => Sys2Proof.Machine.execVfn o s
  | .vfma o => Sys2Proof.Machine.execVfma o s
  | .vfms o => Sys2Proof.Machine.execVfms o s
  | .vclamp o => Sys2Proof.Machine.execVclamp o s
  | .vdot o => Sys2Proof.Machine.execVdot o s
  | .vcmp o => Sys2Proof.Machine.execVcmp o s
  | .vsel o => Sys2Proof.Machine.execVsel o s
  | .vand o => Sys2Proof.Machine.execVand o s
  | .vor o => Sys2Proof.Machine.execVor o s
  | .vxor o => Sys2Proof.Machine.execVxor o s
  | .vnot o => Sys2Proof.Machine.execVnot o s
  | .vshl o => Sys2Proof.Machine.execVshl o s
  | .vshr o => Sys2Proof.Machine.execVshr o s
  | .vsar o => Sys2Proof.Machine.execVsar o s
  | .vcvt o => Sys2Proof.Machine.execVcvt o s
  | .vpack o => Sys2Proof.Machine.execVpack o s
  | .vunpk o => Sys2Proof.Machine.execVunpk o s
  | .vperm o => Sys2Proof.Machine.execVperm o s
  | .vshuf o => Sys2Proof.Machine.execVshuf o s
  | .vbcast o => Sys2Proof.Machine.execVbcast o s
  | .vmovs o => Sys2Proof.Machine.execVmovs o s
  | .vins o => Sys2Proof.Machine.execVins o s
  | .vidx o => Sys2Proof.Machine.execVidx o s
  | .vredSum o => Sys2Proof.Machine.execVredSum o s
  | .vredMin o => Sys2Proof.Machine.execVredMin o s
  | .vredMax o => Sys2Proof.Machine.execVredMax o s
  | .vredVsum o => Sys2Proof.Machine.execVredVsum o s
  | .vredRsum o => Sys2Proof.Machine.execVredRsum o s
  | .vscan o => Sys2Proof.Machine.execVscan o s
  | .vnfchk o => Sys2Proof.Machine.execVnfchk o s
  | .mand o => Sys2Proof.Machine.execMand o s
  | .mor o => Sys2Proof.Machine.execMor o s
  | .mxor o => Sys2Proof.Machine.execMxor o s
  | .mnot o => Sys2Proof.Machine.execMnot o s
  | .mpop o => Sys2Proof.Machine.execMpop o s
  | .mfirst o => Sys2Proof.Machine.execMfirst o s
  | .mset o => Sys2Proof.Machine.execMset o s
  | .vrand o => Sys2Proof.Machine.execVrand o s
  | .kld o => Sys2Proof.Machine.execKld o s
  | .kst o => Sys2Proof.Machine.execKst o s
  | .kmov o => Sys2Proof.Machine.execKmov o s
  | .kset o => Sys2Proof.Machine.execKset o s
  | .kmax o => Sys2Proof.Machine.execKmax o s
  | .xtr o => Sys2Proof.Machine.execXtr o s
  | .xexp o => Sys2Proof.Machine.execXexp o s
  | .xcvt o => Sys2Proof.Machine.execXcvt o s
  | .xqnt o => Sys2Proof.Machine.execXqnt o s
  | .xamx o => Sys2Proof.Machine.execXamx o s
  | .xswz o => Sys2Proof.Machine.execXswz o s
  | .ld o => Sys2Proof.Machine.execLd o s
  | .st o => Sys2Proof.Machine.execSt o s
  | .vld o => Sys2Proof.Machine.execVld o s
  | .vst o => Sys2Proof.Machine.execVst o s
  | .vlds o => Sys2Proof.Machine.execVlds o s
  | .vgth o => Sys2Proof.Machine.execVgth o s
  | .vsct o => Sys2Proof.Machine.execVsct o s
  | .amo o => Sys2Proof.Machine.execAmo o s
  | .cas o => Sys2Proof.Machine.execCas o s
  | .red o => Sys2Proof.Machine.execRed o s
  | .vredm o => Sys2Proof.Machine.execVredm o s
  | .pref o => Sys2Proof.Machine.execPref o s
  | .mma o => Sys2Proof.Machine.execMma o s
  | .mmao o => Sys2Proof.Machine.execMmao o s
  | .mzero o => Sys2Proof.Machine.execMzero o s
  | .mload o => Sys2Proof.Machine.execMload o s
  | .mchk o => Sys2Proof.Machine.execMchk o s
  | .mdrain o => Sys2Proof.Machine.execMdrain o s
  | .mrel o => Sys2Proof.Machine.execMrel o s
  | .cpy o => Sys2Proof.Machine.execCpy o s
  | .cpyt o => Sys2Proof.Machine.execCpyt o s
  | .cpst o => Sys2Proof.Machine.execCpst o s
  | .cpz o => Sys2Proof.Machine.execCpz o s
  | .cpzTile o => Sys2Proof.Machine.execCpzTile o s
  | .cpxOut o => Sys2Proof.Machine.execCpxOut o s
  | .cpxIn o => Sys2Proof.Machine.execCpxIn o s
  | .cpnWr o => Sys2Proof.Machine.execCpnWr o s
  | .cpnRd o => Sys2Proof.Machine.execCpnRd o s
  | .coll o => Sys2Proof.Machine.execColl o s
  | .give o => Sys2Proof.Machine.execGive o s
  | .take o => Sys2Proof.Machine.execTake o s
  | .waits o => Sys2Proof.Machine.execWaits o s
  | .phreg o => Sys2Proof.Machine.execPhreg o s
  | .phdrop o => Sys2Proof.Machine.execPhdrop o s
  | .pharr o => Sys2Proof.Machine.execPharr o s
  | .phwait o => Sys2Proof.Machine.execPhwait o s
  | .phaw o => Sys2Proof.Machine.execPhaw o s
  | .tbinit o => Sys2Proof.Machine.execTbinit o s
  | .tbexp o => Sys2Proof.Machine.execTbexp o s
  | .tbarr o => Sys2Proof.Machine.execTbarr o s
  | .tbwait o => Sys2Proof.Machine.execTbwait o s
  | .done o => Sys2Proof.Machine.execDone o s
  | .jraise o => Sys2Proof.Machine.execJraise o s
  | .launchOn o => Sys2Proof.Machine.execLaunchOn o s
  | .launchOff o => Sys2Proof.Machine.execLaunchOff o s
  | .evrd o => Sys2Proof.Machine.execEvrd o s
  | .csrr o => Sys2Proof.Machine.execCsrr o s
  | .csrw o => Sys2Proof.Machine.execCsrw o s
  | .csrs o => Sys2Proof.Machine.execCsrs o s
  | .csrc o => Sys2Proof.Machine.execCsrc o s
  | .hpinOn o => Sys2Proof.Machine.execHpinOn o s
  | .hpinOff o => Sys2Proof.Machine.execHpinOff o s
  | .hpri o => Sys2Proof.Machine.execHpri o s
  | .hdem o => Sys2Proof.Machine.execHdem o s
  | .hevict o => Sys2Proof.Machine.execHevict o s
  | .hmov o => Sys2Proof.Machine.execHmov o s
  | .purge o => Sys2Proof.Machine.execPurge o s
  | .qflushCp o => Sys2Proof.Machine.execQflushCp o s
  | .qflushMx o => Sys2Proof.Machine.execQflushMx o s
  | .rdtime o => Sys2Proof.Machine.execRdtime o s
  | .sleep o => Sys2Proof.Machine.execSleep o s
  | .droopAlarmCleared region => Sys2Proof.Machine.execDroopAlarmCleared region s
  | .rdmaAckTimeout => Sys2Proof.Machine.execRdmaAckTimeout s
  | .bootFlashOperationComplete => Sys2Proof.Machine.execBootFlashOperationComplete s
  | .softError f => Sys2Proof.Machine.execSoftError f s

end Sys2Proof.Machine
end

