-- ==== Sys2Proof/Machine/Fetch.lean ====
section
/-!
DEFINITION. A bundle placed where a core fetches next (log 26): a context at position 0 of core 0 of cluster 0, as a launch would
place it, an address space whose first page holds the bundle, and the core's presentation as the scheduled step.
-/
namespace Sys2Proof.Machine

def fetchCtxId : CtxId := { cl := 0, core := 0, ctx := 0 }

/-- A split context at the first bundle of the page, at U, with 64 vector registers. -/
def fetchCtx : Ctx :=
  { (default : Ctx) with
    id := fetchCtxId, joined := false,
    env := { iter := 0, gang := 0, rank := 0, tag := 0, prio := 0, root := 0x10_0000, asn := 0, jcb := 0, bind := 0, roles := [] },
    pc := 0, win := 64, status := .ready }

/-- A table entry and a leaf of 4 KiB that users read, write and fetch (12 R381). -/
def tableEntry (pa : Nat) : List Byte := natLe 8 (pa + 3)
def codeLeaf (pa : Nat) : List Byte := natLe 8 (pa + 0xE1)

def putHbm (s : State) (a : Nat) (bs : List Byte) : State := writePlace s { space := .hbm, addr := a, node := 0 } bs

/-- Five levels of tables, each with its first entry, and the page they lead to. -/
def placeTables (s : State) (code : List Byte) : State :=
  let s1 := putHbm (putHbm s 0x10_0000 (tableEntry 0x10_1000)) 0x10_1000 (tableEntry 0x10_2000)
  let s2 := putHbm (putHbm s1 0x10_2000 (tableEntry 0x10_3000)) 0x10_3000 (tableEntry 0x10_4000)
  putHbm (putHbm s2 0x10_4000 (codeLeaf 0x10_5000)) 0x10_5000 code

/-- No TLB holds a translation of the page. -/
def forgetPage (s : State) : State :=
  let keep (l : List TlbEntry) : List TlbEntry := l.filter (fun e => !tlbHit 0 0 e)
  modPkg (modCl s 0 (fun x => { x with tlb := keep x.tlb })) (fun g => { g with tlb := keep g.tlb })

/-- The part runs, core 0 of cluster 0 is split and free to issue from context 0. -/
def readyCore (s : State) : State :=
  let s1 := modDev s (fun d => { d with powered := true, boot := 0, hold := false, fatal := false, alarms := [], freezeUntil := [] })
  let s2 := modPair s1 0 0 (fun p => { p with cur := false, req := false, pend := false, unmatched := none })
  modCore s2 0 0 (fun y => { y with cur := 0, weights := [] })

/-- Up to 13 words of a bundle, then zeros (03 R81). -/
def placeBundle (s : State) (ws : List Word) : State :=
  let code := ((ws ++ List.replicate 13 0).take 13).flatMap (fun (w : Word) => natLe 8 w.toNat)
  let s1 := putCtx (readyCore (forgetPage (placeTables s code))) fetchCtx
  { s1 with agenda := (0, 0, .presentBundle 0 0) :: s1.agenda }

end Sys2Proof.Machine
end

