-- ==== Sys2Proof/Machine/Sched.lean ====
section
/-!
DEFINITION. What stands around `exec` in a step (log 2): the time that passes before it, whether the unit it concerns runs,
and the step chosen where the environment has scheduled none.
-/
namespace Sys2Proof.Machine

/-! ## Time -/

/-- A context's counts over n cycles (06 R200, 09 R284): at U and UH while blocked; a bundle in `sleep` is not counted for the
watchdog and the FIFO limit. -/
def countCtx (n : Nat) (x : Ctx) : Ctx :=
  if 2 ≤ x.lvl || (blockedOn x).isEmpty then x
  else { x with
    blockedFor := if sleeping x then x.blockedFor else x.blockedFor + n
    fifoFor := if (onFifo x).isSome && !sleeping x then x.fifoFor + n else x.fifoFor
    leaseFor := if (onLease x).isSome then x.leaseFor + n else x.leaseFor }

/-- DEVTIME over n cycles of the arithmetic clock (13 R453): the rate counts units of 2^-40 ns. -/
def advanceTime (n : Nat) (g : Pkg) : Pkg :=
  let t := g.rateFrac + g.rate.toNat * n
  { g with devtime := g.devtime + BitVec.ofNat 80 (t / 2 ^ 24), rateFrac := t % 2 ^ 24 }

/-- 4 µs in cycles of the arithmetic clock, 1.2 GHz (00 R4). -/
def drainBound : Nat := 4800

/-- A stopping iteration whose contexts' memory operations, or started `coll` commands, are not performed within 4 µs of the
stop loses them (01 R44, 11 R375). -/
def noteLost (s : State) (i : Iter) : Iter :=
  if i.state == .stopping && (stopCtxs s i.uid).any (fun x => decide (x.stopAt + drainBound < s.ran) && !stopDone s x) then { i with lost := true }
  else i

/-- A blocked context after n cycles; one whose bundle no longer blocks counts nothing more (01 R30, 09 R284). -/
def countBlocked (s : State) (n : Nat) (x : Ctx) : Ctx :=
  match blocksNow s x with
  | some y => countCtx n y
  | none => x

/-- The commands whose wait objects are tested: the next of each core's CP queue and the head of the array queue. -/
def waitHeads (s : State) (cl : Nat) : List Cmd :=
  (List.range 8).filterMap (cpNext s cl) ++ ((getCl s cl).arrq.head?.bind (findCmd s)).toList

/-- A wait object that is satisfied is not tested again (10 R315). -/
def noteWait (s : State) (c : Cmd) : State :=
  if c.waitOk then s
  else match cmdOwner s c with
  | none => s
  | some x => if (waitTest s (agentOf x c.lvl) c.wait).2 == .inl true then putCmd s { c with waitOk := true } else s

def noteWaits (s : State) : State := (s.clusters.flatMap (fun c => waitHeads s c.1)).foldl noteWait s

/-- A command that waits for its turn alone: what it touches is narrowed where its header or list can be read (08 R260, R264; log 39). -/
def foreseen (s : State) (c : Cmd) : State :=
  match c.started || !(c.waitOk || c.wait == 0), cmdOwner s c, cmdInstr c with
  | false, some x, some (.mmao _) => tell x (listNarrowed s x c)
  | false, some x, some (.cpyt _) | false, some x, some (.cpst _) => tell x (narrowed s x c)
  | _, _, _ => s
where
  tell (x y : Ctx) : State := if y != x && predStreams y c == 0 && (overlapAt y c).isNone then putOwner s y else s

def foresee (s : State) : State := (s.clusters.flatMap (fun c => clusterCmds c.2)).foldl foreseen s

/-- The boot ROM goes on as time passes (17 R491, R495). -/
def bootOn (s : State) : State := if inRom s then romGo (romGo s) else s

/-- n cycles pass: the counts of 06 R200 and 09 R284, and every bound and order that HOLD must not change, stop in HOLD, device time does not (17 R497, R498). What blocks a context is
found afresh, the wait objects of waiting commands are tested, the links send and the host takes posted writes. -/
def passTime (n : Nat) (s : State) : State :=
  let s1 := bootOn <| modPkg { s with cyc := s.cyc + n, ran := if s.dev.hold then s.ran else s.ran + n } (advanceTime n)
  if s.dev.hold then s1
  else
    let s2 := { s1 with
      ctxs := s1.ctxs.map (fun p => (p.1, countBlocked s1 n p.2))
      clusters := s1.clusters.map (fun c => (c.1,
        { c.2 with cores := c.2.cores.map (fun y => (y.1, addFreeze (alarmCycles s n c.1) y.2)), lease := leaseRenew s1.ran (leaseWaiters s1 c.1 (c.2.lease.holder.getD 8) none) c.2.lease })) }
    modSpring (hostPasses (serveLinks n (foresee (noteWaits s2)))) (fun p => { p with iters := p.iters.map (noteLost s2) })

/-! ## Whether a unit runs -/

/-- The units that steps belong to. -/
inductive Unit_ where
  /-- Cores, engines, arrays, Spring and the walkers. -/
  | inside
  /-- The links and ports. -/
  | fabric
  /-- The host, the management interface, power and time. -/
  | outside
  deriving DecidableEq, Repr

def unitOf : Instr → Unit_
  | .packetReceive _ | .responseReceive _ | .logEntryReplayed _ | .logEntryAbandoned _ | .fifoWordArrive _ | .collOpenReceive _
  | .collBlockReceive _ _ | .collCloseReceive _ | .rdmaReceive _ _ | .rdmaAckTimeout | .purgePacketReceive _
  | .purgeAckReceive _ | .deadlockTimer _ _ | .flitReplay _ => .fabric
  | .linkRetrain _ | .linkDown _ | .linkRestored _ | .lossyClose | .purgeStart _ _ | .scrub | .invalidationPerformed
  | .droopAlarm _ | .droopAlarmCleared _ | .holdEnter | .holdExit | .supplyRetentionLoss | .throttleEnter | .throttleExit
  | .thermalTrip | .powerOnReset | .warmReset | .functionLevelReset | .resetreqWrite _ _ | .doorbellArm _ _ | .doorbellDisarm _ _
  | .hostInvalidate _ | .hostPurgeRequest _ | .mgmtcfgWrite _ | .pairmodeWrite _ _ | .devtimeLWrite _ | .bootFlashErase _
  | .bootFlashProgram _ _ | .bootFlashOperationComplete | .droppedCountRead | .attestationRequest | .attestationReady
  | .hostMemoryAccess _ | .registerWrite _ _ | .smbusReadDevstat | .smbusReadTemperature _ | .smbusReadPower | .smbusReadDropped
  | .smbusWarmReset _ | .jtagBypass | .jtagIdcode | .jtagSamplePreload _ | .jtagExtest | .softError _ => .outside
  | _ => .inside

/-- Why a step's unit does not run (12 R422, 17 R476, R491, R497, R499): no power; FATAL, HOLD or a boot that has not ended.
In FATAL the ports still answer, with errors. -/
def stopped (i : Instr) (s : State) : Option Fault :=
  if !s.dev.powered then (if i = .powerOnReset then none else some .noPower)
  else match unitOf i with
    | .outside => none
    | .fabric => if s.dev.hold || s.dev.boot != 0 then some .halted else none
    | .inside => if s.dev.fatal || s.dev.hold || s.dev.boot != 0 then some .halted else none

/-- A step of instruction i after n cycles, with its candidate. -/
def runStep (s : State) (n w : Nat) (i : Instr) : Host.Outcome State Fault Refusal :=
  let s1 := { passTime n s with which := w }
  match stopped i s1 with
  | some f => .fault f
  | none => exec i s1

/-! ## The step chosen where none is scheduled -/

def ctxSteps (x : Ctx) : List Instr :=
  [.presentBundle x.id.cl x.id.core, .blockClears x.id, .sleepWake x.id, .leaseTimeout x.id, .fifoTimeout x.id, .watchdog x.id,
   .leaseWaitEvent x.id] ++ x.ops.map (fun o => .operationPerformed x.id o.seq)

def clusterSteps (c : Nat × Cluster) : List Instr :=
  [.leaseGrant c.1, .leaseEnd c.1, .mxQueueTransfer c.1, .arrayCommandStart c.1, .arrayCommandComplete c.1, .rowRetire c.1,
   .cpCommandStart c.1]
    ++ (clusterCmds c.2).flatMap (fun k => [.engineAccessResume k.ctx k.seq, .cpCommandComplete k.ctx k.seq])
    ++ c.2.pairs.flatMap (fun p => (if p.2.unmatched.isSome then [.signatureMatch c.1 p.1 true] else [])
        ++ (if p.2.pend then [.pairModeChange c.1 p.1] else []))

def instSteps (i : Inst) : List Instr :=
  i.tasks.flatMap (fun t => [.releaseTask i.entry t.1, .placeIteration i.entry t.1, .preempt i.entry t.1])

def iterSteps (i : Iter) : List Instr :=
  [.placementComplete i.id, .preemptDrainTimeout i.id, .resumeIteration i.id, .completionPost i.id]

/-- A packet of this package to itself (11 R347). -/
def ownPacket (s : State) (o : OutPkt) : List Instr :=
  if o.pkt.dst != nodeNo s then []
  else match o.pkt.kind with
    | .read | .write | .atomic | .reduction => [.packetReceive o.pkt]
    | .readData | .ack | .nack | .error => [.responseReceive o.pkt]
    | .collOpen => [.collOpenReceive o.pkt]
    | .collBlock => [.collBlockReceive o.pkt true]
    | .collClose => [.collCloseReceive o.pkt]
    | _ => []

def deviceSteps (s : State) : List Instr :=
  [.launchStart, .timeSlot, .instanceComplete, .lossyClose, .rdmaAckTimeout, .invalidationPerformed, .hmovMigrate, .attestationReady,
   .bootFlashOperationComplete] ++ (if s.pkg.damage.isEmpty || s.dev.fatal then [] else [.scrub])
    ++ s.net.logRid.flatMap (fun e => [.logEntryReplayed e.1, .logEntryAbandoned e.1])

/-- The steps that the machine's own units may take. -/
def candidates (s : State) : List Instr :=
  (allCtxs s).flatMap ctxSteps ++ s.ghosts.flatMap (fun x => x.ops.map (fun o => .operationPerformed x.id o.seq))
    ++ s.clusters.flatMap clusterSteps ++ s.spring.insts.flatMap instSteps ++ s.spring.iters.flatMap iterSteps
    ++ s.net.out.flatMap (ownPacket s) ++ deviceSteps s

/-- Where no unit has a step to take, the boot ROM's stage runs to its end. -/
def awaitRom (s : State) : Host.Outcome State Fault Refusal :=
  if inRom s then .next (passTime (s.dev.romUntil - s.cyc) s) else .refused .idle

/-- Whether a step may be taken. -/
def occurs (s : State) (i : Instr) : Bool :=
  match runStep s 1 0 i with
  | .next _ => true
  | _ => false

/-- The first step that may be taken, in an order that turns with the cycle so that every unit has its turn. -/
def pick (s : State) : Option Instr :=
  let l := candidates s
  let k := s.cyc % (l.length + 1)
  (l.drop k ++ l.take k).find? (occurs s)

end Sys2Proof.Machine
end

