-- ==== Sys2Proof/Machine/Step.lean ====
section
/-!
DEFINITION. The step of the machine, and the state in which the next step runs a given bundle.
-/
namespace Sys2Proof.Machine

/-- One step: the next of the agenda, else the one that `pick` chooses (log 2). -/
def step (s : State) : Host.Outcome State Fault Refusal :=
  match s.agenda with
  | (n, w, i) :: rest => runStep { s with agenda := rest } n w i
  | [] => match pick s with
    | none => awaitRom s
    | some i => runStep s 1 0 i

/-- The state with a bundle placed where context 0 of core 0 of cluster 0 fetches its next one (log 26). -/
def State.withFetchWord (s : State) (nbits w : Nat) : State := placeBundle s (tableWords nbits w)

end Sys2Proof.Machine
end

