-- ==== Sys2Proof/Laws/PerInstr.lean ====
section
/-!
SUPPORT. Decoding and encoding agree (03 R81, R95, R106), per instruction.
-/
namespace Sys2Proof.Laws.RoundTrip
open Sys2Proof

/-- Where slot j may hold the operation i with path tag t: its class; of a `nop` its own slot; BR carries no tag (03 R80, R89). -/
def Fits (i : Instr) (j : Slot) (t : BitVec 3) : Prop :=
  (∃ s, slotOf i = some s ∧ classOf j = classOf s) ∧ (∀ s, i = .nop s → j = s) ∧ t.toNat < 6 ∧ (j = .br → t = 0)

/-- A legal slot operation decodes from its encoding, in every slot that may hold it and with every path tag; and the bundle
that holds it alone decodes to it. An event has no encoding. -/
def Statement (i : Instr) : Prop :=
  Machine.illegal i = none →
    (∀ j t, Fits i j t → decodeSlot j (extOf i) ((t ++ opcodeOf i) ++ operandsOf i) = .inl i) ∧
    ((slotOf i).isSome = true → decodeOne (encode i) = some i) ∧ (slotOf i = none → encode i = [])

/-! ## Fields of appended words -/

/-- A field that lies wholly in the upper part. -/
theorem take_hi {m n : Nat} (x : BitVec m) (y : BitVec n) (s k : Nat) (h : n ≤ s) :
    (x ++ y).extractLsb' s k = x.extractLsb' (s - n) k := by
  apply BitVec.eq_of_getLsbD_eq
  intro i hi
  simp only [BitVec.getLsbD_extractLsb', BitVec.getLsbD_append, hi, decide_true, Bool.true_and]
  rw [if_neg (by omega), show s + i - n = s - n + i by omega]

/-- A field that lies wholly in the lower part. -/
theorem take_lo {m n : Nat} (x : BitVec m) (y : BitVec n) (s k : Nat) (h : s + k ≤ n) :
    (x ++ y).extractLsb' s k = y.extractLsb' s k := by
  apply BitVec.eq_of_getLsbD_eq
  intro i hi
  simp only [BitVec.getLsbD_extractLsb', BitVec.getLsbD_append, hi, decide_true, Bool.true_and]
  rw [if_pos (by omega)]

/-- A field that is the whole word. -/
theorem take_all {n : Nat} (x : BitVec n) : x.extractLsb' 0 n = x := by simp

/-- A word whose field of k bits from s is zero has no bit of that field's mask. -/
theorem and_field (w m : Word) (s k : Nat) (h : w.extractLsb' s k = 0) (hm : m.toNat = (2 ^ k - 1) * 2 ^ s) : w &&& m = 0 := by
  apply BitVec.eq_of_getLsbD_eq
  intro i hi
  have hb : m.getLsbD i = (decide (s ≤ i) && decide (i - s < k)) := by
    rw [BitVec.getLsbD, hm, Nat.mul_comm, Nat.testBit_two_pow_mul, Nat.testBit_two_pow_sub_one]
  rw [BitVec.getLsbD_and, hb]
  by_cases h1 : s ≤ i
  · by_cases h2 : i - s < k
    · have := congrArg (fun v => v.getLsbD (i - s)) h
      simp only [BitVec.getLsbD_extractLsb', h2, decide_true, Bool.true_and] at this
      rw [show s + (i - s) = i by omega] at this
      simp [this]
    · simp [h2]
  · simp [h1]

/-- The opcode of a slot word. -/
theorem op_of (t : BitVec 3) (c : BitVec 9) (x : BitVec 52) : wordOp ((t ++ c) ++ x) = c.toNat := by
  simp (disch := decide) only [wordOp, take_hi, take_lo, take_all, Nat.reduceSub]

/-- The path tag of a slot word. -/
theorem tag_of (t : BitVec 3) (c : BitVec 9) (x : BitVec 52) : wordTag ((t ++ c) ++ x) = t.toNat := by
  simp (disch := decide) only [wordTag, take_hi, take_all, Nat.reduceSub]

/-! ## Each operand form is read back, and its reserved bits are zero -/

theorem get_putBT (t : BitVec 3) (c : BitVec 9) (o : BT) : getBT ((t ++ c) ++ putBT o) o.ext = o := by
  simp (disch := decide) only [getBT, putBT, take_hi, take_lo, take_all, Nat.reduceSub]

theorem rsv_putBT (t : BitVec 3) (c : BitVec 9) (o : BT) : ((t ++ c) ++ putBT o) &&& rsvBT = 0 := by
  apply and_field _ _ 16 2 _ rfl
  simp (disch := decide) only [putBT, take_hi, take_lo, take_all, Nat.reduceSub]; rfl

theorem get_putBJ (t : BitVec 3) (c : BitVec 9) (o : BJ) : getBJ ((t ++ c) ++ putBJ o) = o := by
  simp (disch := decide) only [getBJ, putBJ, take_hi, take_lo, take_all, Nat.reduceSub]

theorem rsv_putBJ (t : BitVec 3) (c : BitVec 9) (o : BJ) : ((t ++ c) ++ putBJ o) &&& rsvBJ = 0 := by
  apply and_field _ _ 0 20 _ rfl
  simp (disch := decide) only [putBJ, take_hi, take_lo, take_all, Nat.reduceSub]; rfl

theorem get_putBG (t : BitVec 3) (c : BitVec 9) (o : BG) : getBG ((t ++ c) ++ putBG o) = o := by
  simp (disch := decide) only [getBG, putBG, take_hi, take_lo, take_all, Nat.reduceSub]

theorem rsv_putBG (t : BitVec 3) (c : BitVec 9) (o : BG) : ((t ++ c) ++ putBG o) &&& rsvBG = 0 := by
  apply and_field _ _ 0 46 _ rfl
  simp (disch := decide) only [putBG, take_hi, take_lo, take_all, Nat.reduceSub]; rfl

theorem get_putBI (t : BitVec 3) (c : BitVec 9) (o : BI) : getBI ((t ++ c) ++ putBI o) = o := by
  simp (disch := decide) only [getBI, putBI, take_hi, take_lo, take_all, Nat.reduceSub]

theorem rsv_putBI (t : BitVec 3) (c : BitVec 9) (o : BI) : ((t ++ c) ++ putBI o) &&& rsvBI = 0 := by
  apply and_field _ _ 0 36 _ rfl
  simp (disch := decide) only [putBI, take_hi, take_lo, take_all, Nat.reduceSub]; rfl

theorem get_putSR (t : BitVec 3) (c : BitVec 9) (o : SR) : getSR ((t ++ c) ++ putSR o) = o := by
  simp (disch := decide) only [getSR, putSR, take_hi, take_lo, take_all, Nat.reduceSub]

theorem rsv_putSR (t : BitVec 3) (c : BitVec 9) (o : SR) : ((t ++ c) ++ putSR o) &&& rsvSR = 0 := by
  apply and_field _ _ 0 9 _ rfl
  simp (disch := decide) only [putSR, take_hi, take_lo, take_all, Nat.reduceSub]; rfl

theorem get_putSI (t : BitVec 3) (c : BitVec 9) (o : SI) : getSI ((t ++ c) ++ putSI o) = o := by
  simp (disch := decide) only [getSI, putSI, take_hi, take_lo, take_all, Nat.reduceSub]

theorem get_putVR (t : BitVec 3) (c : BitVec 9) (o : VR) : getVR ((t ++ c) ++ putVR o) = o := by
  simp (disch := decide) only [getVR, putVR, take_hi, take_lo, take_all, Nat.reduceSub]

theorem rsv_putVR (t : BitVec 3) (c : BitVec 9) (o : VR) : ((t ++ c) ++ putVR o) &&& rsvVR = 0 := by
  apply and_field _ _ 0 1 _ rfl
  simp (disch := decide) only [putVR, take_hi, take_lo, take_all, Nat.reduceSub]; rfl

theorem get_putVX (t : BitVec 3) (c : BitVec 9) (o : VX) : getVX ((t ++ c) ++ putVX o) = o := by
  simp (disch := decide) only [getVX, putVX, take_hi, take_lo, take_all, Nat.reduceSub]

theorem get_putXR (t : BitVec 3) (c : BitVec 9) (o : XR) : getXR ((t ++ c) ++ putXR o) = o := by
  simp (disch := decide) only [getXR, putXR, take_hi, take_lo, take_all, Nat.reduceSub]

theorem get_putLM (t : BitVec 3) (c : BitVec 9) (o : LM) : getLM ((t ++ c) ++ putLM o) = o := by
  simp (disch := decide) only [getLM, putLM, take_hi, take_lo, take_all, Nat.reduceSub]

theorem get_putLG (t : BitVec 3) (c : BitVec 9) (o : LG) : getLG ((t ++ c) ++ putLG o) = o := by
  simp (disch := decide) only [getLG, putLG, take_hi, take_lo, take_all, Nat.reduceSub]

theorem get_putLA (t : BitVec 3) (c : BitVec 9) (o : LA) : getLA ((t ++ c) ++ putLA o) = o := by
  simp (disch := decide) only [getLA, putLA, take_hi, take_lo, take_all, Nat.reduceSub]

theorem get_putKM (t : BitVec 3) (c : BitVec 9) (o : KM) : getKM ((t ++ c) ++ putKM o) = o := by
  simp (disch := decide) only [getKM, putKM, take_hi, take_lo, take_all, Nat.reduceSub]

theorem rsv_putKM (t : BitVec 3) (c : BitVec 9) (o : KM) : ((t ++ c) ++ putKM o) &&& rsvKM = 0 := by
  apply and_field _ _ 0 12 _ rfl
  simp (disch := decide) only [putKM, take_hi, take_lo, take_all, Nat.reduceSub]; rfl

theorem get_putKR (t : BitVec 3) (c : BitVec 9) (o : KR) : getKR ((t ++ c) ++ putKR o) = o := by
  simp (disch := decide) only [getKR, putKR, take_hi, take_lo, take_all, Nat.reduceSub]

theorem rsv_putKR (t : BitVec 3) (c : BitVec 9) (o : KR) : ((t ++ c) ++ putKR o) &&& rsvKR = 0 := by
  apply and_field _ _ 32 20 _ rfl
  simp (disch := decide) only [putKR, take_hi, take_lo, take_all, Nat.reduceSub]; rfl

theorem get_putMM (t : BitVec 3) (c : BitVec 9) (o : MM) : getMM ((t ++ c) ++ putMM o) = o := by
  simp (disch := decide) only [getMM, putMM, take_hi, take_lo, take_all, Nat.reduceSub]

theorem get_putMC (t : BitVec 3) (c : BitVec 9) (o : MC) : getMC ((t ++ c) ++ putMC o) = o := by
  simp (disch := decide) only [getMC, putMC, take_hi, take_lo, take_all, Nat.reduceSub]

theorem get_putCD (t : BitVec 3) (c : BitVec 9) (o : CD) : getCD ((t ++ c) ++ putCD o) = o := by
  simp (disch := decide) only [getCD, putCD, take_hi, take_lo, take_all, Nat.reduceSub]

theorem get_putYF (t : BitVec 3) (c : BitVec 9) (o : YF) : getYF ((t ++ c) ++ putYF o) = o := by
  simp (disch := decide) only [getYF, putYF, take_hi, take_lo, take_all, Nat.reduceSub]

/-- An operation without operands has zeros in all 52 bits. -/
theorem rsv_none (t : BitVec 3) (c : BitVec 9) : ((t ++ c) ++ (0 : BitVec 52)) &&& rsvBN = 0 := by
  apply and_field _ _ 0 52 _ rfl
  simp (disch := decide) only [take_lo, take_all]

/-- A form that uses every bit reserves none. -/
theorem rsv_full (w : Word) : w &&& 0 = 0 := by simp

/-! ## From the named operation to the decoded slot and bundle -/

theorem Fits.cls {i : Instr} {j s : Slot} {t : BitVec 3} (h : Fits i j t) (hs : slotOf i = some s) : classOf j = classOf s := by
  obtain ⟨⟨s', h1, h2⟩, -⟩ := h
  rw [hs] at h1
  cases h1
  exact h2

/-- A path tag that fits is no bad tag. -/
theorem Fits.tagOk {i : Instr} {j : Slot} {t : BitVec 3} (h : Fits i j t) (c : BitVec 9) (x : BitVec 52) :
    badTag j ((t ++ c) ++ x) = false := by
  obtain ⟨-, -, h3, h4⟩ := h
  have h5 : ¬ 6 ≤ t.toNat := by omega
  simp only [badTag, tag_of, h5, decide_false, Bool.false_or]
  by_cases hj : j = .br
  · simp [h4 hj]
  · simp [hj]

/-- The slot's decoding, from the operation its opcode names. -/
theorem slot_of {i : Instr} {j : Slot} {t : BitVec 3} {e : Option Word} (hl : Machine.illegal i = none) (hf : Fits i j t)
    (hd : decodeOp j e ((t ++ opcodeOf i) ++ operandsOf i) = some i)
    (hr : ((t ++ opcodeOf i) ++ operandsOf i) &&& rsvBits i = 0) :
    decodeSlot j e ((t ++ opcodeOf i) ++ operandsOf i) = .inl i := by
  simp [decodeSlot, hd, hr, hf.tagOk, hl]

theorem slot_idx (s : Slot) : slotOfIdx (slotIdx s) = s := by cases s <;> rfl

/-- A header of one slot without a branch-extension word. -/
def Header1 (h : Word) (j : Nat) : Prop :=
  headerCase h = none ∧ hdrBext h = false ∧ hdrSten h = 0 ∧ hdrRep h = 0 ∧ presSlots (hdrPres h) = [j]

theorem header_none (s : Slot) : Header1 (header1 (slotIdx s) false) (slotIdx s) := by cases s <;> (unfold Header1; decide)

/-- A bundle of one slot word with path tag 0. -/
theorem decode_single {h w : Word} {j : Nat} {i : Instr} (hh : Header1 h j) (ht : wordTag w = 0)
    (hd : decodeSlot (slotOfIdx j) none w = .inl i) : decodeOne [h, w] = some i := by
  obtain ⟨h1, h2, h3, h4, h5⟩ := hh
  simp [decodeOne, decodeBundle, h1, splitWords, h2, h5, wordsCase, h3, h4, ht, decodeSlots, hd]

/-- The bundle that holds one operation without a branch-extension word. -/
theorem one_of {i : Instr} {s : Slot} (hs : slotOf i = some s) (he : extOf i = none)
    (hd : decodeSlot s none (encodeWord i) = .inl i) : decodeOne (encode i) = some i := by
  have h : encode i = [header1 (slotIdx s) false, encodeWord i] := by rw [encode, hs, he]; rfl
  rw [h]
  exact decode_single (header_none s) (tag_of ..) ((slot_idx s).symm ▸ hd)

/-- The path tag 0 fits an operation's own slot. -/
theorem fits_own {i : Instr} {s : Slot} (hs : slotOf i = some s) (hn : ∀ s', i = .nop s' → s = s') : Fits i s 0 :=
  ⟨⟨s, hs, rfl⟩, hn, by decide, fun _ => rfl⟩

/-- The statement of an operation, from its two table facts. -/
theorem stmt_of {i : Instr} {s : Slot} (hs : slotOf i = some s) (he : extOf i = none) (hn : ∀ s', i = .nop s' → s = s')
    (hd : Machine.illegal i = none → ∀ j t, Fits i j t → decodeOp j none ((t ++ opcodeOf i) ++ operandsOf i) = some i)
    (hr : ∀ t : BitVec 3, ((t ++ opcodeOf i) ++ operandsOf i) &&& rsvBits i = 0) : Statement i := by
  intro hl
  have key : ∀ j t, Fits i j t → decodeSlot j (extOf i) ((t ++ opcodeOf i) ++ operandsOf i) = .inl i := fun j t hf =>
    slot_of hl hf (he ▸ hd hl j t hf) (hr t)
  exact ⟨key, fun _ => one_of hs he (he ▸ key s 0 (fits_own hs hn)), fun h => by simp [hs] at h⟩

/-- An event has no encoding. -/
theorem stmt_event {i : Instr} (hs : slotOf i = none) : Statement i := fun _ =>
  ⟨fun j t hf => by obtain ⟨⟨s, h, -⟩, -⟩ := hf; simp [hs] at h, fun h => by simp [hs] at h, fun _ => by simp [encode, hs]⟩

theorem in_br {j : Slot} (h : classOf j = .br) (e : Option Word) (w : Word) : decodeOp j e w = decBr e w := by
  rw [decodeOp, h]

theorem in_sab {j : Slot} (h : classOf j = .sab) (e : Option Word) (w : Word) : decodeOp j e w = decSab j w := by
  rw [decodeOp, h]

theorem in_vab {j : Slot} (h : classOf j = .vab) (e : Option Word) (w : Word) : decodeOp j e w = decVab j w := by
  rw [decodeOp, h]

theorem in_ls {j : Slot} (h : classOf j = .ls) (e : Option Word) (w : Word) : decodeOp j e w = decLs w := by
  rw [decodeOp, h]

theorem in_sx {j : Slot} (h : classOf j = .sx) (e : Option Word) (w : Word) : decodeOp j e w = decSx w := by
  rw [decodeOp, h]

theorem in_xf {j : Slot} (h : classOf j = .xf) (e : Option Word) (w : Word) : decodeOp j e w = decXf w := by
  rw [decodeOp, h]

theorem in_mx {j : Slot} (h : classOf j = .mx) (e : Option Word) (w : Word) : decodeOp j e w = decMx w := by
  rw [decodeOp, h]

theorem in_cp {j : Slot} (h : classOf j = .cp) (e : Option Word) (w : Word) : decodeOp j e w = decCp w := by
  rw [decodeOp, h]

theorem in_sy {j : Slot} (h : classOf j = .sy) (e : Option Word) (w : Word) : decodeOp j e w = decSy w := by
  rw [decodeOp, h]

/-- Every check of a legal operation passes: entry n of the list is false. -/
theorem check_of {l : List (Bool × Nat)} (h : Machine.firstBad l = none) (n : Nat) : (l.getD n (false, 0)).1 = false := by
  induction l generalizing n with
  | nil => rfl
  | cons p l ih =>
    obtain ⟨b, k⟩ := p
    cases b
    · cases n with
      | zero => rfl
      | succ n => exact ih (by simpa [Machine.firstBad] using h) n
    · simp [Machine.firstBad] at h

theorem pick_off {n : Nat} {x : BitVec n} {k : Nat} {a b : Instr} (h : x.getLsbD k = false) : some (pick x k a b) = some a := by
  simp [pick, h]

theorem pick_on {n : Nat} {x : BitVec n} {k : Nat} {a b : Instr} (h : x.getLsbD k = true) : some (pick x k a b) = some b := by
  simp [pick, h]

/-! ## The constructors -/

theorem presentBundle (cl core : Nat): Statement (.presentBundle cl core) := stmt_event rfl

theorem blockClears (c : CtxId): Statement (.blockClears c) := stmt_event rfl

theorem interlockedWrite (c : CtxId): Statement (.interlockedWrite c) := stmt_event rfl

theorem landing (c : CtxId): Statement (.landing c) := stmt_event rfl

theorem operationPerformed (c : CtxId) (seq : Nat): Statement (.operationPerformed c seq) := stmt_event rfl

theorem watchdog (c : CtxId): Statement (.watchdog c) := stmt_event rfl

theorem fifoTimeout (c : CtxId): Statement (.fifoTimeout c) := stmt_event rfl

theorem leaseTimeout (c : CtxId): Statement (.leaseTimeout c) := stmt_event rfl

theorem leaseWaitEvent (c : CtxId): Statement (.leaseWaitEvent c) := stmt_event rfl

theorem sleepWake (c : CtxId): Statement (.sleepWake c) := stmt_event rfl

theorem signatureMatch (cl pair : Nat) (equal : Bool): Statement (.signatureMatch cl pair equal) := stmt_event rfl

theorem pairModeChange (cl pair : Nat): Statement (.pairModeChange cl pair) := stmt_event rfl

theorem launchStart : Statement .launchStart := stmt_event rfl

theorem timeSlot : Statement .timeSlot := stmt_event rfl

theorem releaseTask (e t : Nat): Statement (.releaseTask e t) := stmt_event rfl

theorem placeIteration (e t : Nat): Statement (.placeIteration e t) := stmt_event rfl

theorem placementComplete (it : IterId): Statement (.placementComplete it) := stmt_event rfl

theorem preempt (e t : Nat): Statement (.preempt e t) := stmt_event rfl

theorem preemptDrainTimeout (it : IterId): Statement (.preemptDrainTimeout it) := stmt_event rfl

theorem resumeIteration (it : IterId): Statement (.resumeIteration it) := stmt_event rfl

theorem completionPost (it : IterId): Statement (.completionPost it) := stmt_event rfl

theorem instanceComplete : Statement .instanceComplete := stmt_event rfl

theorem leaseGrant (cl : Nat): Statement (.leaseGrant cl) := stmt_event rfl

theorem leaseEnd (cl : Nat): Statement (.leaseEnd cl) := stmt_event rfl

theorem mxQueueTransfer (cl : Nat): Statement (.mxQueueTransfer cl) := stmt_event rfl

theorem arrayCommandStart (cl : Nat): Statement (.arrayCommandStart cl) := stmt_event rfl

theorem arrayCommandComplete (cl : Nat): Statement (.arrayCommandComplete cl) := stmt_event rfl

theorem rowRetire (cl : Nat): Statement (.rowRetire cl) := stmt_event rfl

theorem cpCommandStart (cl : Nat): Statement (.cpCommandStart cl) := stmt_event rfl

theorem engineAccessResume (c : CtxId) (seq : Nat): Statement (.engineAccessResume c seq) := stmt_event rfl

theorem cpCommandComplete (c : CtxId) (seq : Nat): Statement (.cpCommandComplete c seq) := stmt_event rfl

theorem packetReceive (p : Packet): Statement (.packetReceive p) := stmt_event rfl

theorem responseReceive (p : Packet): Statement (.responseReceive p) := stmt_event rfl

theorem logEntryReplayed (i : Nat): Statement (.logEntryReplayed i) := stmt_event rfl

theorem logEntryAbandoned (i : Nat): Statement (.logEntryAbandoned i) := stmt_event rfl

theorem fifoWordArrive (mv : FifoMove): Statement (.fifoWordArrive mv) := stmt_event rfl

theorem flitReplay (link : Nat): Statement (.flitReplay link) := stmt_event rfl

theorem linkRetrain (link : Nat): Statement (.linkRetrain link) := stmt_event rfl

theorem linkDown (link : Nat): Statement (.linkDown link) := stmt_event rfl

theorem linkRestored (link : Nat): Statement (.linkRestored link) := stmt_event rfl

theorem deadlockTimer (link vc : Nat): Statement (.deadlockTimer link vc) := stmt_event rfl

theorem collOpenReceive (p : Packet): Statement (.collOpenReceive p) := stmt_event rfl

theorem collBlockReceive (p : Packet) (crcOk : Bool): Statement (.collBlockReceive p crcOk) := stmt_event rfl

theorem lossyClose : Statement .lossyClose := stmt_event rfl

theorem collCloseReceive (p : Packet): Statement (.collCloseReceive p) := stmt_event rfl

theorem rdmaReceive (port : Nat) (op : RdmaOp): Statement (.rdmaReceive port op) := stmt_event rfl

theorem purgeStart (tag : Nat) (cause : PurgeCause): Statement (.purgeStart tag cause) := stmt_event rfl

theorem purgePacketReceive (p : Packet): Statement (.purgePacketReceive p) := stmt_event rfl

theorem purgeAckReceive (p : Packet): Statement (.purgeAckReceive p) := stmt_event rfl

theorem scrub : Statement .scrub := stmt_event rfl

theorem invalidationPerformed : Statement .invalidationPerformed := stmt_event rfl

theorem hmovMigrate : Statement .hmovMigrate := stmt_event rfl

theorem droopAlarm (region : Nat): Statement (.droopAlarm region) := stmt_event rfl

theorem holdEnter : Statement .holdEnter := stmt_event rfl

theorem holdExit : Statement .holdExit := stmt_event rfl

theorem supplyRetentionLoss : Statement .supplyRetentionLoss := stmt_event rfl

theorem throttleEnter : Statement .throttleEnter := stmt_event rfl

theorem throttleExit : Statement .throttleExit := stmt_event rfl

theorem thermalTrip : Statement .thermalTrip := stmt_event rfl

theorem powerOnReset : Statement .powerOnReset := stmt_event rfl

theorem warmReset : Statement .warmReset := stmt_event rfl

theorem functionLevelReset : Statement .functionLevelReset := stmt_event rfl

theorem resetreqWrite (v : Word) (bytes : Nat): Statement (.resetreqWrite v bytes) := stmt_event rfl

theorem doorbellArm (e : Nat) (v : Word): Statement (.doorbellArm e v) := stmt_event rfl

theorem doorbellDisarm (e : Nat) (v : Word): Statement (.doorbellDisarm e v) := stmt_event rfl

theorem hostInvalidate (w : Word): Statement (.hostInvalidate w) := stmt_event rfl

theorem hostPurgeRequest (w : Word): Statement (.hostPurgeRequest w) := stmt_event rfl

theorem mgmtcfgWrite (w : Word): Statement (.mgmtcfgWrite w) := stmt_event rfl

theorem pairmodeWrite (cl : Nat) (w : Word): Statement (.pairmodeWrite cl w) := stmt_event rfl

theorem devtimeLWrite (w : Word): Statement (.devtimeLWrite w) := stmt_event rfl

theorem bootFlashErase (w : Word): Statement (.bootFlashErase w) := stmt_event rfl

theorem bootFlashProgram (off : Nat) (w : Word): Statement (.bootFlashProgram off w) := stmt_event rfl

theorem droppedCountRead : Statement .droppedCountRead := stmt_event rfl

theorem attestationRequest : Statement .attestationRequest := stmt_event rfl

theorem attestationReady : Statement .attestationReady := stmt_event rfl

theorem hostMemoryAccess (a : HostAccess): Statement (.hostMemoryAccess a) := stmt_event rfl

theorem registerWrite (off : Nat) (w : Word): Statement (.registerWrite off w) := stmt_event rfl

theorem smbusReadDevstat : Statement .smbusReadDevstat := stmt_event rfl

theorem smbusReadTemperature (n : Nat): Statement (.smbusReadTemperature n) := stmt_event rfl

theorem smbusReadPower : Statement .smbusReadPower := stmt_event rfl

theorem smbusReadDropped : Statement .smbusReadDropped := stmt_event rfl

theorem smbusWarmReset (v : Word): Statement (.smbusWarmReset v) := stmt_event rfl

theorem jtagBypass : Statement .jtagBypass := stmt_event rfl

theorem jtagIdcode : Statement .jtagIdcode := stmt_event rfl

theorem jtagSamplePreload (pins : List Bool): Statement (.jtagSamplePreload pins) := stmt_event rfl

theorem jtagExtest : Statement .jtagExtest := stmt_event rfl

theorem nop (s : Slot) : Statement (.nop s) :=
  stmt_of (s := s) rfl rfl (fun _ h => by cases h; rfl) (fun _ j t h => by
    obtain rfl := h.2.1 s rfl
    cases j
    · rw [in_br rfl, decBr, show wordOp _ = 0 from op_of ..]; rfl
    · rw [in_sab rfl, decSab, show wordOp _ = 0 from op_of ..]; rfl
    · rw [in_sab rfl, decSab, show wordOp _ = 0 from op_of ..]; rfl
    · rw [in_vab rfl, decVab, show wordOp _ = 0 from op_of ..]; rfl
    · rw [in_vab rfl, decVab, show wordOp _ = 0 from op_of ..]; rfl
    · rw [in_ls rfl, decLs, show wordOp _ = 0 from op_of ..]; rfl
    · rw [in_sx rfl, decSx, show wordOp _ = 0 from op_of ..]; rfl
    · rw [in_xf rfl, decXf, show wordOp _ = 0 from op_of ..]; rfl
    · rw [in_mx rfl, decMx, show wordOp _ = 0 from op_of ..]; rfl
    · rw [in_cp rfl, decCp, show wordOp _ = 0 from op_of ..]; rfl
    · rw [in_sy rfl, decSy, show wordOp _ = 0 from op_of ..]; rfl)
  (rsv_none · _)

/-- A header of a BR word and its branch-extension word. -/
def HeaderExt (h : Word) : Prop :=
  headerCase h = none ∧ hdrBext h = true ∧ hdrSten h = 0 ∧ hdrRep h = 0 ∧ presSlots (hdrPres h) = [0] ∧
    (hdrPres h).getLsbD 0 = true

theorem header_ext : HeaderExt (header1 0 true) := by unfold HeaderExt; decide

/-- A bundle of a `tree` word with its branch-extension word. -/
theorem decode_ext {h w x : Word} {i : Instr} (hh : HeaderExt h) (ho : wordOp w = 1) (ht : wordTag w = 0)
    (hd : decodeSlot .br (some x) w = .inl i) : decodeOne [h, w, x] = some i := by
  obtain ⟨h1, h2, h3, h4, h5, h6⟩ := hh
  simp [decodeOne, decodeBundle, h1, splitWords, h2, h5, h6, wordsCase, hasTree, h3, h4, ho, ht, decodeSlots, slotOfIdx, hd]

/-- The bundle that holds a `tree` with its branch-extension word. -/
theorem tree_ext {o : BT} {x : Word} (he : o.ext = some x)
    (hd : decodeSlot .br (some x) (encodeWord (.tree o)) = .inl (.tree o)) : decodeOne (encode (.tree o)) = some (.tree o) := by
  have h : encode (.tree o) = [header1 0 true, encodeWord (.tree o), x] := by
    show header1 0 o.ext.isSome :: encodeWord (.tree o) :: o.ext.toList = _
    rw [he]; rfl
  rw [h]
  exact decode_ext header_ext (op_of ..) (tag_of ..) hd

theorem tree (o : BT) : Statement (.tree o) := by
  have hd : ∀ (j : Slot) (t : BitVec 3), Fits (.tree o) j t →
      decodeOp j o.ext ((t ++ opcodeOf (.tree o)) ++ operandsOf (.tree o)) = some (.tree o) := fun j t h => by
    rw [in_br (h.cls rfl), decBr, show wordOp _ = 1 from op_of ..]; exact congrArg (fun o => some (Instr.tree o)) (get_putBT ..)
  have hr := fun t : BitVec 3 => rsv_putBT t 1 o
  cases he : o.ext with
  | none => exact stmt_of (s := .br) rfl he nofun (fun _ j t h => he ▸ hd j t h) hr
  | some x =>
    intro hl
    have key : ∀ j t, Fits (.tree o) j t → decodeSlot j o.ext ((t ++ opcodeOf (.tree o)) ++ operandsOf (.tree o)) = .inl (.tree o) :=
      fun j t hf => slot_of hl hf (hd j t hf) (hr t)
    exact ⟨key, fun _ => tree_ext he (he ▸ key .br 0 (fits_own rfl nofun)), nofun⟩

theorem jmp (o : BJ) : Statement (.jmp o) := stmt_of (s := .br) rfl rfl nofun (fun _ j t h => by
  rw [in_br (h.cls rfl), decBr, show wordOp _ = 2 from op_of ..]; exact congrArg (fun o => some (Instr.jmp o)) (get_putBJ ..)) (rsv_putBJ · _ o)

theorem jmpr (o : BG) : Statement (.jmpr o) := stmt_of (s := .br) rfl rfl nofun (fun _ j t h => by
  rw [in_br (h.cls rfl), decBr, show wordOp _ = 3 from op_of ..]; exact congrArg (fun o => some (Instr.jmpr o)) (get_putBG ..)) (rsv_putBG · _ o)

theorem call (o : BJ) : Statement (.call o) := stmt_of (s := .br) rfl rfl nofun (fun _ j t h => by
  rw [in_br (h.cls rfl), decBr, show wordOp _ = 4 from op_of ..]; exact congrArg (fun o => some (Instr.call o)) (get_putBJ ..)) (rsv_putBJ · _ o)

theorem callr (o : BG) : Statement (.callr o) := stmt_of (s := .br) rfl rfl nofun (fun _ j t h => by
  rw [in_br (h.cls rfl), decBr, show wordOp _ = 5 from op_of ..]; exact congrArg (fun o => some (Instr.callr o)) (get_putBG ..)) (rsv_putBG · _ o)

theorem ret : Statement .ret := stmt_of (s := .br) rfl rfl nofun (fun _ j t h => by
  rw [in_br (h.cls rfl), decBr, show wordOp _ = 6 from op_of ..]; rfl) (rsv_none · _)

theorem trap (o : BI) : Statement (.trap o) := stmt_of (s := .br) rfl rfl nofun (fun _ j t h => by
  rw [in_br (h.cls rfl), decBr, show wordOp _ = 7 from op_of ..]; exact congrArg (fun o => some (Instr.trap o)) (get_putBI ..)) (rsv_putBI · _ o)

theorem eret : Statement .eret := stmt_of (s := .br) rfl rfl nofun (fun _ j t h => by
  rw [in_br (h.cls rfl), decBr, show wordOp _ = 8 from op_of ..]; rfl) (rsv_none · _)

theorem halt : Statement .halt := stmt_of (s := .br) rfl rfl nofun (fun _ j t h => by
  rw [in_br (h.cls rfl), decBr, show wordOp _ = 9 from op_of ..]; rfl) (rsv_none · _)

theorem yield : Statement .yield := stmt_of (s := .br) rfl rfl nofun (fun _ j t h => by
  rw [in_br (h.cls rfl), decBr, show wordOp _ = 10 from op_of ..]; rfl) (rsv_none · _)

theorem add (o : SR) : Statement (.add o) := stmt_of (s := .sa) rfl rfl nofun (fun _ j t h => by
  rw [in_sab (h.cls rfl), decSab, show wordOp _ = 1 from op_of ..]; exact congrArg (fun o => some (Instr.add o)) (get_putSR ..)) (rsv_putSR · _ o)

theorem sub (o : SR) : Statement (.sub o) := stmt_of (s := .sa) rfl rfl nofun (fun _ j t h => by
  rw [in_sab (h.cls rfl), decSab, show wordOp _ = 3 from op_of ..]; exact congrArg (fun o => some (Instr.sub o)) (get_putSR ..)) (rsv_putSR · _ o)

theorem mul (o : SR) : Statement (.mul o) := stmt_of (s := .sa) rfl rfl nofun (fun _ j t h => by
  rw [in_sab (h.cls rfl), decSab, show wordOp _ = 4 from op_of ..]; exact congrArg (fun o => some (Instr.mul o)) (get_putSR ..)) (rsv_putSR · _ o)

theorem mulh (o : SR) : Statement (.mulh o) := stmt_of (s := .sa) rfl rfl nofun (fun _ j t h => by
  rw [in_sab (h.cls rfl), decSab, show wordOp _ = 5 from op_of ..]; exact congrArg (fun o => some (Instr.mulh o)) (get_putSR ..)) (rsv_putSR · _ o)

theorem mulhz (o : SR) : Statement (.mulhz o) := stmt_of (s := .sa) rfl rfl nofun (fun _ j t h => by
  rw [in_sab (h.cls rfl), decSab, show wordOp _ = 6 from op_of ..]; exact congrArg (fun o => some (Instr.mulhz o)) (get_putSR ..)) (rsv_putSR · _ o)

theorem div (o : SR) : Statement (.div o) := stmt_of (s := .sa) rfl rfl nofun (fun _ j t h => by
  rw [in_sab (h.cls rfl), decSab, show wordOp _ = 7 from op_of ..]; exact congrArg (fun o => some (Instr.div o)) (get_putSR ..)) (rsv_putSR · _ o)

theorem divz (o : SR) : Statement (.divz o) := stmt_of (s := .sa) rfl rfl nofun (fun _ j t h => by
  rw [in_sab (h.cls rfl), decSab, show wordOp _ = 8 from op_of ..]; exact congrArg (fun o => some (Instr.divz o)) (get_putSR ..)) (rsv_putSR · _ o)

theorem rem (o : SR) : Statement (.rem o) := stmt_of (s := .sa) rfl rfl nofun (fun _ j t h => by
  rw [in_sab (h.cls rfl), decSab, show wordOp _ = 9 from op_of ..]; exact congrArg (fun o => some (Instr.rem o)) (get_putSR ..)) (rsv_putSR · _ o)

theorem remz (o : SR) : Statement (.remz o) := stmt_of (s := .sa) rfl rfl nofun (fun _ j t h => by
  rw [in_sab (h.cls rfl), decSab, show wordOp _ = 10 from op_of ..]; exact congrArg (fun o => some (Instr.remz o)) (get_putSR ..)) (rsv_putSR · _ o)

theorem and (o : SR) : Statement (.and o) := stmt_of (s := .sa) rfl rfl nofun (fun _ j t h => by
  rw [in_sab (h.cls rfl), decSab, show wordOp _ = 11 from op_of ..]; exact congrArg (fun o => some (Instr.and o)) (get_putSR ..)) (rsv_putSR · _ o)

theorem or (o : SR) : Statement (.or o) := stmt_of (s := .sa) rfl rfl nofun (fun _ j t h => by
  rw [in_sab (h.cls rfl), decSab, show wordOp _ = 13 from op_of ..]; exact congrArg (fun o => some (Instr.or o)) (get_putSR ..)) (rsv_putSR · _ o)

theorem xor (o : SR) : Statement (.xor o) := stmt_of (s := .sa) rfl rfl nofun (fun _ j t h => by
  rw [in_sab (h.cls rfl), decSab, show wordOp _ = 15 from op_of ..]; exact congrArg (fun o => some (Instr.xor o)) (get_putSR ..)) (rsv_putSR · _ o)

theorem andn (o : SR) : Statement (.andn o) := stmt_of (s := .sa) rfl rfl nofun (fun _ j t h => by
  rw [in_sab (h.cls rfl), decSab, show wordOp _ = 17 from op_of ..]; exact congrArg (fun o => some (Instr.andn o)) (get_putSR ..)) (rsv_putSR · _ o)

theorem shl (o : SR) : Statement (.shl o) := stmt_of (s := .sa) rfl rfl nofun (fun _ j t h => by
  rw [in_sab (h.cls rfl), decSab, show wordOp _ = 18 from op_of ..]; exact congrArg (fun o => some (Instr.shl o)) (get_putSR ..)) (rsv_putSR · _ o)

theorem shr (o : SR) : Statement (.shr o) := stmt_of (s := .sa) rfl rfl nofun (fun _ j t h => by
  rw [in_sab (h.cls rfl), decSab, show wordOp _ = 19 from op_of ..]; exact congrArg (fun o => some (Instr.shr o)) (get_putSR ..)) (rsv_putSR · _ o)

theorem sar (o : SR) : Statement (.sar o) := stmt_of (s := .sa) rfl rfl nofun (fun _ j t h => by
  rw [in_sab (h.cls rfl), decSab, show wordOp _ = 20 from op_of ..]; exact congrArg (fun o => some (Instr.sar o)) (get_putSR ..)) (rsv_putSR · _ o)

theorem rot (o : SR) : Statement (.rot o) := stmt_of (s := .sa) rfl rfl nofun (fun _ j t h => by
  rw [in_sab (h.cls rfl), decSab, show wordOp _ = 21 from op_of ..]; exact congrArg (fun o => some (Instr.rot o)) (get_putSR ..)) (rsv_putSR · _ o)

theorem min (o : SR) : Statement (.min o) := stmt_of (s := .sa) rfl rfl nofun (fun _ j t h => by
  rw [in_sab (h.cls rfl), decSab, show wordOp _ = 22 from op_of ..]; exact congrArg (fun o => some (Instr.min o)) (get_putSR ..)) (rsv_putSR · _ o)

theorem max (o : SR) : Statement (.max o) := stmt_of (s := .sa) rfl rfl nofun (fun _ j t h => by
  rw [in_sab (h.cls rfl), decSab, show wordOp _ = 23 from op_of ..]; exact congrArg (fun o => some (Instr.max o)) (get_putSR ..)) (rsv_putSR · _ o)

theorem minz (o : SR) : Statement (.minz o) := stmt_of (s := .sa) rfl rfl nofun (fun _ j t h => by
  rw [in_sab (h.cls rfl), decSab, show wordOp _ = 24 from op_of ..]; exact congrArg (fun o => some (Instr.minz o)) (get_putSR ..)) (rsv_putSR · _ o)

theorem maxz (o : SR) : Statement (.maxz o) := stmt_of (s := .sa) rfl rfl nofun (fun _ j t h => by
  rw [in_sab (h.cls rfl), decSab, show wordOp _ = 25 from op_of ..]; exact congrArg (fun o => some (Instr.maxz o)) (get_putSR ..)) (rsv_putSR · _ o)

theorem abs (o : SR) : Statement (.abs o) := stmt_of (s := .sa) rfl rfl nofun (fun _ j t h => by
  rw [in_sab (h.cls rfl), decSab, show wordOp _ = 26 from op_of ..]; exact congrArg (fun o => some (Instr.abs o)) (get_putSR ..)) (rsv_putSR · _ o)

theorem clz (o : SR) : Statement (.clz o) := stmt_of (s := .sa) rfl rfl nofun (fun _ j t h => by
  rw [in_sab (h.cls rfl), decSab, show wordOp _ = 27 from op_of ..]; exact congrArg (fun o => some (Instr.clz o)) (get_putSR ..)) (rsv_putSR · _ o)

theorem ctz (o : SR) : Statement (.ctz o) := stmt_of (s := .sa) rfl rfl nofun (fun _ j t h => by
  rw [in_sab (h.cls rfl), decSab, show wordOp _ = 28 from op_of ..]; exact congrArg (fun o => some (Instr.ctz o)) (get_putSR ..)) (rsv_putSR · _ o)

theorem popc (o : SR) : Statement (.popc o) := stmt_of (s := .sa) rfl rfl nofun (fun _ j t h => by
  rw [in_sab (h.cls rfl), decSab, show wordOp _ = 29 from op_of ..]; exact congrArg (fun o => some (Instr.popc o)) (get_putSR ..)) (rsv_putSR · _ o)

theorem sext (o : SR) : Statement (.sext o) := stmt_of (s := .sa) rfl rfl nofun (fun _ j t h => by
  rw [in_sab (h.cls rfl), decSab, show wordOp _ = 30 from op_of ..]; exact congrArg (fun o => some (Instr.sext o)) (get_putSR ..)) (rsv_putSR · _ o)

theorem bfx (o : SR) : Statement (.bfx o) := stmt_of (s := .sa) rfl rfl nofun (fun _ j t h => by
  rw [in_sab (h.cls rfl), decSab, show wordOp _ = 31 from op_of ..]; exact congrArg (fun o => some (Instr.bfx o)) (get_putSR ..)) (rsv_putSR · _ o)

theorem bfxz (o : SR) : Statement (.bfxz o) := stmt_of (s := .sa) rfl rfl nofun (fun _ j t h => by
  rw [in_sab (h.cls rfl), decSab, show wordOp _ = 32 from op_of ..]; exact congrArg (fun o => some (Instr.bfxz o)) (get_putSR ..)) (rsv_putSR · _ o)

theorem bfi (o : SR) : Statement (.bfi o) := stmt_of (s := .sa) rfl rfl nofun (fun _ j t h => by
  rw [in_sab (h.cls rfl), decSab, show wordOp _ = 33 from op_of ..]; exact congrArg (fun o => some (Instr.bfi o)) (get_putSR ..)) (rsv_putSR · _ o)

theorem lea (o : SR) : Statement (.lea o) := stmt_of (s := .sa) rfl rfl nofun (fun _ j t h => by
  rw [in_sab (h.cls rfl), decSab, show wordOp _ = 34 from op_of ..]; exact congrArg (fun o => some (Instr.lea o)) (get_putSR ..)) (rsv_putSR · _ o)

theorem addi (o : SI) : Statement (.addi o) := stmt_of (s := .sa) rfl rfl nofun (fun _ j t h => by
  rw [in_sab (h.cls rfl), decSab, show wordOp _ = 2 from op_of ..]; exact congrArg (fun o => some (Instr.addi o)) (get_putSI ..)) (fun _ => rsv_full _)

theorem andi (o : SI) : Statement (.andi o) := stmt_of (s := .sa) rfl rfl nofun (fun _ j t h => by
  rw [in_sab (h.cls rfl), decSab, show wordOp _ = 12 from op_of ..]; exact congrArg (fun o => some (Instr.andi o)) (get_putSI ..)) (fun _ => rsv_full _)

theorem ori (o : SI) : Statement (.ori o) := stmt_of (s := .sa) rfl rfl nofun (fun _ j t h => by
  rw [in_sab (h.cls rfl), decSab, show wordOp _ = 14 from op_of ..]; exact congrArg (fun o => some (Instr.ori o)) (get_putSI ..)) (fun _ => rsv_full _)

theorem xori (o : SI) : Statement (.xori o) := stmt_of (s := .sa) rfl rfl nofun (fun _ j t h => by
  rw [in_sab (h.cls rfl), decSab, show wordOp _ = 16 from op_of ..]; exact congrArg (fun o => some (Instr.xori o)) (get_putSI ..)) (fun _ => rsv_full _)

theorem movi (o : SI) : Statement (.movi o) := stmt_of (s := .sa) rfl rfl nofun (fun _ j t h => by
  rw [in_sab (h.cls rfl), decSab, show wordOp _ = 35 from op_of ..]; exact congrArg (fun o => some (Instr.movi o)) (get_putSI ..)) (fun _ => rsv_full _)

theorem movhi (o : SI) : Statement (.movhi o) := stmt_of (s := .sa) rfl rfl nofun (fun _ j t h => by
  rw [in_sab (h.cls rfl), decSab, show wordOp _ = 36 from op_of ..]; exact congrArg (fun o => some (Instr.movhi o)) (get_putSI ..)) (fun _ => rsv_full _)

theorem cmpi (o : SI) : Statement (.cmpi o) := stmt_of (s := .sa) rfl rfl nofun (fun _ j t h => by
  rw [in_sab (h.cls rfl), decSab, show wordOp _ = 40 from op_of ..]; exact congrArg (fun o => some (Instr.cmpi o)) (get_putSI ..)) (fun _ => rsv_full _)

theorem mov (o : SR) : Statement (.mov o) := stmt_of (s := .sa) rfl rfl nofun (fun _ j t h => by
  rw [in_sab (h.cls rfl), decSab, show wordOp _ = 37 from op_of ..]; exact congrArg (fun o => some (Instr.mov o)) (get_putSR ..)) (rsv_putSR · _ o)

theorem sel (o : SR) : Statement (.sel o) := stmt_of (s := .sa) rfl rfl nofun (fun _ j t h => by
  rw [in_sab (h.cls rfl), decSab, show wordOp _ = 38 from op_of ..]; exact congrArg (fun o => some (Instr.sel o)) (get_putSR ..)) (rsv_putSR · _ o)

theorem cmp (o : SR) : Statement (.cmp o) := stmt_of (s := .sa) rfl rfl nofun (fun _ j t h => by
  rw [in_sab (h.cls rfl), decSab, show wordOp _ = 39 from op_of ..]; exact congrArg (fun o => some (Instr.cmp o)) (get_putSR ..)) (rsv_putSR · _ o)

theorem cset (o : SR) : Statement (.cset o) := stmt_of (s := .sa) rfl rfl nofun (fun _ j t h => by
  rw [in_sab (h.cls rfl), decSab, show wordOp _ = 41 from op_of ..]; exact congrArg (fun o => some (Instr.cset o)) (get_putSR ..)) (rsv_putSR · _ o)

theorem fadd (o : SR) : Statement (.fadd o) := stmt_of (s := .sa) rfl rfl nofun (fun _ j t h => by
  rw [in_sab (h.cls rfl), decSab, show wordOp _ = 64 from op_of ..]; exact congrArg (fun o => some (Instr.fadd o)) (get_putSR ..)) (rsv_putSR · _ o)

theorem fsub (o : SR) : Statement (.fsub o) := stmt_of (s := .sa) rfl rfl nofun (fun _ j t h => by
  rw [in_sab (h.cls rfl), decSab, show wordOp _ = 65 from op_of ..]; exact congrArg (fun o => some (Instr.fsub o)) (get_putSR ..)) (rsv_putSR · _ o)

theorem fmul (o : SR) : Statement (.fmul o) := stmt_of (s := .sa) rfl rfl nofun (fun _ j t h => by
  rw [in_sab (h.cls rfl), decSab, show wordOp _ = 66 from op_of ..]; exact congrArg (fun o => some (Instr.fmul o)) (get_putSR ..)) (rsv_putSR · _ o)

theorem ffma (o : SR) : Statement (.ffma o) := stmt_of (s := .sa) rfl rfl nofun (fun _ j t h => by
  rw [in_sab (h.cls rfl), decSab, show wordOp _ = 67 from op_of ..]; exact congrArg (fun o => some (Instr.ffma o)) (get_putSR ..)) (rsv_putSR · _ o)

theorem fdiv (o : SR) : Statement (.fdiv o) := stmt_of (s := .sa) rfl rfl nofun (fun _ j t h => by
  rw [in_sab (h.cls rfl), decSab, show wordOp _ = 68 from op_of ..]; exact congrArg (fun o => some (Instr.fdiv o)) (get_putSR ..)) (rsv_putSR · _ o)

theorem fsqrt (o : SR) : Statement (.fsqrt o) := stmt_of (s := .sa) rfl rfl nofun (fun _ j t h => by
  rw [in_sab (h.cls rfl), decSab, show wordOp _ = 69 from op_of ..]; exact congrArg (fun o => some (Instr.fsqrt o)) (get_putSR ..)) (rsv_putSR · _ o)

theorem fmin (o : SR) : Statement (.fmin o) := stmt_of (s := .sa) rfl rfl nofun (fun _ j t h => by
  rw [in_sab (h.cls rfl), decSab, show wordOp _ = 70 from op_of ..]; exact congrArg (fun o => some (Instr.fmin o)) (get_putSR ..)) (rsv_putSR · _ o)

theorem fmax (o : SR) : Statement (.fmax o) := stmt_of (s := .sa) rfl rfl nofun (fun _ j t h => by
  rw [in_sab (h.cls rfl), decSab, show wordOp _ = 71 from op_of ..]; exact congrArg (fun o => some (Instr.fmax o)) (get_putSR ..)) (rsv_putSR · _ o)

theorem fcmp (o : SR) : Statement (.fcmp o) := stmt_of (s := .sa) rfl rfl nofun (fun _ j t h => by
  rw [in_sab (h.cls rfl), decSab, show wordOp _ = 72 from op_of ..]; exact congrArg (fun o => some (Instr.fcmp o)) (get_putSR ..)) (rsv_putSR · _ o)

theorem fcvt (o : SR) : Statement (.fcvt o) := stmt_of (s := .sa) rfl rfl nofun (fun _ j t h => by
  rw [in_sab (h.cls rfl), decSab, show wordOp _ = 73 from op_of ..]; exact congrArg (fun o => some (Instr.fcvt o)) (get_putSR ..)) (rsv_putSR · _ o)

theorem fclass (o : SR) : Statement (.fclass o) := stmt_of (s := .sa) rfl rfl nofun (fun _ j t h => by
  rw [in_sab (h.cls rfl), decSab, show wordOp _ = 74 from op_of ..]; exact congrArg (fun o => some (Instr.fclass o)) (get_putSR ..)) (rsv_putSR · _ o)

theorem vadd (o : VX) : Statement (.vadd o) := stmt_of (s := .va) rfl rfl nofun (fun _ j t h => by
  rw [in_vab (h.cls rfl), decVab, show wordOp _ = 1 from op_of ..]; exact congrArg (fun o => some (Instr.vadd o)) (get_putVX ..)) (fun _ => rsv_full _)

theorem vsub (o : VX) : Statement (.vsub o) := stmt_of (s := .va) rfl rfl nofun (fun _ j t h => by
  rw [in_vab (h.cls rfl), decVab, show wordOp _ = 2 from op_of ..]; exact congrArg (fun o => some (Instr.vsub o)) (get_putVX ..)) (fun _ => rsv_full _)

theorem vmul (o : VX) : Statement (.vmul o) := stmt_of (s := .va) rfl rfl nofun (fun _ j t h => by
  rw [in_vab (h.cls rfl), decVab, show wordOp _ = 3 from op_of ..]; exact congrArg (fun o => some (Instr.vmul o)) (get_putVX ..)) (fun _ => rsv_full _)

theorem vmin (o : VX) : Statement (.vmin o) := stmt_of (s := .va) rfl rfl nofun (fun _ j t h => by
  rw [in_vab (h.cls rfl), decVab, show wordOp _ = 6 from op_of ..]; exact congrArg (fun o => some (Instr.vmin o)) (get_putVX ..)) (fun _ => rsv_full _)

theorem vmax (o : VX) : Statement (.vmax o) := stmt_of (s := .va) rfl rfl nofun (fun _ j t h => by
  rw [in_vab (h.cls rfl), decVab, show wordOp _ = 7 from op_of ..]; exact congrArg (fun o => some (Instr.vmax o)) (get_putVX ..)) (fun _ => rsv_full _)

theorem vcopysgn (o : VX) : Statement (.vcopysgn o) := stmt_of (s := .va) rfl rfl nofun (fun _ j t h => by
  rw [in_vab (h.cls rfl), decVab, show wordOp _ = 10 from op_of ..]; exact congrArg (fun o => some (Instr.vcopysgn o)) (get_putVX ..)) (fun _ => rsv_full _)

theorem vabs (o : VX) : Statement (.vabs o) := stmt_of (s := .va) rfl rfl nofun (fun _ j t h => by
  rw [in_vab (h.cls rfl), decVab, show wordOp _ = 8 from op_of ..]; exact congrArg (fun o => some (Instr.vabs o)) (get_putVX ..)) (fun _ => rsv_full _)

theorem vneg (o : VX) : Statement (.vneg o) := stmt_of (s := .va) rfl rfl nofun (fun _ j t h => by
  rw [in_vab (h.cls rfl), decVab, show wordOp _ = 9 from op_of ..]; exact congrArg (fun o => some (Instr.vneg o)) (get_putVX ..)) (fun _ => rsv_full _)

theorem vround (o : VX) : Statement (.vround o) := stmt_of (s := .va) rfl rfl nofun (fun _ j t h => by
  rw [in_vab (h.cls rfl), decVab, show wordOp _ = 39 from op_of ..]; exact congrArg (fun o => some (Instr.vround o)) (get_putVX ..)) (fun _ => rsv_full _)

theorem vrcp (o : VX) : Statement (.vrcp o) := stmt_of (s := .va) rfl rfl nofun (fun _ j t h => by
  rw [in_vab (h.cls rfl), decVab, show wordOp _ = 11 from op_of ..]; exact congrArg (fun o => some (Instr.vrcp o)) (get_putVX ..)) (fun _ => rsv_full _)

theorem vrsq (o : VX) : Statement (.vrsq o) := stmt_of (s := .va) rfl rfl nofun (fun _ j t h => by
  rw [in_vab (h.cls rfl), decVab, show wordOp _ = 12 from op_of ..]; exact congrArg (fun o => some (Instr.vrsq o)) (get_putVX ..)) (fun _ => rsv_full _)

theorem vsqrt (o : VX) : Statement (.vsqrt o) := stmt_of (s := .va) rfl rfl nofun (fun _ j t h => by
  rw [in_vab (h.cls rfl), decVab, show wordOp _ = 24 from op_of ..]; exact congrArg (fun o => some (Instr.vsqrt o)) (get_putVX ..)) (fun _ => rsv_full _)

theorem vfn (o : VX) : Statement (.vfn o) := stmt_of (s := .va) rfl rfl nofun (fun _ j t h => by
  rw [in_vab (h.cls rfl), decVab, show wordOp _ = 13 from op_of ..]; exact congrArg (fun o => some (Instr.vfn o)) (get_putVX ..)) (fun _ => rsv_full _)

theorem vfma (o : VR) : Statement (.vfma o) := stmt_of (s := .va) rfl rfl nofun (fun _ j t h => by
  rw [in_vab (h.cls rfl), decVab, show wordOp _ = 4 from op_of ..]; exact congrArg (fun o => some (Instr.vfma o)) (get_putVR ..)) (rsv_putVR · _ o)

theorem vfms (o : VR) : Statement (.vfms o) := stmt_of (s := .va) rfl rfl nofun (fun _ j t h => by
  rw [in_vab (h.cls rfl), decVab, show wordOp _ = 5 from op_of ..]; exact congrArg (fun o => some (Instr.vfms o)) (get_putVR ..)) (rsv_putVR · _ o)

theorem vclamp (o : VR) : Statement (.vclamp o) := stmt_of (s := .va) rfl rfl nofun (fun _ j t h => by
  rw [in_vab (h.cls rfl), decVab, show wordOp _ = 38 from op_of ..]; exact congrArg (fun o => some (Instr.vclamp o)) (get_putVR ..)) (rsv_putVR · _ o)

theorem vdot (o : VR) : Statement (.vdot o) := stmt_of (s := .va) rfl rfl nofun (fun _ j t h => by
  rw [in_vab (h.cls rfl), decVab, show wordOp _ = 37 from op_of ..]; exact congrArg (fun o => some (Instr.vdot o)) (get_putVR ..)) (rsv_putVR · _ o)

theorem vcmp (o : VX) : Statement (.vcmp o) := stmt_of (s := .va) rfl rfl nofun (fun _ j t h => by
  rw [in_vab (h.cls rfl), decVab, show wordOp _ = 14 from op_of ..]; exact congrArg (fun o => some (Instr.vcmp o)) (get_putVX ..)) (fun _ => rsv_full _)

theorem vsel (o : VX) : Statement (.vsel o) := stmt_of (s := .va) rfl rfl nofun (fun _ j t h => by
  rw [in_vab (h.cls rfl), decVab, show wordOp _ = 15 from op_of ..]; exact congrArg (fun o => some (Instr.vsel o)) (get_putVX ..)) (fun _ => rsv_full _)

theorem vand (o : VX) : Statement (.vand o) := stmt_of (s := .va) rfl rfl nofun (fun _ j t h => by
  rw [in_vab (h.cls rfl), decVab, show wordOp _ = 16 from op_of ..]; exact congrArg (fun o => some (Instr.vand o)) (get_putVX ..)) (fun _ => rsv_full _)

theorem vor (o : VX) : Statement (.vor o) := stmt_of (s := .va) rfl rfl nofun (fun _ j t h => by
  rw [in_vab (h.cls rfl), decVab, show wordOp _ = 17 from op_of ..]; exact congrArg (fun o => some (Instr.vor o)) (get_putVX ..)) (fun _ => rsv_full _)

theorem vxor (o : VX) : Statement (.vxor o) := stmt_of (s := .va) rfl rfl nofun (fun _ j t h => by
  rw [in_vab (h.cls rfl), decVab, show wordOp _ = 18 from op_of ..]; exact congrArg (fun o => some (Instr.vxor o)) (get_putVX ..)) (fun _ => rsv_full _)

theorem vnot (o : VX) : Statement (.vnot o) := stmt_of (s := .va) rfl rfl nofun (fun _ j t h => by
  rw [in_vab (h.cls rfl), decVab, show wordOp _ = 19 from op_of ..]; exact congrArg (fun o => some (Instr.vnot o)) (get_putVX ..)) (fun _ => rsv_full _)

theorem vshl (o : VX) : Statement (.vshl o) := stmt_of (s := .va) rfl rfl nofun (fun _ j t h => by
  rw [in_vab (h.cls rfl), decVab, show wordOp _ = 20 from op_of ..]; exact congrArg (fun o => some (Instr.vshl o)) (get_putVX ..)) (fun _ => rsv_full _)

theorem vshr (o : VX) : Statement (.vshr o) := stmt_of (s := .va) rfl rfl nofun (fun _ j t h => by
  rw [in_vab (h.cls rfl), decVab, show wordOp _ = 21 from op_of ..]; exact congrArg (fun o => some (Instr.vshr o)) (get_putVX ..)) (fun _ => rsv_full _)

theorem vsar (o : VX) : Statement (.vsar o) := stmt_of (s := .va) rfl rfl nofun (fun _ j t h => by
  rw [in_vab (h.cls rfl), decVab, show wordOp _ = 22 from op_of ..]; exact congrArg (fun o => some (Instr.vsar o)) (get_putVX ..)) (fun _ => rsv_full _)

theorem vcvt (o : VX) : Statement (.vcvt o) := stmt_of (s := .va) rfl rfl nofun (fun _ j t h => by
  rw [in_vab (h.cls rfl), decVab, show wordOp _ = 23 from op_of ..]; exact congrArg (fun o => some (Instr.vcvt o)) (get_putVX ..)) (fun _ => rsv_full _)

theorem vpack (o : VX) : Statement (.vpack o) := stmt_of (s := .va) rfl rfl nofun (fun _ j t h => by
  rw [in_vab (h.cls rfl), decVab, show wordOp _ = 25 from op_of ..]; exact congrArg (fun o => some (Instr.vpack o)) (get_putVX ..)) (fun _ => rsv_full _)

theorem vunpk (o : VX) : Statement (.vunpk o) := stmt_of (s := .va) rfl rfl nofun (fun _ j t h => by
  rw [in_vab (h.cls rfl), decVab, show wordOp _ = 26 from op_of ..]; exact congrArg (fun o => some (Instr.vunpk o)) (get_putVX ..)) (fun _ => rsv_full _)

theorem vperm (o : VX) : Statement (.vperm o) := stmt_of (s := .va) rfl rfl nofun (fun _ j t h => by
  rw [in_vab (h.cls rfl), decVab, show wordOp _ = 27 from op_of ..]; exact congrArg (fun o => some (Instr.vperm o)) (get_putVX ..)) (fun _ => rsv_full _)

theorem vshuf (o : VX) : Statement (.vshuf o) := stmt_of (s := .va) rfl rfl nofun (fun _ j t h => by
  rw [in_vab (h.cls rfl), decVab, show wordOp _ = 28 from op_of ..]; exact congrArg (fun o => some (Instr.vshuf o)) (get_putVX ..)) (fun _ => rsv_full _)

theorem vbcast (o : VX) : Statement (.vbcast o) := stmt_of (s := .va) rfl rfl nofun (fun _ j t h => by
  rw [in_vab (h.cls rfl), decVab, show wordOp _ = 29 from op_of ..]; exact congrArg (fun o => some (Instr.vbcast o)) (get_putVX ..)) (fun _ => rsv_full _)

theorem vmovs (o : VX) : Statement (.vmovs o) := stmt_of (s := .va) rfl rfl nofun (fun _ j t h => by
  rw [in_vab (h.cls rfl), decVab, show wordOp _ = 33 from op_of ..]; exact congrArg (fun o => some (Instr.vmovs o)) (get_putVX ..)) (fun _ => rsv_full _)

theorem vins (o : VX) : Statement (.vins o) := stmt_of (s := .va) rfl rfl nofun (fun _ j t h => by
  rw [in_vab (h.cls rfl), decVab, show wordOp _ = 34 from op_of ..]; exact congrArg (fun o => some (Instr.vins o)) (get_putVX ..)) (fun _ => rsv_full _)

theorem vidx (o : VX) : Statement (.vidx o) := stmt_of (s := .va) rfl rfl nofun (fun _ j t h => by
  rw [in_vab (h.cls rfl), decVab, show wordOp _ = 35 from op_of ..]; exact congrArg (fun o => some (Instr.vidx o)) (get_putVX ..)) (fun _ => rsv_full _)

theorem vredSum (o : VX) : Statement (.vredSum o) := stmt_of (s := .va) rfl rfl nofun (fun hl j t h => by
  rw [in_vab (h.cls rfl), decVab, show wordOp _ = 30 from op_of ..]
  have hg : o.g.toNat = 0 := by
    have hc : (o.g.toNat != 0) = false := check_of hl 3
    simpa using hc
  exact (congrArg (fun o => some (pickVred o)) (get_putVX _ _ o)).trans (by rw [pickVred, hg]; rfl)) (fun _ => rsv_full _)

theorem vredMin (o : VX) : Statement (.vredMin o) := stmt_of (s := .va) rfl rfl nofun (fun hl j t h => by
  rw [in_vab (h.cls rfl), decVab, show wordOp _ = 30 from op_of ..]
  have hg : o.g.toNat = 1 := by
    have hc : (o.g.toNat != 1) = false := check_of hl 3
    simpa using hc
  exact (congrArg (fun o => some (pickVred o)) (get_putVX _ _ o)).trans (by rw [pickVred, hg]; rfl)) (fun _ => rsv_full _)

theorem vredMax (o : VX) : Statement (.vredMax o) := stmt_of (s := .va) rfl rfl nofun (fun hl j t h => by
  rw [in_vab (h.cls rfl), decVab, show wordOp _ = 30 from op_of ..]
  have hg : o.g.toNat = 2 := by
    have hc : (o.g.toNat != 2) = false := check_of hl 3
    simpa using hc
  exact (congrArg (fun o => some (pickVred o)) (get_putVX _ _ o)).trans (by rw [pickVred, hg]; rfl)) (fun _ => rsv_full _)

theorem vredVsum (o : VX) : Statement (.vredVsum o) := stmt_of (s := .va) rfl rfl nofun (fun hl j t h => by
  rw [in_vab (h.cls rfl), decVab, show wordOp _ = 30 from op_of ..]
  have hg : o.g.toNat = 3 := by
    have hc : (o.g.toNat != 3) = false := check_of hl 3
    simpa using hc
  exact (congrArg (fun o => some (pickVred o)) (get_putVX _ _ o)).trans (by rw [pickVred, hg]; rfl)) (fun _ => rsv_full _)

theorem vredRsum (o : VX) : Statement (.vredRsum o) := stmt_of (s := .va) rfl rfl nofun (fun hl j t h => by
  rw [in_vab (h.cls rfl), decVab, show wordOp _ = 30 from op_of ..]
  have hg : o.g.toNat = 4 := by
    have hc : (o.g.toNat != 4) = false := check_of hl 3
    simpa using hc
  exact (congrArg (fun o => some (pickVred o)) (get_putVX _ _ o)).trans (by rw [pickVred, hg]; rfl)) (fun _ => rsv_full _)

theorem vscan (o : VX) : Statement (.vscan o) := stmt_of (s := .va) rfl rfl nofun (fun _ j t h => by
  rw [in_vab (h.cls rfl), decVab, show wordOp _ = 31 from op_of ..]; exact congrArg (fun o => some (Instr.vscan o)) (get_putVX ..)) (fun _ => rsv_full _)

theorem vnfchk (o : VX) : Statement (.vnfchk o) := stmt_of (s := .va) rfl rfl nofun (fun _ j t h => by
  rw [in_vab (h.cls rfl), decVab, show wordOp _ = 40 from op_of ..]; exact congrArg (fun o => some (Instr.vnfchk o)) (get_putVX ..)) (fun _ => rsv_full _)

theorem mand (o : VX) : Statement (.mand o) := stmt_of (s := .va) rfl rfl nofun (fun _ j t h => by
  rw [in_vab (h.cls rfl), decVab, show wordOp _ = 41 from op_of ..]; exact congrArg (fun o => some (Instr.mand o)) (get_putVX ..)) (fun _ => rsv_full _)

theorem mor (o : VX) : Statement (.mor o) := stmt_of (s := .va) rfl rfl nofun (fun _ j t h => by
  rw [in_vab (h.cls rfl), decVab, show wordOp _ = 42 from op_of ..]; exact congrArg (fun o => some (Instr.mor o)) (get_putVX ..)) (fun _ => rsv_full _)

theorem mxor (o : VX) : Statement (.mxor o) := stmt_of (s := .va) rfl rfl nofun (fun _ j t h => by
  rw [in_vab (h.cls rfl), decVab, show wordOp _ = 43 from op_of ..]; exact congrArg (fun o => some (Instr.mxor o)) (get_putVX ..)) (fun _ => rsv_full _)

theorem mnot (o : VX) : Statement (.mnot o) := stmt_of (s := .va) rfl rfl nofun (fun _ j t h => by
  rw [in_vab (h.cls rfl), decVab, show wordOp _ = 44 from op_of ..]; exact congrArg (fun o => some (Instr.mnot o)) (get_putVX ..)) (fun _ => rsv_full _)

theorem mpop (o : VX) : Statement (.mpop o) := stmt_of (s := .va) rfl rfl nofun (fun _ j t h => by
  rw [in_vab (h.cls rfl), decVab, show wordOp _ = 45 from op_of ..]; exact congrArg (fun o => some (Instr.mpop o)) (get_putVX ..)) (fun _ => rsv_full _)

theorem mfirst (o : VX) : Statement (.mfirst o) := stmt_of (s := .va) rfl rfl nofun (fun _ j t h => by
  rw [in_vab (h.cls rfl), decVab, show wordOp _ = 47 from op_of ..]; exact congrArg (fun o => some (Instr.mfirst o)) (get_putVX ..)) (fun _ => rsv_full _)

theorem mset (o : VX) : Statement (.mset o) := stmt_of (s := .va) rfl rfl nofun (fun _ j t h => by
  rw [in_vab (h.cls rfl), decVab, show wordOp _ = 46 from op_of ..]; exact congrArg (fun o => some (Instr.mset o)) (get_putVX ..)) (fun _ => rsv_full _)

theorem vrand (o : VX) : Statement (.vrand o) := stmt_of (s := .va) rfl rfl nofun (fun _ j t h => by
  rw [in_vab (h.cls rfl), decVab, show wordOp _ = 32 from op_of ..]; exact congrArg (fun o => some (Instr.vrand o)) (get_putVX ..)) (fun _ => rsv_full _)

theorem kld (o : KM) : Statement (.kld o) := stmt_of (s := .sx) rfl rfl nofun (fun _ j t h => by
  rw [in_sx (h.cls rfl), decSx, show wordOp _ = 1 from op_of ..]; exact congrArg (fun o => some (Instr.kld o)) (get_putKM ..)) (rsv_putKM · _ o)

theorem kst (o : KM) : Statement (.kst o) := stmt_of (s := .sx) rfl rfl nofun (fun _ j t h => by
  rw [in_sx (h.cls rfl), decSx, show wordOp _ = 2 from op_of ..]; exact congrArg (fun o => some (Instr.kst o)) (get_putKM ..)) (rsv_putKM · _ o)

theorem kmov (o : KR) : Statement (.kmov o) := stmt_of (s := .sx) rfl rfl nofun (fun _ j t h => by
  rw [in_sx (h.cls rfl), decSx, show wordOp _ = 3 from op_of ..]; exact congrArg (fun o => some (Instr.kmov o)) (get_putKR ..)) (rsv_putKR · _ o)

theorem kset (o : KR) : Statement (.kset o) := stmt_of (s := .sx) rfl rfl nofun (fun _ j t h => by
  rw [in_sx (h.cls rfl), decSx, show wordOp _ = 4 from op_of ..]; exact congrArg (fun o => some (Instr.kset o)) (get_putKR ..)) (rsv_putKR · _ o)

theorem kmax (o : KR) : Statement (.kmax o) := stmt_of (s := .sx) rfl rfl nofun (fun _ j t h => by
  rw [in_sx (h.cls rfl), decSx, show wordOp _ = 5 from op_of ..]; exact congrArg (fun o => some (Instr.kmax o)) (get_putKR ..)) (rsv_putKR · _ o)

theorem xtr (o : XR) : Statement (.xtr o) := stmt_of (s := .xf) rfl rfl nofun (fun _ j t h => by
  rw [in_xf (h.cls rfl), decXf, show wordOp _ = 1 from op_of ..]; exact congrArg (fun o => some (Instr.xtr o)) (get_putXR ..)) (fun _ => rsv_full _)

theorem xexp (o : XR) : Statement (.xexp o) := stmt_of (s := .xf) rfl rfl nofun (fun _ j t h => by
  rw [in_xf (h.cls rfl), decXf, show wordOp _ = 2 from op_of ..]; exact congrArg (fun o => some (Instr.xexp o)) (get_putXR ..)) (fun _ => rsv_full _)

theorem xcvt (o : XR) : Statement (.xcvt o) := stmt_of (s := .xf) rfl rfl nofun (fun _ j t h => by
  rw [in_xf (h.cls rfl), decXf, show wordOp _ = 3 from op_of ..]; exact congrArg (fun o => some (Instr.xcvt o)) (get_putXR ..)) (fun _ => rsv_full _)

theorem xqnt (o : XR) : Statement (.xqnt o) := stmt_of (s := .xf) rfl rfl nofun (fun _ j t h => by
  rw [in_xf (h.cls rfl), decXf, show wordOp _ = 4 from op_of ..]; exact congrArg (fun o => some (Instr.xqnt o)) (get_putXR ..)) (fun _ => rsv_full _)

theorem xamx (o : XR) : Statement (.xamx o) := stmt_of (s := .xf) rfl rfl nofun (fun _ j t h => by
  rw [in_xf (h.cls rfl), decXf, show wordOp _ = 5 from op_of ..]; exact congrArg (fun o => some (Instr.xamx o)) (get_putXR ..)) (fun _ => rsv_full _)

theorem xswz (o : XR) : Statement (.xswz o) := stmt_of (s := .xf) rfl rfl nofun (fun _ j t h => by
  rw [in_xf (h.cls rfl), decXf, show wordOp _ = 6 from op_of ..]; exact congrArg (fun o => some (Instr.xswz o)) (get_putXR ..)) (fun _ => rsv_full _)

theorem ld (o : LM) : Statement (.ld o) := stmt_of (s := .ls) rfl rfl nofun (fun _ j t h => by
  rw [in_ls (h.cls rfl), decLs, show wordOp _ = 1 from op_of ..]; exact congrArg (fun o => some (Instr.ld o)) (get_putLM ..)) (fun _ => rsv_full _)

theorem st (o : LM) : Statement (.st o) := stmt_of (s := .ls) rfl rfl nofun (fun _ j t h => by
  rw [in_ls (h.cls rfl), decLs, show wordOp _ = 2 from op_of ..]; exact congrArg (fun o => some (Instr.st o)) (get_putLM ..)) (fun _ => rsv_full _)

theorem vld (o : LM) : Statement (.vld o) := stmt_of (s := .ls) rfl rfl nofun (fun _ j t h => by
  rw [in_ls (h.cls rfl), decLs, show wordOp _ = 3 from op_of ..]; exact congrArg (fun o => some (Instr.vld o)) (get_putLM ..)) (fun _ => rsv_full _)

theorem vst (o : LM) : Statement (.vst o) := stmt_of (s := .ls) rfl rfl nofun (fun _ j t h => by
  rw [in_ls (h.cls rfl), decLs, show wordOp _ = 4 from op_of ..]; exact congrArg (fun o => some (Instr.vst o)) (get_putLM ..)) (fun _ => rsv_full _)

theorem vlds (o : LM) : Statement (.vlds o) := stmt_of (s := .ls) rfl rfl nofun (fun _ j t h => by
  rw [in_ls (h.cls rfl), decLs, show wordOp _ = 5 from op_of ..]; exact congrArg (fun o => some (Instr.vlds o)) (get_putLM ..)) (fun _ => rsv_full _)

theorem vgth (o : LG) : Statement (.vgth o) := stmt_of (s := .ls) rfl rfl nofun (fun _ j t h => by
  rw [in_ls (h.cls rfl), decLs, show wordOp _ = 6 from op_of ..]; exact congrArg (fun o => some (Instr.vgth o)) (get_putLG ..)) (fun _ => rsv_full _)

theorem vsct (o : LG) : Statement (.vsct o) := stmt_of (s := .ls) rfl rfl nofun (fun _ j t h => by
  rw [in_ls (h.cls rfl), decLs, show wordOp _ = 7 from op_of ..]; exact congrArg (fun o => some (Instr.vsct o)) (get_putLG ..)) (fun _ => rsv_full _)

theorem amo (o : LA) : Statement (.amo o) := stmt_of (s := .ls) rfl rfl nofun (fun _ j t h => by
  rw [in_ls (h.cls rfl), decLs, show wordOp _ = 8 from op_of ..]; exact congrArg (fun o => some (Instr.amo o)) (get_putLA ..)) (fun _ => rsv_full _)

theorem cas (o : LA) : Statement (.cas o) := stmt_of (s := .ls) rfl rfl nofun (fun _ j t h => by
  rw [in_ls (h.cls rfl), decLs, show wordOp _ = 9 from op_of ..]; exact congrArg (fun o => some (Instr.cas o)) (get_putLA ..)) (fun _ => rsv_full _)

theorem red (o : LA) : Statement (.red o) := stmt_of (s := .ls) rfl rfl nofun (fun _ j t h => by
  rw [in_ls (h.cls rfl), decLs, show wordOp _ = 10 from op_of ..]; exact congrArg (fun o => some (Instr.red o)) (get_putLA ..)) (fun _ => rsv_full _)

theorem vredm (o : LG) : Statement (.vredm o) := stmt_of (s := .ls) rfl rfl nofun (fun _ j t h => by
  rw [in_ls (h.cls rfl), decLs, show wordOp _ = 11 from op_of ..]; exact congrArg (fun o => some (Instr.vredm o)) (get_putLG ..)) (fun _ => rsv_full _)

theorem pref (o : LM) : Statement (.pref o) := stmt_of (s := .ls) rfl rfl nofun (fun _ j t h => by
  rw [in_ls (h.cls rfl), decLs, show wordOp _ = 12 from op_of ..]; exact congrArg (fun o => some (Instr.pref o)) (get_putLM ..)) (fun _ => rsv_full _)

theorem mma (o : MM) : Statement (.mma o) := stmt_of (s := .mx) rfl rfl nofun (fun _ j t h => by
  rw [in_mx (h.cls rfl), decMx, show wordOp _ = 1 from op_of ..]; exact congrArg (fun o => some (Instr.mma o)) (get_putMM ..)) (fun _ => rsv_full _)

theorem mmao (o : MM) : Statement (.mmao o) := stmt_of (s := .mx) rfl rfl nofun (fun _ j t h => by
  rw [in_mx (h.cls rfl), decMx, show wordOp _ = 2 from op_of ..]; exact congrArg (fun o => some (Instr.mmao o)) (get_putMM ..)) (fun _ => rsv_full _)

theorem mzero (o : MC) : Statement (.mzero o) := stmt_of (s := .mx) rfl rfl nofun (fun _ j t h => by
  rw [in_mx (h.cls rfl), decMx, show wordOp _ = 3 from op_of ..]; exact congrArg (fun o => some (Instr.mzero o)) (get_putMC ..)) (fun _ => rsv_full _)

theorem mload (o : MC) : Statement (.mload o) := stmt_of (s := .mx) rfl rfl nofun (fun _ j t h => by
  rw [in_mx (h.cls rfl), decMx, show wordOp _ = 4 from op_of ..]; exact congrArg (fun o => some (Instr.mload o)) (get_putMC ..)) (fun _ => rsv_full _)

theorem mchk (o : MC) : Statement (.mchk o) := stmt_of (s := .mx) rfl rfl nofun (fun _ j t h => by
  rw [in_mx (h.cls rfl), decMx, show wordOp _ = 6 from op_of ..]; exact congrArg (fun o => some (Instr.mchk o)) (get_putMC ..)) (fun _ => rsv_full _)

theorem mdrain (o : MC) : Statement (.mdrain o) := stmt_of (s := .mx) rfl rfl nofun (fun _ j t h => by
  rw [in_mx (h.cls rfl), decMx, show wordOp _ = 5 from op_of ..]; exact congrArg (fun o => some (Instr.mdrain o)) (get_putMC ..)) (fun _ => rsv_full _)

theorem mrel (o : MC) : Statement (.mrel o) := stmt_of (s := .mx) rfl rfl nofun (fun _ j t h => by
  rw [in_mx (h.cls rfl), decMx, show wordOp _ = 7 from op_of ..]; exact congrArg (fun o => some (Instr.mrel o)) (get_putMC ..)) (fun _ => rsv_full _)

theorem cpy (o : CD) : Statement (.cpy o) := stmt_of (s := .cp) rfl rfl nofun (fun _ j t h => by
  rw [in_cp (h.cls rfl), decCp, show wordOp _ = 1 from op_of ..]; exact congrArg (fun o => some (Instr.cpy o)) (get_putCD ..)) (fun _ => rsv_full _)

theorem cpyt (o : CD) : Statement (.cpyt o) := stmt_of (s := .cp) rfl rfl nofun (fun _ j t h => by
  rw [in_cp (h.cls rfl), decCp, show wordOp _ = 2 from op_of ..]; exact congrArg (fun o => some (Instr.cpyt o)) (get_putCD ..)) (fun _ => rsv_full _)

theorem cpst (o : CD) : Statement (.cpst o) := stmt_of (s := .cp) rfl rfl nofun (fun _ j t h => by
  rw [in_cp (h.cls rfl), decCp, show wordOp _ = 3 from op_of ..]; exact congrArg (fun o => some (Instr.cpst o)) (get_putCD ..)) (fun _ => rsv_full _)

theorem cpz (o : CD) : Statement (.cpz o) := stmt_of (s := .cp) rfl rfl nofun (fun hl j t h => by
  rw [in_cp (h.cls rfl), decCp, show wordOp _ = 4 from op_of ..]
  have hb : o.x.getLsbD 0 = false := by
    have hc : o.x.getLsbD 0 = false := check_of hl 1
    simpa using hc
  have hg : getCD ((t ++ opcodeOf (.cpz o)) ++ operandsOf (.cpz o)) = o := get_putCD _ _ o
  rw [hg]; exact pick_off hb) (fun _ => rsv_full _)

theorem cpzTile (o : CD) : Statement (.cpzTile o) := stmt_of (s := .cp) rfl rfl nofun (fun hl j t h => by
  rw [in_cp (h.cls rfl), decCp, show wordOp _ = 4 from op_of ..]
  have hb : o.x.getLsbD 0 = true := by
    have hc : (!o.x.getLsbD 0) = false := check_of hl 1
    simpa using hc
  have hg : getCD ((t ++ opcodeOf (.cpzTile o)) ++ operandsOf (.cpzTile o)) = o := get_putCD _ _ o
  rw [hg]; exact pick_on hb) (fun _ => rsv_full _)

theorem cpxOut (o : CD) : Statement (.cpxOut o) := stmt_of (s := .cp) rfl rfl nofun (fun hl j t h => by
  rw [in_cp (h.cls rfl), decCp, show wordOp _ = 5 from op_of ..]
  have hb : o.x.getLsbD 5 = false := by
    have hc : (o.x.getLsbD 5 != false) = false := check_of hl 1
    simpa using hc
  have hg : getCD ((t ++ opcodeOf (.cpxOut o)) ++ operandsOf (.cpxOut o)) = o := get_putCD _ _ o
  rw [hg]; exact pick_off hb) (fun _ => rsv_full _)

theorem cpxIn (o : CD) : Statement (.cpxIn o) := stmt_of (s := .cp) rfl rfl nofun (fun hl j t h => by
  rw [in_cp (h.cls rfl), decCp, show wordOp _ = 5 from op_of ..]
  have hb : o.x.getLsbD 5 = true := by
    have hc : (o.x.getLsbD 5 != true) = false := check_of hl 1
    simpa using hc
  have hg : getCD ((t ++ opcodeOf (.cpxIn o)) ++ operandsOf (.cpxIn o)) = o := get_putCD _ _ o
  rw [hg]; exact pick_on hb) (fun _ => rsv_full _)

theorem cpnWr (o : CD) : Statement (.cpnWr o) := stmt_of (s := .cp) rfl rfl nofun (fun hl j t h => by
  rw [in_cp (h.cls rfl), decCp, show wordOp _ = 7 from op_of ..]
  have hb : o.x.getLsbD 0 = false := by
    have hc : (o.x.getLsbD 0 != false) = false := check_of hl 1
    simpa using hc
  have hg : getCD ((t ++ opcodeOf (.cpnWr o)) ++ operandsOf (.cpnWr o)) = o := get_putCD _ _ o
  rw [hg]; exact pick_off hb) (fun _ => rsv_full _)

theorem cpnRd (o : CD) : Statement (.cpnRd o) := stmt_of (s := .cp) rfl rfl nofun (fun hl j t h => by
  rw [in_cp (h.cls rfl), decCp, show wordOp _ = 7 from op_of ..]
  have hb : o.x.getLsbD 0 = true := by
    have hc : (o.x.getLsbD 0 != true) = false := check_of hl 1
    simpa using hc
  have hg : getCD ((t ++ opcodeOf (.cpnRd o)) ++ operandsOf (.cpnRd o)) = o := get_putCD _ _ o
  rw [hg]; exact pick_on hb) (fun _ => rsv_full _)

theorem coll (o : CD) : Statement (.coll o) := stmt_of (s := .cp) rfl rfl nofun (fun _ j t h => by
  rw [in_cp (h.cls rfl), decCp, show wordOp _ = 6 from op_of ..]; exact congrArg (fun o => some (Instr.coll o)) (get_putCD ..)) (fun _ => rsv_full _)

theorem give (o : YF) : Statement (.give o) := stmt_of (s := .sy) rfl rfl nofun (fun _ j t h => by
  rw [in_sy (h.cls rfl), decSy, show wordOp _ = 1 from op_of ..]; exact congrArg (fun o => some (Instr.give o)) (get_putYF ..)) (fun _ => rsv_full _)

theorem take (o : YF) : Statement (.take o) := stmt_of (s := .sy) rfl rfl nofun (fun _ j t h => by
  rw [in_sy (h.cls rfl), decSy, show wordOp _ = 2 from op_of ..]; exact congrArg (fun o => some (Instr.take o)) (get_putYF ..)) (fun _ => rsv_full _)

theorem waits (o : YF) : Statement (.waits o) := stmt_of (s := .sy) rfl rfl nofun (fun _ j t h => by
  rw [in_sy (h.cls rfl), decSy, show wordOp _ = 3 from op_of ..]; exact congrArg (fun o => some (Instr.waits o)) (get_putYF ..)) (fun _ => rsv_full _)

theorem phreg (o : YF) : Statement (.phreg o) := stmt_of (s := .sy) rfl rfl nofun (fun _ j t h => by
  rw [in_sy (h.cls rfl), decSy, show wordOp _ = 4 from op_of ..]; exact congrArg (fun o => some (Instr.phreg o)) (get_putYF ..)) (fun _ => rsv_full _)

theorem phdrop (o : YF) : Statement (.phdrop o) := stmt_of (s := .sy) rfl rfl nofun (fun _ j t h => by
  rw [in_sy (h.cls rfl), decSy, show wordOp _ = 5 from op_of ..]; exact congrArg (fun o => some (Instr.phdrop o)) (get_putYF ..)) (fun _ => rsv_full _)

theorem pharr (o : YF) : Statement (.pharr o) := stmt_of (s := .sy) rfl rfl nofun (fun _ j t h => by
  rw [in_sy (h.cls rfl), decSy, show wordOp _ = 6 from op_of ..]; exact congrArg (fun o => some (Instr.pharr o)) (get_putYF ..)) (fun _ => rsv_full _)

theorem phwait (o : YF) : Statement (.phwait o) := stmt_of (s := .sy) rfl rfl nofun (fun _ j t h => by
  rw [in_sy (h.cls rfl), decSy, show wordOp _ = 7 from op_of ..]; exact congrArg (fun o => some (Instr.phwait o)) (get_putYF ..)) (fun _ => rsv_full _)

theorem phaw (o : YF) : Statement (.phaw o) := stmt_of (s := .sy) rfl rfl nofun (fun _ j t h => by
  rw [in_sy (h.cls rfl), decSy, show wordOp _ = 8 from op_of ..]; exact congrArg (fun o => some (Instr.phaw o)) (get_putYF ..)) (fun _ => rsv_full _)

theorem tbinit (o : YF) : Statement (.tbinit o) := stmt_of (s := .sy) rfl rfl nofun (fun _ j t h => by
  rw [in_sy (h.cls rfl), decSy, show wordOp _ = 9 from op_of ..]; exact congrArg (fun o => some (Instr.tbinit o)) (get_putYF ..)) (fun _ => rsv_full _)

theorem tbexp (o : YF) : Statement (.tbexp o) := stmt_of (s := .sy) rfl rfl nofun (fun _ j t h => by
  rw [in_sy (h.cls rfl), decSy, show wordOp _ = 10 from op_of ..]; exact congrArg (fun o => some (Instr.tbexp o)) (get_putYF ..)) (fun _ => rsv_full _)

theorem tbarr (o : YF) : Statement (.tbarr o) := stmt_of (s := .sy) rfl rfl nofun (fun _ j t h => by
  rw [in_sy (h.cls rfl), decSy, show wordOp _ = 11 from op_of ..]; exact congrArg (fun o => some (Instr.tbarr o)) (get_putYF ..)) (fun _ => rsv_full _)

theorem tbwait (o : YF) : Statement (.tbwait o) := stmt_of (s := .sy) rfl rfl nofun (fun _ j t h => by
  rw [in_sy (h.cls rfl), decSy, show wordOp _ = 12 from op_of ..]; exact congrArg (fun o => some (Instr.tbwait o)) (get_putYF ..)) (fun _ => rsv_full _)

theorem done (o : YF) : Statement (.done o) := stmt_of (s := .sy) rfl rfl nofun (fun _ j t h => by
  rw [in_sy (h.cls rfl), decSy, show wordOp _ = 13 from op_of ..]; exact congrArg (fun o => some (Instr.done o)) (get_putYF ..)) (fun _ => rsv_full _)

theorem jraise (o : YF) : Statement (.jraise o) := stmt_of (s := .sy) rfl rfl nofun (fun _ j t h => by
  rw [in_sy (h.cls rfl), decSy, show wordOp _ = 14 from op_of ..]; exact congrArg (fun o => some (Instr.jraise o)) (get_putYF ..)) (fun _ => rsv_full _)

theorem launchOn (o : YF) : Statement (.launchOn o) := stmt_of (s := .sy) rfl rfl nofun (fun hl j t h => by
  rw [in_sy (h.cls rfl), decSy, show wordOp _ = 15 from op_of ..]
  have hb : o.x.getLsbD 0 = false := by
    have hc : (o.x.getLsbD 0 != false) = false := check_of hl 1
    simpa using hc
  have hg : getYF ((t ++ opcodeOf (.launchOn o)) ++ operandsOf (.launchOn o)) = o := get_putYF _ _ o
  rw [hg]; exact pick_off hb) (fun _ => rsv_full _)

theorem launchOff (o : YF) : Statement (.launchOff o) := stmt_of (s := .sy) rfl rfl nofun (fun hl j t h => by
  rw [in_sy (h.cls rfl), decSy, show wordOp _ = 15 from op_of ..]
  have hb : o.x.getLsbD 0 = true := by
    have hc : (o.x.getLsbD 0 != true) = false := check_of hl 1
    simpa using hc
  have hg : getYF ((t ++ opcodeOf (.launchOff o)) ++ operandsOf (.launchOff o)) = o := get_putYF _ _ o
  rw [hg]; exact pick_on hb) (fun _ => rsv_full _)

theorem evrd (o : YF) : Statement (.evrd o) := stmt_of (s := .sy) rfl rfl nofun (fun _ j t h => by
  rw [in_sy (h.cls rfl), decSy, show wordOp _ = 16 from op_of ..]; exact congrArg (fun o => some (Instr.evrd o)) (get_putYF ..)) (fun _ => rsv_full _)

theorem csrr (o : YF) : Statement (.csrr o) := stmt_of (s := .sy) rfl rfl nofun (fun _ j t h => by
  rw [in_sy (h.cls rfl), decSy, show wordOp _ = 17 from op_of ..]; exact congrArg (fun o => some (Instr.csrr o)) (get_putYF ..)) (fun _ => rsv_full _)

theorem csrw (o : YF) : Statement (.csrw o) := stmt_of (s := .sy) rfl rfl nofun (fun _ j t h => by
  rw [in_sy (h.cls rfl), decSy, show wordOp _ = 18 from op_of ..]; exact congrArg (fun o => some (Instr.csrw o)) (get_putYF ..)) (fun _ => rsv_full _)

theorem csrs (o : YF) : Statement (.csrs o) := stmt_of (s := .sy) rfl rfl nofun (fun _ j t h => by
  rw [in_sy (h.cls rfl), decSy, show wordOp _ = 19 from op_of ..]; exact congrArg (fun o => some (Instr.csrs o)) (get_putYF ..)) (fun _ => rsv_full _)

theorem csrc (o : YF) : Statement (.csrc o) := stmt_of (s := .sy) rfl rfl nofun (fun _ j t h => by
  rw [in_sy (h.cls rfl), decSy, show wordOp _ = 20 from op_of ..]; exact congrArg (fun o => some (Instr.csrc o)) (get_putYF ..)) (fun _ => rsv_full _)

theorem hpinOn (o : YF) : Statement (.hpinOn o) := stmt_of (s := .sy) rfl rfl nofun (fun hl j t h => by
  rw [in_sy (h.cls rfl), decSy, show wordOp _ = 21 from op_of ..]
  have hb : o.x.getLsbD 0 = false := by
    have hc : (o.x.getLsbD 0 != false) = false := check_of hl 1
    simpa using hc
  have hg : getYF ((t ++ opcodeOf (.hpinOn o)) ++ operandsOf (.hpinOn o)) = o := get_putYF _ _ o
  rw [hg]; exact pick_off hb) (fun _ => rsv_full _)

theorem hpinOff (o : YF) : Statement (.hpinOff o) := stmt_of (s := .sy) rfl rfl nofun (fun hl j t h => by
  rw [in_sy (h.cls rfl), decSy, show wordOp _ = 21 from op_of ..]
  have hb : o.x.getLsbD 0 = true := by
    have hc : (o.x.getLsbD 0 != true) = false := check_of hl 1
    simpa using hc
  have hg : getYF ((t ++ opcodeOf (.hpinOff o)) ++ operandsOf (.hpinOff o)) = o := get_putYF _ _ o
  rw [hg]; exact pick_on hb) (fun _ => rsv_full _)

theorem hpri (o : YF) : Statement (.hpri o) := stmt_of (s := .sy) rfl rfl nofun (fun _ j t h => by
  rw [in_sy (h.cls rfl), decSy, show wordOp _ = 22 from op_of ..]; exact congrArg (fun o => some (Instr.hpri o)) (get_putYF ..)) (fun _ => rsv_full _)

theorem hdem (o : YF) : Statement (.hdem o) := stmt_of (s := .sy) rfl rfl nofun (fun _ j t h => by
  rw [in_sy (h.cls rfl), decSy, show wordOp _ = 23 from op_of ..]; exact congrArg (fun o => some (Instr.hdem o)) (get_putYF ..)) (fun _ => rsv_full _)

theorem hevict (o : YF) : Statement (.hevict o) := stmt_of (s := .sy) rfl rfl nofun (fun _ j t h => by
  rw [in_sy (h.cls rfl), decSy, show wordOp _ = 24 from op_of ..]; exact congrArg (fun o => some (Instr.hevict o)) (get_putYF ..)) (fun _ => rsv_full _)

theorem hmov (o : YF) : Statement (.hmov o) := stmt_of (s := .sy) rfl rfl nofun (fun _ j t h => by
  rw [in_sy (h.cls rfl), decSy, show wordOp _ = 25 from op_of ..]; exact congrArg (fun o => some (Instr.hmov o)) (get_putYF ..)) (fun _ => rsv_full _)

theorem purge (o : YF) : Statement (.purge o) := stmt_of (s := .sy) rfl rfl nofun (fun _ j t h => by
  rw [in_sy (h.cls rfl), decSy, show wordOp _ = 26 from op_of ..]; exact congrArg (fun o => some (Instr.purge o)) (get_putYF ..)) (fun _ => rsv_full _)

theorem qflushCp (o : YF) : Statement (.qflushCp o) := stmt_of (s := .sy) rfl rfl nofun (fun hl j t h => by
  rw [in_sy (h.cls rfl), decSy, show wordOp _ = 27 from op_of ..]
  have hb : o.x.getLsbD 0 = false := by
    have hc : (o.x.getLsbD 0 != false) = false := check_of hl 2
    simpa using hc
  have hg : getYF ((t ++ opcodeOf (.qflushCp o)) ++ operandsOf (.qflushCp o)) = o := get_putYF _ _ o
  rw [hg]; exact pick_off hb) (fun _ => rsv_full _)

theorem qflushMx (o : YF) : Statement (.qflushMx o) := stmt_of (s := .sy) rfl rfl nofun (fun hl j t h => by
  rw [in_sy (h.cls rfl), decSy, show wordOp _ = 27 from op_of ..]
  have hb : o.x.getLsbD 0 = true := by
    have hc : (o.x.getLsbD 0 != true) = false := check_of hl 2
    simpa using hc
  have hg : getYF ((t ++ opcodeOf (.qflushMx o)) ++ operandsOf (.qflushMx o)) = o := get_putYF _ _ o
  rw [hg]; exact pick_on hb) (fun _ => rsv_full _)

theorem rdtime (o : YF) : Statement (.rdtime o) := stmt_of (s := .sy) rfl rfl nofun (fun _ j t h => by
  rw [in_sy (h.cls rfl), decSy, show wordOp _ = 28 from op_of ..]; exact congrArg (fun o => some (Instr.rdtime o)) (get_putYF ..)) (fun _ => rsv_full _)

theorem sleep (o : YF) : Statement (.sleep o) := stmt_of (s := .sy) rfl rfl nofun (fun _ j t h => by
  rw [in_sy (h.cls rfl), decSy, show wordOp _ = 29 from op_of ..]; exact congrArg (fun o => some (Instr.sleep o)) (get_putYF ..)) (fun _ => rsv_full _)

theorem droopAlarmCleared (region : Nat): Statement (.droopAlarmCleared region) := stmt_event rfl

theorem rdmaAckTimeout : Statement .rdmaAckTimeout := stmt_event rfl

theorem bootFlashOperationComplete : Statement .bootFlashOperationComplete := stmt_event rfl

theorem softError (f : FlipAt): Statement (.softError f) := stmt_event rfl

end Sys2Proof.Laws.RoundTrip
end

