-- ==== Sys2Proof/Safety.lean ====
section
/-!
DEFINITION. What claims use: the invariants of a state, when a slot operation issues (06 R205), what an issue leaves (03 R84,
R94), and when a step occurs.
-/
namespace Sys2Proof.Machine

/-! ## Memory in its canonical form -/

/-- Every memory of the machine is in canonical form. -/
def Mem.wf (m : Mem) : Bool := cellsWf m.hbm && cellsWf m.carved && cellsWf m.mere && cellsWf m.host

/-! ## The issue of one slot operation -/

/-- The operation of a slot instruction. -/
def opOf (i : Instr) : SlotOp := (slotOpOf i).getD opNop

/-- Where an operation on its own stands. -/
def issAt (i : Instr) (s : State) : Iss := { slot := slotFor i s.iss.slot, k := s.iss.k, len := s.iss.len }

/-- The operation on its own, as an issue holds it. -/
def soleOp (i : Instr) (s : State) : IssOp :=
  { slot := slotFor i s.iss.slot, k := s.iss.k, word := encodeWord i, so := opOf i }

/-- The state once what the operation does while still blocked is done (13 R444). -/
def earlyOf (i : Instr) (s : State) (x : Ctx) : State := (opOf i).early (issAt i s) s (settled x)

/-- The bundle that holds the operation i alone issues from the context x in the state s (06 R205): no decode cause, no source
still on its way, no poisoned landing, no held failure to consume, no block, no hold, no freeze cycle; the time of its first
presentation is noted where the operation acts by it (13 R455); every vector register
it names lies in the window. s1 and x1 are the state and the context once the results that are due are written (03 R93). -/
structure Issues (i : Instr) (s : State) (x : Ctx) (s1 : State) (x1 : Ctx) : Prop where
  here : getCtx s s.cur = some x
  itsId : x.id = s.cur
  legal : illegal i = none
  operands : (opOf i).illReg (issAt i s) s (settled x) = none
  present : (opOf i).absent (issAt i s) s (settled x) = none
  mode : (opOf i).priv x = none
  seen : ((opOf i).timed && x.sleepAt.isNone) = false
  sources : heldOn x ((opOf i).reads x) = false
  noPoison : poisonDue x = none
  noFailure : dueFailure x [soleOp i s] = none
  noBlock : (opOf i).block (issAt i s) (earlyOf i s x) (settled x) = none
  streamRoom : passing x [soleOp i s] = none
  noHold : (opOf i).hold (issAt i s) (earlyOf i s x) (settled x) = false
  noFreeze : mustFreeze (earlyOf i s x) x (2 + (opOf i).weight) = false
  inWindow : outside x1 (opOf i) = none
  settles : settle (earlyOf i s x) x = some (s1, x1)

/-- What register r holds after the writes ws, in order, to the registers of x. -/
def regAfter (ws : List (RegId × Nat)) (x : Ctx) (r : RegId) : Nat :=
  match ws.reverse.find? (fun w => w.1 == r) with
  | some w => rdReg (wrReg default r w.2) r
  | none => rdReg x r

/-- A context without what an issue writes: its registers, results in flight, flags, position, sticky and repeat state, and
its counts of blocked cycles. -/
def exceptIssue (x : Ctx) : Ctx :=
  { x with s := [], c := 0, m := [], h := [], k := [], v := [], pend := [], land := [], fpflags := 0, pos := 0, sticky := [],
           rep := none, status := .ready, blockedFor := 0, fifoFor := 0, leaseFor := 0, leaseNoted := false, sleepAt := none }

/-- The state t is the state s3, with the context y3 of the issue, after the writes ws and the flags fl of the operation i that
issued in s: the registers written and no other; flags ORed in; one more position; the slot's sticky state; the results in
flight that the writes supersede; everything else of every context, cluster and the machine as it was but the core's
recent weights. -/
structure Wrote (i : Instr) (s s3 : State) (y3 : Ctx) (ws : List (RegId × Nat)) (fl : Flg) (t : State) : Prop where
  ctx : ∃ y, getCtx t s.cur = some y ∧ (∀ r, rdReg y r = regAfter ws y3 r) ∧ y.fpflags = y3.fpflags ||| fl ∧
    y.pos = y3.pos + 1 ∧
    y.sticky = stickyAfter (curCtx s).sticky (slotFor i s.iss.slot) (encodeWord i) s.iss.k ∧ y.rep = (curCtx s).rep ∧
    y.status = .ready ∧ y.pend = (commitRegs y3 ws).pend ∧ y.land = (commitRegs y3 ws).land ∧
    exceptIssue y = exceptIssue y3
  others : ∀ c, ctxKey c ≠ ctxKey s.cur → getCtx t c = getCtx s3 c
  rest : { t with ctxs := [], clusters := [] } = { s3 with ctxs := [], clusters := [] }
  cluster : ∀ n, { getCl t n with cores := [] } = { getCl s3 n with cores := [] }
  core : ∀ n k, { getCore t n k with weights := [] } = { getCore s3 n k with weights := [] }

/-- The issue of i in s completes: its own effect leaves the state s2, and it writes the registers ws and raises the flags fl.
Vector groups that a trap handler writes for the first time are saved first (06 R211); y3 and s3 are as the saves leave
them. -/
def Completes (i : Instr) (s s2 : State) (ws : List (RegId × Nat)) (fl : Flg) : Prop :=
  ∀ y s3 y3, getCtx s2 s.cur = some y → y.id = s.cur → saveGroups s2 y (groupsOf (ws.map (·.1))) = some (s3, y3) →
    ∃ t, exec i s = .next t ∧ Wrote i s s3 y3 ws fl t

/-- The issue of a BR operation i in s completes: t is what `Wrote` says, and the BR operation acts on it (04 R138). -/
def CompletesBr (i : Instr) (s s1 : State) (x1 : Ctx) (ws : List (RegId × Nat)) (post : State → State) : Prop :=
  ∃ t, Wrote i s (putCtx s1 x1) x1 ws 0 t ∧ exec i s = .next (post t)

/-- Wherever the BR operation i issues and ok holds it completes: it writes ws and then acts by post. -/
def YieldsBr (i : Instr) (ok : Ctx → Prop) (ws : Nat → Ctx → List (RegId × Nat)) (post : Nat → Ctx → State → State) : Prop :=
  ∀ s x s1 x1, Issues i s x s1 x1 → ok x1 → CompletesBr i s s1 x1 (ws s.iss.len x1) (post s.iss.len x1)

/-- Wherever i issues it completes, having written the registers and raised the flags that its operands give; it has no other
effect. Sources are read as they stand at the start of the issue (03 R84). -/
def Yields (i : Instr) (ws : Ctx → List (RegId × Nat)) (fl : Ctx → Flg) : Prop :=
  ∀ s x s1 x1, Issues i s x s1 x1 → Completes i s (putCtx s1 x1) (ws x1) (fl x1)

/-- Wherever i issues it completes, having added a result that lands later (03 R93) and raised flags. -/
def YieldsLate (i : Instr) (l : Ctx → Landing) (fl : Ctx → Flg) : Prop :=
  ∀ s x s1 x1, Issues i s x s1 x1 → Completes i s (addLanding (putCtx s1 x1) x1 (l x1)) [] (fl x1)

/-- Wherever i issues and its own checks pass it completes with the effect that its operands give. -/
def YieldsIf (i : Instr) (ok : Iss → Ctx → State → Prop) (eff : Iss → Ctx → State → State) (ws : Ctx → State → List (RegId × Nat)) : Prop :=
  ∀ s x s1 x1, Issues i s x s1 x1 → ok (issAt i s) x1 (putCtx s1 x1) →
    Completes i s (eff (issAt i s) x1 (putCtx s1 x1)) (ws x1 (putCtx s1 x1)) 0

/-- As `YieldsIf`, without register results. -/
def Starts (i : Instr) (ok : Iss → Ctx → State → Prop) (eff : Iss → Ctx → State → State) : Prop :=
  YieldsIf i ok eff (fun _ _ => [])

/-- No flags. -/
def noFlags : Ctx → Flg := fun _ => 0

/-! ## Results of the scalar slots (04 R118, R120) -/

/-- The low n bits of a scalar source, where n is the width of form SR, and of form SI. -/
def srSrc (o : SR) (x : Ctx) (r : BitVec 6) : BitVec (srN o) := (rdS x r.toNat).setWidth (srN o)
def siSrc (o : SI) (x : Ctx) (r : BitVec 6) : BitVec (siN o) := (rdS x r.toNat).setWidth (siN o)

/-- A result of n bits extended to 64: signed or unsigned. -/
def extend64 {n : Nat} (sx : Bool) (y : BitVec n) : BitVec 64 := if sx then y.signExtend 64 else y.setWidth 64

/-- The result of two sources, one source, or a source and the immediate, extended into s[d]. -/
def sr2 (o : SR) (y : BitVec (srN o) → BitVec (srN o) → BitVec (srN o)) (x : Ctx) : List (RegId × Nat) :=
  [(.s o.d.toNat, (extend64 (o.f.getLsbD 2) (y (srSrc o x o.a) (srSrc o x o.b))).toNat)]
def sr1 (o : SR) (y : BitVec (srN o) → BitVec (srN o)) (x : Ctx) : List (RegId × Nat) :=
  [(.s o.d.toNat, (extend64 (o.f.getLsbD 2) (y (srSrc o x o.a))).toNat)]
def si1 (o : SI) (y : BitVec (siN o) → BitVec (siN o)) (x : Ctx) : List (RegId × Nat) :=
  [(.s o.d.toNat, (extend64 (o.x.getLsbD 2) (y (siSrc o x o.a))).toNat)]

/-- The bits p to p + l − 1 of an n-bit word. -/
def fieldBits (n p l : Nat) : BitVec n := BitVec.setWidth n (BitVec.allOnes l) <<< p

/-- The comparisons of 04 R130 by their codes. -/
def bvCompare {n : Nat} (code : Nat) (a b : BitVec n) : Bool :=
  match code with
  | 0 => a == b
  | 1 => a != b
  | 2 => a.slt b
  | 3 => b.sle a
  | 4 => a.sle b
  | 5 => b.slt a
  | 6 => a.ult b
  | 7 => b.ule a
  | 8 => a.ule b
  | _ => b.ult a

/-- A condition register written with a bit. -/
def toC (d : Nat) (b : Bool) : List (RegId × Nat) := [(.c d, b.toNat)]

/-- The instruction does what the operation `op` answers: registers and flags from its context alone. -/
def YieldsPair (i : Instr) (f : Ctx → List (RegId × Nat) × Flg) : Prop := Yields i (fun x => (f x).1) (fun x => (f x).2)

/-! ## Results of the vector slots (05 R149, R150) -/

/-- A masked vector result: active lanes as g gives them, the others as they were. -/
def vecTo (d : Nat) (m : BitVec 4) (w : Nat) (g : Ctx → Nat → Nat × Flg) (x : Ctx) : List (RegId × Nat) :=
  [(.v d, (vecResult x d m.toNat w (g x)).1)]

/-- The flags of the active lanes. -/
def vecFlags (d : Nat) (m : BitVec 4) (w : Nat) (g : Ctx → Nat → Nat × Flg) (x : Ctx) : Flg := (vecResult x d m.toNat w (g x)).2

/-- Lane i of width w of a vector register. -/
def lane (x : Ctx) (r : BitVec 10) (w i : Nat) : Nat := laneAt (rdV x r.toNat).toNat w i

/-- A lane of a format as a signed integer, and as a value. -/
def laneI (x : Ctx) (r : BitVec 10) (f : Fmt) (i : Nat) : Int := sextInt (lane x r (laneWidth f) i) (laneWidth f)
def laneV (x : Ctx) (r : BitVec 10) (f : Fmt) (i : Nat) : Val := decodeVal f (lane x r (laneWidth f) i)

/-- An integer lane: its low bits. -/
def intLane (f : Fmt) (y : Int) : Nat × Flg := (wrapNat y (laneWidth f), 0)

/-- A rounded lane of an operation of form VX or VR. -/
def rndLane (x : Ctx) (rm : BitVec 3) (f : Fmt) (i : Nat) (r : Val × Flg) : Nat × Flg := encLane (laneRnd x rm (laneCount f)) f i r

/-- An integer sum, difference or product, clamped to the lane where x[0] is set (05 R155). -/
def intArith (o : VX) (y : Int) : Nat × Flg :=
  intLane (vxFmt o) (if o.x.getLsbD 0 then satInt y (laneWidth (vxFmt o)) else y)

/-- A masked vector operation whose lane i is g x i. -/
def YieldsLanes (i : Instr) (d : Nat) (m : BitVec 4) (w : Nat) (g : Ctx → Nat → Nat × Flg) : Prop :=
  Yields i (vecTo d m w g) (vecFlags d m w g)

/-! ## Memory operations (07 R241 to R254) -/

/-- The access of n bytes at a passes its checks: aligned, in the address space, translated and permitted (07 R219, R241,
R243); it is no access to a link FIFO. -/
def accessOk (s : State) (x : Ctx) (a n : Nat) (r : AccReq) : Prop :=
  a < 2 ^ 56 ∧ a % n = 0 ∧ ∃ p, (ctxAccess s x a n r).2 = .ok p

/-- The state after the checks of an access, which may fill translations. -/
def accessed (s : State) (x : Ctx) (a n : Nat) (r : AccReq) : State := (ctxAccess s x a n r).1

/-- The place that an access of n bytes at a reaches. -/
def accessPlace (s : State) (x : Ctx) (a n : Nat) (r : AccReq) : Place :=
  match (ctxAccess s x a n r).2 with
  | .ok p => p
  | .bad _ => default

/-- All accesses of n bytes at the addresses l pass their checks. -/
def accessesOk (s : State) (x : Ctx) (l : List Nat) (n : Nat) (r : AccReq) : Prop :=
  (∀ a ∈ l, a < 2 ^ 56 ∧ a % n = 0) ∧ (checkAll s x n r l).2 = none

/-! ## Phasers (13 R436) -/

/-- The entry of a new member. -/
def newMember (x : Ctx) (mode : Nat) (first : BitVec 32) (joining : Bool) : Member :=
  { ctx := x.id, iter := x.env.iter, mode := mode, first := first.toNat, arrived := false, waiting := false, waitPhase := 0, leaving := false, joining := joining }

/-! ## Engine commands (10 R309 to R314) -/

/-- A command as captured from a descriptor d. -/
def cpCmd (i : Instr) (x : Ctx) (is : Iss) (sg : BitVec 6) (entries d hidx : Nat) (extra : Word) : Cmd :=
  { baseCmd x is (encodeWord i) sg entries with desc := BitVec.ofNat 640 d, ops := [extra], hidx := hidx }

/-- A copy command c enters the queue of its core with the ranges rs and at least the scope sc (08 R264). -/
def cpEnter (o : CD) (is : Iss) (x : Ctx) (s0 s : State) (rs : List (Nat × Nat)) (sc : Nat) (c : Cmd) : State :=
  enqueue s x is o.ss o.pm (max (rangesScope s0 x rs) sc) rs true c

/-- A field of a descriptor raised by v, in the moved descriptor m (10 R320). -/
def raiseField (m d hi lo : Nat) (v : Int) : Nat := setField m hi lo (wrapNat ((bits d hi lo : Int) + v) (hi + 1 - lo))

/-- The descriptors of the copy commands after their step at count k: address words move by k × st × u (10 R320). -/
def cpyDesc (o : CD) (k : Int) (d : Nat) : Nat := moveAt (moveAt d 0 (k * o.st.toInt * 4096)) 64 (k * o.st.toInt * 4096)
def cpyTile (d : Nat) : Fmt := fmtOfCode (BitVec.ofNat 4 (bits d 99 96))
def cpyWhole (d : Nat) : Nat := ceilDiv (tileBytes (cpyTile d)) 4096 * 4096
def cpytDesc (o : CD) (k : Int) (d : Nat) : Nat :=
  raiseField (moveAt d 0 (k * o.st.toInt * (tileGranules (cpyTile d) * 4096 : Nat))) d 95 64 (k * o.st.toInt)
def cpstDesc (o : CD) (k : Int) (d : Nat) : Nat := raiseField d d 95 64 (k * o.st.toInt)
def cpzDesc (o : CD) (k : Int) (d : Nat) : Nat := moveAt d 0 (k * o.st.toInt * 4096)
def cpzTileDesc (o : CD) (k : Int) (d : Nat) : Nat := raiseField (cpzDesc o k d) d 95 64 (k * o.st.toInt)
def cpxDesc (o : CD) (k : Int) (d : Nat) : Nat := raiseField (cpzDesc o k d) d 111 64 (k * o.st.toInt * 8192)
def cpnDesc (o : CD) (k : Int) (d : Nat) : Nat := raiseField (cpzDesc o k d) d 127 64 (k * o.st.toInt * 4096)
def collDesc (o : CD) (k : Int) (d : Nat) : Nat :=
  moveState (moveState (cpyDesc o k d) 128 (k * o.st.toInt * 64)) 192 (k * o.st.toInt * 64)

/-- A copy command without a handle is accepted with the descriptor that `step` leaves: `ok` holds of it, its ranges are rs,
its scope at least sc. -/
def Accepts (i : Instr) (o : CD) (entries : Nat) (step : Int → Nat → Nat) (ok : State → Ctx → Nat → Prop)
    (rs : Int → State → Ctx → Nat → List (Nat × Nat)) (sc : State → Ctx → Nat → Nat) (extra : Int → Word) : Prop :=
  Starts i (fun is x s => ok s x (step is.k (descOf o x)))
    (fun is x s => cpEnter o is x s s (rs is.k s x (step is.k (descOf o x))) (sc s x (step is.k (descOf o x)))
      (cpCmd i x is o.sg entries (step is.k (descOf o x)) 0 (extra is.k)))

/-- The same of a command that names the handle in x[4:0]: the register's V bit is set, and the entry enters the core's handle
cache (12 R398). -/
def AcceptsHandle (i : Instr) (o : CD) (step : Int → Nat → Nat) (ok : State → Ctx → Nat → Prop)
    (rs : Int → State → Ctx → Nat → List (Nat × Nat)) (sc : State → Ctx → Nat → Nat) (extra : Int → Word) : Prop :=
  Starts i (fun is x s => (rdH x (cdHandle o)).getLsbD 63 = true ∧ ok s x (step is.k (descOf o x)))
    (fun is x s => cpEnter o is x s (fillEntry s x (hIdx (rdH x (cdHandle o)))) (rs is.k s x (step is.k (descOf o x)))
      (sc s x (step is.k (descOf o x)))
      (cpCmd i x is o.sg 1 (step is.k (descOf o x)) (hIdx (rdH x (cdHandle o))) (extra is.k)))

/-- An array command c enters the queue of its core, with its bank bound and the lease used (09 R280, R283). -/
def mxEnter (ss : BitVec 4) (pm : BitVec 16) (acc : Nat) (is : Iss) (x : Ctx) (s0 s : State) (rs : List (Nat × Nat)) (c : Cmd) : State :=
  leaseUse (enqueue (bindBank s x acc) x is ss pm (rangesScope s0 x rs) rs false c) x.id.cl

/-! ## Register-only operations -/

/-- The operations whose effect is register results and flags alone: those of the scalar, vector and transform slots and the
register operations of SX (`vred.rsum` may also post an event record). -/
def registerOnly : Instr → Bool
  | .add _ | .sub _ | .mul _ | .mulh _ | .mulhz _ | .div _ | .divz _ | .rem _ | .remz _ | .and _ | .or _ | .xor _
  | .andn _ | .shl _ | .shr _ | .sar _ | .rot _ | .min _ | .max _ | .minz _ | .maxz _ | .abs _ | .clz _ | .ctz _
  | .popc _ | .sext _ | .bfx _ | .bfxz _ | .bfi _ | .lea _ | .addi _ | .andi _ | .ori _ | .xori _ | .movi _ | .movhi _
  | .cmpi _ | .mov _ | .sel _ | .cmp _ | .cset _ | .fadd _ | .fsub _ | .fmul _ | .ffma _ | .fdiv _ | .fsqrt _ | .fmin _
  | .fmax _ | .fcmp _ | .fcvt _ | .fclass _ | .vadd _ | .vsub _ | .vmul _ | .vmin _ | .vmax _ | .vcopysgn _ | .vabs _
  | .vneg _ | .vround _ | .vrcp _ | .vrsq _ | .vsqrt _ | .vfn _ | .vfma _ | .vfms _ | .vclamp _ | .vdot _ | .vcmp _
  | .vsel _ | .vand _ | .vor _ | .vxor _ | .vnot _ | .vshl _ | .vshr _ | .vsar _ | .vcvt _ | .vpack _ | .vunpk _
  | .vperm _ | .vshuf _ | .vbcast _ | .vmovs _ | .vins _ | .vidx _ | .vredSum _ | .vredMin _ | .vredMax _ | .vredVsum _
  | .vscan _ | .vnfchk _ | .mand _ | .mor _ | .mxor _ | .mnot _ | .mpop _ | .mfirst _ | .mset _ | .vrand _ | .kmov _
  | .kset _ | .kmax _ | .xtr _ | .xexp _ | .xcvt _ | .xqnt _ | .xamx _ | .xswz _ => true
  | _ => false

end Sys2Proof.Machine
end

