-- ==== Sys2Proof/Certificates/Slice0/Obligations.lean ====
section
/-!
DEFINITION. The statements for the provers.
-/
open Sys2Proof Sys2Proof.Machine

/-! ## Scalar slots -/

/-- The two-source integer instructions (04 R122, R123), at every width and extension, sources read at the start of the issue. -/
def Obligations.ScalarTwoSource : Prop := ∀ o : SR,
  Yields (.add o) (sr2 o fun a b => a + b) noFlags ∧
  Yields (.sub o) (sr2 o fun a b => a - b) noFlags ∧
  Yields (.mul o) (sr2 o fun a b => a * b) noFlags ∧
  Yields (.mulh o) (sr2 o fun a b => (a.signExtend (2 * srN o) * b.signExtend (2 * srN o)).extractLsb' (srN o) (srN o)) noFlags ∧
  Yields (.mulhz o) (sr2 o fun a b => (a.setWidth (2 * srN o) * b.setWidth (2 * srN o)).extractLsb' (srN o) (srN o)) noFlags ∧
  Yields (.div o) (sr2 o fun a b => if b = 0 then BitVec.allOnes _ else a.sdiv b) noFlags ∧
  Yields (.divz o) (sr2 o fun a b => if b = 0 then BitVec.allOnes _ else a / b) noFlags ∧
  Yields (.rem o) (sr2 o fun a b => if b = 0 then a else a.srem b) noFlags ∧
  Yields (.remz o) (sr2 o fun a b => if b = 0 then a else a % b) noFlags ∧
  Yields (.and o) (sr2 o fun a b => a &&& b) noFlags ∧
  Yields (.or o) (sr2 o fun a b => a ||| b) noFlags ∧
  Yields (.xor o) (sr2 o fun a b => a ^^^ b) noFlags ∧
  Yields (.andn o) (sr2 o fun a b => a &&& ~~~b) noFlags ∧
  Yields (.shl o) (sr2 o fun a b => a <<< (b.toNat % srN o)) noFlags ∧
  Yields (.shr o) (sr2 o fun a b => a >>> (b.toNat % srN o)) noFlags ∧
  Yields (.sar o) (sr2 o fun a b => a.sshiftRight (b.toNat % srN o)) noFlags ∧
  Yields (.rot o) (sr2 o fun a b => a.rotateLeft (b.toNat % srN o)) noFlags ∧
  Yields (.min o) (sr2 o fun a b => if b.slt a then b else a) noFlags ∧
  Yields (.max o) (sr2 o fun a b => if a.slt b then b else a) noFlags ∧
  Yields (.minz o) (sr2 o fun a b => if b.ult a then b else a) noFlags ∧
  Yields (.maxz o) (sr2 o fun a b => if a.ult b then b else a) noFlags

/-- The one-source, bit-field and address instructions (04 R124 to R126); a reserved field that is not 0, a position outside
the width and a field that does not end in it are illegal. Which sub-cause a word that breaks several rules gives is the model's
choice (log 12). -/
def Obligations.ScalarOneSource : Prop := ∀ o : SR,
  Yields (.abs o) (sr1 o fun a => if a.slt 0 then 0 - a else a) noFlags ∧
  Yields (.clz o) (sr1 o fun a => a.clz) noFlags ∧
  Yields (.ctz o) (sr1 o fun a => a.ctz) noFlags ∧
  Yields (.popc o) (sr1 o fun a => a.cpop) noFlags ∧
  Yields (.sext o) (sr1 o fun a => (a.setWidth (srPos o + 1)).signExtend _) noFlags ∧
  Yields (.bfx o) (sr1 o fun a => (a.extractLsb' (srPos o) (srLen o)).signExtend _) noFlags ∧
  Yields (.bfxz o) (sr1 o fun a => (a.extractLsb' (srPos o) (srLen o)).setWidth _) noFlags ∧
  Yields (.bfi o) (fun x => [(.s o.d.toNat, (extend64 (o.f.getLsbD 2)
    ((srSrc o x o.d &&& ~~~(fieldBits _ (srPos o) (srLen o))) |||
      ((srSrc o x o.a <<< srPos o) &&& fieldBits _ (srPos o) (srLen o)))).toNat)]) noFlags ∧
  Yields (.lea o) (sr2 o fun a b => a + b <<< (o.x.extractLsb' 0 3).toNat) noFlags ∧
  (o.b ≠ 0 → ∀ i ∈ [Instr.abs o, .clz o, .ctz o, .popc o, .sext o, .bfx o, .bfxz o, .bfi o], illegal i = some 1) ∧
  (srN o ≤ srPos o → ∀ i ∈ [Instr.sext o, .bfx o, .bfxz o, .bfi o], (illegal i).isSome = true) ∧
  (srN o < srPos o + srLen o → ∀ i ∈ [Instr.bfx o, .bfxz o, .bfi o], (illegal i).isSome = true) ∧
  (o.x.extractLsb' 6 6 ≠ 0 → illegal (.sext o) = some 1) ∧ (o.x.extractLsb' 3 9 ≠ 0 → illegal (.lea o) = some 1)

/-- The immediate instructions (04 R127). -/
def Obligations.ScalarImmediate : Prop := ∀ o : SI,
  Yields (.addi o) (si1 o fun a => a + o.imm.signExtend _) noFlags ∧
  Yields (.andi o) (si1 o fun a => a &&& o.imm.setWidth _) noFlags ∧
  Yields (.ori o) (si1 o fun a => a ||| o.imm.setWidth _) noFlags ∧
  Yields (.xori o) (si1 o fun a => a ^^^ o.imm.setWidth _) noFlags ∧
  Yields (.movi o) (fun _ => [(.s o.d.toNat, (extend64 (o.x.getLsbD 2) o.imm).toNat)]) noFlags ∧
  Yields (.movhi o) (fun x => [(.s o.d.toNat, (o.imm ++ (rdS x o.d.toNat).setWidth 32).toNat)]) noFlags ∧
  Yields (.cmpi o) (fun x => toC o.d.toNat
    (bvCompare (o.x.extractLsb' 4 4).toNat (siSrc o x o.a) (o.imm.signExtend _))) noFlags

/-- `mov` between register classes, `sel`, `cmp` and `cset` (04 R128 to R131); the operands those rules do not
allow are illegal. -/
def Obligations.ScalarMovesAndConditions : Prop := ∀ o : SR,
  (srMovD o = 0 → srMovA o = 0 → Yields (.mov o) (sr1 o fun a => a) noFlags) ∧
  (srMovD o = 1 → srMovA o = 0 → Yields (.mov o) (fun x => toC o.d.toNat (rdS x o.a.toNat != 0)) noFlags) ∧
  (srMovD o = 0 → srMovA o = 1 → Yields (.mov o) (fun x => [(.s o.d.toNat, (rdC x o.a.toNat).toNat)]) noFlags) ∧
  (srMovD o = 1 → srMovA o = 1 → Yields (.mov o) (fun x => toC o.d.toNat (rdC x o.a.toNat)) noFlags) ∧
  (srMovD o = 2 → srMovA o = 0 → Yields (.mov o) (fun x => [(.h o.d.toNat, (rdS x o.a.toNat &&& 0x8000_0000_0000_0FFF).toNat)]) noFlags) ∧
  (srMovD o = 0 → srMovA o = 2 → Yields (.mov o) (fun x => [(.s o.d.toNat, (rdH x o.a.toNat).toNat)]) noFlags) ∧
  (srMovD o = 2 → srMovA o = 2 → Yields (.mov o) (fun x => [(.h o.d.toNat, (rdH x o.a.toNat).toNat)]) noFlags) ∧
  (srMovD o = 0 → srMovA o = 3 → Yields (.mov o) (fun x => [(.s o.d.toNat, (rdCC x).toNat)]) noFlags) ∧
  (srMovD o = 3 → srMovA o = 0 → Yields (.mov o) (fun x =>
    (List.range 15).map (fun j => (.c (j + 1), ((rdS x o.a.toNat).getLsbD (j + 1)).toNat))) noFlags) ∧
  Yields (.sel o) (fun x => [(.s o.d.toNat, (extend64 (o.f.getLsbD 2)
    (if rdC x o.e.toNat then srSrc o x o.a else srSrc o x o.b)).toNat)]) noFlags ∧
  Yields (.cmp o) (fun x => toC o.d.toNat (bvCompare (o.x.extractLsb' 0 4).toNat (srSrc o x o.a) (srSrc o x o.b))) noFlags ∧
  Yields (.cset o) (fun x => toC o.d.toNat (csetHolds (o.x.extractLsb' 0 4).toNat (rdC x o.a.toNat) (rdC x o.b.toNat))) noFlags ∧
  (o.b ≠ 0 ∨ (srMovD o = 1 ∧ 16 ≤ o.d.toNat) ∨ (srMovD o = 2 ∧ 32 ≤ o.d.toNat) ∨ (srMovD o = 3 ∧ o.d ≠ 0) ∨
    (srMovA o = 1 ∧ 16 ≤ o.a.toNat) ∨ (srMovA o = 2 ∧ 32 ≤ o.a.toNat) ∨ (srMovA o = 3 ∧ o.a ≠ 0) ∨
    ((srMovD o ≠ 0 ∨ srMovA o ≠ 0) ∧ o.f ≠ 0) ∨
    (srMovD o, srMovA o) ∉ [(0, 0), (1, 0), (0, 1), (1, 1), (2, 0), (0, 2), (2, 2), (0, 3), (3, 0)] →
    (illegal (.mov o)).isSome = true) ∧
  (o.e.extractLsb' 4 2 ≠ 0 → (illegal (.sel o)).isSome = true) ∧
  (o.d.extractLsb' 4 2 ≠ 0 ∨ 10 ≤ (o.x.extractLsb' 0 4).toNat → (illegal (.cmp o)).isSome = true) ∧
  (o.d.extractLsb' 4 2 ≠ 0 ∨ o.a.extractLsb' 4 2 ≠ 0 ∨ o.b.extractLsb' 4 2 ≠ 0 ∨ 10 ≤ (o.x.extractLsb' 0 4).toNat ∨ o.f ≠ 0 ∨
    (((o.x.extractLsb' 0 4).toNat = 8 ∨ (o.x.extractLsb' 0 4).toNat = 9) ∧ o.b ≠ 0) → (illegal (.cset o)).isSome = true)

/-! ## Floating instructions of the scalar slots -/

/-- The scalar floating instructions (04 R133 to R137): each rounds its exact result once, or compares or classifies its operands, the
values in the low bits of their registers (R113); `fcvt` converts between floating formats, to integers of 8, 32 and 64 bits, and
from them. -/
def Obligations.ScalarFloat : Prop :=
  (∀ o : SR,
  let f := fmtOfCode o.f
  let a := fun x => opVal x o.a f
  let b := fun x => opVal x o.b f
  let m := fun x => scalarMode x o.rm
  YieldsPair (.fadd o) (fun x => fWrite o x (addExact (a x) (b x) (m x))) ∧
  YieldsPair (.fsub o) (fun x => fWrite o x (addExact (a x) (valNegate (b x)) (m x))) ∧
  YieldsPair (.fmul o) (fun x => fWrite o x (mulExact (a x) (b x))) ∧
  YieldsPair (.ffma o) (fun x => fWrite o x (exFma (m x) (a x) (b x) (opVal x o.e f))) ∧
  YieldsPair (.fdiv o) (fun x => fWrite o x (exDiv (m x) (a x) (b x))) ∧
  YieldsPair (.fsqrt o) (fun x => fWrite o x (exSqrt (sqrtBits f) (a x))) ∧
  YieldsPair (.fmin o) (fun x => if valIsNaN (a x) || valIsNaN (b x) then ([(.s o.d.toNat, qnanCode f)], fNF)
    else ([(.s o.d.toNat, opLow x (if valLess (a x) (b x) then o.a else o.b) (fmtWidth f))], 0)) ∧
  YieldsPair (.fmax o) (fun x => if valIsNaN (a x) || valIsNaN (b x) then ([(.s o.d.toNat, qnanCode f)], fNF)
    else ([(.s o.d.toNat, opLow x (if valLess (b x) (a x) then o.a else o.b) (fmtWidth f))], 0)) ∧
  Yields (.fcmp o) (fun x => toC o.d.toNat (fcondHolds (o.x.extractLsb' 0 4).toNat (a x) (b x))) noFlags ∧
  Yields (.fclass o) (fun x => [(.s o.d.toNat, 2 ^ classBit f (a x))]) noFlags) ∧
  (∀ o : SR,
  let fd := fmtOfCode o.f
  let fs := fmtOfCode (o.x.extractLsb' 0 4)
  let n := fun f => cvtIntWidth f (o.x.getLsbD 4)
  let v := fun x => if isInt fs then ofRat ((rdS x o.a.toNat).setWidth (n fs)).toInt else opVal x o.a fs
  (isInt fd = false → YieldsPair (.fcvt o) (fun x => fWrite o x (v x, 0))) ∧
  (isInt fd = true → YieldsPair (.fcvt o) (fun x =>
    let r := toIntRange (v x) (-(2 ^ (n fd - 1) : Int)) (2 ^ (n fd - 1) - 1) (scalarMode x o.rm) 0 0
    ([(.s o.d.toNat, (BitVec.ofInt 64 r.1).toNat)], r.2))))

/-! ## Vector slots -/

/-- Element arithmetic of two sources and of one source (05 R155 to R157): active lanes of the destination are written, the
others keep their values; flags of the active lanes are raised. The sign of a zero that `vround` or a sum under RDN gives, and how
`vfn` is rounded and drawn, are the model's readings (logs 33, 106, 3). -/
def Obligations.VectorArithmetic : Prop := ∀ o : VX,
  let f := vxFmt o
  let go := fun i g => YieldsLanes i (vD o) o.m (laneWidth f) g
  let a := fun x i => laneV x o.a f i
  let b := fun x i => laneV x o.b f i
  let ai := fun x i => laneI x o.a f i
  let bi := fun x i => laneI x o.b f i
  go (.vadd o) (fun x i => if isInt f then intArith o (ai x i + bi x i) else rndLane x o.rm f i (addExact (a x i) (b x i) (vecMode x o.rm))) ∧
  go (.vsub o) (fun x i => if isInt f then intArith o (ai x i - bi x i)
    else rndLane x o.rm f i (addExact (a x i) (valNegate (b x i)) (vecMode x o.rm))) ∧
  go (.vmul o) (fun x i => if isInt f then intArith o (ai x i * bi x i) else rndLane x o.rm f i (mulExact (a x i) (b x i))) ∧
  go (.vmin o) (fun x i => minMaxLane f false (lane x o.a (laneWidth f) i) (lane x o.b (laneWidth f) i)) ∧
  go (.vmax o) (fun x i => minMaxLane f true (lane x o.a (laneWidth f) i) (lane x o.b (laneWidth f) i)) ∧
  go (.vcopysgn o) (fun x i => signedCode f (withSign (a x i) (codeSign f (lane x o.b (laneWidth f) i)))) ∧
  go (.vabs o) (fun x i => if isInt f then intLane f (ai x i).natAbs else signedCode f (valAbs (a x i))) ∧
  go (.vneg o) (fun x i => if isInt f then intLane f (-ai x i) else signedCode f (valNegate (a x i))) ∧
  (isInt f = false →
    go (.vround o) (fun x i => roundLane f (laneRnd x o.rm (laneCount f)) i (lane x o.a (laneWidth f) i)) ∧
    go (.vrcp o) (fun x i => rndLane x o.rm f i (exRcp (a x i))) ∧
    go (.vrsq o) (fun x i => rndLane x o.rm f i (exRsq (a x i))) ∧
    go (.vsqrt o) (fun x i => rndLane x o.rm f i (exSqrt 160 (a x i))) ∧
    go (.vfn o) (fun x i => fnCode o.g.toNat f (lane x o.a (laneWidth f) i) (vecMode x o.rm) (fpSat x)
      ((srWords x (vecMode x o.rm) (laneCount f)).getD i 0) (srBits (laneCount f))))

/-- The three-source instructions (05 R158). The sign of an exact sum of zero under RDN is the model's reading (log 106). -/
def Obligations.VectorThreeSource : Prop := ∀ o : VR,
  let f := vrFmt o
  let go := fun i w g => YieldsLanes i o.d.toNat o.m w g
  let a := fun x i => laneV x o.a f i
  let b := fun x i => laneV x o.b f i
  let c := fun x i => laneV x o.c f i
  let p := fun x i => laneI x o.a f i * laneI x o.b f i
  go (.vfma o) (laneWidth f) (fun x i => if isInt f then intLane f (laneI x o.c f i + p x i)
    else rndLane x o.rm f i (exFma (vecMode x o.rm) (a x i) (b x i) (c x i))) ∧
  go (.vfms o) (laneWidth f) (fun x i => if isInt f then intLane f (laneI x o.c f i - p x i)
    else rndLane x o.rm f i (exFma (vecMode x o.rm) (valNegate (a x i)) (b x i) (c x i))) ∧
  go (.vclamp o) (laneWidth f) (fun x i =>
    let lo := minMaxLane f true (lane x o.a (laneWidth f) i) (lane x o.b (laneWidth f) i)
    let r := minMaxLane f false lo.1 (lane x o.c (laneWidth f) i)
    (r.1, lo.2 ||| r.2)) ∧
  (isInt f = true → go (.vdot o) 32 (fun x i => (wrapNat (laneI x o.c .int32 i
    + (p x (4 * i) + p x (4 * i + 1) + p x (4 * i + 2) + p x (4 * i + 3))) 32, 0))) ∧
  (isInt f = false → go (.vdot o) 32 (fun x i => rndLane x o.rm .fp32 i
    (dotExact (vecMode x o.rm) [(a x (2 * i), b x (2 * i)), (a x (2 * i + 1), b x (2 * i + 1))] (laneV x o.c .fp32 i))))

/-- Comparison, selection, logic and shifts (05 R159 to R162). -/
def Obligations.VectorCompareLogicShift : Prop := ∀ o : VX,
  let f := vxFmt o
  let w := laneWidth f
  let byte := fun x r i => lane x r 8 i
  let amount := fun x i => if o.x.getLsbD 6 then (o.x.extractLsb' 0 5).toNat else lane x o.b w i
  Yields (.vcmp o) (fun x => [(.m (mD o), maskResult x (mD o) o.m.toNat w (fun i =>
    if isInt f then bvCompare (o.x.extractLsb' 0 4).toNat (BitVec.ofNat w (lane x o.a w i)) (BitVec.ofNat w (lane x o.b w i))
    else fcondHolds (o.x.extractLsb' 0 4).toNat (laneV x o.a f i) (laneV x o.b f i)))]) noFlags ∧
  Yields (.vsel o) (fun x => [(.v (vD o), ofLanes w ((List.range (1024 / w)).map (fun i =>
    moveCode f (lane x (if active (rdM x o.m.toNat) w i then o.a else o.b) w i))))]) noFlags ∧
  YieldsLanes (.vand o) (vD o) o.m 8 (fun x i => (byte x o.a i &&& byte x o.b i, 0)) ∧
  YieldsLanes (.vor o) (vD o) o.m 8 (fun x i => (byte x o.a i ||| byte x o.b i, 0)) ∧
  YieldsLanes (.vxor o) (vD o) o.m 8 (fun x i => (byte x o.a i ^^^ byte x o.b i, 0)) ∧
  YieldsLanes (.vnot o) (vD o) o.m 8 (fun x i => (255 - byte x o.a i, 0)) ∧
  YieldsLanes (.vshl o) (vD o) o.m w (fun x i => ((BitVec.ofNat w (lane x o.a w i) <<< (amount x i % w)).toNat, 0)) ∧
  YieldsLanes (.vshr o) (vD o) o.m w (fun x i => ((BitVec.ofNat w (lane x o.a w i) >>> (amount x i % w)).toNat, 0)) ∧
  YieldsLanes (.vsar o) (vD o) o.m w (fun x i => (((BitVec.ofNat w (lane x o.a w i)).sshiftRight (amount x i % w)).toNat, 0))

/-- Conversion, packing and moving of elements (05 R163 to R167). The number of lanes that stochastic rounding of a conversion
counts is the model's reading (log 100). -/
def Obligations.VectorConvertMove : Prop := ∀ o : VX,
  let f := vxFmt o
  let w := laneWidth f
  let n := laneCount f
  let go := fun i g => YieldsLanes i (vD o) o.m w g
  let whole := fun i g => Yields i (fun x => [(.v (vD o), ofLanes w (g x))]) noFlags
  go (.vcvt o) (fun x i => cvtLanes f (fmtOfCode o.g) (o.x.extractLsb' 0 2).toNat (fun j => laneV x o.a (fmtOfCode o.g) j)
    (vLanes x (vD o) w) (laneRnd x o.rm n) i) ∧
  Yields (.vpack o) (fun x => [(.v (vD o), ofLanes 6 ((List.range 128).map (fun i => lane x o.a 8 i % 64)))]) noFlags ∧
  Yields (.vunpk o) (fun x => [(.v (vD o), ofLanes 8 ((List.range 128).map (fun i => lane x o.a 6 i)))]) noFlags ∧
  go (.vperm o) (fun x i => (if o.x.getLsbD 0 && decide (n ≤ lane x o.b w i) then 0
    else moveCode f (lane x o.a w (lane x o.b w i % n)), 0)) ∧
  go (.vshuf o) (fun x i =>
    let p := shufFrom o.g.toNat n o.x.toNat i
    (moveCode f (lane x (if p.1 then o.b else o.a) w p.2), 0)) ∧
  (o.g = 0 → go (.vbcast o) (fun x _ => (moveCode f (lane x o.a w o.x.toNat), 0))) ∧
  (o.g ≠ 0 → go (.vbcast o) (fun x _ => (moveCode f ((rdS x (low6 o.a)).toNat % 2 ^ w), 0))) ∧
  Yields (.vmovs o) (fun x => [(.s (low6 o.d), (extend64 (isInt f) (BitVec.ofNat w (moveCode f (lane x o.a w o.x.toNat)))).toNat)]) noFlags ∧
  whole (.vins o) (fun x => (vLanes x (vD o) w).set o.x.toNat (moveCode f ((rdS x (low6 o.a)).toNat % 2 ^ w))) ∧
  whole (.vidx o) (fun x => (List.range (1024 / w)).map (fun i => ((rdS x (low6 o.a)).toNat + i * o.x.toNat) % 2 ^ w))

/-- Horizontal and vertical reductions and scans (05 R169 to R171): a horizontal result stands in lane 0 with every other bit
0. How FPCTL.sat meets a sum of many roundings, and that a lone active lane of `vred.min` and `vred.max` is moved, are the model's
readings (logs 34, 100). -/
def Obligations.VectorReductions : Prop := ∀ o : VX,
  let f := vxFmt o
  let w := laneWidth f
  let act := fun x => active (rdM x o.m.toNat) w
  let ws := fun x => srWords x (vecMode x o.rm) (laneCount f)
  let b := srBits (laneCount f)
  let red := fun i g => YieldsPair i (fun x => let r : Nat × Flg := g x; ([(RegId.v (vD o), r.1)], r.2))
  red (.vredSum o) (fun x => sumTree f (vecMode x o.rm) (ws x) b (act x) (vLanes x (vA o) w)) ∧
  red (.vredMin o) (fun x => redMM f false (act x) (vLanes x (vA o) w)) ∧
  red (.vredMax o) (fun x => redMM f true (act x) (vLanes x (vA o) w)) ∧
  YieldsLanes (.vredVsum o) (vD o) o.m w (fun x i =>
    laneSum f (vecMode x o.rm) (ws x) ((List.range (vxRegs o)).map (fun j => vLanes x (vA o + j) w)) i) ∧
  YieldsPair (.vscan o) (fun x =>
    let r := scanSeq f (vecMode x o.rm) (ws x) b (act x) (vLanes x (vD o) w) 0 (addUnit f) (vLanes x (vA o) w)
    ([(.v (vD o), ofLanes w r.1)], r.2))

/-- `vred.rsum` (05 R170): the sum over the valid registers, rescaled by their share; with none valid, zeros and one event
record of kind 8. -/
def Obligations.VectorRescaledSum : Prop := ∀ (o : VX) (s s1 : State) (x x1 : Ctx), Issues (.vredRsum o) s x s1 x1 →
  let valid := (List.range (vxRegs o)).filter (fun j => (rdM x1 o.m.toNat).getLsbD j)
  let sum := fun i => laneSum .fp32 (vecMode x1 o.rm) (srWords x1 (vecMode x1 o.rm) 32)
    (valid.map (fun j => vLanes x1 (vA o + j) 32)) i
  let out := fun i =>
    match decodeVal .fp32 (sum i).1 with
    | .fin q =>
      let e := encodeVal (.fin (q * (vxRegs o : Rat) / (valid.length : Rat))) .fp32 .rne false 0 0
      (e.1, (sum i).2 ||| e.2)
    | v => ((encodeVal v .fp32 .rne false 0 0).1, (sum i).2)
  (valid = [] → Completes (.vredRsum o) s
    (postEvent (putCtx s1 x1) s.cur x1.env.iter (eventRec 8 (issAt (.vredRsum o) s).slot 0 s.cur.ctx x1.pc (vD o)))
    [(.v (vD o), 0)] 0) ∧
  (valid ≠ [] → Completes (.vredRsum o) s (putCtx s1 x1) [(.v (vD o), ofLanes 32 ((List.range 32).map (fun i => (out i).1)))]
    (flagsOf ((List.range 32).map (fun i => (out i).2))))

/-- Non-finite checks, mask instructions and the generator (05 R172 to R174). -/
def Obligations.VectorMasks : Prop := ∀ o : VX,
  let f := vxFmt o
  let w := laneWidth f
  let ma := fun x => rdM x (low4 o.a)
  let mb := fun x => rdM x (low4 o.b)
  let toM := fun i g => Yields i (fun x => [(.m (mD o), (g x : Mask).toNat)]) noFlags
  YieldsPair (.vnfchk o) (fun x =>
    let bad := fun i => !valIsFinite (laneV x o.a f i)
    ([(.m (mD o), maskResult x (mD o) o.m.toNat w bad)],
      if ∃ i < laneCount f, active (rdM x o.m.toNat) w i = true ∧ bad i = true then fNF else 0)) ∧
  toM (.mand o) (fun x => ma x &&& mb x) ∧ toM (.mor o) (fun x => ma x ||| mb x) ∧ toM (.mxor o) (fun x => ma x ^^^ mb x) ∧
  toM (.mnot o) (fun x => ~~~ ma x) ∧
  Yields (.mpop o) (fun x => [(.s (low6 o.d), ((List.range (laneCount f)).filter (active (ma x) w)).length)]) noFlags ∧
  Yields (.mfirst o) (fun x => [(.s (low6 o.d), ((List.range (laneCount f)).find? (active (ma x) w)).getD (laneCount f))]) noFlags ∧
  toM (.mset o) (fun x => if o.x.getLsbD 0 then rdS x (low6 o.a) ++ (rdM x (mD o)).setWidth 64
    else (rdM x (mD o)).extractLsb' 64 64 ++ rdS x (low6 o.a)) ∧
  YieldsLanes (.vrand o) (vD o) o.m 8 (fun x i =>
    let v := (rdV x (vA o)).toNat
    let counter := (v % 2 ^ 128 + 8 * (rdS x (low6 o.b)).toNat + i / 16) % 2 ^ 128
    (randBlock counter (v / 2 ^ 128 % 2 ^ 64) / 2 ^ (8 * (i % 16)) % 256, 0))

/-! ## Scale and transform slots -/

/-- The SX register instructions and the transforms (05 R175, R178 to R184): the result is visible L issued bundle cycles after
the issue, where L is the latency of 03 R93. The number of lanes that stochastic rounding of `xcvt` counts is the model's reading
(log 100). -/
def Obligations.ScaleAndTransform : Prop := (∀ o : KR,
    YieldsLate (.kmov o) (fun x => landK x o.d.toNat (rdK x (low6 o.a)) 1) noFlags ∧
    (o.x.getLsbD 8 = false →
      YieldsLate (.kset o) (fun x => landK x o.d.toNat (kOf (List.replicate 32 (o.x.extractLsb' 0 8).toNat)) 1) noFlags) ∧
    (o.x.getLsbD 8 = true → YieldsLate (.kset o) (fun x =>
      landK x o.d.toNat (kOf ((kCodes (rdK x o.d.toNat)).set (o.x.extractLsb' 9 5).toNat (o.x.extractLsb' 0 8).toNat)) 1) noFlags) ∧
    YieldsLate (.kmax o) (fun x => landK x o.d.toNat
      (kOf ((List.range 32).map (fun j => max (kCode (rdK x o.d.toNat) j) (kCode (rdK x (low6 o.a)) j)))) 1) noFlags) ∧
  (∀ o : XR,
    let w := laneWidth (xrFd o)
    let n := 1024 / w
    let land := fun (x : Ctx) (lat : Nat) (v : Nat) => landV x (xD o) v lat
    YieldsLate (.xtr o) (fun x =>
      let r := 2 ^ ((o.x.extractLsb' 0 2).toNat + 1)
      land x 4 (ofLanes w ((List.range n).map (fun l => lane x o.a w (l % r * (n / r) + l / r))))) noFlags ∧
    YieldsLate (.xexp o) (fun x =>
      let h := (o.x.extractLsb' 0 1).toNat
      let idx := fun l => bits (rdV x o.b.toNat).toNat (h * n + 2 * l + 1) (h * n + 2 * l)
      land x 3 (ofLanes w ((List.range n).map (fun l =>
        if l % 4 = idx (2 * (l / 4) + 1) then lane x o.a w (h * n / 2 + 2 * (l / 4) + 1)
        else if l % 4 = idx (2 * (l / 4)) then lane x o.a w (h * n / 2 + 2 * (l / 4)) else 0)))) noFlags ∧
    (let out := fun x i => cvtLanes (xrFd o) (xrFs o) (o.x.extractLsb' 0 3).toNat
        (xcvtSource (xrFs o) (vLanes x (xA o) (laneWidth (xrFs o))) (rdK x o.k.toNat) (o.x.extractLsb' 3 2).toNat)
        (vLanes x (xD o) w) (laneRnd x o.rm (laneCount (xrFd o))) i
     YieldsLate (.xcvt o) (fun x => land x 2 (ofLanes w ((List.range (laneCount (xrFd o))).map (fun i => (out x i).1))))
       (fun x => flagsOf ((List.range (laneCount (xrFd o))).map (fun i => (out x i).2)))) ∧
    (let q := fun x => xqntBlocks (xrFd o) (xrFs o) (laneRnd x o.rm (32 * srcBlocks (xrFs o)))
        (vLanes x (xA o) (laneWidth (xrFs o))) (o.x.extractLsb' 0 3).toNat (o.b.extractLsb' 0 5).toNat (srcBlocks (xrFs o)) 0
        (vLanes x (xD o) w, kCodes (rdK x o.k.toNat), 0)
     YieldsLate (.xqnt o) (fun x => { landV x (xD o) (ofLanes w (q x).1) 2 with
        kreg := some o.k.toNat, kval := kOf (q x).2.1 }) (fun x => (q x).2.2)) ∧
    (let fs := xrFs o
     let v := fun x i => laneV x o.a fs i
     YieldsLate (.xamx o) (fun x => land x 2 (ofLanes 32 ((List.range 32).map (fun t =>
        if t < srcBlocks fs then code32 (ofRat (amaxOf ((List.range 32).map (fun i => v x (32 * t + i))))) else 0))))
       (fun x => if ∃ i < 1024 / laneWidth fs, valIsFinite (v x i) = false then fNF else 0)) ∧
    YieldsLate (.xswz o) (fun x =>
      let u := 32 * 2 ^ o.g.toNat
      land x 4 (ofLanes u ((List.range (1024 / u)).map (fun i => lane x o.a u (i ^^^ o.x.toNat))))) noFlags)

/-! ## Memory operations -/

/-- Loads and stores of scalars (07 R244, R219, R241): with the address aligned, translated and permitted, the operation takes
a sequence number, counts on its stream, and is outstanding. A load's register is written when its value comes. At SH the doublewords
of the containment window are loaded, the poison records' first words and the overflow word are stored to, and a doubleword stored to
the invalidation window asks for an invalidation (12 R387, R413). -/
def Obligations.ScalarLoadStoreIssue : Prop := ∀ o : LM,
  let n := lmSize o
  let a := fun (is : Iss) x => lmAddr o x is.k n
  Starts (.ld o) (fun is x s => accessOk s x (a is x) n accRead ∧ inFifo (a is x) = false ∧ lsContain x n (a is x) = false ∧
      fifoMoved o x is.k = false)
    (fun is x s => startLoad (accessed s x (a is x) n accRead) x is o.ss.toNat o.pm (lmScope o)
      (.loadS (low6 o.d) (a is x) n (o.m.getLsbD 2)) (.s (low6 o.d))) ∧
  Starts (.st o) (fun is x s => accessOk s x (a is x) n accWrite ∧ inFifo (a is x) = false ∧ lsContain x n (a is x) = false ∧
      fifoMoved o x is.k = false ∧ ¬ (x.lvl = 2 ∧ n = 8 ∧ a is x = invalAddr))
    (fun is x s => startOp (accessed s x (a is x) n accWrite) x is o.ss.toNat o.pm (lmScope o)
      (.store false [(a is x, natLe n (rdS x (low6 o.d)).toNat)])) ∧
  Starts (.ld o) (fun is x _ => x.lvl = 2 ∧ n = 8 ∧ inContain (a is x) = true ∧ a is x % 8 = 0 ∧ inFifo (a is x) = false ∧
      fifoMoved o x is.k = false)
    (fun is x s => startLoad s x is o.ss.toNat o.pm (lmScope o) (.loadS (low6 o.d) (a is x) n (o.m.getLsbD 2)) (.s (low6 o.d))) ∧
  Starts (.st o) (fun is x _ => x.lvl = 2 ∧ n = 8 ∧ inContain (a is x) = true ∧ a is x % 8 = 0 ∧ inFifo (a is x) = false ∧
      fifoMoved o x is.k = false ∧ (let off := a is x - containBase
        off = 0x4000 ∨ (0x2000 ≤ off ∧ off < 0x4000 ∧ off % 16 = 0 ∧ (rdS x (low6 o.d)).getLsbD 56 = false)))
    (fun is x s => startOp s x is o.ss.toNat o.pm (lmScope o) (.store false [(a is x, natLe 8 (rdS x (low6 o.d)).toNat)])) ∧
  Starts (.st o) (fun is x _ => x.lvl = 2 ∧ n = 8 ∧ a is x = invalAddr ∧ fifoMoved o x is.k = false)
    (fun is x s => startOp s x is o.ss.toNat o.pm 3 (.inval (rdS x (low6 o.d))))

/-- Link FIFO registers (11 R353 to R355): a zero-extended doubleword load of a receive register takes the oldest word, and a
doubleword store to a send register appends a word; a step away from the register traps (R352). -/
def Obligations.LinkFifoAccess : Prop := ∀ (o : LM) (k : Nat),
  lmSize o = 8 → o.m.getLsbD 2 = false →
  YieldsIf (.ld o) (fun is x s => k < 6 ∧ lmAddr o x is.k 8 = fifoBase + 8 * k ∧ fifoMoved o x is.k = false ∧ recvFifo s x.id.cl k ≠ [])
    (fun _ x s => modCl (passOp s x o.ss.toNat) x.id.cl (fun c => fifoUsed s x k { c with recvF := smSet c.recvF k ((recvFifo s x.id.cl k).drop 1) [] }))
    (fun x s => [(.s (low6 o.d), ((recvFifo s x.id.cl k).headD 0).toNat)]) ∧
  Starts (.st o) (fun is x _ => k < 6 ∧ lmAddr o x is.k 8 = fifoBase + 8 * k ∧ fifoMoved o x is.k = false)
    (fun is x s => startOp (modCl s x.id.cl (fun c => fifoUsed s x (8 + k) { c with sendF := smSet c.sendF k (sendFifo s x.id.cl k ++
        [{ w := rdS x (low6 o.d), ctx := x.id, seq := nextSeq s x.id, iter := x.env.iter }]) [] }))
      x is o.ss.toNat o.pm 4 (.push k (rdS x (low6 o.d)))) ∧
  -- A step that moves the address away from its FIFO traps PAGE_PERM 3.
  (∀ (i : Instr), i = .ld o ∨ i = .st o → ∀ s x s1 x1, Issues i s x s1 x1 → unfinished x = false →
    let a := lmAddr o x1 (issAt i s).k 8
    fifoMoved o x1 (issAt i s).k = true → a < 2 ^ 56 → a % 8 = 0 →
    exec i s = .next (takeTrap s s.cur { cause := 8, info := infoB (issAt i s).slot 3 0, addr := BitVec.ofNat 64 a } x.pc))

/-- Vector loads and stores, strided and indexed (07 R245 to R247). Active lanes alone are accessed; with none active the
operation is performed at its issue. -/
def Obligations.VectorLoadStoreIssue : Prop := (∀ o : LM,
    let a := fun (is : Iss) x => lmAddr o x is.k 128
    let m := fun x => rdM x o.m.toNat
    let n := lmSize o
    Starts (.vld o) (fun is x s => m x ≠ 0 ∧ accessOk s x (a is x) 128 accRead)
      (fun is x s => startVec (accessed s x (a is x) 128 accRead) x is o.ss.toNat o.pm (lmScope o) (.loadV o.d.toNat (a is x) (m x)) o.d.toNat) ∧
    Starts (.vst o) (fun is x s => m x ≠ 0 ∧ accessOk s x (a is x) 128 accWrite)
      (fun is x s => startOp (accessed s x (a is x) 128 accWrite) x is o.ss.toNat o.pm (lmScope o)
        (.store true ((maskRuns (m x)).map (fun r => (a is x + r.1, ((natLe 128 (rdV x o.d.toNat).toNat).drop r.1).take r.2))))) ∧
    Starts (.vld o) (fun is x _ => m x = 0 ∧ a is x < 2 ^ 56 ∧ a is x % 128 = 0) (fun _ x s => passOp s x o.ss.toNat) ∧
    Starts (.vst o) (fun is x _ => m x = 0 ∧ a is x < 2 ^ 56 ∧ a is x % 128 = 0) (fun _ x s => passOp s x o.ss.toNat) ∧
    Starts (.vlds o) (fun is x s => accessesOk s x (vldsAddrs o x is.k) n accRead)
      (fun is x s => startVec (checkAll s x n accRead (vldsAddrs o x is.k)).1 x is o.ss.toNat o.pm (lmScope o)
        (.loadL o.d.toNat n (laneAddrs (vldsAddrs o x is.k)) true) o.d.toNat)) ∧
  (∀ o : LG,
    let n := lgSize o
    let l := fun x => gatherLanes o x
    let base := fun x => (rdS x o.a.toNat).toNat % 2 ^ 56 % n = 0
    let al := fun x => (l x).map (fun p => p.2)
    Starts (.vgth o) (fun _ x s => l x ≠ [] ∧ base x ∧ accessesOk s x (al x) n accRead)
      (fun is x s => startVec (checkAll s x n accRead (al x)).1 x is o.ss.toNat o.pm 3 (.loadL o.d.toNat n (l x) false) o.d.toNat) ∧
    Starts (.vsct o) (fun _ x s => l x ≠ [] ∧ base x ∧ accessesOk s x (al x) n accWrite)
      (fun is x s => startOp (checkAll s x n accWrite (al x)).1 x is o.ss.toNat o.pm 3
        (.store false ((lastLanes (l x)).map (fun p => (p.2, natLe n (lane x o.d (8 * n) p.1)))))) ∧
    (∀ i, i = .vgth o ∨ i = .vsct o → Starts i (fun _ x _ => l x = [] ∧ base x) (fun _ x s => passOp s x o.ss.toNat)))

/-- Atomics, reductions and prefetch (07 R248 to R252). A `vredm` with no valid contribution passes every check and posts its event;
that one with no active lane makes no access is the model's reading (log 88). -/
def Obligations.AtomicIssue : Prop := (∀ o : LA,
    let n := laSize o
    let a := fun x => (rdS x o.a.toNat).toNat
    let sc := fun x s r => atomicScope (accessPlace s x (a x) n r) (laScope o)
    let u := fun x (r : BitVec 6) => (rdS x r.toNat).toNat % 2 ^ (8 * n)
    let hostOk := o.e.toNat == 0 || o.e.toNat == 8
    Starts (.amo o) (fun _ x s => accessOk s x (a x) n (amoReq hostOk))
      (fun is x s => startLoad (accessed s x (a x) n (amoReq hostOk)) x is o.ss.toNat o.pm (sc x s (amoReq hostOk))
        (.amo (some o.d.toNat) o.e.toNat (a x) n (u x o.b) (laSx o)) (.s o.d.toNat)) ∧
    Starts (.cas o) (fun _ x s => accessOk s x (a x) n (amoReq true))
      (fun is x s => startLoad (accessed s x (a x) n (amoReq true)) x is o.ss.toNat o.pm (sc x s (amoReq true))
        (.cas o.d.toNat (a x) n (u x o.b) (u x o.e) (laSx o)) (.s o.d.toNat)) ∧
    Starts (.red o) (fun _ x s => accessOk s x (a x) n (amoReq false))
      (fun is x s => startOp (accessed s x (a x) n (amoReq false)) x is o.ss.toNat o.pm (sc x s (amoReq false))
        (.amo none o.e.toNat (a x) n (u x o.b) false))) ∧
  (∀ o : LG,
    let a := fun x => (rdS x o.a.toNat).toNat
    Starts (.vredm o) (fun _ x s => accessOk s x (a x) 128 (amoReq false) ∧ vredmLanes o x ≠ [] ∧ (vmRescale o = true → vmNv o x ≠ 0))
      (fun is x s => startOp (accessed s x (a x) 128 (amoReq false)) x is o.ss.toNat o.pm
        (atomicScope (accessPlace s x (a x) 128 (amoReq false)) (vmScope o)) (.vredm (a x) (fmtCode (vmFmt o)) (vmOp o) (vredmLanes o x))) ∧
    Starts (.vredm o) (fun _ x _ => a x < 2 ^ 56 ∧ a x % 128 = 0 ∧ vredmLanes o x = [] ∧ (vmRescale o = true → vmNv o x ≠ 0))
      (fun _ x s => passOp s x o.ss.toNat) ∧
    (vmRescale o = true → Starts (.vredm o) (fun _ x s => accessOk s x (a x) 128 (amoReq false) ∧ vmNv o x = 0)
      (fun is x s => postEvent (passOp (accessed s x (a x) 128 (amoReq false)) x o.ss.toNat) x.id x.env.iter
        (eventRec 8 is.slot 0 x.id.ctx x.pc (a x))))) ∧
  (∀ o : LM, Starts (.pref o) (fun _ _ _ => True)
    (fun is x s => startOp s x is o.ss.toNat o.pm 0 (.pref (o.d.extractLsb' 0 2).toNat (lmAddr o x is.k 128))))

/-- Scale loads and stores (05 R176) in the gang's Mere: the codes of a `kld` land six issued bundle cycles later. -/
def Obligations.ScaleLoadStoreIssue : Prop := ∀ o : KM,
  let a := fun (is : Iss) x => kmAddr o x is.k
  let ok := fun is x s => a is x < 2 ^ 56 ∧ a is x % 32 = 0 ∧ inMere (a is x) = true ∧ ∃ p, (ctxAccess s x (a is x) 32 accRead).2 = .ok p
  Starts (.kld o) ok (fun is x s =>
    let s1 := accessed s x (a is x) 32 accRead
    addLanding (startOp s1 x is o.ss.toNat o.pm 0 (.kld o.d.toNat (a is x))) x
      { landK x o.d.toNat 0 6 with wait := some (nextSeq s1 x.id), addr := a is x }) ∧
  Starts (.kst o) ok (fun is x s => startOp (accessed s x (a is x) 32 accRead) x is o.ss.toNat o.pm 0
    (.store false [(a is x, natLe 32 (rdK x o.d.toNat).toNat)]))

/-- ALIGN (07 R219): of every access to memory and of register targets (04 R139). An address with a bit of [63:56] set, or one that
is not a multiple of the access's size, traps; of several the first, in the order of the lanes, with a gather's or scatter's base
before its lanes. -/
def Obligations.AlignmentTraps : Prop :=
  (∀ (i : Instr) (n : Nat) (addrs : Iss → Ctx → List Nat),
  ((∃ o, (i = .ld o ∨ i = .st o) ∧ n = lmSize o ∧ addrs = fun is x => [lmAddr o x is.k n]) ∨
   (∃ o, (i = .vld o ∨ i = .vst o) ∧ n = 128 ∧ addrs = fun is x => [lmAddr o x is.k n]) ∨
   (∃ o, i = .vlds o ∧ n = lmSize o ∧ addrs = fun is x => vldsAddrs o x is.k) ∨
   (∃ o, (i = .vgth o ∨ i = .vsct o) ∧ n = lgSize o ∧
    addrs = fun _ x => ((rdS x o.a.toNat).toNat % 2 ^ 56) :: (gatherLanes o x).map (·.2)) ∨
   (∃ o, (i = .amo o ∨ i = .cas o ∨ i = .red o) ∧ n = laSize o ∧ addrs = fun _ x => [(rdS x o.a.toNat).toNat]) ∨
   (∃ o, i = .vredm o ∧ n = 128 ∧ addrs = fun _ x => [(rdS x o.a.toNat).toNat]) ∨
   (∃ o, (i = .kld o ∨ i = .kst o) ∧ n = 32 ∧ addrs = fun is x => [kmAddr o x is.k])) →
  ∀ s x s1 x1 a, Issues i s x s1 x1 → unfinished x = false →
    (addrs (issAt i s) x1).find? (fun b => decide (2 ^ 56 ≤ b) || b % n != 0) = some a →
    exec i s = .next (takeTrap s s.cur
      { cause := 6, info := infoB (issAt i s).slot 0 0, addr := BitVec.ofNat 64 (a % 2 ^ 56) } x.pc)) ∧
  (∀ (i : Instr) (r : Nat),
  ((∃ o, i = .jmpr o ∧ r = o.a.toNat) ∨ (∃ o, i = .callr o ∧ r = o.a.toNat) ∨ (i = .ret ∧ r = 63)) →
  ∀ s x s1 x1, Issues i s x s1 x1 → unfinished x = false →
    ((rdS x1 r).extractLsb' 0 3 ≠ 0 ∨ (rdS x1 r).extractLsb' 48 16 ≠ 0) →
    exec i s = .next (takeTrap s s.cur
      { cause := 6, info := infoB 0 1 0, addr := BitVec.ofNat 64 ((rdS x1 r).toNat % 2 ^ 56) } x.pc))

/-! ## BR slot -/

/-- `nop`, the BR slot (03 R90, 04 R138 to R141, R143, R144): every operation completes, acting after its bundle. -/
def Obligations.BranchSlotCompletes : Prop :=
  (YieldsBr (.nop .br) (fun _ => True) (fun _ _ => []) (fun len x t => setPc t x (nextPc x len)) ∧
  ∀ j, j ≠ .br → Yields (.nop j) (fun _ => []) noFlags) ∧
  (let none' := fun (_ : Nat) (_ : Ctx) => ([] : List (RegId × Nat))
  let link := fun (len : Nat) (x : Ctx) => [(RegId.s 63, (x.pc + BitVec.ofNat 48 len).toNat)]
  let good := fun (r : Nat) (x : Ctx) => (rdS x r).extractLsb' 0 3 = 0 ∧ (rdS x r).extractLsb' 48 16 = 0
  let toReg := fun (r : Nat) (_ : Nat) (x : Ctx) (t : State) => setPc t x ((rdS x r).extractLsb' 0 48)
  let toOff := fun (o : BJ) (_ : Nat) (x : Ctx) (t : State) => setPc t x (x.pc + (o.off.signExtend 48 <<< 3))
  (∀ o : BT, YieldsBr (.tree o) (fun _ => True) none' (fun len x t =>
    let leaf := evalTree (treeOf o.shape.toNat) (fun j => rdC x ((testField o j).extractLsb' 0 4).toNat != (testField o j).getLsbD 4)
    let pc := if o.fall.getLsbD (leaf - 1) then x.pc + BitVec.ofNat 48 len else x.pc + BitVec.ofInt 48 (8 * (btOff o leaf).toInt)
    if o.fresh.getLsbD (leaf - 1) then setPc (modCtx t x.id (fun y => { y with sticky := [] })) x pc else setPc t x pc)) ∧
  (∀ o : BJ, YieldsBr (.jmp o) (fun _ => True) none' (toOff o) ∧ YieldsBr (.call o) (fun _ => True) link (toOff o)) ∧
  (∀ o : BG, YieldsBr (.jmpr o) (good o.a.toNat) none' (toReg o.a.toNat) ∧
    YieldsBr (.callr o) (good o.a.toNat) link (toReg o.a.toNat)) ∧
  YieldsBr .ret (good 63) none' (toReg 63) ∧
  YieldsBr .yield (fun _ => True) none' (fun len x t => modCore (setPc t x (x.pc + BitVec.ofNat 48 len)) x.id.cl x.id.core
    (fun y => { y with cur := (x.id.ctx + 1) % 4 }))) ∧
  ((∀ o : BI, YieldsBr (.trap o) (fun x => unfinished x = false) (fun _ _ => []) (fun len x t =>
    takeTrap t x.id { cause := 20, info := o.imm.setWidth 64, addr := 0 } (x.pc + BitVec.ofNat 48 len))) ∧
  YieldsBr .halt (fun _ => True) (fun _ _ => []) (fun _ x t => retire t x.id) ∧
  ∀ t c x, getCtx t c = some x → x.id = c → getCtx (retire t c) c = none)

/-! ## SY slot -/

/-- `give`, `take` and `waits` (07 R239, R240; 13 R427): the owner bits change with the issue; `give` is outstanding until the
gang's accesses to the range are performed; a `waits` that does not block has no effect. The scope of `give` and `take`, and which
commands a `take` waits for, are the model's readings (log 57). -/
def Obligations.OwnersAndWaits : Prop := ∀ o : YF,
  let own := fun (x : Ctx) (e : Bool) (s : State) =>
    setOwners s (ctxKey x.id) x.id.cl x.env.iter x.env.gang (((rdS x o.a.toNat).toNat - mereBase) / 4096) ((o.x.extractLsb' 0 10).toNat + 1) e
  let fits := fun (x : Ctx) s (held : Bool) => (rdS x o.a.toNat).toNat < 2 ^ 56 ∧ (rdS x o.a.toNat).toNat % 4096 = 0 ∧
    mereInside s x (sa o x) (gvN o * 4096) = none ∧ ownedAt s x (gvFirst o x) (gvN o) held = none
  Starts (.give o) (fun _ x s => fits x s true)
    (fun is x s => startOp (own x true s) x is o.ss.toNat o.pm 3 (.give (gvFirst o x) (gvN o)
      (gangAccesses s x (mereBase + gvFirst o x * 4096, gvN o * 4096)))) ∧
  Starts (.take o) (fun _ x s => fits x s false ∧ gangCommands s x (sa o x, gvN o * 4096) = false) (fun _ x s => own x false (passOp s x o.ss.toNat)) ∧
  Yields (.waits o) (fun _ => []) noFlags

/-- When `waits`, `phwait` and `phaw` block, and when they do not (13 R428, R443, R444): a `phwait` of a member that may wait goes on
exactly when its phase has passed and what it follows is performed; a `phaw` that has arrived goes on exactly when the phase it
arrived in is over, which its own arrival ends where it was the last one pending. -/
def Obligations.WaitsAndBlocks : Prop :=
  (∀ (o : YF) (s : State) (x : Ctx) (is : Iss),
  ((opOf (.waits o)).block is s x = some .waits ↔
    ∃ j < 16, (o.a ++ o.b ++ o.x.extractLsb' 10 4 : BitVec 16).getLsbD j = true ∧ (o.x.extractLsb' 0 6).toNat < smGet x.cnt j 0) ∧
  ((opOf (.waits o)).block is s x = none ∨ (opOf (.waits o)).block is s x = some .waits)) ∧
  (∀ (o : YF) (s : State) (x : Ctx) (is : Iss) (m : Member),
  let num := ((rdS x o.a.toNat).extractLsb' 0 12).toNat
  let p := getPh s num
  let ago := (p.phase - (rdS x o.b.toNat).extractLsb' 0 32).toNat
  let wait := (opOf (.phwait o)).block is s x
  let both := (opOf (.phaw o)).block is s x
  phMember p x.id x.env.iter = some m →
  (m.mode = 0 → wait = none) ∧
  (m.mode ≠ 0 → (wait = none ∨ wait = some .phaser) ∧
    (wait = none ↔ 1 ≤ ago ∧ ago ≤ 2 ^ 31 - 1 ∧ (∀ e ∈ x.ops, o.pm.getLsbD e.ss = true → ∃ d, e.done = some d ∧ 3 ≤ d) ∧
      ∀ e ∈ x.ops, ∀ d q, e.kind ≠ .pharr d num q)) ∧
  (both = none ∨ both = some .phaser) ∧
  (m.waiting = true → (both = none ↔ p.phase.toNat ≠ m.waitPhase)) ∧
  (m.waiting = false → (both = none ↔ m.mode ≠ 2 ∨ m.joining = true ∨ m.arrived = true)) ∧
  (m.waiting = false → m.mode = 2 → m.joining = false → m.arrived = false → m.leaving = false → phawMay o x = true → 1 ≤ p.pend →
    ((opOf (.phaw o)).block is ((opOf (.phaw o)).early is s x) x = none ↔ p.pend = 1)))

/-- `phreg` and `phdrop` (13 R438 to R440) of a context that is no member, or is one. That the drop of anonymous members ends no
phase, and what a leaving member counts as, are the model's readings (logs 60, 58). -/
def Obligations.PhaserMembership : Prop := ∀ o : YF,
  let num := fun x => ((rdS x o.a.toNat).extractLsb' 0 12).toNat
  let p := fun s x => getPh s (num x)
  let c := fun x => ((rdS x o.b.toNat).extractLsb' 0 20).toNat
  let d := o.d.toNat
  let wr := fun (_ : Ctx) (v : BitVec 32) => ([(.s d, v.toNat)] : List (RegId × Nat))
  let join := fun (q : Phaser) n => if q.nsig = 0 then { q with nsig := n, pend := q.pend + n, err := false }
    else { q with join := q.join + n, err := false }
  let first := fun (q : Phaser) mode => if mode = 1 ∨ q.nsig = 0 then q.phase else q.phase + 1
  let entry := fun (x : Ctx) (q : Phaser) mode => newMember x mode (first q mode) (decide (mode ≠ 1 ∧ q.nsig ≠ 0))
  (∀ mode, mode < 3 → phMode o = mode →
    let after := fun s x => if mode = 1 then { p s x with err := false } else join (p s x) 1
    YieldsIf (.phreg o) (fun _ x s => phMember (p s x) x.id x.env.iter = none ∧ nodeMembers s (num x / 256) < 4096 ∧
        phFull (after s x) = false)
      (fun _ x s => putPh s (num x) { after s x with members := (p s x).members ++ [entry x (p s x) mode] })
      (fun x s => wr x (first (p s x) mode))) ∧
  (phMode o = 3 → YieldsIf (.phreg o) (fun _ x s => phFull { join (p s x) (c x) with nanon := (p s x).nanon + c x } = false)
    (fun _ x s => putPh s (num x) { join (p s x) (c x) with nanon := (p s x).nanon + c x })
    (fun x s => wr x (first (p s x) 3))) ∧
  (o.x.getLsbD 0 = true → YieldsIf (.phdrop o) (fun _ x s => c x ≤ (p s x).nanon ∧
      phFull { p s x with nanon := (p s x).nanon - c x, leave := (p s x).leave + c x } = false)
    (fun _ x s => putPh s (num x) { p s x with nanon := (p s x).nanon - c x, leave := (p s x).leave + c x })
    (fun x s => wr x (p s x).phase)) ∧
  (o.x.getLsbD 0 = false → YieldsIf (.phdrop o) (fun _ x s => ∃ m, phMember (p s x) x.id x.env.iter = some m ∧ m.leaving = false ∧
      phFull (phDropMember (p s x) m) = false)
    (fun _ x s => match phMember (p s x) x.id x.env.iter with
      | none => s
      | some m => putPh s (num x) (phDropMember (p s x) m))
    (fun x s => wr x (p s x).phase))

/-- The rules of phasers (13 R437 to R441) and of transaction barriers (13 R432 to R434). -/
def Obligations.PhaserAndBarrierRules : Prop :=
  (∀ (p : Phaser) (m : Member),
  (m.mode = 1 → phDropMember p m = phRemove p m.ctx m.iter) ∧
  (m.mode ≠ 1 → m.arrived = true → (phDropMember p m).leave = p.leave + 1 ∧ (phDropMember p m).pend = p.pend ∧
    (phDropMember p m).nsig = p.nsig ∧ (phDropMember p m).phase = p.phase) ∧
  (m.mode ≠ 1 → m.arrived = false → phTakesPart m = false →
    phDropMember p m = phRemove { p with join := p.join - 1 } m.ctx m.iter) ∧
  (m.mode ≠ 1 → m.arrived = false → phTakesPart m = true → 2 ≤ p.pend →
    (phDropMember p m).pend = p.pend - 1 ∧ (phDropMember p m).nsig = p.nsig - 1 ∧ (phDropMember p m).phase = p.phase) ∧
  (m.mode ≠ 1 → m.arrived = false → phTakesPart m = true → p.pend = 1 →
    (phDropMember p m).phase = p.phase + 1 ∧ (phDropMember p m).pend = (p.nsig - 1 + p.join - p.leave) % 2 ^ 20 ∧
    (phDropMember p m).nsig = (p.nsig - 1 + p.join - p.leave) % 2 ^ 20 ∧ (phDropMember p m).join = 0 ∧ (phDropMember p m).leave = 0)) ∧
  (∀ p : Phaser,
  (p.pend ≠ 0 → phDue p = p) ∧
  (p.pend = 0 → (phDue p).phase = p.phase + 1 ∧ (phDue p).nsig = (p.nsig + p.join - p.leave) % 2 ^ 20 ∧ (phDue p).pend = (phDue p).nsig ∧
    (phDue p).join = 0 ∧ (phDue p).leave = 0 ∧ ∀ m ∈ (phDue p).members, m.arrived = false)) ∧
  (∀ b : Barrier,
  (b.sec ≠ 0 → tbDue b = b) ∧
  (b.sec = 0 → b.pld = 0 → b.arr ≠ 0 → tbDue b = b) ∧
  (b.sec = 0 → b.pld = 0 → b.arr = 0 → tbDue b = { b with phase := (b.phase + 1) % 16, arr := b.reload }) ∧
  (b.sec = 0 → b.pld ≠ 0 → b.pld < b.arr → tbDue b = { b with arr := b.arr - b.pld, pld := 0 }) ∧
  (b.sec = 0 → b.pld ≠ 0 → b.arr < b.pld →
    tbDue b = { b with err := true, pld := 0, phase := (b.phase + 1) % 16, arr := b.reload }) ∧
  (b.sec = 0 → b.pld ≠ 0 → b.arr = b.pld → tbDue b = { b with pld := 0, phase := (b.phase + 1) % 16, arr := b.reload }) ∧
  tbArrive b = tbDue (if b.arr = 0 then { b with err := true } else { b with arr := b.arr - 1 }) ∧
  (∀ n pay, tbExpect b n pay = none ↔ 2 ^ 32 - 1 < b.sec + n ∨ (pay = true ∧ b.pld = 2 ^ 20 - 1)) ∧
  (∀ n, (tbFresh n).phase = 0 ∧ (tbFresh n).arr = n ∧ (tbFresh n).reload = n ∧ (tbFresh n).sec = 0 ∧ (tbFresh n).pld = 0 ∧
    (tbFresh n).err = false))

/-- `pharr`, `phwait` and `phaw` (13 R442 to R444). The arrive part of a `phaw` is made at a presentation, even where the bundle then
blocks: the member is marked as waiting for the phase it arrived in, and the arrival counts, the last one pending ending the phase. -/
def Obligations.PhaserArriveWait : Prop := ∀ o : YF,
  let num := fun x => ((rdS x o.a.toNat).extractLsb' 0 12).toNat
  let p := fun s x => getPh s (num x)
  let mine := fun s (x : Ctx) => phMember (p s x) x.id x.env.iter
  Starts (.pharr o) (fun _ x s => ∃ m, mine s x = some m ∧ m.mode ≠ 1 ∧ phTakesPart m = true ∧ m.arrived = false)
    (fun is x s => startLoad (putPh s (num x) (phSet (p s x) { (mine s x).getD default with arrived := true })) x is o.ss.toNat o.pm 3
      (.pharr o.d.toNat (num x) (p s x).phase.toNat) (.s o.d.toNat)) ∧
  YieldsIf (.phwait o) (fun _ x s => ∃ m, mine s x = some m ∧ m.mode ≠ 0)
    (fun _ x s => passOp s x o.ss.toNat) (fun x s => [(.s o.d.toNat, (p s x).phase.toNat)]) ∧
  YieldsIf (.phaw o) (fun _ x s => ∃ m, mine s x = some m ∧ m.waiting = true)
    (fun _ x s => passOp (putPh s (num x) (phSet (p s x) { (mine s x).getD default with waiting := false })) x o.ss.toNat)
    (fun x s => [(.s o.d.toNat, (p s x).phase.toNat)]) ∧
  (∀ (s : State) (x : Ctx) (is : Iss) (m : Member), mine s x = some m → m.waiting = false → m.mode = 2 → m.joining = false →
    m.arrived = false → m.leaving = false → 1 ≤ (p s x).pend →
    let t := (opOf (.phaw o)).early is s x
    (phawMay o x = false → t = s) ∧
    (phawMay o x = true →
      (∃ w, mine t x = some w ∧ w.waiting = true ∧ w.waitPhase = (p s x).phase.toNat ∧ w.mode = 2 ∧
        (w.arrived = true ↔ (p s x).pend ≠ 1)) ∧
      ((p s x).pend ≠ 1 → (p t x).phase = (p s x).phase ∧ (p t x).pend = (p s x).pend - 1 ∧ (p t x).nsig = (p s x).nsig ∧
        (p t x).join = (p s x).join ∧ (p t x).leave = (p s x).leave) ∧
      ((p s x).pend = 1 → (p t x).phase = (p s x).phase + 1 ∧ (p t x).nsig = ((p s x).nsig + (p s x).join - (p s x).leave) % 2 ^ 20 ∧
        (p t x).pend = (p t x).nsig ∧ (p t x).join = 0 ∧ (p t x).leave = 0 ∧ ∀ n ∈ (p t x).members, n.arrived = false) ∧
      (∀ n, n ≠ num x → getPh t n = getPh s n) ∧ t.mem = s.mem ∧ t.clusters = s.clusters))

/-- Barrier instructions at issue (13 R431, R433, R434), in memory that the checks of 13 R431 pass and that is not poisoned. A `tbexp`
and a `tbwait` complete once no operation that they follow is under way (08 R258, R259; for lower slots of their issue log 93). -/
def Obligations.BarrierIssue : Prop := ∀ o : YF,
  let a := fun x => (rdS x o.a.toNat).toNat
  let ok := fun x s w => a x < 2 ^ 56 ∧ a x % 16 = 0 ∧ (tbCheck s x (a x) w).2 = none
  let chk := fun x s w => (tbCheck s x (a x) w).1
  let at_ := fun x s w => reachBarrier (chk x s w) (agentOf x x.lvl) (a x) w
  let n := fun x => ((rdS x o.b.toNat).extractLsb' 0 32).toNat
  let pl := fun x s w => match (at_ x s w).2 with
    | .ok p => p
    | .bad _ => default
  let b := fun x s w => readBarrier (at_ x s w).1 (pl x s w)
  let there := fun x s w => ∃ p, (at_ x s w).2 = .ok p
  Starts (.tbinit o) (fun _ x s => ok x s true)
    (fun is x s => startOp (chk x s true) x is o.ss.toNat o.pm 3 (.tbinit (a x) ((rdS x o.b.toNat).extractLsb' 0 20).toNat)) ∧
  Starts (.tbarr o) (fun _ x s => ok x s true)
    (fun is x s => startLoad (chk x s true) x is o.ss.toNat o.pm 3 (.tbarr o.d.toNat (a x)) (.s o.d.toNat)) ∧
  YieldsIf (.tbexp o) (fun _ x s => ok x s true ∧ there x s true ∧ (tbExpect (b x s true) (n x) (o.x.getLsbD 0)).isSome = true ∧
      hasOp s x.id (tbWaits o (a x)) = false ∧ (o.x.getLsbD 0 = true ∨ n x ≠ 0))
    (fun _ x s => passOp (writeBarrier (publish (at_ x s true).1 x.id x.env.iter o.pm) (pl x s true)
      ((tbExpect (b x s true) (n x) (o.x.getLsbD 0)).getD (b x s true))) x o.ss.toNat)
    (fun x s => [(.s o.d.toNat, (b x s true).phase)]) ∧
  YieldsIf (.tbexp o) (fun _ x s => ok x s true ∧ there x s true ∧ hasOp s x.id (tbWaits o (a x)) = false ∧
      o.x.getLsbD 0 = false ∧ n x = 0)
    (fun _ x s => passOp (at_ x s true).1 x o.ss.toNat) (fun x s => [(.s o.d.toNat, (b x s true).phase)]) ∧
  YieldsIf (.tbwait o) (fun _ x s => ok x s false ∧ there x s false ∧ hasOp s x.id (tbWaits o (a x)) = false)
    (fun _ x s => passOp (at_ x s false).1 x o.ss.toNat)
    (fun x s => [(.s o.d.toNat, (b x s false).phase + 16 * (b x s false).err.toNat)])

/-- Jobs, launches, event records, time and `sleep` (13 R447, R448, R454, R455; 12 R408; 10 R339). -/
def Obligations.JobsLaunchesTime : Prop := ∀ o : YF,
  let a := fun x => (rdS x o.a.toNat).toNat
  let d := o.d.toNat
  let rec' := fun (x : Ctx) => x.events.headD 0
  Starts (.done o) (fun _ x s => hasPosted s x.env.iter = true) (fun _ _ s => s) ∧
  Starts (.done o) (fun _ x s => hasPosted s x.env.iter = false ∧ opsHome s x = true)
    (fun _ x s => postJob (publishIter (markPosted s x.env.iter) x.env.iter) (jobOfCtx x (findIter s x.env.iter))) ∧
  Starts (.done o) (fun _ x s => hasPosted s x.env.iter = false ∧ opsHome s x = false)
    (fun _ x s => markDue s x.env.iter x.id (nextSeq s x.id)) ∧
  Starts (.jraise o) (fun _ x s => hasPosted s x.env.iter = false)
    (fun is x s => startOp s x is o.ss.toNat o.pm 3 (.jraise x.env.jcb (a x % 2 ^ 32))) ∧
  Starts (.launchOn o) (fun _ _ _ => True)
    (fun is x s => startLoad s x is o.ss.toNat o.pm 3 (.launch d (a x % 2 ^ 8) true) (.s d)) ∧
  Starts (.launchOff o) (fun _ _ _ => True)
    (fun is x s => startLoad s x is o.ss.toNat o.pm 3 (.launch d (a x % 2 ^ 8) false) (.s d)) ∧
  YieldsIf (.evrd o) (fun _ _ _ => True)
    (fun _ x s => if o.x.getLsbD 0 || x.events.isEmpty then s else modCtx s x.id (fun y => { y with events := y.events.drop 1 }))
    (fun x _ => [(.s d, ((rec' x).extractLsb' 0 64).toNat), (.s o.b.toNat, ((rec' x).extractLsb' 64 64).toNat)]) ∧
  YieldsIf (.rdtime o) (fun _ _ _ => True) (fun _ _ s => s)
    (fun _ s => [(.s d, s.pkg.devtime.toNat / 2 ^ 16), (.s o.b.toNat, s.pkg.devtime.toNat % 2 ^ 16)]) ∧
  Yields (.sleep o) (fun _ => []) noFlags ∧
  -- A `sleep` blocks until its time; a relative one counts from the first presentation of its bundle.
  (∀ (is : Iss) (s : State) (x : Ctx), (opOf (.sleep o)).block is s x =
    if s.pkg.devtime.toNat / 2 ^ 16 < (if o.x.getLsbD 0 then (a x + x.sleepAt.getD (s.pkg.devtime.toNat / 2 ^ 16)) % 2 ^ 64 else a x)
    then some .sleep else none) ∧
  (∀ (s : State) (x : Ctx), getCtx s s.cur = some x → x.id = s.cur → o.x.getLsbD 0 = true → x.sleepAt = none →
    exec (.sleep o) s = exec (.sleep o) (modCtx s s.cur (fun y => { y with sleepAt := some (s.pkg.devtime.toNat / 2 ^ 16) })))

/-- Control registers (06 R187, R188): `csrr` copies, `csrw`, `csrs` and `csrc` write and give the old value, read as the machine
stands at the start of the issue (03 R84), before what lower slots of the same issue enqueue; where no command of the context that
its queues hold is as late as this issue, and for every register but the wait states, that is the register as it stands. -/
def Obligations.ControlRegisterAccess : Prop := (∀ o : YF,
  let n := yCsr o
  let a := fun x => (rdS x o.a.toNat).toNat
  let d := o.d.toNat
  let old := fun x s => registerOf (asOfIssue s x) x n
  let gives := fun x s => [(RegId.s d, old x s)]
  YieldsIf (.csrr o) (fun _ _ _ => True) (fun _ _ s => s) gives ∧
  YieldsIf (.csrw o) (fun _ _ _ => True) (fun _ x s => setRegister s x n (a x) true) gives ∧
  YieldsIf (.csrs o) (fun _ _ _ => True) (fun _ x s => setRegister s x n (old x s ||| a x) false) gives ∧
  YieldsIf (.csrc o) (fun _ _ _ => True) (fun _ x s => setRegister s x n (old x s &&& (2 ^ 64 - 1 - a x)) false) gives) ∧
  (∀ (s : State) (x : Ctx) (n : Nat),
  (n ∉ [0x040, 0x041, 0x042] ∨ ∀ c ∈ (getCore s x.id.cl x.id.core).mxq ++ (getCore s x.id.cl x.id.core).cpq,
    c.ctx = x.id → c.iter = x.env.iter → c.seq < x.issueSeq.toNat) →
  registerOf (asOfIssue s x) x n = registerOf s x n)

/-- Handle instructions, `purge` and `qflush` (12 R394 to R396, R421; 10 R342): a `qflush` that is no longer held gives the number
of commands it flushed. -/
def Obligations.HandlesPurgesFlushes : Prop := ∀ o : YF,
  let h := (o.a.extractLsb' 0 5).toNat
  let d := o.d.toNat
  let go := fun i code ok (op1 op2 : Ctx → Word) => Starts i (fun _ x s => (rdH x h).getLsbD 63 = true ∧ ok x s)
    (fun is x s => startLoad s x is o.ss.toNat o.pm 3
      (.handle d code (o.x.extractLsb' 0 1).toNat ((rdH x h).extractLsb' 0 12).toNat (op1 x) (op2 x)) (.s d))
  let any := fun (_ : Ctx) (_ : State) => True
  let zero := fun (_ : Ctx) => (0 : Word)
  let core := fun (x : Ctx) => ((rdS x o.a.toNat).extractLsb' 0 3).toNat
  let begun := fun (mx : Bool) (x : Ctx) (s : State) => flushOf (getCore s x.id.cl (core x)) mx x
  let flush := fun i mx => YieldsIf i (fun _ _ _ => True)
    (fun _ x s => match begun mx x s with
      | none => s
      | some f => endFlush x.id.cl (core x) s f)
    (fun x s => [(.s d, match begun mx x s with
      | none => 0
      | some f => f.left.length)])
  go (.hpinOn o) 0x15 any zero zero ∧ go (.hpinOff o) 0x15 any zero zero ∧ go (.hdem o) 0x17 any zero zero ∧
  go (.hevict o) 0x18 any zero zero ∧ go (.hpri o) 0x16 any (fun x => rdS x o.b.toNat) zero ∧
  go (.hmov o) 0x19 (fun x s => hmovAlign o s x = none) (fun x => rdS x o.b.toNat) (fun x => rdS x (o.b.toNat + 1)) ∧
  Starts (.purge o) (fun _ _ _ => True)
    (fun is x s => startLoad s x is o.ss.toNat o.pm 3 (.purge d ((rdS x o.a.toNat).extractLsb' 0 16).toNat) (.s d)) ∧
  flush (.qflushCp o) false ∧ flush (.qflushMx o) true ∧
  -- The begin of a flush: what has not started leaves, what has started is stopped at its next boundary.
  (∀ (s : State) (x : Ctx) (core : Nat) (mx : Bool),
    let y := getCore s x.id.cl core
    let z := getCore (flushBegin s x core mx) x.id.cl core
    (∀ c ∈ y.mxq ++ y.cpq, c.ctx.cl = x.id.cl ∧ c.ctx.core = core ∧ (c.flush.isSome = true → c.started = true)) →
    (y.mxq ++ y.cpq).Pairwise (fun b c => refOf b ≠ refOf c) → flushOf y mx x = none →
    z.mxq = (if mx then y.mxq.filter (fun c => c.started) else y.mxq) ∧
    z.cpq = (if mx then y.cpq else (y.cpq.filter (fun c => c.started)).map (fun c =>
      if c.flush.isNone then { c with flush := some x.id } else c)))

/-! ## Engine commands -/

/-- The commands of the MX slot (09 R280 to R298, 10 R309 to R314): with operands that pass their checks, the command enters
the core's queue with its operands captured, its bank bound to the gang and one issue of the lease used. The upper bounds of the bytes it touches while its list is not read are
the model's choice (log 39), and so is that an `mrel` keeps the lease under a fresh count where no other core waits (log 119). -/
def Obligations.ArrayCommandsAccepted : Prop := (∀ (o : MM) (i : Instr) (list : Bool), (i = .mma o ∧ list = false) ∨ (i = .mmao o ∧ list = true) →
    let ha := fun x => if o.ka = 0 then 0 else hIdx (rdH x o.ha.toNat)
    let hb := fun x => if o.kb = 0 then 0 else hIdx (rdH x o.hb.toNat)
    let la := fun x => if list then rdS x (o.ra.toNat + 1) else 0
    Starts i (fun _ x s => operandTraps s x o.ka o.ra o.ha = [] ∧ operandTraps s x o.kb o.rb o.hb = [] ∧ (la x).toNat % 8 = 0)
      (fun is x s =>
        let s1 := if o.ka = 0 then s else fillEntry s x (ha x)
        mxEnter o.ss o.pm o.acc.toNat is x s (if o.kb = 0 then s1 else fillEntry s1 x (hb x))
          (operandRange s x o.ka o.ra o.ha ++ operandRange s x o.kb o.rb o.hb ++ (if list then [((la x).toNat, listBytes)] else []))
          { baseCmd x is (encodeWord i) o.sg 1 with hidx := ha x, hidxB := hb x, ops := [rdS x o.ra.toNat, rdS x o.rb.toNat, BitVec.ofNat 64 (ha x + hb x * 2 ^ 16), la x] })) ∧
  (∀ o : MC,
    let enter := fun is x s i rs c => mxEnter o.ss o.pm o.acc.toNat is x s s rs { baseCmd x is (encodeWord i) o.sg 1 with ops := c }
    let addr := fun x => bits (rdS x o.ra.toNat).toNat 55 0
    let reg := fun x k => if o.rb = 0 then 0 else rdS x (o.rb.toNat + k)
    Starts (.mzero o) (fun _ _ _ => True) (fun is x s => enter is x s (.mzero o) [] [0, 0, 0, 0]) ∧
    Starts (.mchk o) (fun _ _ _ => True) (fun is x s => enter is x s (.mchk o) [] [0, 0, 0, 0]) ∧
    Starts (.mload o) (fun _ x s => mereChecks s x (addr x) imageBytes = [])
      (fun is x s => enter is x s (.mload o) [(addr x, imageBytes)] [rdS x o.ra.toNat, 0, 0, 0]) ∧
    Starts (.mdrain o) (fun _ x s => mereChecks s x (addr x) (mdBytes o) = [] ∧
        (mdBias o = true → mdBiasAt o x % 128 = 0 ∧ mereInside s x (mdBiasAt o x) 1024 = none))
      (fun is x s => mxEnter o.ss o.pm o.acc.toNat is x s s
        ((addr x, mdBytes o) :: (if mdBias o then [(mdBiasAt o x, 1024)] else []))
        { baseCmd x is (encodeWord (.mdrain o)) o.sg (if mdKs o then 2 else 1) with ops := [rdS x o.ra.toNat, reg x 0, reg x 1, reg x 2], kval := if mdKs o then rdK x (mdK o x) else 0 }) ∧
    Starts (.mrel o) (fun _ _ _ => True) (fun is x s =>
      let s1 := if o.x.getLsbD 0 && (getCl s x.id.cl).lease.holder == some x.id.core then
        modCl s x.id.cl (fun c => { c with lease := if leaseWaiters s x.id.cl x.id.core none then
          { c.lease with holder := none, last := x.id.core } else { c.lease with used := 0, since := s.ran } }) else s
      enqueue s1 x is o.ss o.pm 3 [] false (baseCmd x is (encodeWord (.mrel o)) o.sg 1)))

/-- The copy and fill commands of the CP slot (10 R318 to R330): with a descriptor that passes its checks, the command enters
the core's queue with the descriptor captured after its step. The upper bounds of the bytes it touches while its tile is not read, the
format that a `cpst` is stepped by, and when the limits of a descriptor are looked at, are the model's choices (logs 39, 40, 92). -/
def Obligations.CopyCommandsAccepted : Prop := ∀ o : CD,
  Accepts (.cpy o) o 2 (cpyDesc o)
    (fun s x d => bits d 55 0 % cpyEs d = 0 ∧ bits d 119 64 % cpyEs d = 0 ∧ (∀ v ∈ strides d 256, v % (cpyEs d : Int) = 0) ∧
      (∀ v ∈ strides d 448, v % (cpyEs d : Int) = 0) ∧ cpySide s x d 0 256 = [] ∧ cpySide s x d 64 448 = [])
    (fun _ s x d => cpyRanges s x d) (fun s x d => max (roleScope s x (bits d 63 0)) (roleScope s x (bits d 127 64))) (fun _ => 0) ∧
  (ctMere o = false → AcceptsHandle (.cpyt o) o (cpytDesc o)
    (fun s x d => bits d 55 0 % 4096 = 0 ∧ wordTraps s x (bits d 63 0) (cpyWhole d) = [])
    (fun _ s x d => wordRange s x (bits d 63 0) (cpyWhole d) ++ entryTile s x (cdHandle o) (bits d 95 64))
    (fun s x d => max (roleScope s x (bits d 63 0)) (roleScope s x (bits d 191 128))) (fun _ => 0)) ∧
  (ctMere o = true → Accepts (.cpyt o) o 1 (cpytDesc o)
    (fun s x d => bits d 55 0 % 4096 = 0 ∧ wordTraps s x (bits d 63 0) (cpyWhole d) = [] ∧ bits d 183 128 % 4096 = 0 ∧
      wordTraps s x (bits d 191 128) 4096 = [])
    (fun _ s x d => wordRange s x (bits d 63 0) (cpyWhole d) ++ wordRange s x (bits d 191 128) maxTile)
    (fun s x d => max (roleScope s x (bits d 63 0)) (roleScope s x (bits d 191 128))) (fun _ => 0)) ∧
  AcceptsHandle (.cpst o) o (cpstDesc o)
    (fun s x d => bits d 55 0 % 4096 = 0 ∧ wordTraps s x (bits d 63 0) 4096 = [] ∧ bits d 183 128 % 4 = 0)
    (fun k s x d => wordRange s x (bits d 63 0) maxTile ++ steppedTiles (bits d 55 0) (k * o.st.toInt) ++ entryTile s x (cdHandle o) (bits d 95 64)
      ++ (if bits d 183 128 = 0 then [] else [(bits d 183 128, 4)])) (fun _ _ _ => 3) (fun k => BitVec.ofInt 64 (k * o.st.toInt)) ∧
  Accepts (.cpz o) o 1 (cpzDesc o) (fun s x d => bits d 55 0 % 8 = 0 ∧ wordTraps s x (bits d 63 0) (bits d 104 64) = [])
    (fun _ s x d => wordRange s x (bits d 63 0) (bits d 104 64)) (fun s x d => roleScope s x (bits d 63 0)) (fun _ => 0) ∧
  Accepts (.cpzTile o) o 1 (cpzTileDesc o)
    (fun s x d => bits d 55 0 % 4096 = 0 ∧ wordTraps s x (bits d 63 0) (tileGranules (czFmt o) * 4096) = [])
    (fun _ s x d => wordRange s x (bits d 63 0) (tileGranules (czFmt o) * 4096)) (fun s x d => roleScope s x (bits d 63 0)) (fun _ => 0)

/-- The metadata, scale-out and collective commands of the CP slot (10 R331 to R333, 11 R368 to R370). -/
def Obligations.MetadataAndFabricCommandsAccepted : Prop := ∀ o : CD,
  (∀ i, i = .cpxOut o ∨ i = .cpxIn o → AcceptsHandle i o (cpxDesc o)
    (fun s x d => bits d 55 0 % 128 = 0 ∧ wordTraps s x (bits d 63 0) (bits d 175 128 / 2) = [])
    (fun _ s x d => wordRange s x (bits d 63 0) (bits d 175 128 / 2) ++ (match entryOf s x (cdHandle o) with
      | some e => if e.comp then [(e.metaB + bits d 111 64 / 2, bits d 175 128 / 2)] else []
      | none => [])) (fun s x d => roleScope s x (bits d 63 0)) (fun _ => 0)) ∧
  (∀ i, i = .cpnWr o ∨ i = .cpnRd o → Accepts i o 1 (cpnDesc o) (fun s x d => wordTraps s x (bits d 63 0) (bits d 191 160) = [])
    (fun _ s x d => wordRange s x (bits d 63 0) (bits d 191 160)) (fun _ _ _ => 5) (fun _ => 0)) ∧
  Accepts (.coll o) o 2 (collDesc o)
    (fun s x d => bits d 55 0 % 256 = 0 ∧ bits d 119 64 % 256 = 0 ∧ bits d 183 128 % 4 = 0 ∧ bits d 247 192 % 4 = 0 ∧
      wordTraps s x (bits d 63 0) (collNb d * 256) = [] ∧
      (bits d 191 128 ≠ 0 → wordTraps s x (bits d 191 128) (collNb d * 4) = []))
    (fun _ s x d => wordRange s x (bits d 63 0) (collNb d * 256)
      ++ (if bits d 191 128 = 0 then [] else wordRange s x (bits d 191 128) (collNb d * 4))
      ++ wordRange s x (bits d 127 64) (collNb d * 256)
      ++ (if bits d 255 192 = 0 then [] else wordRange s x (bits d 255 192) (collNb d * 4)))
    (fun s x d => roleScope s x (bits d 127 64)) (fun _ => 0)

/-! ## Exceptions -/

/-- TRAP_ENTRY (06 R197, R208, R211, R213): at U and UH with the groups that ready results are written to saved first and the frame
written, the level entered and the handler's address, the trap
registers, no sticky state and no landings, and every register, flag and control field as the completed results leave them; at
SH, and where the frame cannot be written, the context stops and its work is purged. -/
def Obligations.ExceptionEntry : Prop :=
  (∀ (s s0 s1 : State) (c : CtxId) (x x0 : Ctx) (t : TrapT) (pc : BitVec 48),
  let f := flushPend x0
  let toUser := x.lvl = 0 ∧ (getCore s1 x.id.cl x.id.core).trapRoute.getLsbD t.cause = true ∧ x.uvec ≠ 0
  getCtx s c = some x → x.lvl ≠ 2 → saveGroups s x (groupsOf ((readyPend [] x.pend).map (·.reg))) = some (s0, x0) →
  areaWrite s0 f (frameAddr f (if f.lvl = 0 then 0 else 1))
    (frameImage f pc (issueWord f false) (BitVec.ofNat 64 t.cause) t.info t.addr 0 [] 0 false) areaPages = some s1 →
  ∃ y, takeTrap s c t pc = putCtx s1 y ∧ y.id = x.id ∧
    (toUser → y.lvl = 1 ∧ y.pc = x.uvec.extractLsb' 0 48) ∧
    (¬ toUser → y.lvl = 2 ∧ y.pc = (getCore s1 x.id.cl x.id.core).svec.extractLsb' 0 48) ∧
    y.use0 = (x.use0 || decide (x.lvl = 0)) ∧ y.use1 = (x.use1 || decide (x.lvl = 1)) ∧
    y.cause = BitVec.ofNat 64 t.cause ∧ y.info = t.info ∧ y.taddr = t.addr ∧ y.vsaved = 0 ∧
    y.sticky = [] ∧ y.land = [] ∧ y.rep = none ∧ (∀ r, rdReg y r = rdReg f r) ∧
    y.fpctl = x.fpctl ∧ y.fpflags = x.fpflags ∧ y.streamCfg = x.streamCfg ∧ y.uvec = x.uvec ∧ y.ctxsave = x.ctxsave ∧ y.ops = x.ops) ∧
  (∀ (s : State) (c : CtxId) (x : Ctx) (t : TrapT) (pc : BitVec 48), getCtx s c = some x →
  (x.lvl = 2 → takeTrap s c t pc = purgeWork s x.env.tag x.env.iter 5) ∧
  (x.lvl ≠ 2 → saveGroups s x (groupsOf ((readyPend [] x.pend).map (·.reg))) = none →
    takeTrap s c t pc = purgeWork s x.env.tag x.env.iter 5) ∧
  (∀ s0 x0, let f := flushPend x0
    x.lvl ≠ 2 → saveGroups s x (groupsOf ((readyPend [] x.pend).map (·.reg))) = some (s0, x0) → areaWrite s0 f (frameAddr f (if f.lvl = 0 then 0 else 1))
      (frameImage f pc (issueWord f false) (BitVec.ofNat 64 t.cause) t.info t.addr 0 [] 0 false) areaPages = none →
    takeTrap s c t pc = purgeWork s x.env.tag x.env.iter 5))

/-- The fields of a frame at their offsets (06 R209): the position and the exception registers, ISSUESEQ, the registers, the
streams' counts and last numbers, the sticky records, and the records of the landings that wait (06 R210). -/
def Obligations.ExceptionFrame : Prop := ∀ (x : Ctx) (pc : BitVec 48) (issue : Nat) (cause info addr : Word) (vsaved : Nat),
  let img := frameImage x pc issue cause info addr vsaved [] 0 false
  let kind := fun (l : Landing) => if l.kreg.isSome then (if l.vreg.isSome then 2 else 1) else 0
  x.land.length ≤ 16 →
  img.length = 0x2800 ∧ imgNat img 0 8 = pc.toNat ∧ imgNat img 8 8 = issue % 2 ^ 64 ∧ imgNat img 0x10 8 = cause.toNat ∧
  imgNat img 0x18 8 = info.toNat ∧ imgNat img 0x20 8 = addr.toNat ∧ imgNat img 0x28 8 = (rdCC x).toNat ∧
  imgNat img 0x30 8 = x.fpctl.toNat ∧ imgNat img 0x38 8 = x.fpflags.toNat ∧ imgNat img 0x40 8 = vwinOf x % 2 ^ 64 ∧
  imgNat img 0x48 8 = vsaved % 2 ^ 64 ∧ imgNat img 0x50 8 = x.land.length ∧
  (∀ i < 64, imgNat img (0x80 + 8 * i) 8 = (rdS x i).toNat) ∧ (∀ i < 16, imgNat img (0x280 + 16 * i) 16 = (rdM x i).toNat) ∧
  (∀ i < 32, imgNat img (0x380 + 8 * i) 8 = (rdH x i).toNat) ∧ (∀ i < 64, imgNat img (0x580 + 32 * i) 32 = (rdK x i).toNat) ∧
  imgNat img 0x58 8 = x.issueSeq.toNat ∧
  (∀ i < 16, imgNat img (0x480 + 8 * i) 8 = (smGet x.cnt i 0 + smGet x.lastSeq i 0 * 2 ^ 16) % 2 ^ 64) ∧
  (∀ i < 7, smFind x.sticky (i + 3) = none → imgNat img (0x500 + 16 * i) 16 = 0) ∧
  (∀ i t, i < 7 → smFind x.sticky (i + 3) = some t → imgNat img (0x500 + 16 * i) 8 = t.word.toNat ∧
    imgNat img (0x508 + 16 * i) 8 = (t.k % (2 ^ 32 : Nat)).toNat + 2 ^ 32) ∧
  (∀ i l, x.land[i]? = some l →
    imgNat img (0xD80 + 192 * i) 8 = (1 + l.poison.toNat * 2 + kind l * 4 + l.vreg.getD 0 * 2 ^ 4 + l.kreg.getD 0 * 2 ^ 14
      + (l.vis + 1 - x.pos) * 2 ^ 20) % 2 ^ 64 ∧
    imgNat img (0xD90 + 192 * i) 128 = l.vval.toNat ∧ imgNat img (0xE10 + 192 * i) 32 = l.kval.toNat)

/-- The return from an exception (06 R212), to U and to UH: with a frame that passes its checks the registers, flags and position
are as the frame holds them, the level is the one before the entry and the slot's use bit is clear; UH gets the exception
registers of its own frame back; a frame that fails a check raises ILLEGAL_OP sub-cause 15 at the field. `eret` completes
(04 R142): its bundle issues, and the return acts on the context that the issue leaves; where the bundle's own accesses to the
save area are still to be performed the return waits for them. That results of the handler's loads still to come are dropped
(`z.pend = []`) is the model's choice (log 95). -/
def Obligations.ExceptionReturn : Prop :=
  (∀ (s s1 : State) (x : Ctx) (img : List Byte),
  let j := eretSlot x
  let fa := frameAddr x j
  areaRead s x x.lvl fa 0x2800 areaPages = (s1, .inl img) →
  (∀ off, frameCheck x img j = some off → returnTrap s x = .trap { cause := 2, sub := 15, reg := 0, addr := fa + off }) ∧
  (∀ s2 y, frameCheck x img j = none → reloadGroups s1 x fa = (s2, .inl y) →
    let back := fun (z : Ctx) =>
      z.id = y.id ∧ z.lvl = bits (imgNat img 8 8) 13 12 ∧ z.pc = BitVec.ofNat 48 (imgNat img 0 6) &&& 0xFFFF_FFFF_FFF8 ∧
      z.pend = [] ∧ (∀ i, 0 < i → i < 64 → (rdS z i).toNat = imgNat img (0x80 + 8 * i) 8) ∧
      (∀ i, 0 < i → i < 16 → (rdM z i).toNat = imgNat img (0x280 + 16 * i) 16) ∧
      (∀ i < 32, rdH z i = BitVec.ofNat 64 (imgNat img (0x380 + 8 * i) 8) &&& 0x8000_0000_0000_0FFF) ∧
      (∀ i < 64, (rdK z i).toNat = imgNat img (0x580 + 32 * i) 32) ∧ (∀ i, rdV z i = rdV y i) ∧
      z.fpctl = BitVec.ofNat 64 (imgNat img 0x30 8) &&& 0x3FFF ∧ z.fpflags = BitVec.ofNat 6 (imgNat img 0x38 1) ∧
      z.use0 = (if j = 0 then false else y.use0) ∧ z.use1 = (if j = 1 then false else y.use1) ∧ z.ops = y.ops ∧ z.status = .ready
    (bits (imgNat img 8 8) 13 12 = 0 → ∃ z, returnTrap s x = .ok (putCtx s2 z) ∧ back z ∧
      z.vsaved = 0 ∧ z.cause = 0 ∧ z.info = 0 ∧ z.taddr = 0) ∧
    (∀ s3 im0, bits (imgNat img 8 8) 13 12 = 1 → areaRead s2 x x.lvl (frameAddr x 0) 0x50 areaPages = (s3, .inl im0) →
      ∃ z, returnTrap s x = .ok (putCtx s3 z) ∧ back z ∧ z.vsaved = BitVec.ofNat 16 (imgNat im0 0x48 2) ∧
        z.cause = BitVec.ofNat 64 (bits (imgNat im0 0x10 8) 5 0) ∧ z.info = BitVec.ofNat 64 (imgNat im0 0x18 8) ∧
        z.taddr = BitVec.ofNat 64 (imgNat im0 0x20 8)))) ∧
  (∀ (s s1 : State) (x x1 : Ctx), Issues .eret s x s1 x1 →
  ∃ t, Wrote .eret s (putCtx s1 x1) x1 [] 0 t ∧
    ∀ y u, getCtx t s.cur = some y → returnTrap t y = .ok u → exec .eret s = .next u) ∧
  (∀ (s u : State) (x : Ctx), x.trapWait = none → x.eretWait = true →
  let y := { x with eretWait := false }
  let touches := fun (o : MemOp) => ∃ p ∈ opRanges o.kind, ∃ q ∈ eretAreas x, p.1 < q.1 + q.2 ∧ q.1 < p.1 + p.2
  ((∃ o ∈ x.ops, touches o) → presentation s x = .hold s) ∧
  ((¬ ∃ o ∈ x.ops, touches o) → returnTrap (putCtx s y) y = .ok u → presentation s x = .act u))

/-- ILLEGAL_OP and PRIV at decode (03 R106, 06 R186, R202): a trap of class B at the operation's slot, held while an interlocked
result is still to come (04 R121). -/
def Obligations.DecodeTraps : Prop := ∀ (i : Instr) (s : State) (x : Ctx), (slotOpOf i).isSome = true →
  getCtx s s.cur = some x → x.id = s.cur →
  let traps := fun cause sub reg =>
    exec i s = .next (if x.lvl < 2 ∧ unfinished x = true then s else
      takeTrap s s.cur { cause := cause, info := infoB (slotFor i s.iss.slot) sub reg, addr := 0 } x.pc)
  (∀ sub, illegal i = some sub → traps 2 sub 0) ∧
  (illegal i = none → (opOf i).illReg (issAt i s) s (settled x) = none → (opOf i).absent (issAt i s) s (settled x) = none →
    (i = .eret → x.lvl = 0 → traps 4 0 0) ∧
    (∀ o, i = .purge o ∨ i = .qflushCp o ∨ i = .qflushMx o → x.lvl < 2 → traps 4 0 0) ∧
    (∀ o, i = .csrr o → x.lvl < 2 → csrHidden (yCsr o) = true → traps 4 1 (yCsr o)) ∧
    (∀ o, i = .csrw o ∨ i = .csrs o ∨ i = .csrc o → x.lvl < 2 → csrHidden (yCsr o) = true ∨ csrUser (yCsr o) = false →
      traps 4 2 (yCsr o)))

/-! ## Steps of a core -/

/-- A slot operation on its own is the presentation of a bundle that holds it alone (03 R83, 06 R205); PRESENT_BUNDLE leaves the
machine where the presentation of the bundle at the program counter does (01 R29, R30); and a bundle of one operation outside BR,
with no sticky state before it, issues that operation alone, at step count 0, and passes on to the next bundle (04 R116). -/
def Obligations.PresentationRunsOperations : Prop :=
  (∀ (i : Instr) (s : State) (x : Ctx), (slotOpOf i).isSome = true →
  getCtx s s.cur = some x → exec i s = .next (presented x (present s x (issueOf i (opOf i) s x false)))) ∧
  (∀ (cl core : Nat) (s s1 : State) (x : Ctx) (h : Word) (ws : List Word) (b : Bundle),
  pickCtx s cl core = some x → x.joined = false → x.trapWait = none → x.eretWait = false →
  fetchBundle (runs s x) x = (s1, .inl (h, ws)) → decodeBundle h ws = .inl b → treeHeld x b = false →
  exec (.presentBundle cl core) s = .next (presented x (present s1 x (bundleIssue x { bundle := b, bad := none })))) ∧
  (∀ (x : Ctx) (b : Bundle) (d : SlotDec),
  x.rep = none → x.sticky = [] → b.ops = [d] → b.rep = 0 → b.pres.getLsbD 0 = false → d.slot ≠ 0 → d.tag = 0 →
  (∀ o, d.op ≠ .tree o) →
  let o : IssOp := { slot := d.slot, k := 0, word := d.word, so := opOf d.op }
  (fun a => (a.bad, a.named, a.exec, a.len, a.sticky, a.rep, a.last, a.advance)) (bundleIssue x { bundle := b, bad := none })
    = (none, [o], [o], 8 * b.words, stickyAfter [] d.slot d.word 0, none, true, true))

/-- Blocks that clear, results that come and landings (01 R30, 03 R93, R94, 13 R455), at U and in handlers, where the vector
groups to be written are saved first (06 R211, R213): of two results in flight to one register, the
one issued later is written last, once the earlier one has come. -/
def Obligations.WakesAndResults : Prop :=
  (∀ (c : CtxId) (s : State) (x : Ctx), getCtx s c = some x →
  (blockedOn x ≠ [] → sleeping x = false → awaitsMatch s c.cl c.core = false → unblocked s x = true →
    exec (.blockClears c) s = .next (putCtx s { x with status := .ready })) ∧
  (sleeping x = true → awaitsMatch s c.cl c.core = false → unblocked s x = true → exec (.sleepWake c) s = .next (putCtx s { x with status := .ready })) ∧
  (readyPend [] x.pend ≠ [] →
    let gs := groupsOf ((readyPend [] x.pend).map (·.reg))
    (saveGroups s x gs = none → exec (.interlockedWrite c) s = .next (purgeWork s x.env.tag x.env.iter 5)) ∧
    (∀ s1 x1, saveGroups s x gs = some (s1, x1) →
      ∃ y, exec (.interlockedWrite c) s = .next (putCtx s1 y) ∧ y.id = x.id ∧ y.pend = waitingPend [] x.pend ∧
        (∀ r, rdReg y r = regAfter ((readyPend [] x.pend).map (fun p => (p.reg, p.val.getD 0))) x r) ∧
        y.ops = x.ops ∧ y.pc = x.pc ∧ y.fpflags = x.fpflags ∧ y.vsaved = x1.vsaved)) ∧
  ((∃ l ∈ x.land, landsAt x.pos l = true) → (∀ l ∈ x.land, l.vis ≤ x.pos → l.wait = none) →
    let due := x.land.filter (landsAt x.pos)
    let gs := groupsOf (due.filterMap (fun l => l.vreg.map RegId.v))
    (saveGroups s x gs = none → exec (.landing c) s = .next (purgeWork s x.env.tag x.env.iter 5)) ∧
    (∀ s1 x1, saveGroups s x gs = some (s1, x1) →
      ∃ y, exec (.landing c) s = .next (putCtx s1 y) ∧ y.id = x.id ∧ y.land = x.land.filter (fun l => !landsAt x.pos l) ∧
        (∀ r, rdReg y r = regAfter (due.flatMap (fun l =>
          (l.vreg.map (fun n => (RegId.v n, l.vval.toNat))).toList ++ (l.kreg.map (fun n => (RegId.k n, l.kval.toNat))).toList)) x r) ∧
        y.ops = x.ops ∧ y.pc = x.pc ∧ y.fpflags = x.fpflags ∧ y.vsaved = x1.vsaved)) ∧
  (∀ gs, (x.lvl = 0 ∨ ∀ g ∈ gs, x.vsaved.getLsbD g = true) → saveGroups s x gs = some (s, x)) ∧
  (∀ g s1 s2, x.lvl ≠ 0 → x.vsaved.getLsbD g = false →
    let fa := frameAddr x (if x.lvl = 2 ∧ x.use1 = true then 1 else 0)
    let vs := x.vsaved ||| (1#16 <<< g)
    areaWrite s x (fa + 0x2800 + 8192 * g) ((List.range 64).flatMap (fun i => natLe 128 (rdV x (64 * g + i)).toNat)) areaPages = some s1 →
    areaWrite s1 x (fa + 0x48) (natLe 8 vs.toNat) areaPages = some s2 → saveGroups s x [g] = some (s2, { x with vsaved := vs }))) ∧
    (∀ (x : Ctx) (r : RegId) (p q : Pend), x.pend = [p, q] → p.reg = r → q.reg = r → discards r = false →
  (p.val = none → (flushPend x).pend = [p, q] ∧ heldOn (flushPend x) [r] = true) ∧
  (∀ v w, p.val = some v → q.val = some w → (flushPend x).pend = [] ∧ rdReg (flushPend x) r = rdReg (wrReg x r w) r))

/-- The limit traps and the event of a long wait (06 R200, R202, R205; 09 R284), for the reasons w that a presentation of the
blocked bundle still finds: the trap names the slot that waits, and for FIFO_TIMEOUT the FIFO; of several limits that have passed,
LEASE_TIMEOUT comes first and WATCHDOG last. On a joined pair the trap first waits for the match of the signatures (06 R207). -/
def Obligations.LimitTraps : Prop := ∀ (c : CtxId) (s u : State) (x : Ctx) (w : List (Nat × BlockWhy)), getCtx s c = some x → x.id = c →
  blockedOn x ≠ [] → presentation s x = .blocked u w →
  let y := getCore s x.id.cl x.id.core
  let z := { x with status := .blocked w }
  let traps := fun e cause slot reg =>
    exec e s = .next (takeTrap s c { cause := cause, info := infoB slot 0 reg, addr := 0 } x.pc)
  let past := fun n limit => limit ≠ 0 ∧ limit < n
  let lease := ∃ p, onLease z = some p ∧ past x.leaseFor ((getCl s x.id.cl).leaseMax.toNat % 2 ^ 32)
  let fifo := ∃ p, onFifo z = some p ∧ past x.fifoFor (y.fifoMax.toNat % 2 ^ 32)
  (x.lvl < 2 → unfinished x = false → x.joined = true → awaitsMatch s c.cl c.core = false →
    ∀ t, limitFor s z = some t → ∃ e ∈ [Instr.leaseTimeout c, Instr.fifoTimeout c, Instr.watchdog c], exec e s = .next (awaitMatch s x)) ∧
  (x.lvl < 2 → unfinished x = false → x.joined = false →
    (∀ p, onLease z = some p → past x.leaseFor ((getCl s x.id.cl).leaseMax.toNat % 2 ^ 32) → traps (.leaseTimeout c) 16 p.1 0) ∧
    (∀ p, onFifo z = some p → sleeping z = false → past x.fifoFor (y.fifoMax.toNat % 2 ^ 32) → ¬ lease → traps (.fifoTimeout c) 18 p.1 p.2) ∧
    (∀ p rest, w = p :: rest → sleeping z = false → past x.blockedFor (y.wdog.toNat % 2 ^ 48) → ¬ fifo → ¬ lease →
      traps (.watchdog c) 19 p.1 0)) ∧
  (∀ slot bank, onLease z = some (slot, bank) → 16384 < x.leaseFor → x.leaseNoted = false →
    exec (.leaseWaitEvent c) s = .next (putCtx s (queueEvent { x with leaseNoted := true }
      (eventRec 6 slot 0 x.id.ctx x.pc (((getCl s x.id.cl).lease.holder.getD 0) + (bank.getD 0) * 8)))))

/-- Joined pairs (06 R201, R215, R216): equal signatures let the issue take effect; unequal ones discard it, and the third
of one issue with no match between takes the pair out of service and purges the work; a pair changes its mode once idle. -/
def Obligations.PairSteps : Prop := ∀ (s : State) (cl pair : Nat),
  let q := getPair s cl pair
  (∀ n x, q.unmatched = some n → getCtx s { cl := cl, core := 2 * pair, ctx := n } = some x →
    let u := modPair s cl pair (fun r => { r with unmatched := none, mismatches := 0, missAt := none })
    let k := if q.missAt = some (n, x.env.iter, x.pos) then q.mismatches + 1 else 1
    (dueLimit u x = none → x.status ≠ .stopped →
      exec (.signatureMatch cl pair true) s = .next (presented x (presentation u x))) ∧
    (∀ t, dueLimit u x = some t → exec (.signatureMatch cl pair true) s =
      .next (takeTrap u x.id { cause := t.1, info := infoB t.2.1 0 t.2.2, addr := 0 } x.pc)) ∧
    (x.id.ctx = n → k < 3 → x.status ≠ .stopped → exec (.signatureMatch cl pair false) s = .next (modPair (incPair s) cl pair (fun r =>
      { r with unmatched := none, mismatches := k, missAt := some (n, x.env.iter, x.pos) }))) ∧
    (x.id.ctx = n → 3 ≤ k → exec (.signatureMatch cl pair false) s = .next (purgeWork (modPair (incPair s) cl pair (fun r =>
      { r with unmatched := none, mismatches := 0, missAt := none, dis := true })) x.env.tag x.env.iter 6))) ∧
  (q.pend = true → (∀ p ∈ s.ctxs, ¬ (p.2.id.cl = cl ∧ p.2.id.core / 2 = pair)) →
    exec (.pairModeChange cl pair) s = .next (recheckTasks (modPair s cl pair (fun r => { r with cur := r.req, pend := false }))))

/-! ## Spring and the nest walkers -/

/-- Launch runs (12 R402 to R404, R409): where a start or a slot is due, one that is due fires; a start is rejected for a poisoned
entry, a misaligned base, unreadable task records or bad masks, and the host is told; an accepted one sets act, disarms what is
not periodic, captures its tasks with their words, writes their job control blocks and joins the launch runs; a run whose tasks have all completed, or
that was rejected and has nothing running, ends. Notice 2 with tag 0 for a poisoned entry is the model's choice (log 67). -/
def Obligations.LaunchRuns : Prop :=
  (∀ s : State,
  ((∃ e < 256, startDue s e = true) → ∃ e < 256, startDue s e = true ∧ (startDue s s.which = true → s.which < 256 → e = s.which) ∧
    exec .launchStart s = .next (compared (startEntry (modSpring s (fun p => { p with deferred := p.deferred.filter (fun x => x != e) })) e) 2)) ∧
  ((∃ e < 256, (slotPassed s e).isSome = true) → ∃ e k m, e < 256 ∧ slotPassed s e = some (k, m) ∧
    exec .timeSlot s = .next (fireSlot (compared s 2) e k m))) ∧
  (∀ (s s1 : State) (e : Nat) (ws : List Word),
  (readEntry s e = (s1, none) → startEntry s e = postNotice (setCtl s1 e 0 false) 2 0 e) ∧
  (readEntry s e = (s1, some ws) → badBases ws = true → startEntry s e = postNotice (setCtl s1 e 0 false) 2 (entryTag ws) e) ∧
  (∀ s2, readEntry s e = (s1, some ws) → readTasks s1 ws 0 (entryTasks ws) = (s2, none) →
    ∃ u, startEntry s e = postNotice (setCtl u e 0 false) 2 (entryTag ws) e ∧ (u = s1 ∨ u = s2)) ∧
  (∀ s2 recs, readEntry s e = (s1, some ws) → readTasks s1 ws 0 (entryTasks ws) = (s2, some recs) →
    badMasks (recs.map depMask) = true → ∃ u, startEntry s e = postNotice (setCtl u e 0 false) 2 (entryTag ws) e ∧ (u = s1 ∨ u = s2)) ∧
  (∀ s2 recs, readEntry s e = (s1, some ws) → bits (wordN ws 0) 4 3 ≠ 3 → bits (wordN ws 0) 6 5 ≠ 3 → badBases ws = false →
    readTasks s1 ws 0 (entryTasks ws) = (s2, some recs) → badMasks (recs.map depMask) = false →
    let trig := bits (wordN ws 0) 4 3
    let c := captureTasks s2 ws 0 recs
    let i : Inst := { entry := e, words := ws, tag := BitVec.ofNat 16 (entryTag ws), prio := bits (wordN ws 0) 9 7, tasks := c.2,
                      rejected := false, purged := false }
    let s3 := setCtl c.1 e 1 true
    let s4 := if trig = 2 ∧ wordN ws 1 ≠ 0 then s3 else setCtl s3 e 0 false
    let s5 := if trig = 1 then setLaunchWord s4 e 3 (launchWord s4 e 3 / 2 ^ 16 * 2 ^ 16 + bits (launchWord s4 e 3) 31 16) else s4
    let s6 := c.2.foldl (fun u p => writeJcb u i p.1 p.2 0 0) s5
    startEntry s e = modDev (modSpring s6 (fun p => { p with insts := p.insts ++ [i] })) (fun d => { d with launched := true }))) ∧
  (∀ (s : State) (ws : List Word) (t : Nat) (recs : List (List Word)),
  let m := (captureTasks s ws t recs).2
  m.length = recs.length ∧ ∀ n r, recs[n]? = some r → ∃ k, m[n]? = some (t + n, k) ∧ k.words = r ∧ k.state = .idle ∧
    k.bindOk = k.roles.isSome ∧ k.next = 0 ∧ k.jcb = bits (wordN ws 9) 55 6 * 64 + 64 * (t + n)) ∧
  (∀ (s : State) (e b j : Nat) (v : Bool), s.mem.wf = true → e < 256 → b < 64 → j < 64 →
    (launchWord (setCtl s e b v) e 0).testBit j = if j = b then v else (launchWord s e 0).testBit j) ∧
  (∀ (s : State) (i : Inst) (t n st : Nat) (k : Task),
  let put := fun (u : State) (off w : Nat) => sharedWrite u (instAsn i) (instRoot i) (k.jcb + off) w
  let after := ((i.tasks.filter (fun p => (bits (wordN p.2.words 9) 15 0).testBit t)).map (fun p => 2 ^ p.1)).sum
  writeJcb s i t k n st = put (put (put (put s 0 n) 8 0) 0x10 (st + t * 2 ^ 4 + after * 2 ^ 16)) 0x28 0) ∧
  (∀ s : State, (∃ i ∈ s.spring.insts, instEnded s i = true) →
  ∃ e i, findInst s e = some i ∧ (∃ j ∈ s.spring.insts, instEnded s j = true ∧ j.entry = e) ∧
    exec .instanceComplete s = .next (endInst s i))

/-- RELEASE_TASK (01 R19 to R21, R26): the tasks of a launch run whose dependences have completed are released in one step, each to
the walker of its clusters' quarter with its job control block written, or rejected. -/
def Obligations.TaskReleased : Prop :=
  (∀ (e t : Nat) (s : State) (i : Inst) (k : Task),
  getTask s e t = some (i, k) → k.state = .idle → i.rejected = false → depsDone i (depMask k.words) = true →
  exec (.releaseTask e t) s = .next ((i.tasks.filter (fun p => decide (p.2.state = .idle) && depsDone i (depMask p.2.words))).foldl
    (fun u p => releaseOne u i p.1 p.2) s)) ∧
  (∀ (t : Nat) (s : State) (i : Inst) (k : Task),
  let bad := k.bindOk = false ∨ badRecord i k.words = true ∨ badBinding s (k.roles.getD []) = true ∨ couldHold s i t k = false
  (bad → releaseOne s i t k = rejectTask s i t k) ∧
  (¬ bad → releaseOne s i t k = putTask (writeJcb s i t k (iterCount k.words) 1) i.entry t
    { k with state := .released, walker := quarter ((eligible (k.roles.getD [])).headD 0), order := nextOrder s }))

/-- PLACE_ITERATION, PLACEMENT_COMPLETE and COMPLETION_POST (01 R22 to R28, R35, R36; 13 R446). -/
def Obligations.IterationLife : Prop := ∀ (s : State),
  (∀ e t i k s1 gs, getTask s e t = some (i, k) → walkerChoice s k.walker = some (e, t) →
    (∀ v ∈ preemptedOf s e t, resumable s v = false) → placementOf s i t k = (s1, gs) →
    let w := wantOf s i t k
    let u := putTask (addGangs s1 w gs) i.entry t { k with next := w.ord + 1, scan := (gs.getLast?).map (·.cl) }
    exec (.placeIteration e t) s = .next (if (reserved s i.entry t).length + gs.length = shGangs k.words then takeTurn u i.entry t else u)) ∧
  (∀ id i, findIterId s id = some i → i.state = .filling → i.placedAt + i.fillLeft ≤ s.ran →
    ∃ u, exec (.placementComplete id) s = .next u ∧ u.ctxs = (startCtxs s i.uid).ctxs ∧
      u.spring = (modIter s i.uid (fun j => { j with state := .running })).spring ∧
      u.mem.hbm = s.mem.hbm ∧ u.mem.carved = s.mem.carved ∧ u.pkg = s.pkg ∧ u.dev = s.dev) ∧
  (∀ id i c q, findIterId s id = some i → i.postDue = some (c, q) → i.state ≠ .preempted →
    (∀ x, getOwner s c i.uid = some x → ∀ o ∈ x.ops, q ≤ o.seq) →
    exec (.completionPost id) s = .next (postJob (publishIter (modIter s i.uid (fun j => { j with postDue := none })) i.uid) (jobOfIter s i))) ∧
  (∀ id i, findIterId s id = some i → i.postDue = none → i.state = .running → (∀ x ∈ allCtxs s, x.env.iter ≠ i.uid) →
    (∀ x ∈ s.ghosts, x.env.iter = i.uid → drained x = true) →
    ∃ u, exec (.completionPost id) s = .next u ∧ (∀ j ∈ u.spring.iters, j.uid ≠ i.uid) ∧ (∀ x ∈ u.ghosts, x.env.iter ≠ i.uid) ∧
      (i.posted = true → u.mem = s.mem ∧ u.dev = s.dev))

/-- Pre-emption (01 R41 to R45): the frames of a stopped iteration whose operations have drained are closed; else the victim stops;
an iteration that does not drain in time is purged; the first that fits resumes at its task's turn. The victim runs, has a lower
launch priority than the task, lies on a cluster of its binding, and none such has a lower priority. -/
def Obligations.PreemptionSteps : Prop :=
  (∀ (s : State) (e t : Nat),
  (∀ i, s.spring.iters.find? (mayClose s) = some i → exec (.preempt e t) s = .next (closeIter s i)) ∧
  (∀ i k v, (∀ j ∈ s.spring.iters, mayClose s j = false) → getTask s e t = some (i, k) → wantsRoom s i t k = true →
    victimOf s i k = some v → exec (.preempt e t) s = .next (stopIter s v)) ∧
  (∀ id i, findIterId s id = some i → i.state = .stopping → i.lost = true → exec (.preemptDrainTimeout id) s = .next (purgeWork s i.tag i.uid 4)) ∧
  (∀ id i n k, findIterId s id = some i → getTask s i.id.entry i.id.task = some (n, k) →
    (preemptedOf s i.id.entry i.id.task).find? (resumable s) = some i →
    (k.state ≠ .released ∨ walkerChoice s k.walker = some (i.id.entry, i.id.task)) →
    exec (.resumeIteration id) s = .next (resumeIter s i n))) ∧
  (∀ (s : State) (i : Inst) (k : Task) (v : Iter), victimOf s i k = some v →
  let could := fun (u : Iter) => u.state = .running ∧ u.prio < i.prio ∧ ∃ g ∈ u.gangs, g.cl ∈ eligible (k.roles.getD [])
  v ∈ s.spring.iters ∧ could v ∧ ∀ u ∈ s.spring.iters, could u → v.prio ≤ u.prio)

/-! ## The systolic array -/

/-- The lease, the array queue and the start of commands (09 R282, R283, R285; 10 R311). The order in which the queues pass their
commands on, and what an `mmao` holds back before its list is known, are the model's choices (logs 39, 41). -/
def Obligations.LeaseAndArrayStart : Prop := ∀ (cl : Nat) (s : State),
  let y := getCl s cl
  (∀ k c, y.lease.holder = none → leaseChoice s cl = some (k, c) → exec (.leaseGrant cl) s =
    .next (modCl s cl (fun x => { x with lease := { holder := some k, used := 0, since := s.ran, last := x.lease.last, cls := c } }))) ∧
  (∀ k, y.lease.holder = some k → leaseOver s cl = true → leaseWaiters s cl k none = true → exec (.leaseEnd cl) s =
    .next (modCl s cl (fun x => { x with lease := { x.lease with holder := none, last := k } }))) ∧
  (∀ c, oldestCmd (mxHeads s cl) = some c → arrEntries s cl + c.entries ≤ 64 → exec (.mxQueueTransfer cl) s =
    .next (modCl (putCmd s { c with inArr := true }) cl (fun x => { x with arrq := x.arrq ++ [refOf c] }))) ∧
  (∀ r rest c x, y.running = none → retiresNow s cl = false → y.arrq = r :: rest → findCmd s r = some c → cmdOwner s c = some x →
    iterStopping s c.iter = false → arrayHold s (listNarrowed s x c) c = .free →
    (exec (.arrayCommandStart cl) s =
      .next (compared (modCl (putCmd (narrowList s x c) { c with started := true, waitOk := true }) cl (fun z =>
        { z with arrq := rest, running := some r })) 0 |> (compared · 3))) ∧
    ((∀ o, cmdInstr c ≠ some (.mmao o)) → listNarrowed s x c = x ∧ narrowList s x c = s))

/-- The effects and the end of array commands (09 R286, R291 to R298): the command that runs ends with the bank or the bytes as its
own rule gives them, its completion or its failure delivered, and the array free. A product runs the 8 K steps of its operands
over the bank's values, each element by itself, and stops at the step of a poisoned one (09 R299); an image gives a bank its elements,
lanes and ksteps; a drain writes the image of the checked bank's values, each through the epilogue. TRAP_ADDR 0 for a poisoned
bank is the model's choice (log 45). ROW_RETIRE (09 R306 to R308): a marked row leaves service, onto a free spare, or into halves
once every bank is free. -/
def Obligations.ArrayCommandEnds : Prop :=
  (∀ (cl : Nat) (s : State) (r : CmdRef) (c : Cmd) (x : Ctx),
  (getCl s cl).running = some r → findCmd s r = some c → cmdOwner s c = some x → c.awaiting = [] →
  let ends := fun t out => exec (.arrayCommandComplete cl) s = .next (modCl (finishCmd t c out) cl (fun y => { y with running := none }))
  let op := fun i => (c.ops.getD i 0).toNat
  let bank := fun (t : State) b => getBank t x.id.cl b
  (∀ k a, c.failed = some (k, a) → ends s (some (k, a.toNat))) ∧
  (c.failed = none →
    (∀ o, cmdInstr c = some (.mzero o) → ends (putBank s x.id.cl o.acc.toNat { Bank.free with bound := (bank s o.acc.toNat).bound }) none) ∧
    (∀ o, cmdInstr c = some (.mrel o) → ends ((relBanks o).foldl (fun t b =>
      if (bank t b).bound = some (gangKey x) then
        putBank t x.id.cl b (if c.keep.contains b then freshBank (gangKey x) else Bank.free) else t) s) none) ∧
    (∀ o, cmdInstr c = some (.mchk o) ∨ cmdInstr c = some (.mdrain o) → (bank s o.acc.toNat).poison = true → ends s (some (10, 0))) ∧
    (∀ o, cmdInstr c = some (.mchk o) → (bank s o.acc.toNat).poison = false → ∀ s1 d, checkBank s x c o.acc.toNat = (s1, d) →
      ends s1 (d.map (fun v => (15, v)))) ∧
    (∀ o, cmdInstr c = some (.mma o) ∨ cmdInstr c = some (.mmao o) → (bank s o.acc.toNat).poison = true → ends s (some (10, 0))) ∧
    (∀ o a b pa pb l s1 s2 s3, (bank s o.acc.toNat).poison = false →
      readOpnd s x c o.ka (op 0) c.hidx = (s1, .ok a pa) → readOpnd s1 x c o.kb (op 1) c.hidxB = (s2, .ok b pb) →
      (cmdInstr c = some (.mma o) ∧ l = [] ∧ s3 = s2) ∨ (cmdInstr c = some (.mmao o) ∧ readList s2 x c (op 3) = (s3, .ok l)) →
      let bk := bank s3 o.acc.toNat
      let after := fun (n : Nat) => { bankPut bk (runSteps a b l n (bankVals bk)) with ksteps := bk.ksteps + BitVec.ofNat 48 n }
      (pa = [] → pb = [] → ends (putBank s3 x.id.cl o.acc.toNat (after 8)) none) ∧
      (∀ n t, stopStep (pa ++ pb) = some (n, t) → ends (putBank s3 x.id.cl o.acc.toNat
        { (if n = 0 then bk else after n) with poison := true }) (some (10, t)))) ∧
    (∀ o s1 g, cmdInstr c = some (.mload o) → readRange s x c 0 (bits (op 0) 55 0) 0x42000 = (s1, g) → g.wait = none → g.bads = [] →
      imgNat g.bs 0x41008 1 = 0xA6 → ends (putBank s1 x.id.cl o.acc.toNat (bankOfImage (bank s1 o.acc.toNat) g.bs)) none) ∧
    (∀ o s0 s1 s2 g, cmdInstr c = some (.mdrain o) → (bank s o.acc.toNat).poison = false →
      let n := o.acc.toNat
      let ba := mereBase + bits (op 2) 23 0
      let ask := fun t => if mdBias o then readRange t x c 0 ba 1024 else (t, Got.none)
      (ask s).2.wait = none → writeWait s x c 0 (bits (op 0) 55 0) (mdBytes o) = none →
      checkBank s x c n = (s0, none) → ask s0 = (s1, g) → g.bads = [] →
      let scale := decodeVal .fp32 (bits (op 1) 31 0)
      let bias := fun j => if mdBias o then decodeVal .fp32 (imgNat g.bs (4 * j) 4) else .zero false
      let z := (bankVals (bank s1 n)).el.map (fun row => (zipIdx row).map (fun p => drainElem o scale (bias p.1) p.2))
      let r := drainImage o c (bank s1 n) z
      (writeRange s1 x c 0 (bits (op 0) 55 0) r.1).1 = s2 → (writeRange s1 x c 0 (bits (op 0) 55 0) r.1).2.bad = none →
      ends (postRecs (if mdComp o then setSectors s2 x (bits (op 0) 55 0) r.1 66 else s2) c 1 r.2) none) ∧
    (∀ t, runArray s x c = .ok t → ends t none) ∧
    (∀ t k a, runArray s x c = .fail t k a → ends t (some (k, a))) ∧
    (∀ t rids, runArray s x c = .pend t rids →
      exec (.arrayCommandComplete cl) s = .next (putCmd t { c with awaiting := rids, phase := 1 })))) ∧
  (∀ (a b : Opnd) (os : List Outlier) (v : Acc32) (i j : Nat), v.el.length = 256 → (∀ r ∈ v.el, r.length = 256) → i < 256 → j < 256 →
  ((runSteps a b os 8 v).el.getD i []).getD j .nan = (List.range 8).foldl (fun y n =>
    (os.filter (fun o => o.k / 32 == n && o.i == i)).foldl (fun w o => outElem b o ((b.vals.getD j []).getD o.k .nan) w) (stepElem a b n i j y))
    ((v.el.getD i []).getD j .nan)) ∧
  (∀ (b : Bank) (img : List Byte) (k : Nat),
  let t := bankOfImage b img
  t.bound = b.bound ∧ t.poison = false ∧ t.ksteps = BitVec.ofNat 48 (imgNat img 0x41010 6) ∧
  (k < 65536 → smGet t.el k 0 = imgNat img (4 * k) 4) ∧
  (k < 256 → smGet t.srow k 0 = imgNat img (0x40000 + 8 * k) 4 ∧ smGet t.arow k 0 = imgNat img (0x40004 + 8 * k) 4 ∧
    smGet t.scol k 0 = imgNat img (0x40800 + 8 * k) 4 ∧ smGet t.acol k 0 = imgNat img (0x40804 + 8 * k) 4)) ∧
  (∀ (cl p : Nat) (w : CmdRef) (rest : List (Nat × CmdRef)) (s : State),
  (getCl s cl).running = none → (getCl s cl).retire = (p, w) :: rest →
  ((getCl s cl).rowMap.mode = 0 ∧ (freeSpare (getCl s cl).rowMap).isSome = true ∨ banksFree s cl = true) →
  ∃ u, exec (.rowRetire cl) s = .next u ∧
    (getCl u cl).rowMap.retired = (getCl s cl).rowMap.retired ||| (1#320 <<< p) ∧
    u.mem.hbm = s.mem.hbm ∧ u.mem.mere = s.mem.mere ∧ u.mem.carved = s.mem.carved)

/-! ## The copy engine -/

/-- CP_COMMAND_START, CP_COMMAND_COMPLETE and ENGINE_ACCESS_RESUME (10 R312, R313, R502; 07 R238), and what a step of each command
is (10 R323 to R332, 11 R368 to R373) and leaves: performed, failed, stopped at an access, awaiting answers, or flushed (10 R342).
The data effects: a piece is read from and written to its place, in Mere these bytes and no other; `cpz` writes its pattern word by
word; `cpy` moves its elements in order, sector by sector; `cpyt`, `cpst` and `cpz.tile` write the tile their conversion gives, `cpx`
the metadata bytes or zeros, `cpn` sends its message or writes the data that came, `coll` sends its blocks or applies them. -/
def Obligations.CopyEngineSteps : Prop :=
  (∀ (s : State),
  (∀ cl c x, cpRunning s cl < 8 → cpChoice s cl = some c → cmdOwner s c = some x →
    let s1 := modCl s cl (fun y => { y with lastCp := c.ctx.core })
    (startHold s x c = .free → exec (.cpCommandStart cl) s = .next (compared (putCmd s1 { c with started := true, waitOk := true }) 3)) ∧
    (∀ t, startHold s x c = .fails t → exec (.cpCommandStart cl) s = .next (finishCmd s1 c (some (t.cause, t.addr))))) ∧
  (∀ id seq c x, startedCp s id seq = some c → cmdOwner s c = some x → c.awaiting = [] → pauses s c = false →
    (c.flush.isSome = true → rdmaPending s c = false → exec (.cpCommandComplete id seq) s = .next (flushLeave s c)) ∧
    (c.flush = none → c.stop = none → rdmaPending s c = false → portPaused s c = false → overlapAt (narrowed s x c) c = none →
      exec (.cpCommandComplete id seq) s = .next (settleCp c (advanceCp s x c))) ∧
    (c.stop.isSome = true → mayResume s x c = true → exec (.engineAccessResume id seq) s = .next (putCmd s { c with stop := none })))) ∧
  (∀ (s t : State) (x : Ctx) (c : Cmd),
  (c.failed = none → ∀ o,
    (cmdInstr c = some (.cpy o) → advanceCp s x c = runCpy s x c) ∧ (cmdInstr c = some (.cpyt o) → advanceCp s x c = runCpyt s x c o) ∧
    (cmdInstr c = some (.cpst o) → advanceCp s x c = runCpst s x c o) ∧ (cmdInstr c = some (.cpz o) → advanceCp s x c = runCpz s x c) ∧
    (cmdInstr c = some (.cpzTile o) → advanceCp s x c = runCpzTile s x c o) ∧
    (cmdInstr c = some (.cpxOut o) → advanceCp s x c = runCpxOut s x c) ∧ (cmdInstr c = some (.cpxIn o) → advanceCp s x c = runCpxIn s x c) ∧
    (cmdInstr c = some (.cpnWr o) → advanceCp s x c = runCpn s x c false) ∧
    (cmdInstr c = some (.cpnRd o) → advanceCp s x c = runCpn s x c true) ∧ (cmdInstr c = some (.coll o) → advanceCp s x c = runColl s x c)) ∧
  settleCp c (.ok t) = finishCmd t c none ∧
  (∀ k a, settleCp c (.fail t [] k a) = finishCmd t c (some (k, a))) ∧
  (∀ p rids w a, let d := { c with prog := p, stop := some a, awaiting := rids }
    settleCp c (.stop t p rids w a) = putCmd (narrowOp t d) d) ∧
  (∀ p rids n, let d := { c with prog := p, awaiting := rids, phase := n }
    settleCp c (.pend t p rids n) = putCmd (narrowOp t d) d) ∧
  ((∀ o, cmdInstr c ≠ some (.cpyt o) ∧ cmdInstr c ≠ some (.cpst o)) → narrowOp t c = t ∧ narrowed s x c = x)) ∧
  (∀ (s s1 : State) (x : Ctx) (c : Cmd) (w a n : Nat) (wr : Bool) (p : Place) (bs : List Byte),
  (∀ g, bit w 63 = false → inMere a = true → merePlace s x.id.cl x.env.iter x.env.gang a = some (p, g) → ownerSeen s none g = true →
    givePending x c.seq g.num = false → wordLoc s x c w a wr = (s, .here p false)) ∧
  (gotPiece x c (pieceKey w a) = none → wordLoc s x c w a false = (s1, .here p false) →
    (p.space = .mere ∨ p.space = .hbm ∨ p.space = .carved) → isPoisoned (probeRange s1 p n) p n = false →
    (readPiece s x c w a n).2 = .data (readPlace s1 p n)) ∧
  (wordLoc s x c w a true = (s1, .here p false) →
    writePiece s x c w a bs = (homeStored (placeWrite s1 x (cmdStream x c) p bs) a p, .done) ∧
    (p.space = .mere → let t := (writePiece s x c w a bs).1
      t.mem.hbm = s1.mem.hbm ∧ t.mem.carved = s1.mem.carved ∧ ∀ b, cellGet t.mem.mere b =
        if p.addr ≤ b ∧ b < p.addr + bs.length then bs.getD (b - p.addr) 0 else cellGet s1.mem.mere b)) ∧
  (∀ node role t, wordLoc s x c w a true = (s1, .far node role t) → wordLoc s1 x c w a true = (s1, .far node role t) →
    reachable s1 node = true → writePiece s x c w a bs = (s1, .send node role t)) ∧
  (∀ rest r, (∀ node role t, writePiece s x c w a (bs.take n) = (s1, .send node role t) →
      writeGo s x c w ((a, n) :: rest) bs r = writeGo (sendPut s1 c a node role t (bs.take n)).1 x c w rest (bs.drop n)
        { r with sent := r.sent ++ [(sendPut s1 c a node role t (bs.take n)).2] }) ∧
    (writePiece s x c w a (bs.take n) = (s1, .done) → writeGo s x c w ((a, n) :: rest) bs r = writeGo s1 x c w rest (bs.drop n) r))) ∧
  (∀ (s t : State) (x : Ctx) (c : Cmd) (d f i : Nat) (sent : List Nat),
  let n := bits c.desc.toNat 104 64 / 8
  let at_ := (bits d 55 0 + 8 * i) % 2 ^ 56
  let bs := natLe 8 (bits d 191 128)
  runCpz s x c = cpzGo x c c.desc.toNat (n - c.prog) c.prog s [] ∧
  cpzGo x c d 0 i s sent = (if sent = [] then .ok s else .pend s i sent 1) ∧
  (writePiece s x c (bits d 63 0) at_ bs = (t, .done) → cpzGo x c d (f + 1) i s sent = cpzGo x c d f (i + 1) t sent) ∧
  (∀ y z, writePiece s x c (bits d 63 0) at_ bs = (t, .wait y z) → cpzGo x c d (f + 1) i s sent = .stop t i sent y z) ∧
  (∀ k a, writePiece s x c (bits d 63 0) at_ bs = (t, .bad k a) → cpzGo x c d (f + 1) i s sent = .fail t sent k a) ∧
  (∀ node role a, writePiece s x c (bits d 63 0) at_ bs = (t, .send node role a) → unanswered t sent node a 8 = false →
    cpzGo x c d (f + 1) i s sent = cpzGo x c d f (i + 1) (sendPut t c at_ node role a bs).1 (sent ++ [(sendPut t c at_ node role a bs).2]))) ∧
  (∀ (s s1 s2 : State) (x : Ctx) (c : Cmd) (d total f i n : Nat) (sent : List Nat) (far : List FarElem) (bs : List Byte),
  let per := 32 / cpyEs d
  let e := min total ((i / per + 1) * per)
  let all := (cpyE c.desc.toNat).foldl (· * ·) 1
  runCpy s x c = cpyGo c c.desc.toNat all (all - c.prog + 1) c.prog s x [] ∧
  cpySrc d i = wrapNat ((bits d 55 0 : Int) + nestOff (cpyE d) (strides d 256) i) 56 ∧
  cpyDst d i = wrapNat ((bits d 119 64 : Int) + nestOff (cpyE d) (strides d 448) i) 56 ∧
  (readPiece s x c (bits d 63 0) (cpySrc d i) (cpyEs d) = (s1, .data bs) →
    writePiece s1 x c (bits d 127 64) (cpyDst d i) bs = (s2, .done) → cpyMoves c d x (n + 1) i s [] = cpyMoves c d x n (i + 1) s2 []) ∧
  (∀ node role t, cpyBytes s x c d i far = (s1, bs) → writePiece s1 x c (bits d 127 64) (cpyDst d i) bs = (s2, .send node role t) →
    cpyMoves c d x (n + 1) i s far = cpyMoves c d x n (i + 1) s2 (far.filter (fun q => !q.same node role t)
      ++ [{ va := cpyDst d i, node := node, role := role, addr := t, bs := bs }])) ∧
  (total ≤ i → cpyGo c d total (f + 1) i s x sent = if sent = [] then .ok s else .pend s i sent 1) ∧
  (i < total → cpyReads c d x (e - i) i s [] = (s1, [], e, .data []) → cpyPuts c d x sent (e - i) i s1 = (s2, e, .done, false) →
    let m := cpyMoves c d x (e - i) i s2 []
    let r := dropPieces m.1 x c ((List.range (e - i)).map (fun k => pieceKey (bits d 63 0) (cpySrc d (i + k))))
    let t := m.2.foldl (fun u q => let v := sendPut u.1 c q.va q.node q.role q.addr q.bs; (v.1, u.2 ++ [v.2])) (r.1, sent)
    cpyGo c d total (f + 1) i s x sent = cpyGo c d total f e t.1 r.2 t.2)) ∧
  (∀ (s : State) (x : Ctx) (c : Cmd) (o : CD), c.phase ≠ 2 →
  let d := c.desc.toNat
  let reads := fun (u : State) (w a n : Nat) (t : State) (bs : List Byte) => readRange u x c w a n = (t, { Got.none with bs := bs })
  let writes := fun (u : State) (w a : Nat) (bs : List Byte) (t : State) =>
    writeWait u x c w a bs.length = none ∧ writeRange u x c w a bs = (t, { sent := [], bad := none })
  let idx := bits d 95 64
  let fd := fmtOfCode (BitVec.ofNat 4 (bits d 99 96))
  let drop := fun (f : Fmt) (bs : List Byte) => headOk (tileOf f bs).head f = false
  (∀ t, writes s (bits d 63 0) (bits d 55 0) (tileImage (czFmt o) (zeroTile (czFmt o) idx)) t → runCpzTile s x c o = .ok t) ∧
  (∀ s1 e, ctMere o = false → seeEntry s x c.hidx = (s1, some e) →
    (hTiles e ≤ idx → ∀ t, writes s1 (bits d 63 0) (bits d 55 0) (tileImage fd (zeroTile fd idx)) t → runCpyt s x c o = .ok t) ∧
    (¬ hTiles e ≤ idx → ∀ s2 bs, reads s1 0 (e.base + idx * tileLen (hFmt e)) (tileBytes (hFmt e)) s2 bs →
      runCpyt s x c o = cpytSource s2 x c o (hFmt e) bs)) ∧
  (∀ s1 g s2 bs, ctMere o = true → roleLost s x c (bits d 191 128) = false → inMere (bits d 183 128) = true →
    findFmt s x c (bits d 191 128) (bits d 183 128) probes = (s1, .fmt g) →
    reads s1 (bits d 191 128) (bits d 183 128) (tileBytes g) s2 bs → runCpyt s x c o = cpytSource s2 x c o g bs) ∧
  (∀ fs bs, drop fs bs → cpytSource s x c o fs bs = .fail (postRecs s c 2 [(2, badHeadData 0)]) [] 15 (badHeadData 0)) ∧
  (∀ fs bs s1 t tile recs, cpCheck s c fs bs (!ctRegen o) = .ok s1 tile recs →
    (fd = fs → ctRegen o = false → writes s1 (bits d 63 0) (bits d 55 0) (tileImage fd tile) t →
      cpytSource s x c o fs bs = .ok (postRecs t c 2 recs)) ∧
    (¬ (fd = fs ∧ ctRegen o = false) →
      let q := convertRows fd (cpRm c (bits d 102 100)) c.sat (bits d 255 192) (fun _ => none) (tileVals fs tile)
      let u := sealTile fd q.1 q.2.1 idx
      writes s1 (bits d 63 0) (bits d 55 0) (tileImage fd u) t →
      cpytSource s x c o fs bs = .ok (postRecs t c 2 (recs ++ countRec 3 (nonfinCount fd u) ++ countRec 4 q.2.2)))) ∧
  (∀ s1 e, seeEntry s x c.hidx = (s1, some e) →
    (hTiles e ≤ idx → runCpst s x c o = .ok s1) ∧
    (∀ s2 f s3 bs s4 tile recs, ¬ hTiles e ≤ idx → findFmt s1 x c 0 (bits d 55 0) probes = (s2, .fmt f) →
      let a := wrapNat ((bits d 55 0 : Int) + (c.ops.getD 0 0).toInt * ((tileGranules f * 4096 : Nat) : Int)) 56
      inMere a = true → reads s2 0 a (tileBytes f) s3 bs → cpCheck s3 c f bs true = .ok s4 tile recs →
      let rows := tileVals f tile
      let q := convertRows (hFmt e) (cpRm c (o.x.extractLsb' 5 3).toNat) c.sat (bits d 255 192) (fun _ => none)
        (rows.map (fun r => r.map (fun v => (mulExact v (decodeVal .fp32 (bits d 127 96))).1)))
      let u := sealTile (hFmt e) q.1 q.2.1 idx
      let va := e.base + idx * tileLen (hFmt e)
      let posted := recs ++ countRec 3 (nonfinCount (hFmt e) u) ++ countRec 4 q.2.2 ++ [(5, amaxRows rows + idx * 2 ^ 32)]
      amaxWait s4 x c = none → ∀ s5,
      (e.comp = false ∧ writes s4 0 va (tileImage (hFmt e) u) s5) ∨ (e.comp = true ∧ writeWait s4 x c 0 va (tileImage (hFmt e) u).length = none ∧
        writeSectors s4 x c va (tileImage (hFmt e) u) ((tileImage (hFmt e) u).length / 512 + 1) = (s5, none)) →
      (bits d 183 128 = 0 → runCpst s x c o = .ok (postRecs s5 c 2 posted)) ∧
      (∀ s6, bits d 183 128 ≠ 0 → amaxWord s5 x c (bits d 183 128) (amaxRows rows) = (s6, none) →
        runCpst s x c o = .ok (postRecs s6 c 2 posted)))) ∧
  (∀ s1 e, seeEntry s x c.hidx = (s1, some e) →
    let m := e.metaB + bits d 111 64 / 2
    let n := bits d 175 128 / 2
    (∀ s2 bs t, e.comp = true → reads s1 0 m n s2 bs → writes s2 (bits d 63 0) (bits d 55 0) bs t → runCpxOut s x c = .ok t) ∧
    (∀ t, e.comp = false → writes s1 (bits d 63 0) (bits d 55 0) (List.replicate n 0) t → runCpxOut s x c = .ok t) ∧
    (∀ s2 bs t, reads s1 (bits d 63 0) (bits d 55 0) n s2 bs →
      (e.comp = true → writes s2 0 m bs t → runCpxIn s x c = .ok t) ∧ (e.comp = false → runCpxIn s x c = .ok s2))) ∧
  (∀ rd, let ready := qpReady s (bits d 215 192) (bits d 219 216)
    (rd = true → rdmaData x c = none) → 
    (ready = false → runCpn s x c rd = .fail s [] 17 (bits d 119 64)) ∧
    (ready = true → rd = true → runCpn s x c rd = .pend (sendRdma s c (cpnMsg d true [])) 0 [] 1) ∧
    (∀ s1 bs, ready = true → rd = false → reads s (bits d 63 0) (bits d 55 0) (bits d 191 160) s1 bs →
      runCpn s x c rd = .pend (sendRdma s1 c (cpnMsg d false bs)) 0 [] 1)) ∧
  (∀ bs t, rdmaData x c = some bs → writes s (bits d 63 0) (bits d 55 0) bs t → runCpn s x c true = .ok t) ∧
  (∀ m0, let m := { m0 with psn := bits (qpWord s m0.qp 1) 23 0 }
    sendRdma s c m0 = modNet (rdmaSend (qpAdvance s m.qp m.len) (rdmaParts s m)) (fun n => { n with
      rdma := n.rdma ++ [{ ctx := c.ctx, seq := c.seq, iter := c.iter, since := s.ran, tries := 0, msg := m }] })) ∧
  (∀ s1 src, reads s 0 (bits d 55 0) (256 * collNb d) s1 src →
    (bits d 191 128 = 0 → runColl s x c = collSend s1 x c src []) ∧
    (∀ s2 st, bits d 191 128 ≠ 0 → reads s1 (bits d 191 128) (bits d 183 128) (4 * collNb d) s2 st →
      runColl s x c = collSend s2 x c src st)) ∧
  (∀ r src st g, roleOf x (bits d 127 64) = some r →
    (bits r.toNat 1 0 ≤ 1 → (findIter s c.iter).bind (fun i => gangOn i (bits r.toNat 8 2)) = some g → collLossy d = false →
      let q : CollSpec := { collSpecOf s c (bits r.toNat 8 2) 0 with near := c.iter + 1 }
      let u := nearBlocks (bits r.toNat 8 2, c.iter, g) q (collBlocks q src st) { s := s, nonfin := 0, novalid := 0, firstNv := 0, bad := none }
      (∀ b, u.bad = some b → collSend s x c src st = .fail u.s [] 17 (q.dst + 256 * b)) ∧
      (u.bad = none → collSend s x c src st = .ok (postRecs (if q.tsig = 0 then u.s else collSignal u.s (bits r.toNat 8 2, c.iter, g) q) c 2
        (collRecs u.nonfin u.novalid u.firstNv)))) ∧
    (bits r.toNat 1 0 = 3 → bits r.toNat 13 2 ≠ nodeNo s → reachable s (bits r.toNat 13 2) = true →
      let tag := if bits r.toNat 36 21 = 0 then c.tag.toNat else bits r.toNat 36 21
      let q := collSpecOf s c (bits r.toNat 20 14) tag
      let t := if q.lossy then sendLossy s c (bits r.toNat 13 2) q (collBlocks q src st)
        else sendReliable s c (bits r.toNat 13 2) q (collBlocks q src st)
      collSend s x c src st = .pend t.1 0 t.2 2)))

/-! ## Operations performed -/

/-- OPERATION_PERFORMED (08 R255 to R258): an operation that may perform does; a store to the gang's Mere changes the stored bytes
and no other of Mere, HBM4 or the carve; an atomic on Mere writes the new value and delivers the old one; a store of cluster scope or
narrower to HBM4 or the carve is held by its holder with memory unchanged, one of wider scope reaches its home. That what reaches
its home comes after what a release of narrower scope has published is the model's choice (log 114). -/
def Obligations.OperationPerformed : Prop := ∀ (c : CtxId) (seq : Nat) (s : State) (x : Ctx) (o : MemOp),
  findOwner s c seq = some x → findOp x seq = some o → o.awaiting = [] →
  (o.done.isSome = true ∨ o.started = true ∨
    (mayPerform x o = true ∧ (reachesHome o = true → behindReleased s x o.phys = false))) →
  (∀ t, performKind s x o = some t → exec (.operationPerformed c seq) s = .next t) ∧
  (∀ a bs p g, o.kind = .store false [(a, bs)] → o.done = none → inMere a = true → inContain a = false →
    merePlace s x.id.cl x.env.iter x.env.gang a = some (p, g) →
    ∃ t, exec (.operationPerformed c seq) s = .next t ∧ t.mem.hbm = s.mem.hbm ∧ t.mem.carved = s.mem.carved ∧
      ∀ b, cellGet t.mem.mere b =
        if p.addr ≤ b ∧ b < p.addr + bs.length then bs.getD (b - p.addr) 0 else cellGet s.mem.mere b) ∧
  (∀ d e a n u sx p g, o.kind = .amo (some d) e a n u sx → inMere a = true →
    merePlace s x.id.cl x.env.iter x.env.gang a = some (p, g) → isPoisoned (probeRange s p n) p n = false →
    let old := leNat (cellsGet s.mem.mere p.addr n)
    ∃ t, exec (.operationPerformed c seq) s = .next t ∧ t.mem.hbm = s.mem.hbm ∧ t.mem.carved = s.mem.carved ∧
      (∀ b, cellGet t.mem.mere b = if p.addr ≤ b ∧ b < p.addr + n then (natLe n (amoNew e (8 * n) old u)).getD (b - p.addr) 0
        else cellGet s.mem.mere b) ∧
      (getOwner s x.id x.env.iter = some x →
        ∃ y, getOwner t x.id x.env.iter = some y ∧
          y.pend = x.pend.map (fun q => if q.seq = some o.seq ∧ q.reg = .s d then { q with val := some (extTo sx (8 * n) old) } else q) ∧
          y.ops = (x.ops.filter (fun q => q.seq != o.seq)).map (fun q =>
            if isBuffered q = true ∧ o.pm.getLsbD q.ss = true then { q with released := true } else q))) ∧
  (∀ a bs s1 p, o.kind = .store false [(a, bs)] → o.done = none → inContain a = false → opAccess s x o a accWrite = (s1, .ok p) →
    (p.space = .hbm ∨ p.space = .carved) →
    (o.scope ≤ 2 → ∃ t, exec (.operationPerformed c seq) s = .next t ∧ t.mem = s1.mem) ∧
    (3 ≤ o.scope → exec (.operationPerformed c seq) s =
      .next (again (homeStored (homeWrite s1 p bs) a p) x (fun y => opOut y o))))

/-! ## Ports and links -/

/-- The ports as targets and as originators (11 R347, R351, R353, R356 to R361; 08 R266): a packet of a kind that no
unit sends, or whose header fails its check, is discarded and counted; a packet for another node goes on; a request
for this node is executed where its address is not FROZEN, in FATAL it is answered with an error; a write that its port's queue
holds goes home; answers reach their
originator; log entries are freed and answered; link FIFO words leave and arrive. That a word that leaves its send FIFO stands in the
neighbour's at the same step, so that its push counts out there, is the model's choice (logs 84, 101). -/
def Obligations.PortSteps : Prop := ∀ (p : Packet) (s : State),
  let u := landed s p
  (p.kind = .unsent ∨ p.ok = false → exec (.packetReceive p) s = .next (incReplay u 1) ∧
    exec (.responseReceive p) s = .next (incReplay u 1)) ∧
  (p.dst ≠ nodeNo u → p.kind ≠ .unsent → p.ok = true → exec (.packetReceive p) s = .next (sendPkts u [p]) ∧
    exec (.responseReceive p) s = .next (sendPkts u [p])) ∧
  (p.ok = true → p.dst = nodeNo u → u.dev.fatal = false → (∀ w ∈ u.net.portq, w.pkt ≠ p) → portHeld u p = false →
    (p.kind = .read → exec (.packetReceive p) s = .next (takeRead (compared u 3) p)) ∧
    (p.kind = .write → exec (.packetReceive p) s = .next (takeWrite (compared u 3) p)) ∧
    (p.kind = .atomic → exec (.packetReceive p) s = .next (takeAtomic (compared u 3) p)) ∧
    (p.kind = .reduction → exec (.packetReceive p) s = .next (takeReduction (compared u 3) p))) ∧
  (∀ w, p.ok = true → p.dst = nodeNo u → p.kind = .write → u.net.portq.find? (fun w => w.pkt == p) = some w → queueWaits u w = false →
    exec (.packetReceive p) s = .next (queueHome u w)) ∧
  (p.ok = true → p.dst = nodeNo u → u.dev.fatal = true → (∀ w ∈ u.net.portq, w.pkt ≠ p) →
    (p.kind = .read ∨ p.kind = .write ∨ p.kind = .atomic ∨ p.kind = .reduction) →
    exec (.packetReceive p) s = .next (errTo u p 17)) ∧
  (p.ok = true → p.dst = nodeNo u → (p.kind = .readData ∨ p.kind = .ack ∨ p.kind = .nack ∨ p.kind = .error) →
    exec (.responseReceive p) s = .next (takeAnswer u p) ∧
    ((∀ r ∈ u.net.reqs, r.rid ≠ p.rid) → exec (.responseReceive p) s =
      .next (if p.kind = .error ∧ p.rid = 0 then cutPurge u p else u))) ∧
  (∀ n, logWord s n 1 % 4 = 2 →
    (smFind s.net.logRid n = none → exec (.logEntryReplayed n) s = .next (freeEntry s n)) ∧
    (∀ r, smFind s.net.logRid n = some r → exec (.logEntryReplayed n) s = .next (
      if ∃ e ∈ (freeEntry s n).net.logRid, e.2 = r then freeEntry s n else faultReply (freeEntry s n) (owedPacket s n r) .ack))) ∧
  (∀ n r, logWord s n 1 % 4 = 3 → smFind s.net.logRid n = some r → ∃ w, exec (.logEntryAbandoned n) s = .next (faultReply w (owedPacket s n r) .nack) ∧
    (∀ e ∈ w.net.logRid, e.2 ≠ r) ∧ w.mem = (freeEntry s n).mem) ∧
  (∀ cl l f rest, sendFifo s cl l = f :: rest → (getLink s l).health = .up → pushReady s f = true →
    exec (.fifoWordArrive (.depart cl l)) s = .next (pushDone (modNet (modCl s cl (fun c => { c with sendF := smSet c.sendF l rest [] }))
      (fun n => { n with out := n.out ++ [{ pkt := wordPacket s cl l f, sent := some l }] })) f)) ∧
  (∀ cl l w, (recvFifo s cl l).length < 64 → exec (.fifoWordArrive (.arrive cl l w)) s =
    .next (modCl s cl (fun c => { c with recvF := smSet c.recvF l (recvFifo s cl l ++ [w]) [] })))

/-- Link health (11 R362 to R365), collectives at their target (R366, R367, R372, R373) and the scale-out ports (R376 to R378). The
data word of notice 8 and the sequence numbers of packets that come again are the model's choices (logs 24, 115). -/
def Obligations.LinkAndCollectiveSteps : Prop := ∀ (s : State),
  let flits := fun l => ((s.net.out.filter (fun o => o.sent == some l && o.pkt.tc != 2)).map (fun o => 1 + ceilDiv o.pkt.data.length 32)).sum
  let u := fun p => landed s p
  (∀ l, s.pkg.units.getLsbD l = true → (getLink s l).health = .up →
    (∀ o ∈ s.net.out, o.sent = some l → o.pkt.tc ≠ 2 → exec (.flitReplay l) s = .next (incReplay s 1)) ∧
    ∃ t, exec (.linkRetrain l) s = .next t ∧ getLink t l = { health := .retraining, since := s.cyc } ∧ t.mem = s.mem ∧
      (∀ o, o ∈ t.net.out ↔ o ∈ s.net.out ∧ ¬ (o.sent = some l ∧ o.pkt.tc = 2))) ∧
  (∀ l, (getLink s l).health = .retraining → s.cyc < (getLink s l).since + retrainBound →
    exec (.linkRestored l) s = .next (putLink (incReplay s (flits l)) l { health := .up, since := s.cyc })) ∧
  (∀ l, (getLink s l).health = .down →
    exec (.linkRestored l) s = .next (postNotice (putLink s l { health := .up, since := s.cyc }) 8 0 (l + 256))) ∧
  (∀ l, (getLink s l).health = .retraining → (getLink s l).since + retrainBound ≤ s.cyc → exec (.linkDown l) s =
    .next (dropCutAcks (failCut (backFrom l
      (incReplay (postNotice (putLink s l { health := .down, since := s.cyc }) 8 0 l) (flits l)))))) ∧
  (∀ l, ∀ o ∈ (backFrom l s).net.out, o.sent ≠ some l) ∧
  (∀ l, (backFrom l s).net.out.map (·.pkt) = (s.net.out.filter (fun o => !(o.sent == some l && o.pkt.kind == .fifoWord))).map (fun o =>
    if o.sent = some l then { o.pkt with vc := o.came } else o.pkt)) ∧
  (∀ l vc o since, o ∈ s.net.out → standsIn s l vc o = true → o.head = some since → since + deadlockCycles ≤ s.ran →
    (vc = 2 → o.pkt.tc = 2) → ∃ t, exec (.deadlockTimer l vc) s = .next t ∧ (vc = 2 → t.net.out.length + 1 = s.net.out.length) ∧
      (vc ≠ 2 → t.net.out.map (fun q => { q.pkt with esc := false }) = s.net.out.map (fun q => { q.pkt with esc := false }) ∧
        ∃ q ∈ s.net.out, timerDue s l vc q = true ∧ { q with head := none, pkt := { q.pkt with esc := true } } ∈ t.net.out)) ∧
  (∀ p, p.ok = true → (u p).dev.fatal = false → p.dst = nodeNo (u p) → p.kind = .collOpen →
    collGang (u p) (specOfWords (wordsOfBytes p.ext)) = none →
    ∃ t, exec (.collOpenReceive p) s = .next (noGang t p .nack) ∧ t.mem = s.mem) ∧
  (∀ p g, p.ok = true → (u p).dev.fatal = false → p.dst = nodeNo (u p) → p.kind = .collOpen →
    (∀ e ∈ s.net.early, ¬ (e.src = p.src ∧ e.rid = p.rid)) →
    collGang (u p) (specOfWords (wordsOfBytes p.ext)) = some g →
    ∃ t, exec (.collOpenReceive p) s = .next t ∧ findColl t p.src p.rid = some (newColl p p.rid (specOfWords (wordsOfBytes p.ext))) ∧
      t.mem = s.mem) ∧
  (∀ p q, p.ok = true → (u p).dev.fatal = false → p.dst = nodeNo (u p) → p.kind = .collBlock → p.tc ≠ 2 →
    q = specOfWords (wordsOfBytes p.ext) → lanesPass (u p) q (blockOf p true) = true →
    exec (.collBlockReceive p true) s = .next (reliableBlock (u p) p)) ∧
  (∀ p c ok, p.ok = true → (u p).dev.fatal = false → p.dst = nodeNo (u p) → p.kind = .collBlock → p.tc = 2 →
    findColl (u p) p.src p.rid = some c → (p.src = nodeNo (u p) → ok = true) →
    exec (.collBlockReceive p ok) s = .next (lossyBlock (u p) c p ok (devNs (u p)))) ∧
  (∀ p ok, p.ok = true → p.dst = nodeNo (u p) → p.src ≠ p.dst → p.kind = .collBlock → p.tc = 2 → findColl (u p) p.src p.rid = none →
    pastClose (u p) p = true → exec (.collBlockReceive p ok) s = .next (u p)) ∧
  (∀ p ok, p.ok = true → p.dst = nodeNo (u p) → p.kind = .collBlock → p.tc = 2 → (u p).dev.fatal = true →
    exec (.collBlockReceive p ok) s = .next (u p)) ∧
  (∀ c, s.dev.fatal = false → s.net.colls.find? (fun k => k.lossy && decide (closeAt s k ≤ devNs s)) = some c →
    exec .lossyClose s = .next (closeColl s c)) ∧
  (∀ p, p.ok = true → p.dst = nodeNo (u p) → p.kind = .collClose → exec (.collCloseReceive p) s = .next (takeAnswer (u p) p)) ∧
  (∀ port part qp psn va rkey len bs, qpReceives s port qp = true → s.dev.fatal = false →
    let step := exec (.rdmaReceive port (.write part qp psn va rkey len bs)) s
    (seenBefore s qp psn = true → step =
      .next (if part = .only ∨ part = .last then rdmaOut s port qp 2 va rkey.toNat psn [] else s)) ∧
    (seenBefore s qp psn = false → psn ≠ qpExpected s qp → step = .next (rdmaOut s port qp 3 va rkey.toNat psn [])) ∧
    (seenBefore s qp psn = false → psn = qpExpected s qp →
      (writeSpot s part qp va rkey.toNat len bs.length = none → step = .next (rdmaNak s port qp va rkey.toNat psn)) ∧
      (∀ x, writeSpot s part qp va rkey.toNat len bs.length = some x → frozenMeets s [(x.va, bs.length)] = false →
        step = .next (compared (rdmaWrite s port qp rkey.toNat psn x bs) 3)))) ∧
  (∀ port qp psn va rkey n, qpReceives s port qp = true → s.dev.fatal = false →
    let step := exec (.rdmaReceive port (.read qp psn va rkey n)) s
    (seenBefore s qp psn = false → psn ≠ qpExpected s qp → step = .next (rdmaOut s port qp 3 va rkey.toNat psn [])) ∧
    ((seenBefore s qp psn = true ∨ psn = qpExpected s qp) → frozenMeets s [(va, n)] = false →
      step = .next (compared (rdmaRead s port qp va rkey.toNat psn n) 3))) ∧
  (∀ port c q, (∀ r ∈ s.net.rdma, ¬ (r.ctx = c ∧ r.seq = q)) →
    exec (.rdmaReceive port (.ack c q)) s = .next (modNet s (fun n => { n with dropped := n.dropped + 1 }))) ∧
  (∀ r, s.net.rdma.find? (fun w => decide (w.since + ackTimeout s w.msg.qp ≤ s.ran)) = some r →
    (r.tries < bits (qpWord s r.msg.qp 1) 50 48 →
      ∃ t, exec .rdmaAckTimeout s = .next t ∧ t.mem = s.mem ∧
        t.net.rdmaOut = s.net.rdmaOut ++ (rdmaParts s r.msg).filter (fun m => !s.net.paused.contains m.port) ∧
        t.net.rdmaHeld = s.net.rdmaHeld ++ (rdmaParts s r.msg).filter (fun m => s.net.paused.contains m.port)) ∧
    (bits (qpWord s r.msg.qp 1) 50 48 ≤ r.tries → exec .rdmaAckTimeout s =
      .next (rdmaFails (setQpWord s r.msg.qp 0 (qpWord s r.msg.qp 0 / 8 * 8 + 4)) r)))

/-! ## Containment -/

/-- Purges, the scrub, soft errors, invalidations and migrations (12 R388, R396, R419 to R422; 07 R225, 09 R279): a purge starts
where a cause of it stands, or at the host's request; the scrub corrects single flipped bits of the containment tables and makes
the device FATAL where a table's error cannot be corrected; an invalidation and a migration end once nothing holds them. -/
def Obligations.ContainmentSteps : Prop := ∀ (s : State),
  (∀ tag cause, 0 < tag → tag < 65536 → purgeCaused s tag cause = true →
    exec (.purgeStart tag cause) s = .next (startPurge s (BitVec.ofNat 16 tag) (purgeCode cause))) ∧
  (∀ tag, 0 < tag → tag < 65536 →
    exec (.purgeStart tag .host) s = .next (startPurge s (BitVec.ofNat 16 tag) (purgeCode .host))) ∧
  (∀ p, p.ok = true → p.kind = .purge → p.dst = nodeNo s → s.dev.fatal = false → p.tag ≠ 0 →
    let u := postNotice (purgeLocal s (.tag (BitVec.ofNat 16 p.tag))) 1 p.tag (purgeCode .remote)
    exec (.purgePacketReceive p) s =
      .next (sendPkts u [purgePacket u p.src .purgeAck p.tag (bits p.spec.toNat 3 0) (bits p.spec.toNat 15 4)])) ∧
  (∀ p q, p.ok = true → p.kind = .purgeAck → p.dst = nodeNo s → q ∈ s.pkg.purges → q.tag.toNat = p.tag → p.src ∈ q.awaiting →
    ∃ t, exec (.purgeAckReceive p) s = .next t ∧ (∀ r ∈ t.pkg.purges, r.tag.toNat = p.tag → p.src ∉ r.awaiting) ∧
      (∀ r ∈ s.pkg.purges, r.tag.toNat ≠ p.tag → r.awaiting ≠ [] → r ∈ t.pkg.purges) ∧
      t.mem.hbm = s.mem.hbm ∧ t.mem.mere = s.mem.mere ∧ t.mem.carved = s.mem.carved) ∧
  (s.pkg.damage = [] → exec .scrub s = .next s) ∧
  ((∀ t ∈ [0, 1, 2, 3], tableBad s t = false) → (∀ f ∈ s.pkg.damage, f.place < 4) →
    exec .scrub s = .next (modPkg s (fun g => { g with damage := [] }))) ∧
  (∀ t, t < 4 → tableBad s t = true → (∀ u ∈ [0, 1, 2, 3], u ≠ t → tableBad s u = false) → s.dev.fatal = false →
    ∃ v, exec .scrub s = .next v ∧ v.dev.fatal = true ∧
      v.mem = (postNotice (modDev s (fun d => { d with fatal := true })) 5 0 t).mem ∧ v.ctxs = s.ctxs ∧ v.clusters = s.clusters) ∧
  (∀ cl off b, cl < 80 → off < 768 * 4096 → b < 8 → ∃ t, exec (.softError (.mere cl off b)) s = .next t ∧
    t.mem.mere = s.mem.mere ∧ t.mem.hbm = s.mem.hbm ∧ t.mem.carved = s.mem.carved ∧ t.ctxs = s.ctxs ∧ t.pkg = s.pkg) ∧
  (∀ t w c b, t < 4 → c < 2 → b < 72 → (∀ f ∈ s.pkg.damage, f ≠ { place := t, addr := 2 * w + c, bit := b }) →
    exec (.softError (.table t w c b)) s =
      .next (modPkg s (fun g => { g with damage := { place := t, addr := 2 * w + c, bit := b } :: g.damage }))) ∧
  (∀ cl bn i j b, cl < 80 → bn < 4 → i < 256 → j < 256 → b < 32 →
    exec (.softError (.bankElem cl bn i j b)) s = .next (putBank s cl bn { getBank s cl bn with
      el := smSet (getBank s cl bn).el (256 * i + j) (smGet (getBank s cl bn).el (256 * i + j) 0 ^^^ 2 ^ b) 0 })) ∧
  (∀ n i, s.pkg.invals[n]? = some i → invalHeld s (invalKind i.word.toNat) = false →
    ∃ m j, s.pkg.invals[m]? = some j ∧ invalHeld s (invalKind j.word.toNat) = false ∧ (s.which = n → m = n) ∧
      exec .invalidationPerformed s = .next (invalDone (dropMatches (modPkg s (fun g => { g with invals := g.invals.eraseIdx m }))
        (invalKind j.word.toNat)) j)) ∧
  (∀ m ∈ s.pkg.migrations, migrationHeld s m = false →
    ∃ k ∈ s.pkg.migrations, exec .hmovMigrate s = .next (finishMigration s k))

/-! ## Power, resets and the host -/

/-- Power, heat and resets (13 R450; 17 R476, R477, R482, R491, R497 to R500): what each event does; power loss keeps boot flash and
the host's memory (posted writes reach the host first: log 105) and no more; a power-on reset and a warm reset begin the boot, whose
stages and codes follow; a warm reset keeps HBM4, but for lines that stood only in Tarn (log 25), and DEVTIME. What a function-level
reset keeps beside the torus fields and DEVTIME, and how long a stage of the boot takes, are the model's choices (logs 76, 75). -/
def Obligations.PowerAndResetSteps : Prop := ∀ (s : State),
  (∀ r, r < 8 → smFind s.dev.alarms r = none → exec (.droopAlarm r) s = .next (modDev s (fun d =>
    { d with alarms := smPut d.alarms r s.cyc, freezeUntil := smSet d.freezeUntil r (s.cyc + 8) 0 }))) ∧
  (∀ r a, smFind s.dev.alarms r = some a →
    exec (.droopAlarmCleared r) s = .next (modDev s (fun d => { d with alarms := smDel d.alarms r, okSince := s.cyc }))) ∧
  (∀ a ∈ s.dev.alarms, a.2 + 120000 ≤ s.cyc → s.dev.hold = false →
    exec .holdEnter s = .next (postNotice (modDev s (fun d => { d with hold := true, holdSince := s.cyc })) 11 0 0)) ∧
  (s.dev.hold = true → s.dev.alarms = [] → s.dev.okSince + 24000 ≤ s.cyc →
    let n := s.cyc - s.dev.holdSince
    let idle := idleLinks (modDev s (fun d => { d with hold := false })) n
    exec .holdExit s = .next (postNotice idle 12 0 (n * 5 / 6)) ∧
    ∀ l < 6, getLink idle l = if 2400000 < n ∧ s.pkg.units.getLsbD l = true ∧ (getLink s l).health = .up
      then { health := .retraining, since := s.cyc } else getLink s l) ∧
  (s.dev.hold = true → exec .supplyRetentionLoss s = .next (powerLost s)) ∧
  exec .thermalTrip s = .next (powerLost s) ∧
  ((powerLost s).dev.powered = false ∧ (powerLost s).ctxs = [] ∧ (powerLost s).mem.hbm = [] ∧ (powerLost s).mem.mere = [] ∧
    (powerLost s).mem.carved = [] ∧ (s.net.hostq = [] → (powerLost s).mem.host = s.mem.host) ∧
    (s.dev.flashBusy = none → (powerLost s).dev.flash = s.dev.flash)) ∧
  (s.dev.throttle = false → exec .throttleEnter s = .next (modDev s (fun d => { d with throttle := true }))) ∧
  (s.dev.throttle = true → exec .throttleExit s = .next (modDev s (fun d => { d with throttle := false }))) ∧
  exec .powerOnReset s = .next (boot (modDev (powerLost s) (fun d => { d with powered := true })) true) ∧
  (∀ cold, let t := boot s cold
    t.dev.boot = 1 ∧ t.dev.st = false ∧ t.dev.bootCold = cold ∧ s.cyc < t.dev.romUntil ∧ t.mem = s.mem ∧ t.ctxs = s.ctxs ∧ t.pkg = s.pkg) ∧
  (s.dev.boot = 1 → s.dev.romUntil ≤ s.cyc →
    let t := romGo s
    let cfg := configBlock s
    t.dev.boot = (if Config.flashAnswers s.draws = false then 5
      else if configSigned cfg = false then 3
      else if configOk s cfg = false then 4
      else if imageOk s cfg = false then 3
      else if s.dev.bootCold = true ∧ statusWord s 0x10 % 4 ≠ 0 then 2
      else 0) ∧
    t.dev.st = (if t.dev.boot = 2 then true else if t.dev.boot = 0 then false else s.dev.st)) ∧
  (s.dev.boot = 2 → s.dev.romUntil ≤ s.cyc → romGo s = bootEnds (selfTestRun s) ∧ (romGo s).dev.boot = 0 ∧ (romGo s).dev.st = false) ∧
  (∃ t, exec .warmReset s = .next t ∧ t = warm s ∧ t.ctxs = [] ∧ t.pkg.devtime = s.pkg.devtime ∧ t.dev.launched = false ∧
    t.dev.boot = 1 ∧ t.dev.bootCold = false ∧ t.mem.mere = [] ∧ t.mem.carved = [] ∧ (s.mem.dirty = [] → t.mem.hbm = s.mem.hbm)) ∧
  (s.dev.fatal = true → exec .functionLevelReset s = .next (warm s)) ∧
  (s.dev.fatal = false → ∃ t, exec .functionLevelReset s = .next t ∧ t.spring.deferred = [] ∧
    t.dev.expanded = false ∧ t.dev.launched = false ∧ t.dev.qpBase = 0 ∧ t.dev.mrBase = 0 ∧ t.dev.bar2 = 0 ∧ t.dev.flashWin = 0 ∧
    t.dev.ringBase = 0 ∧ t.dev.ringSize = 0 ∧ t.dev.ringHead = 0 ∧ t.dev.ringTail = 0 ∧ t.dev.droppedN = 0 ∧ t.dev.msix = 0 ∧
    t.dev.attBusy = false ∧ t.dev.attReport = [] ∧
    t.dev.tx = s.dev.tx ∧ t.dev.ty = s.dev.ty ∧ t.dev.tz = s.dev.tz ∧ t.dev.txn = s.dev.txn ∧ t.dev.tyn = s.dev.tyn ∧
    t.dev.tzn = s.dev.tzn ∧ t.dev.flash = s.dev.flash ∧ t.dev.boot = s.dev.boot ∧ t.pkg.devtime = s.pkg.devtime ∧
    (∀ cl, (getCl t cl).rowMap = (getCl s cl).rowMap) ∧
    (s.spring.insts = [] → t.mem = s.mem ∧ t.clusters = s.clusters ∧ t.pkg = s.pkg ∧ t.ctxs = s.ctxs)) ∧
  (∀ v n, exec (.resetreqWrite v n) s = .next (if n = 8 ∧ v = 0x5EED then warm s else s)) ∧
  (∀ v, exec (.smbusWarmReset v) s = .next (if v = 0x5EED then warm s else s))

/-- The host port and the management window (17 R479 to R485, R494; 06 R201; 13 R453): accesses of the host, writes of registers,
doorbells, the boot flash, attestation. That BAR0 answers in FATAL and before the boot has ended, what fails beyond HBM4 and that flash
operations are ignored while one goes on are the model's choices (log 79). -/
def Obligations.HostSteps : Prop := ∀ (s : State),
  (∀ e v, e < 256 → v.getLsbD 0 = true → ∃ t, exec (.doorbellArm e v) s = .next t ∧
    (s.dev.boot = 0 → s.dev.fatal = false → v = 1 → t = setArm s e true) ∧ (v ≠ 1 → t = s) ∧ (s.dev.fatal = true → t = s)) ∧
  (∀ e v, e < 256 → v.getLsbD 0 = false → ∃ t, exec (.doorbellDisarm e v) s = .next t ∧
    (s.dev.boot = 0 → s.dev.fatal = false → v = 0 → t = setArm s e false) ∧ (v ≠ 0 → t = s) ∧ (s.dev.fatal = true → t = s)) ∧
  (∀ w, exec (.hostInvalidate w) s = .next (modPkg s (fun g => { g with invals := g.invals ++ [{ word := w, src := none }] }))) ∧
  (∀ w, exec (.hostPurgeRequest w) s = .next (if w.extractLsb' 0 16 = 0 ∨ s.dev.fatal = true then s else startPurge s (w.extractLsb' 0 16) (purgeCode .host))) ∧
  (∀ w, ∃ t, exec (.mgmtcfgWrite w) s = .next t ∧ t.dev.expanded = w.getLsbD 32 ∧
    (s.dev.launched = true → t = modDev s (fun d => { d with expanded := w.getLsbD 32 })) ∧
    (s.dev.launched = false → torusOk s w.toNat = true → t.dev.txn = bits w.toNat 3 0 ∧ t.dev.tyn = bits w.toNat 7 4 ∧
      t.dev.tzn = bits w.toNat 11 8 ∧ t.dev.tx = bits w.toNat 15 12 ∧ t.dev.ty = bits w.toNat 19 16 ∧ t.dev.tz = bits w.toNat 23 20)) ∧
  (∀ cl w, cl < 80 → exec (.pairmodeWrite cl w) s = .next (setPairmode s cl w.toNat true)) ∧
  (∀ w, exec (.devtimeLWrite w) s = .next (modPkg s (fun g => { g with devtime := g.stagedH ++ w }))) ∧
  (∀ w, w.getLsbD 0 = true → s.dev.flashBusy = none →
    exec (.bootFlashErase w) s = .next (modDev s (fun d => { d with flashBusy := some (bits w.toNat 25 12 * 4096, []) }))) ∧
  (∀ w, w.getLsbD 0 = false ∨ s.dev.flashBusy.isSome = true → exec (.bootFlashErase w) s = .next s) ∧
  (∀ off w, off < 2 ^ 21 → s.dev.flashBusy = none →
    (∀ b ∈ flashGet s (s.dev.flashWin.toNat * 2 ^ 21 + off / 8 * 8) 8, b = 0xFF) → exec (.bootFlashProgram off w) s =
      .next (modDev s (fun d => { d with flashBusy := some (s.dev.flashWin.toNat * 2 ^ 21 + off / 8 * 8, natLe 8 w.toNat) }))) ∧
  (s.dev.flashBusy.isSome = true → ∃ t, exec .bootFlashOperationComplete s = .next t ∧ t.dev.flashBusy = none ∧
    ∀ a bs, s.dev.flashBusy = some (a, bs) → flashGet t a (if bs = [] then 4096 else bs.length) =
      if bs = [] then List.replicate 4096 0xFF else bs) ∧
  (∃ t, exec .droppedCountRead s = .next t ∧ t.dev.droppedN = 0 ∧ t.dev.hostOut = natLe 8 s.dev.droppedN.toNat ∧ t.mem = s.mem) ∧
  (exec .attestationRequest s = .next (if s.dev.attBusy then s else modDev s (fun d => { d with attBusy := true, attNonce := d.nonce }))) ∧
  (s.dev.attBusy = true → ∃ t, exec .attestationReady s = .next t ∧ t.dev.attBusy = false ∧
    t.dev.attReport = reportBody s ++ (natLe 96 (Config.identitySignature (reportBody s)).toNat).reverse ∧ t.mem = s.mem) ∧
  (∀ o n, o + n ≤ 2 ^ 22 → n ≤ 4096 → exec (.hostMemoryAccess (.bar0 o n)) s = .next (bar0Read s o n)) ∧
  (∀ a pa n, hostShape a = true → hostSpan s a = some (pa, n) →
    (s.dev.fatal = true ∨ s.dev.boot ≠ 0 ∨ hbmBytes < pa + n → exec (.hostMemoryAccess a) s = .next (hostFails s)) ∧
    (s.dev.fatal = false → s.dev.boot = 0 → pa + n ≤ hbmBytes → s.dev.hold = false → frozenPhys s pa n = false →
      exec (.hostMemoryAccess a) s = .next (hostDoes (compared s 3) a))) ∧
  (∀ o w, o % 8 = 0 → o < 2 ^ 22 → exec (.registerWrite o w) s = .next (bar0Write s o w))

/-- The SMBus target and the IEEE 1149.1 port (17 R501). That a read of the dropped count here does not clear it, that readings and
pins are free values, and the codes of the instruction register are the model's choices (logs 78, 9, 10). -/
def Obligations.ManagementPorts : Prop := ∀ (s : State),
  exec .smbusReadDevstat s = .next (smbusGives s (natLe 8 (devstat s))) ∧
  (∀ n, ∃ t, exec (.smbusReadTemperature n) s = .next t ∧ t.dev.smbusOut = natLe 8 (Config.sensorTemperature s.draws n).toNat ∧
    t.mem = s.mem ∧ t.ctxs = s.ctxs) ∧
  (∃ t, exec .smbusReadPower s = .next t ∧ t.dev.smbusOut = natLe 8 (Config.sensorPower s.draws).toNat ∧ t.mem = s.mem ∧ t.ctxs = s.ctxs) ∧
  exec .smbusReadDropped s = .next (smbusGives s (natLe 8 s.dev.droppedN.toNat)) ∧
  exec .jtagBypass s = .next (modDev s (fun d => { d with jtagIr := 3, jtagOut := [false] })) ∧
  (∃ t, exec .jtagIdcode s = .next t ∧ t.dev.jtagOut = (List.range 32).map (fun i => (0x0B061C4F : Nat).testBit i) ∧ t.mem = s.mem) ∧
  (∀ pins, ∃ t, exec (.jtagSamplePreload pins) s = .next t ∧ t.dev.jtagBsr = pins ∧ t.dev.jtagOut = Config.pinLevels s.draws ∧ t.mem = s.mem) ∧
  (∃ t, exec .jtagExtest s = .next t ∧ t.dev.jtagOut = Config.pinLevels s.draws ∧ t.dev.jtagBsr = s.dev.jtagBsr ∧ t.mem = s.mem)

/-! ## The frame, the step, decoding and the invariants -/

/-- The frame of the register-only operations at U (03 R84, R94): memory, the package, the fabric, the host interface, Spring and
every other context are as before; of the issuing context the program counter, every control, trap and special register, its
streams and operations, and every register but the operation's destinations; flags are only raised. -/
def Obligations.RegisterOperationFrame : Prop := ∀ (i : Instr) (s s1 t : State) (x x1 : Ctx), registerOnly i = true →
  Issues i s x s1 x1 → x.lvl = 0 → exec i s = .next t →
  t.mem = s.mem ∧ t.pkg = s.pkg ∧ t.dev = s.dev ∧ t.net = s.net ∧ t.spring = s.spring ∧ t.ghosts = s.ghosts ∧
  (∀ c, ctxKey c ≠ ctxKey s.cur → getCtx t c = getCtx s c) ∧
  ∃ y, getCtx t s.cur = some y ∧ exceptIssue y = exceptIssue x ∧ x.fpflags ||| y.fpflags = y.fpflags ∧
    ∀ r, r ∉ (opOf i).writes → rdReg y r = rdReg (settled x) r

/-- A step runs what is scheduled (log 2): the cycles pass, the unit must run, and the instruction is executed; where it is the
presentation of a bundle that decodes, the machine stands where the presentation of that bundle leaves it. Where nothing is scheduled
the step that the machine chooses is run, or the boot ROM goes on. While the boot ROM does not run, the cycles that pass
change no byte of HBM4, Mere or the carve, no bank, granule holder or row map, and in HOLD no context, cluster, walker or link. -/
def Obligations.StepRunsScheduled : Prop := (∀ (s : State) (n w : Nat) (i : Instr) (rest : List (Nat × Nat × Instr)),
  s.agenda = (n, w, i) :: rest →
  let s1 : State := { passTime n { s with agenda := rest } with which := w }
  (stopped i s1 = none → step s = exec i s1) ∧ (∀ f, stopped i s1 = some f → step s = .fault f) ∧
  (∀ cl core s2 x h ws b, i = .presentBundle cl core → stopped i s1 = none → pickCtx s1 cl core = some x → x.joined = false →
    x.trapWait = none → x.eretWait = false → fetchBundle (runs s1 x) x = (s2, .inl (h, ws)) → decodeBundle h ws = .inl b →
    treeHeld x b = false → step s = .next (presented x (present s2 x (bundleIssue x { bundle := b, bad := none }))))) ∧
  (∀ s : State, s.agenda = [] →
  (∀ i, pick s = some i → stopped i { passTime 1 s with which := 0 } = none → step s = exec i { passTime 1 s with which := 0 }) ∧
  (pick s = none → (inRom s = true → step s = .next (passTime (s.dev.romUntil - s.cyc) s)) ∧ (inRom s = false → step s = .refused .idle))) ∧
  (∀ (s : State) (n : Nat), inRom s = false →
  let t := passTime n s
  t.cyc = s.cyc + n ∧ t.ran = (if s.dev.hold then s.ran else s.ran + n) ∧ t.spring.insts = s.spring.insts ∧
  ((∀ o ∈ s.net.out, undeliverable s o = false) → t.dev = s.dev ∧ (s.net.hostq = [] → t.mem = s.mem)) ∧
  t.mem.hbm = s.mem.hbm ∧ t.mem.mere = s.mem.mere ∧ t.mem.carved = s.mem.carved ∧
  (∀ cl, (getCl t cl).banks = (getCl s cl).banks ∧ (getCl t cl).grans = (getCl s cl).grans ∧ (getCl t cl).rowMap = (getCl s cl).rowMap) ∧
  (s.dev.hold = true → t.ctxs = s.ctxs ∧ t.clusters = s.clusters ∧ t.spring = s.spring ∧ t.net = s.net) ∧
  t.pkg.devtime = s.pkg.devtime + BitVec.ofNat 80 ((s.pkg.rateFrac + s.pkg.rate.toNat * n) / 2 ^ 24))

/-- Words of the manual's examples, slot by slot (04, 05, 06, 08, 09, 10, 11, 12, 13), decode to what they stand for. -/
def Obligations.ExampleWordsDecode : Prop := decodeSlot .sa none 0x00230C05FFFFFFFF = .inl (.addi { d := 12, a := 12, x := 0x05, imm := 0xFFFFFFFF }) ∧
  decodeSlot .sa none 0x0270841400020000 = .inl (.cmp { d := 2, a := 4, b := 5, e := 0, x := 2, f := 0, rm := 0 }) ∧
  decodeSlot .sb none 0x0280442000000064 = .inl (.cmpi { d := 1, a := 4, x := 0x20, imm := 100 }) ∧
  decodeSlot .sa none 0x0435155970000E00 = .inl (.ffma { d := 20, a := 21, b := 22, e := 23, x := 0, f := 0, rm := 7 }) ∧
  decodeSlot .br none 0x0040000200000000 = .inl (.call { off := 0x2000 }) ∧
  decodeSlot .ls none 0x0011000001540004 = .inl (.ld { ss := 1, pm := 0, d := 5, a := 20, st := 0, m := 0, x := 4 }) ∧
  decodeSlot .sy none 0x0030000000001800 = .inl (.waits { ss := 0, pm := 0, d := 0, a := 0, b := 0, x := 0x1800 }) ∧
  decodeSlot .mx none 0x0061000080000000 = .inl (.mchk { ss := 1, pm := 0, acc := 2, ra := 0, rb := 0, x := 0, sg := 0 }) ∧
  decodeSlot .cp none 0x0011000005000100 = .inl (.cpy { ss := 1, pm := 0, v := 20, sg := 0, st := 1, x := 0 }) ∧
  decodeSlot .sy none 0x0110000050000021 = .inl (.csrr { ss := 0, pm := 0, d := 20, a := 0, b := 0, x := 0x21 }) ∧
  decodeSlot .va none 0x0010300A02C80000 = .inl (.vadd { d := 12, a := 10, b := 11, m := 2, f := 0, g := 0, rm := 0, x := 0 }) ∧
  decodeSlot .vb none 0x01E0A02000181003 = .inl (.vredRsum { d := 40, a := 32, b := 0, m := 6, f := 0, g := 4, rm := 0, x := 3 }) ∧
  decodeSlot .sx none 0x0012000214302000 = .inl (.kld { ss := 2, pm := 2, d := 5, a := 3, st := 2 }) ∧
  decodeSlot .xf none 0x0040500400C79003 = .inl (.xqnt { d := 20, a := 4, b := 3, k := 7, f := 9, g := 0, rm := 0, x := 3 })

/-- What reset leaves of the values the manual gives (06 R199 to R201; 09 R284; 11 R353, R366; 13 R453, R456; 02 R76; 17 R482,
R483), with every memory in canonical form and no context resident; and the registers wired to a constant read it whatever is
written to them (04 R113, R114, R117; 05 R149). -/
def Obligations.ResetAndFixedRegisters : Prop := (∀ cl k, (getCore State.reset cl k).trapRoute = 0 ∧ (getCore State.reset cl k).wdog = 0x0001_0000_0000 ∧
    (getCore State.reset cl k).fifoMax = 0x0010_0000 ∧ (getCore State.reset cl k).freeze = 0) ∧
  (∀ cl j, (getPair State.reset cl j).cur = true ∧ (getPair State.reset cl j).dis = false) ∧
  State.reset.pkg.devtime = 0 ∧ State.reset.pkg.lossyDeadline = 50000 ∧ State.reset.pkg.errCorr = 0 ∧ State.reset.pkg.errPair = 0 ∧
  smGet State.reset.pkg.chktol 0 0 = 0x3A80_0000_0080_0000 ∧ State.reset.dev.expanded = false ∧ State.reset.dev.fatal = false ∧
  State.reset.dev.hold = false ∧ State.reset.ctxs = [] ∧ State.reset.mem.wf = true ∧
  (∀ (x : Ctx) (w : Word) (m : Mask) (b : Bool), rdS (wrS x 0 w) 0 = 0 ∧ rdC (wrC x 0 b) 0 = true ∧ (rdCC (wrC x 0 b)).getLsbD 0 = true ∧
    rdM (wrM x 0 m) 0 = BitVec.allOnes 128 ∧ wrS x 0 w = x ∧ wrC x 0 b = x ∧ wrM x 0 m = x) ∧
  (∀ (x : Ctx) (n : Nat) (w : Word) (k : Nat), 12 ≤ k → k ≤ 62 → (rdH (wrH x n w) n).getLsbD k = false)

/-- Every step keeps every memory of the machine in its canonical form. -/
def Obligations.MemoryFormKept : Prop := ∀ s t : State, s.mem.wf = true → step s = .next t → t.mem.wf = true

/-- Every legal slot operation decodes from its own encoding: in either slot of its class, with any path tag that its slot
may carry, every operand at every value; and the bundle that holds it alone decodes to it. -/
def Obligations.DecodeEncodeAgree : Prop := ∀ i : Instr, Sys2Proof.Laws.RoundTrip.Statement i
end

