-- ==== Sys2Proof/Laws/SMap.lean ====
section
/-!
SUPPORT. Laws of sparse maps: reads after updates, and the canonical form that every update keeps.
-/
namespace Sys2Proof.Machine

variable {α : Type}

@[simp] theorem smFind_nil (k : Nat) : smFind ([] : SMap α) k = none := rfl

@[simp] theorem smGet_nil (k : Nat) (d : α) : smGet [] k d = d := rfl

theorem smFind_put_same (m : SMap α) (k : Nat) (v : α) : smFind (smPut m k v) k = some v := by
  induction m with
  | nil => simp [smPut, smFind]
  | cons p rest ih =>
    obtain ⟨j, w⟩ := p
    unfold smPut
    split
    · simp [smFind]
    · split
      · simp [smFind]
      · have : j ≠ k := fun e => by subst e; contradiction
        simp [smFind, this, ih]

theorem smFind_put_other (m : SMap α) {k j : Nat} (v : α) (h : j ≠ k) : smFind (smPut m k v) j = smFind m j := by
  have hk : k ≠ j := Ne.symm h
  induction m with
  | nil => simp [smPut, smFind, hk]
  | cons p rest ih =>
    obtain ⟨i, w⟩ := p
    unfold smPut
    split
    · simp [smFind, hk]
    · split
      · next e => subst e; simp [smFind, hk]
      · simp only [smFind]; split
        · rfl
        · exact ih

/-- A read after a put: the value put, or what was there. -/
theorem smFind_put (m : SMap α) (k j : Nat) (v : α) : smFind (smPut m k v) j = if j = k then some v else smFind m j := by
  split
  · next h => subst h; exact smFind_put_same m j v
  · next h => exact smFind_put_other m v h

theorem smFind_del (m : SMap α) (k j : Nat) : smFind (smDel m k) j = if j = k then none else smFind m j := by
  induction m with
  | nil => simp [smDel]
  | cons p rest ih =>
    obtain ⟨i, w⟩ := p
    unfold smDel
    split
    · next e =>
      subst e; rw [ih]; simp only [smFind]
      split
      · rfl
      · next h => simp [Ne.symm h]
    · next e =>
      simp only [smFind, ih]
      split
      · next h => subst h; simp [e]
      · rfl

/-- A read after a put with a default. -/
theorem smGet_put (m : SMap α) (k j : Nat) (v d : α) : smGet (smPut m k v) j d = if j = k then v else smGet m j d := by
  simp only [smGet, smFind_put]; split <;> rfl

theorem smGet_del (m : SMap α) (k j : Nat) (d : α) : smGet (smDel m k) j d = if j = k then d else smGet m j d := by
  simp only [smGet, smFind_del]; split <;> rfl

/-- A read after a canonical put: an unlisted key reads as the default. -/
theorem smGet_set [DecidableEq α] (m : SMap α) (k j : Nat) (v d : α) :
    smGet (smSet m k v d) j d = if j = k then v else smGet m j d := by
  unfold smSet
  split
  · next h => rw [smGet_del, h]
  · rw [smGet_put]

/-! ## The canonical form -/

theorem smRising_mono {lo hi : Nat} (h : lo ≤ hi) {m : SMap α} (hm : smRising hi m = true) : smRising lo m = true := by
  cases m with
  | nil => rfl
  | cons p rest =>
    obtain ⟨k, v⟩ := p
    simp only [smRising, Bool.and_eq_true, decide_eq_true_eq] at hm ⊢
    exact ⟨Nat.le_trans h hm.1, hm.2⟩

theorem smRising_put {lo k : Nat} (hk : lo ≤ k) (v : α) {m : SMap α} (hm : smRising lo m = true) :
    smRising lo (smPut m k v) = true := by
  induction m generalizing lo with
  | nil => simp [smPut, smRising, hk]
  | cons p rest ih =>
    obtain ⟨j, w⟩ := p
    simp only [smRising, Bool.and_eq_true, decide_eq_true_eq] at hm
    unfold smPut
    split
    · next h => simp [smRising, hk, hm.2]; omega
    · split
      · next h => subst h; simp [smRising, hk, hm.2]
      · next h1 h2 =>
        simp only [smRising, Bool.and_eq_true, decide_eq_true_eq]
        exact ⟨hm.1, ih (by omega) hm.2⟩

theorem smRising_del {lo : Nat} (k : Nat) {m : SMap α} (hm : smRising lo m = true) : smRising lo (smDel m k) = true := by
  induction m generalizing lo with
  | nil => rfl
  | cons p rest ih =>
    obtain ⟨j, w⟩ := p
    simp only [smRising, Bool.and_eq_true, decide_eq_true_eq] at hm
    unfold smDel
    split
    · exact ih (smRising_mono (by omega) hm.2)
    · simp only [smRising, Bool.and_eq_true, decide_eq_true_eq]
      exact ⟨hm.1, ih hm.2⟩

theorem mem_smPut {m : SMap α} {k : Nat} {v : α} {p : Nat × α} (h : p ∈ smPut m k v) : p = (k, v) ∨ p ∈ m := by
  induction m with
  | nil => simpa [smPut] using h
  | cons q rest ih =>
    obtain ⟨j, w⟩ := q
    unfold smPut at h
    split at h
    · simpa using h
    · split at h
      · rcases List.mem_cons.mp h with h | h
        · exact .inl h
        · exact .inr (List.mem_cons_of_mem _ h)
      · rcases List.mem_cons.mp h with h | h
        · exact .inr (h ▸ List.mem_cons_self)
        · rcases ih h with h | h
          · exact .inl h
          · exact .inr (List.mem_cons_of_mem _ h)

theorem mem_smDel {m : SMap α} {k : Nat} {p : Nat × α} (h : p ∈ smDel m k) : p ∈ m := by
  induction m with
  | nil => simpa [smDel] using h
  | cons q rest ih =>
    obtain ⟨j, w⟩ := q
    unfold smDel at h
    split at h
    · exact List.mem_cons_of_mem _ (ih h)
    · rcases List.mem_cons.mp h with h | h
      · exact h ▸ List.mem_cons_self
      · exact List.mem_cons_of_mem _ (ih h)

/-- A canonical put keeps the canonical form. -/
theorem smWf_set [DecidableEq α] (d : α) {m : SMap α} (k : Nat) (v : α) (hm : smWf d m = true) : smWf d (smSet m k v d) = true := by
  simp only [smWf, Bool.and_eq_true, List.all_eq_true, decide_eq_true_eq] at hm ⊢
  unfold smSet
  split
  · exact ⟨smRising_del k hm.1, fun p hp => hm.2 p (mem_smDel hp)⟩
  · next h =>
    refine ⟨smRising_put (Nat.zero_le k) v hm.1, fun p hp => ?_⟩
    rcases mem_smPut hp with rfl | hp
    · exact h
    · exact hm.2 p hp

end Sys2Proof.Machine
end

