-- ==== Sys2Proof/Laws/State.lean ====
section
/-!
SUPPORT. Reads of State after its updates: one lemma for each field an update leaves, and the reads of the parts that an update
writes.
-/
namespace Sys2Proof.Machine

variable (s : State)

/-! ## putCtx -/

@[simp] theorem putCtx_cyc (x : Ctx) : (putCtx s x).cyc = s.cyc := rfl
@[simp] theorem putCtx_ran (x : Ctx) : (putCtx s x).ran = s.ran := rfl
@[simp] theorem putCtx_ghosts (x : Ctx) : (putCtx s x).ghosts = s.ghosts := rfl
@[simp] theorem putCtx_clusters (x : Ctx) : (putCtx s x).clusters = s.clusters := rfl
@[simp] theorem putCtx_mem (x : Ctx) : (putCtx s x).mem = s.mem := rfl
@[simp] theorem putCtx_pkg (x : Ctx) : (putCtx s x).pkg = s.pkg := rfl
@[simp] theorem putCtx_net (x : Ctx) : (putCtx s x).net = s.net := rfl
@[simp] theorem putCtx_dev (x : Ctx) : (putCtx s x).dev = s.dev := rfl
@[simp] theorem putCtx_spring (x : Ctx) : (putCtx s x).spring = s.spring := rfl
@[simp] theorem putCtx_agenda (x : Ctx) : (putCtx s x).agenda = s.agenda := rfl
@[simp] theorem putCtx_which (x : Ctx) : (putCtx s x).which = s.which := rfl
@[simp] theorem putCtx_cur (x : Ctx) : (putCtx s x).cur = s.cur := rfl
@[simp] theorem putCtx_iss (x : Ctx) : (putCtx s x).iss = s.iss := rfl
@[simp] theorem putCtx_draws (x : Ctx) : (putCtx s x).draws = s.draws := rfl

/-! ## dropCtx -/

@[simp] theorem dropCtx_cyc (c : CtxId) : (dropCtx s c).cyc = s.cyc := rfl
@[simp] theorem dropCtx_ran (c : CtxId) : (dropCtx s c).ran = s.ran := rfl
@[simp] theorem dropCtx_ghosts (c : CtxId) : (dropCtx s c).ghosts = s.ghosts := rfl
@[simp] theorem dropCtx_clusters (c : CtxId) : (dropCtx s c).clusters = s.clusters := rfl
@[simp] theorem dropCtx_mem (c : CtxId) : (dropCtx s c).mem = s.mem := rfl
@[simp] theorem dropCtx_pkg (c : CtxId) : (dropCtx s c).pkg = s.pkg := rfl
@[simp] theorem dropCtx_net (c : CtxId) : (dropCtx s c).net = s.net := rfl
@[simp] theorem dropCtx_dev (c : CtxId) : (dropCtx s c).dev = s.dev := rfl
@[simp] theorem dropCtx_spring (c : CtxId) : (dropCtx s c).spring = s.spring := rfl
@[simp] theorem dropCtx_agenda (c : CtxId) : (dropCtx s c).agenda = s.agenda := rfl
@[simp] theorem dropCtx_which (c : CtxId) : (dropCtx s c).which = s.which := rfl
@[simp] theorem dropCtx_cur (c : CtxId) : (dropCtx s c).cur = s.cur := rfl
@[simp] theorem dropCtx_iss (c : CtxId) : (dropCtx s c).iss = s.iss := rfl
@[simp] theorem dropCtx_draws (c : CtxId) : (dropCtx s c).draws = s.draws := rfl

/-! ## putCl -/

@[simp] theorem putCl_cyc (n : Nat) (x : Cluster) : (putCl s n x).cyc = s.cyc := rfl
@[simp] theorem putCl_ran (n : Nat) (x : Cluster) : (putCl s n x).ran = s.ran := rfl
@[simp] theorem putCl_ctxs (n : Nat) (x : Cluster) : (putCl s n x).ctxs = s.ctxs := rfl
@[simp] theorem putCl_ghosts (n : Nat) (x : Cluster) : (putCl s n x).ghosts = s.ghosts := rfl
@[simp] theorem putCl_mem (n : Nat) (x : Cluster) : (putCl s n x).mem = s.mem := rfl
@[simp] theorem putCl_pkg (n : Nat) (x : Cluster) : (putCl s n x).pkg = s.pkg := rfl
@[simp] theorem putCl_net (n : Nat) (x : Cluster) : (putCl s n x).net = s.net := rfl
@[simp] theorem putCl_dev (n : Nat) (x : Cluster) : (putCl s n x).dev = s.dev := rfl
@[simp] theorem putCl_spring (n : Nat) (x : Cluster) : (putCl s n x).spring = s.spring := rfl
@[simp] theorem putCl_agenda (n : Nat) (x : Cluster) : (putCl s n x).agenda = s.agenda := rfl
@[simp] theorem putCl_which (n : Nat) (x : Cluster) : (putCl s n x).which = s.which := rfl
@[simp] theorem putCl_cur (n : Nat) (x : Cluster) : (putCl s n x).cur = s.cur := rfl
@[simp] theorem putCl_iss (n : Nat) (x : Cluster) : (putCl s n x).iss = s.iss := rfl
@[simp] theorem putCl_draws (n : Nat) (x : Cluster) : (putCl s n x).draws = s.draws := rfl

/-! ## modCl -/

@[simp] theorem modCl_cyc (n : Nat) (f : Cluster → Cluster) : (modCl s n f).cyc = s.cyc := rfl
@[simp] theorem modCl_ran (n : Nat) (f : Cluster → Cluster) : (modCl s n f).ran = s.ran := rfl
@[simp] theorem modCl_ctxs (n : Nat) (f : Cluster → Cluster) : (modCl s n f).ctxs = s.ctxs := rfl
@[simp] theorem modCl_ghosts (n : Nat) (f : Cluster → Cluster) : (modCl s n f).ghosts = s.ghosts := rfl
@[simp] theorem modCl_mem (n : Nat) (f : Cluster → Cluster) : (modCl s n f).mem = s.mem := rfl
@[simp] theorem modCl_pkg (n : Nat) (f : Cluster → Cluster) : (modCl s n f).pkg = s.pkg := rfl
@[simp] theorem modCl_net (n : Nat) (f : Cluster → Cluster) : (modCl s n f).net = s.net := rfl
@[simp] theorem modCl_dev (n : Nat) (f : Cluster → Cluster) : (modCl s n f).dev = s.dev := rfl
@[simp] theorem modCl_spring (n : Nat) (f : Cluster → Cluster) : (modCl s n f).spring = s.spring := rfl
@[simp] theorem modCl_agenda (n : Nat) (f : Cluster → Cluster) : (modCl s n f).agenda = s.agenda := rfl
@[simp] theorem modCl_which (n : Nat) (f : Cluster → Cluster) : (modCl s n f).which = s.which := rfl
@[simp] theorem modCl_cur (n : Nat) (f : Cluster → Cluster) : (modCl s n f).cur = s.cur := rfl
@[simp] theorem modCl_iss (n : Nat) (f : Cluster → Cluster) : (modCl s n f).iss = s.iss := rfl
@[simp] theorem modCl_draws (n : Nat) (f : Cluster → Cluster) : (modCl s n f).draws = s.draws := rfl

/-! ## putCore -/

@[simp] theorem putCore_cyc (n k : Nat) (y : Core) : (putCore s n k y).cyc = s.cyc := rfl
@[simp] theorem putCore_ran (n k : Nat) (y : Core) : (putCore s n k y).ran = s.ran := rfl
@[simp] theorem putCore_ctxs (n k : Nat) (y : Core) : (putCore s n k y).ctxs = s.ctxs := rfl
@[simp] theorem putCore_ghosts (n k : Nat) (y : Core) : (putCore s n k y).ghosts = s.ghosts := rfl
@[simp] theorem putCore_mem (n k : Nat) (y : Core) : (putCore s n k y).mem = s.mem := rfl
@[simp] theorem putCore_pkg (n k : Nat) (y : Core) : (putCore s n k y).pkg = s.pkg := rfl
@[simp] theorem putCore_net (n k : Nat) (y : Core) : (putCore s n k y).net = s.net := rfl
@[simp] theorem putCore_dev (n k : Nat) (y : Core) : (putCore s n k y).dev = s.dev := rfl
@[simp] theorem putCore_spring (n k : Nat) (y : Core) : (putCore s n k y).spring = s.spring := rfl
@[simp] theorem putCore_agenda (n k : Nat) (y : Core) : (putCore s n k y).agenda = s.agenda := rfl
@[simp] theorem putCore_which (n k : Nat) (y : Core) : (putCore s n k y).which = s.which := rfl
@[simp] theorem putCore_cur (n k : Nat) (y : Core) : (putCore s n k y).cur = s.cur := rfl
@[simp] theorem putCore_iss (n k : Nat) (y : Core) : (putCore s n k y).iss = s.iss := rfl
@[simp] theorem putCore_draws (n k : Nat) (y : Core) : (putCore s n k y).draws = s.draws := rfl

/-! ## modCore -/

@[simp] theorem modCore_cyc (n k : Nat) (f : Core → Core) : (modCore s n k f).cyc = s.cyc := rfl
@[simp] theorem modCore_ran (n k : Nat) (f : Core → Core) : (modCore s n k f).ran = s.ran := rfl
@[simp] theorem modCore_ctxs (n k : Nat) (f : Core → Core) : (modCore s n k f).ctxs = s.ctxs := rfl
@[simp] theorem modCore_ghosts (n k : Nat) (f : Core → Core) : (modCore s n k f).ghosts = s.ghosts := rfl
@[simp] theorem modCore_mem (n k : Nat) (f : Core → Core) : (modCore s n k f).mem = s.mem := rfl
@[simp] theorem modCore_pkg (n k : Nat) (f : Core → Core) : (modCore s n k f).pkg = s.pkg := rfl
@[simp] theorem modCore_net (n k : Nat) (f : Core → Core) : (modCore s n k f).net = s.net := rfl
@[simp] theorem modCore_dev (n k : Nat) (f : Core → Core) : (modCore s n k f).dev = s.dev := rfl
@[simp] theorem modCore_spring (n k : Nat) (f : Core → Core) : (modCore s n k f).spring = s.spring := rfl
@[simp] theorem modCore_agenda (n k : Nat) (f : Core → Core) : (modCore s n k f).agenda = s.agenda := rfl
@[simp] theorem modCore_which (n k : Nat) (f : Core → Core) : (modCore s n k f).which = s.which := rfl
@[simp] theorem modCore_cur (n k : Nat) (f : Core → Core) : (modCore s n k f).cur = s.cur := rfl
@[simp] theorem modCore_iss (n k : Nat) (f : Core → Core) : (modCore s n k f).iss = s.iss := rfl
@[simp] theorem modCore_draws (n k : Nat) (f : Core → Core) : (modCore s n k f).draws = s.draws := rfl

/-! ## modPair -/

@[simp] theorem modPair_cyc (n p : Nat) (f : Pair → Pair) : (modPair s n p f).cyc = s.cyc := rfl
@[simp] theorem modPair_ran (n p : Nat) (f : Pair → Pair) : (modPair s n p f).ran = s.ran := rfl
@[simp] theorem modPair_ctxs (n p : Nat) (f : Pair → Pair) : (modPair s n p f).ctxs = s.ctxs := rfl
@[simp] theorem modPair_ghosts (n p : Nat) (f : Pair → Pair) : (modPair s n p f).ghosts = s.ghosts := rfl
@[simp] theorem modPair_mem (n p : Nat) (f : Pair → Pair) : (modPair s n p f).mem = s.mem := rfl
@[simp] theorem modPair_pkg (n p : Nat) (f : Pair → Pair) : (modPair s n p f).pkg = s.pkg := rfl
@[simp] theorem modPair_net (n p : Nat) (f : Pair → Pair) : (modPair s n p f).net = s.net := rfl
@[simp] theorem modPair_dev (n p : Nat) (f : Pair → Pair) : (modPair s n p f).dev = s.dev := rfl
@[simp] theorem modPair_spring (n p : Nat) (f : Pair → Pair) : (modPair s n p f).spring = s.spring := rfl
@[simp] theorem modPair_agenda (n p : Nat) (f : Pair → Pair) : (modPair s n p f).agenda = s.agenda := rfl
@[simp] theorem modPair_which (n p : Nat) (f : Pair → Pair) : (modPair s n p f).which = s.which := rfl
@[simp] theorem modPair_cur (n p : Nat) (f : Pair → Pair) : (modPair s n p f).cur = s.cur := rfl
@[simp] theorem modPair_iss (n p : Nat) (f : Pair → Pair) : (modPair s n p f).iss = s.iss := rfl
@[simp] theorem modPair_draws (n p : Nat) (f : Pair → Pair) : (modPair s n p f).draws = s.draws := rfl

/-! ## putBank -/

@[simp] theorem putBank_cyc (n b : Nat) (y : Bank) : (putBank s n b y).cyc = s.cyc := rfl
@[simp] theorem putBank_ran (n b : Nat) (y : Bank) : (putBank s n b y).ran = s.ran := rfl
@[simp] theorem putBank_ctxs (n b : Nat) (y : Bank) : (putBank s n b y).ctxs = s.ctxs := rfl
@[simp] theorem putBank_ghosts (n b : Nat) (y : Bank) : (putBank s n b y).ghosts = s.ghosts := rfl
@[simp] theorem putBank_mem (n b : Nat) (y : Bank) : (putBank s n b y).mem = s.mem := rfl
@[simp] theorem putBank_pkg (n b : Nat) (y : Bank) : (putBank s n b y).pkg = s.pkg := rfl
@[simp] theorem putBank_net (n b : Nat) (y : Bank) : (putBank s n b y).net = s.net := rfl
@[simp] theorem putBank_dev (n b : Nat) (y : Bank) : (putBank s n b y).dev = s.dev := rfl
@[simp] theorem putBank_spring (n b : Nat) (y : Bank) : (putBank s n b y).spring = s.spring := rfl
@[simp] theorem putBank_agenda (n b : Nat) (y : Bank) : (putBank s n b y).agenda = s.agenda := rfl
@[simp] theorem putBank_which (n b : Nat) (y : Bank) : (putBank s n b y).which = s.which := rfl
@[simp] theorem putBank_cur (n b : Nat) (y : Bank) : (putBank s n b y).cur = s.cur := rfl
@[simp] theorem putBank_iss (n b : Nat) (y : Bank) : (putBank s n b y).iss = s.iss := rfl
@[simp] theorem putBank_draws (n b : Nat) (y : Bank) : (putBank s n b y).draws = s.draws := rfl

/-! ## modPkg -/

@[simp] theorem modPkg_cyc (f : Pkg → Pkg) : (modPkg s f).cyc = s.cyc := rfl
@[simp] theorem modPkg_ran (f : Pkg → Pkg) : (modPkg s f).ran = s.ran := rfl
@[simp] theorem modPkg_ctxs (f : Pkg → Pkg) : (modPkg s f).ctxs = s.ctxs := rfl
@[simp] theorem modPkg_ghosts (f : Pkg → Pkg) : (modPkg s f).ghosts = s.ghosts := rfl
@[simp] theorem modPkg_clusters (f : Pkg → Pkg) : (modPkg s f).clusters = s.clusters := rfl
@[simp] theorem modPkg_mem (f : Pkg → Pkg) : (modPkg s f).mem = s.mem := rfl
@[simp] theorem modPkg_net (f : Pkg → Pkg) : (modPkg s f).net = s.net := rfl
@[simp] theorem modPkg_dev (f : Pkg → Pkg) : (modPkg s f).dev = s.dev := rfl
@[simp] theorem modPkg_spring (f : Pkg → Pkg) : (modPkg s f).spring = s.spring := rfl
@[simp] theorem modPkg_agenda (f : Pkg → Pkg) : (modPkg s f).agenda = s.agenda := rfl
@[simp] theorem modPkg_which (f : Pkg → Pkg) : (modPkg s f).which = s.which := rfl
@[simp] theorem modPkg_cur (f : Pkg → Pkg) : (modPkg s f).cur = s.cur := rfl
@[simp] theorem modPkg_iss (f : Pkg → Pkg) : (modPkg s f).iss = s.iss := rfl
@[simp] theorem modPkg_draws (f : Pkg → Pkg) : (modPkg s f).draws = s.draws := rfl

/-! ## modDev -/

@[simp] theorem modDev_cyc (f : Dev → Dev) : (modDev s f).cyc = s.cyc := rfl
@[simp] theorem modDev_ran (f : Dev → Dev) : (modDev s f).ran = s.ran := rfl
@[simp] theorem modDev_ctxs (f : Dev → Dev) : (modDev s f).ctxs = s.ctxs := rfl
@[simp] theorem modDev_ghosts (f : Dev → Dev) : (modDev s f).ghosts = s.ghosts := rfl
@[simp] theorem modDev_clusters (f : Dev → Dev) : (modDev s f).clusters = s.clusters := rfl
@[simp] theorem modDev_mem (f : Dev → Dev) : (modDev s f).mem = s.mem := rfl
@[simp] theorem modDev_pkg (f : Dev → Dev) : (modDev s f).pkg = s.pkg := rfl
@[simp] theorem modDev_net (f : Dev → Dev) : (modDev s f).net = s.net := rfl
@[simp] theorem modDev_spring (f : Dev → Dev) : (modDev s f).spring = s.spring := rfl
@[simp] theorem modDev_agenda (f : Dev → Dev) : (modDev s f).agenda = s.agenda := rfl
@[simp] theorem modDev_which (f : Dev → Dev) : (modDev s f).which = s.which := rfl
@[simp] theorem modDev_cur (f : Dev → Dev) : (modDev s f).cur = s.cur := rfl
@[simp] theorem modDev_iss (f : Dev → Dev) : (modDev s f).iss = s.iss := rfl
@[simp] theorem modDev_draws (f : Dev → Dev) : (modDev s f).draws = s.draws := rfl

/-! ## modNet -/

@[simp] theorem modNet_cyc (f : Net → Net) : (modNet s f).cyc = s.cyc := rfl
@[simp] theorem modNet_ran (f : Net → Net) : (modNet s f).ran = s.ran := rfl
@[simp] theorem modNet_ctxs (f : Net → Net) : (modNet s f).ctxs = s.ctxs := rfl
@[simp] theorem modNet_ghosts (f : Net → Net) : (modNet s f).ghosts = s.ghosts := rfl
@[simp] theorem modNet_clusters (f : Net → Net) : (modNet s f).clusters = s.clusters := rfl
@[simp] theorem modNet_mem (f : Net → Net) : (modNet s f).mem = s.mem := rfl
@[simp] theorem modNet_pkg (f : Net → Net) : (modNet s f).pkg = s.pkg := rfl
@[simp] theorem modNet_dev (f : Net → Net) : (modNet s f).dev = s.dev := rfl
@[simp] theorem modNet_spring (f : Net → Net) : (modNet s f).spring = s.spring := rfl
@[simp] theorem modNet_agenda (f : Net → Net) : (modNet s f).agenda = s.agenda := rfl
@[simp] theorem modNet_which (f : Net → Net) : (modNet s f).which = s.which := rfl
@[simp] theorem modNet_cur (f : Net → Net) : (modNet s f).cur = s.cur := rfl
@[simp] theorem modNet_iss (f : Net → Net) : (modNet s f).iss = s.iss := rfl
@[simp] theorem modNet_draws (f : Net → Net) : (modNet s f).draws = s.draws := rfl

/-! ## modMem -/

@[simp] theorem modMem_cyc (f : Mem → Mem) : (modMem s f).cyc = s.cyc := rfl
@[simp] theorem modMem_ran (f : Mem → Mem) : (modMem s f).ran = s.ran := rfl
@[simp] theorem modMem_ctxs (f : Mem → Mem) : (modMem s f).ctxs = s.ctxs := rfl
@[simp] theorem modMem_ghosts (f : Mem → Mem) : (modMem s f).ghosts = s.ghosts := rfl
@[simp] theorem modMem_clusters (f : Mem → Mem) : (modMem s f).clusters = s.clusters := rfl
@[simp] theorem modMem_pkg (f : Mem → Mem) : (modMem s f).pkg = s.pkg := rfl
@[simp] theorem modMem_net (f : Mem → Mem) : (modMem s f).net = s.net := rfl
@[simp] theorem modMem_dev (f : Mem → Mem) : (modMem s f).dev = s.dev := rfl
@[simp] theorem modMem_spring (f : Mem → Mem) : (modMem s f).spring = s.spring := rfl
@[simp] theorem modMem_agenda (f : Mem → Mem) : (modMem s f).agenda = s.agenda := rfl
@[simp] theorem modMem_which (f : Mem → Mem) : (modMem s f).which = s.which := rfl
@[simp] theorem modMem_cur (f : Mem → Mem) : (modMem s f).cur = s.cur := rfl
@[simp] theorem modMem_iss (f : Mem → Mem) : (modMem s f).iss = s.iss := rfl
@[simp] theorem modMem_draws (f : Mem → Mem) : (modMem s f).draws = s.draws := rfl

/-! ## modSpring -/

@[simp] theorem modSpring_cyc (f : Spring → Spring) : (modSpring s f).cyc = s.cyc := rfl
@[simp] theorem modSpring_ran (f : Spring → Spring) : (modSpring s f).ran = s.ran := rfl
@[simp] theorem modSpring_ctxs (f : Spring → Spring) : (modSpring s f).ctxs = s.ctxs := rfl
@[simp] theorem modSpring_ghosts (f : Spring → Spring) : (modSpring s f).ghosts = s.ghosts := rfl
@[simp] theorem modSpring_clusters (f : Spring → Spring) : (modSpring s f).clusters = s.clusters := rfl
@[simp] theorem modSpring_mem (f : Spring → Spring) : (modSpring s f).mem = s.mem := rfl
@[simp] theorem modSpring_pkg (f : Spring → Spring) : (modSpring s f).pkg = s.pkg := rfl
@[simp] theorem modSpring_net (f : Spring → Spring) : (modSpring s f).net = s.net := rfl
@[simp] theorem modSpring_dev (f : Spring → Spring) : (modSpring s f).dev = s.dev := rfl
@[simp] theorem modSpring_agenda (f : Spring → Spring) : (modSpring s f).agenda = s.agenda := rfl
@[simp] theorem modSpring_which (f : Spring → Spring) : (modSpring s f).which = s.which := rfl
@[simp] theorem modSpring_cur (f : Spring → Spring) : (modSpring s f).cur = s.cur := rfl
@[simp] theorem modSpring_iss (f : Spring → Spring) : (modSpring s f).iss = s.iss := rfl
@[simp] theorem modSpring_draws (f : Spring → Spring) : (modSpring s f).draws = s.draws := rfl

/-! ## modCtx, modCur and putOwner -/

@[simp] theorem modCtx_cyc (c : CtxId) (f : Ctx → Ctx) : (modCtx s c f).cyc = s.cyc := by
  unfold modCtx; split <;> rfl
@[simp] theorem modCtx_ran (c : CtxId) (f : Ctx → Ctx) : (modCtx s c f).ran = s.ran := by
  unfold modCtx; split <;> rfl
@[simp] theorem modCtx_ghosts (c : CtxId) (f : Ctx → Ctx) : (modCtx s c f).ghosts = s.ghosts := by
  unfold modCtx; split <;> rfl
@[simp] theorem modCtx_clusters (c : CtxId) (f : Ctx → Ctx) : (modCtx s c f).clusters = s.clusters := by
  unfold modCtx; split <;> rfl
@[simp] theorem modCtx_mem (c : CtxId) (f : Ctx → Ctx) : (modCtx s c f).mem = s.mem := by
  unfold modCtx; split <;> rfl
@[simp] theorem modCtx_pkg (c : CtxId) (f : Ctx → Ctx) : (modCtx s c f).pkg = s.pkg := by
  unfold modCtx; split <;> rfl
@[simp] theorem modCtx_net (c : CtxId) (f : Ctx → Ctx) : (modCtx s c f).net = s.net := by
  unfold modCtx; split <;> rfl
@[simp] theorem modCtx_dev (c : CtxId) (f : Ctx → Ctx) : (modCtx s c f).dev = s.dev := by
  unfold modCtx; split <;> rfl
@[simp] theorem modCtx_spring (c : CtxId) (f : Ctx → Ctx) : (modCtx s c f).spring = s.spring := by
  unfold modCtx; split <;> rfl
@[simp] theorem modCtx_agenda (c : CtxId) (f : Ctx → Ctx) : (modCtx s c f).agenda = s.agenda := by
  unfold modCtx; split <;> rfl
@[simp] theorem modCtx_which (c : CtxId) (f : Ctx → Ctx) : (modCtx s c f).which = s.which := by
  unfold modCtx; split <;> rfl
@[simp] theorem modCtx_cur (c : CtxId) (f : Ctx → Ctx) : (modCtx s c f).cur = s.cur := by
  unfold modCtx; split <;> rfl
@[simp] theorem modCtx_iss (c : CtxId) (f : Ctx → Ctx) : (modCtx s c f).iss = s.iss := by
  unfold modCtx; split <;> rfl
@[simp] theorem modCtx_draws (c : CtxId) (f : Ctx → Ctx) : (modCtx s c f).draws = s.draws := by
  unfold modCtx; split <;> rfl
@[simp] theorem putOwner_cyc (x : Ctx) : (putOwner s x).cyc = s.cyc := by
  unfold putOwner; split <;> rfl
@[simp] theorem putOwner_ran (x : Ctx) : (putOwner s x).ran = s.ran := by
  unfold putOwner; split <;> rfl
@[simp] theorem putOwner_clusters (x : Ctx) : (putOwner s x).clusters = s.clusters := by
  unfold putOwner; split <;> rfl
@[simp] theorem putOwner_mem (x : Ctx) : (putOwner s x).mem = s.mem := by
  unfold putOwner; split <;> rfl
@[simp] theorem putOwner_pkg (x : Ctx) : (putOwner s x).pkg = s.pkg := by
  unfold putOwner; split <;> rfl
@[simp] theorem putOwner_net (x : Ctx) : (putOwner s x).net = s.net := by
  unfold putOwner; split <;> rfl
@[simp] theorem putOwner_dev (x : Ctx) : (putOwner s x).dev = s.dev := by
  unfold putOwner; split <;> rfl
@[simp] theorem putOwner_spring (x : Ctx) : (putOwner s x).spring = s.spring := by
  unfold putOwner; split <;> rfl
@[simp] theorem putOwner_agenda (x : Ctx) : (putOwner s x).agenda = s.agenda := by
  unfold putOwner; split <;> rfl
@[simp] theorem putOwner_which (x : Ctx) : (putOwner s x).which = s.which := by
  unfold putOwner; split <;> rfl
@[simp] theorem putOwner_cur (x : Ctx) : (putOwner s x).cur = s.cur := by
  unfold putOwner; split <;> rfl
@[simp] theorem putOwner_iss (x : Ctx) : (putOwner s x).iss = s.iss := by
  unfold putOwner; split <;> rfl
@[simp] theorem putOwner_draws (x : Ctx) : (putOwner s x).draws = s.draws := by
  unfold putOwner; split <;> rfl

/-! ## What was written -/

@[simp] theorem modPkg_pkg (f : Pkg → Pkg) : (modPkg s f).pkg = f s.pkg := rfl
@[simp] theorem modDev_dev (f : Dev → Dev) : (modDev s f).dev = f s.dev := rfl
@[simp] theorem modNet_net (f : Net → Net) : (modNet s f).net = f s.net := rfl
@[simp] theorem modMem_mem (f : Mem → Mem) : (modMem s f).mem = f s.mem := rfl
@[simp] theorem modSpring_spring (f : Spring → Spring) : (modSpring s f).spring = f s.spring := rfl

/-- Distinct positions have distinct keys. -/
theorem ctxKey_inj {c d : CtxId} (hc : c.core < 8 ∧ c.ctx < 4) (hd : d.core < 8 ∧ d.ctx < 4) (h : ctxKey c = ctxKey d) : c = d := by
  obtain ⟨a1, a2, a3⟩ := c
  obtain ⟨b1, b2, b3⟩ := d
  simp only [ctxKey] at h hc hd
  have h3 : a3 = b3 := by omega
  have h2 : a2 = b2 := by omega
  have h1 : a1 = b1 := by omega
  simp [h1, h2, h3]

@[simp] theorem getCtx_putCtx_self (x : Ctx) : getCtx (putCtx s x) x.id = some x := smFind_put_same _ _ _

theorem getCtx_putCtx (x : Ctx) (c : CtxId) :
    getCtx (putCtx s x) c = if ctxKey c = ctxKey x.id then some x else getCtx s c := smFind_put _ _ _ _

theorem getCtx_dropCtx (c d : CtxId) : getCtx (dropCtx s c) d = if ctxKey d = ctxKey c then none else getCtx s d :=
  smFind_del _ _ _

theorem getCtx_modCtx {c : CtxId} {x : Ctx} (f : Ctx → Ctx) (h : getCtx s c = some x) (hid : (f x).id = c) :
    getCtx (modCtx s c f) c = some (f x) := by
  unfold modCtx
  rw [h]
  simpa [hid] using getCtx_putCtx_self s (f x)

@[simp] theorem getCtx_putCl (n : Nat) (x : Cluster) (c : CtxId) : getCtx (putCl s n x) c = getCtx s c := rfl
@[simp] theorem getCtx_modCl (n : Nat) (f : Cluster → Cluster) (c : CtxId) : getCtx (modCl s n f) c = getCtx s c := rfl
@[simp] theorem getCtx_modCore (n k : Nat) (f : Core → Core) (c : CtxId) : getCtx (modCore s n k f) c = getCtx s c := rfl
@[simp] theorem getCtx_modPair (n k : Nat) (f : Pair → Pair) (c : CtxId) : getCtx (modPair s n k f) c = getCtx s c := rfl
@[simp] theorem getCtx_modPkg (f : Pkg → Pkg) (c : CtxId) : getCtx (modPkg s f) c = getCtx s c := rfl
@[simp] theorem getCtx_modDev (f : Dev → Dev) (c : CtxId) : getCtx (modDev s f) c = getCtx s c := rfl
@[simp] theorem getCtx_modNet (f : Net → Net) (c : CtxId) : getCtx (modNet s f) c = getCtx s c := rfl
@[simp] theorem getCtx_modMem (f : Mem → Mem) (c : CtxId) : getCtx (modMem s f) c = getCtx s c := rfl
@[simp] theorem getCtx_modSpring (f : Spring → Spring) (c : CtxId) : getCtx (modSpring s f) c = getCtx s c := rfl

theorem getCl_putCl (n m : Nat) (x : Cluster) : getCl (putCl s n x) m = if m = n then x else getCl s m := smGet_put _ _ _ _ _

theorem getCl_modCl (n m : Nat) (f : Cluster → Cluster) : getCl (modCl s n f) m = if m = n then f (getCl s n) else getCl s m :=
  getCl_putCl s n m _

@[simp] theorem getCl_modCl_self (n : Nat) (f : Cluster → Cluster) : getCl (modCl s n f) n = f (getCl s n) := by
  simp [getCl_modCl]

theorem getCl_modCl_other {n m : Nat} (f : Cluster → Cluster) (h : m ≠ n) : getCl (modCl s n f) m = getCl s m := by
  simp [getCl_modCl, h]

@[simp] theorem getCore_modCore_self (n k : Nat) (f : Core → Core) : getCore (modCore s n k f) n k = f (getCore s n k) := by
  simp [getCore, modCore, putCore, coreOf, smGet_put]

theorem getCore_modCore (n k m j : Nat) (f : Core → Core) :
    getCore (modCore s n k f) m j = if m = n ∧ j = k then f (getCore s n k) else getCore s m j := by
  simp only [getCore, modCore, putCore, getCl_modCl]
  by_cases h : m = n
  · subst h; simp [coreOf, smGet_put]
  · simp [h]

@[simp] theorem getPair_modPair_self (n k : Nat) (f : Pair → Pair) : getPair (modPair s n k f) n k = f (getPair s n k) := by
  simp [getPair, modPair, pairOf, smGet_put]

@[simp] theorem getCl_putCtx (x : Ctx) (n : Nat) : getCl (putCtx s x) n = getCl s n := rfl
@[simp] theorem getCore_putCtx (x : Ctx) (n k : Nat) : getCore (putCtx s x) n k = getCore s n k := rfl
@[simp] theorem getPair_putCtx (x : Ctx) (n k : Nat) : getPair (putCtx s x) n k = getPair s n k := rfl

@[simp] theorem putCtx_putCtx (x y : Ctx) (h : y.id = x.id) : getCtx (putCtx (putCtx s x) y) x.id = some y := by
  rw [← h]; exact getCtx_putCtx_self _ y

end Sys2Proof.Machine
end

