-- ==== Sys2Proof/Laws/Access.lean ====
section
/-!
SUPPORT. Laws of the register files (04 R113 to R117, 05 R146, R149) and of runs of bytes in sparse memory.
-/
namespace Sys2Proof.Machine

/-! ## Registers -/

/-- What a register holds once the number v was written to it: v cut to its width, and what a discarded write leaves. -/
def regValue (r : RegId) (v : Nat) : Nat := rdReg (wrReg default r v) r

theorem rdC_wrC (x : Ctx) (n j : Nat) (b : Bool) :
    rdC (wrC x n b) j = if j = n ∧ n ≠ 0 ∧ n < 16 then b else rdC x j := by
  unfold wrC rdC
  by_cases hn : n = 0
  · subst hn
    by_cases hj : j = 0
    · simp [hj]
    · simp
  · simp only [hn, if_false, ne_eq, not_false_eq_true, true_and]
    by_cases hb : b
    · simp only [hb, if_true, BitVec.getLsbD_or, BitVec.getLsbD_shiftLeft]
      by_cases hj : j = n
      · subst hj
        by_cases h16 : j < 16
        · simp [h16]
        · simp [h16, BitVec.getLsbD_of_ge x.c j (by omega), hn]
      · simp only [hj, false_and, if_false]
        congr 1
        by_cases hlt : j < n
        · simp [hlt]
        · have : 0 < j - n := by omega
          have h1 : (1#16).getLsbD (j - n) = false := by
            rw [BitVec.getLsbD_one]; simp; omega
          simp [h1]
    · simp only [hb, Bool.false_eq_true, if_false, BitVec.getLsbD_and, BitVec.getLsbD_not, BitVec.getLsbD_shiftLeft]
      by_cases hj : j = n
      · subst hj
        by_cases h16 : j < 16
        · simp [h16, hn]
        · simp [h16, BitVec.getLsbD_of_ge x.c j (by omega), hn]
      · simp only [hj, false_and, if_false]
        by_cases h16 : j < 16
        · by_cases hlt : j < n
          · simp [hlt, h16]
          · have h1 : (1#16).getLsbD (j - n) = false := by
              rw [BitVec.getLsbD_one]; simp; omega
            simp [h1, h16]
        · simp [BitVec.getLsbD_of_ge x.c j (by omega)]

/-- A read after a write: the register written holds the value, every other register is as before (04 R117, 05 R149). -/
theorem rdReg_wrReg (x : Ctx) (r q : RegId) (v : Nat) :
    rdReg (wrReg x r v) q = if q = r then regValue r v else rdReg x q := by
  cases r with
  | s n =>
    cases q with
    | s j =>
      simp only [wrReg, rdReg, regValue, rdS, wrS, RegId.s.injEq]
      by_cases hn : n = 0
      · subst hn; by_cases hj : j = 0 <;> simp [hj]
      · by_cases hj : j = n
        · subst hj; simp [hn, smGet_set]
        · by_cases h0 : j = 0
          · subst h0; simp [hn, hj]
          · simp [hn, hj, h0, smGet_set]
    | _ => simp only [wrReg, rdReg, wrS, reduceCtorEq, if_false]; split <;> rfl
  | c n =>
    cases q with
    | c j =>
      simp only [wrReg, rdReg, regValue, rdC_wrC, RegId.c.injEq]
      by_cases hj : j = n
      · subst hj
        by_cases h0 : j = 0
        · subst h0; simp [rdC]
        · by_cases h16 : j < 16
          · simp [h0, h16]
          · have : ∀ y : Ctx, rdC y j = false := fun y => by simp [rdC, h0, BitVec.getLsbD_of_ge y.c j (by omega)]
            simp [h16, this]
      · simp [hj]
    | _ => simp only [wrReg, rdReg, wrC, reduceCtorEq, if_false]; split <;> rfl
  | m n =>
    cases q with
    | m j =>
      simp only [wrReg, rdReg, regValue, rdM, wrM, RegId.m.injEq]
      by_cases hn : n = 0
      · subst hn; by_cases hj : j = 0 <;> simp [hj]
      · by_cases hj : j = n
        · subst hj; simp [hn, smGet_set]
        · by_cases h0 : j = 0
          · subst h0; simp [hn, hj]
          · simp [hn, hj, h0, smGet_set]
    | _ => simp only [wrReg, rdReg, wrM, reduceCtorEq, if_false]; split <;> rfl
  | h n =>
    cases q with
    | h j => simp only [wrReg, rdReg, regValue, rdH, wrH, RegId.h.injEq, smGet_set]; split <;> simp
    | _ => rfl
  | k n =>
    cases q with
    | k j => simp only [wrReg, rdReg, regValue, rdK, wrK, RegId.k.injEq, smGet_set]; split <;> simp
    | _ => rfl
  | v n =>
    cases q with
    | v j => simp only [wrReg, rdReg, regValue, rdV, wrV, RegId.v.injEq, smGet_set]; split <;> simp
    | _ => rfl

@[simp] theorem rdReg_supersede (x : Ctx) (r q : RegId) (n : Nat) : rdReg (supersede x r n) q = rdReg x q := by
  cases q <;> rfl

/-- The fields of a context that a register write leaves: everything but the six register files. -/
def exceptRegs (x : Ctx) : Ctx := { x with s := [], c := 0, m := [], h := [], k := [], v := [] }

theorem exceptRegs_wrReg (x : Ctx) (r : RegId) (v : Nat) : exceptRegs (wrReg x r v) = exceptRegs x := by
  cases r <;> simp only [wrReg, wrS, wrC, wrM, wrH, wrK, wrV, exceptRegs] <;> (try split) <;> rfl

/-! ## Little-endian numbers -/

theorem natLe_length (n x : Nat) : (natLe n x).length = n := by
  induction n generalizing x with
  | zero => rfl
  | succ n ih => simp [natLe, ih]

theorem leNat_natLe (n x : Nat) : leNat (natLe n x) = x % 256 ^ n := by
  induction n generalizing x with
  | zero => simp [natLe, leNat, Nat.mod_one]
  | succ n ih =>
    simp only [natLe, leNat, ih, BitVec.toNat_ofNat]
    rw [show 256 ^ (n + 1) = 256 * 256 ^ n from by ring, Nat.mod_mul]

theorem leNat_lt (bs : List Byte) : leNat bs < 256 ^ bs.length := by
  induction bs with
  | nil => simp [leNat]
  | cons b rest ih =>
    simp only [leNat, List.length_cons, Nat.pow_succ]
    have := b.isLt
    omega

/-! ## Runs of bytes -/

theorem smRising_append {α : Type} {lo hi : Nat} {l m : SMap α} (hl : smRising lo l = true) (hm : smRising hi m = true)
    (h : ∀ p ∈ l, p.1 < hi) (hlo : lo ≤ hi) : smRising lo (l ++ m) = true := by
  induction l generalizing lo with
  | nil => exact smRising_mono hlo hm
  | cons p rest ih =>
    obtain ⟨k, v⟩ := p
    simp only [smRising, Bool.and_eq_true, decide_eq_true_eq, List.cons_append] at hl ⊢
    refine ⟨hl.1, ih hl.2 (fun q hq => h q (List.mem_cons_of_mem _ hq)) ?_⟩
    have := h (k, v) (by simp)
    simp at this
    omega

theorem smRising_filter {α : Type} (f : Nat × α → Bool) {lo : Nat} {m : SMap α} (h : smRising lo m = true) :
    smRising lo (m.filter f) = true := by
  induction m generalizing lo with
  | nil => rfl
  | cons p rest ih =>
    obtain ⟨k, v⟩ := p
    simp only [smRising, Bool.and_eq_true, decide_eq_true_eq] at h
    simp only [List.filter_cons]
    split
    · simp only [smRising, Bool.and_eq_true, decide_eq_true_eq]
      exact ⟨h.1, ih h.2⟩
    · exact ih (smRising_mono (by omega) h.2)

theorem smRising_ge {α : Type} {lo : Nat} {m : SMap α} (h : smRising lo m = true) : ∀ p ∈ m, lo ≤ p.1 := by
  induction m generalizing lo with
  | nil => intro p hp; simp at hp
  | cons q rest ih =>
    obtain ⟨k, v⟩ := q
    simp only [smRising, Bool.and_eq_true, decide_eq_true_eq] at h
    intro p hp
    rcases List.mem_cons.mp hp with rfl | hp
    · exact h.1
    · exact Nat.le_trans (Nat.le_succ_of_le h.1) (ih h.2 p hp)

theorem smRising_of_ge {α : Type} {lo hi : Nat} {m : SMap α} (h : smRising lo m = true) (hg : ∀ p ∈ m, hi ≤ p.1) :
    smRising hi m = true := by
  cases m with
  | nil => rfl
  | cons p rest =>
    obtain ⟨k, v⟩ := p
    simp only [smRising, Bool.and_eq_true, decide_eq_true_eq] at h ⊢
    exact ⟨hg (k, v) (by simp), h.2⟩

theorem cellsFrom_rising (a : Nat) (bs : List Byte) : smRising a (cellsFrom a bs) = true := by
  induction bs generalizing a with
  | nil => rfl
  | cons b rest ih =>
    unfold cellsFrom
    split
    · exact smRising_mono (by omega) (ih (a + 1))
    · simp [smRising, ih (a + 1)]

theorem cellsFrom_lt (a : Nat) (bs : List Byte) : ∀ p ∈ cellsFrom a bs, p.1 < a + bs.length ∧ p.2 ≠ 0 := by
  induction bs generalizing a with
  | nil => intro p hp; simp [cellsFrom] at hp
  | cons b rest ih =>
    intro p hp
    unfold cellsFrom at hp
    split at hp
    · have := ih (a + 1) p hp; simp only [List.length_cons]; exact ⟨by omega, this.2⟩
    · next hb =>
      rcases List.mem_cons.mp hp with rfl | hp
      · exact ⟨by simp, hb⟩
      · have := ih (a + 1) p hp; simp only [List.length_cons]; exact ⟨by omega, this.2⟩

/-- A write of a run keeps the canonical form. -/
theorem cellsWf_put {m : List Host.Cell} (a : Nat) (bs : List Byte) (h : cellsWf m = true) : cellsWf (cellsPut m a bs) = true := by
  simp only [cellsWf, smWf, Bool.and_eq_true, List.all_eq_true, decide_eq_true_eq] at h ⊢
  obtain ⟨hr, hz⟩ := h
  unfold cellsPut
  refine ⟨?_, fun p hp => ?_⟩
  · have h3 : smRising (a + bs.length) (m.filter (fun p => decide (a + bs.length ≤ p.1))) = true :=
      smRising_of_ge (smRising_filter _ hr) (fun p hp => by simpa using (List.mem_filter.mp hp).2)
    have h2 : smRising a (cellsFrom a bs ++ m.filter (fun p => decide (a + bs.length ≤ p.1))) = true :=
      smRising_append (cellsFrom_rising a bs) h3 (fun p hp => (cellsFrom_lt a bs p hp).1) (by omega)
    rw [List.append_assoc]
    exact smRising_append (smRising_filter _ hr) h2 (fun p hp => by simpa using (List.mem_filter.mp hp).2) (Nat.zero_le a)
  · rcases List.mem_append.mp hp with hp | hp
    · rcases List.mem_append.mp hp with hp | hp
      · exact hz p (List.mem_filter.mp hp).1
      · exact (cellsFrom_lt a bs p hp).2
    · exact hz p (List.mem_filter.mp hp).1

theorem smFind_append {α : Type} (l m : SMap α) (k : Nat) : smFind (l ++ m) k = (smFind l k).or (smFind m k) := by
  induction l with
  | nil => simp
  | cons p rest ih =>
    obtain ⟨j, v⟩ := p
    simp only [List.cons_append, smFind]
    split
    · simp
    · exact ih

theorem smFind_filter {α : Type} (f : Nat → Bool) (m : SMap α) (k : Nat) :
    smFind (m.filter (fun p => f p.1)) k = if f k then smFind m k else none := by
  induction m with
  | nil => simp
  | cons p rest ih =>
    obtain ⟨j, v⟩ := p
    simp only [List.filter_cons]
    by_cases hj : j = k
    · subst hj
      by_cases hf : f j = true
      · simp [hf, smFind]
      · simp [hf, ih]
    · by_cases hf : f j = true
      · simp [hf, smFind, hj, ih]
      · simp [hf, smFind, hj, ih]

theorem smFind_cellsFrom (a : Nat) (bs : List Byte) (k : Nat) :
    (smFind (cellsFrom a bs) k).getD 0 = if a ≤ k ∧ k < a + bs.length then bs.getD (k - a) 0 else 0 := by
  induction bs generalizing a with
  | nil => simp [cellsFrom]
  | cons b rest ih =>
    unfold cellsFrom
    by_cases hk : k = a
    · subst hk
      split
      · next hb => rw [ih]; simp [hb]
      · simp [smFind]
    · have key : (smFind (cellsFrom (a + 1) rest) k).getD 0 =
          if a ≤ k ∧ k < a + (b :: rest).length then (b :: rest).getD (k - a) 0 else 0 := by
        rw [ih]
        by_cases h : a + 1 ≤ k ∧ k < a + 1 + rest.length
        · have h' : a ≤ k ∧ k < a + (b :: rest).length := by simp only [List.length_cons]; omega
          rw [if_pos h, if_pos h']
          obtain ⟨n, rfl⟩ : ∃ n, k = a + 1 + n := ⟨k - (a + 1), by omega⟩
          have e1 : a + 1 + n - a = n + 1 := by omega
          have e2 : a + 1 + n - (a + 1) = n := by omega
          simp [e1, e2]
        · have h' : ¬(a ≤ k ∧ k < a + (b :: rest).length) := by simp only [List.length_cons]; omega
          rw [if_neg h, if_neg h']
      split
      · exact key
      · simp only [smFind, Ne.symm hk, if_false]; exact key

/-- A read after a write of a run: a byte of the run, or what was there. -/
theorem cellGet_put (m : List Host.Cell) (a : Nat) (bs : List Byte) (k : Nat) :
    cellGet (cellsPut m a bs) k = if a ≤ k ∧ k < a + bs.length then bs.getD (k - a) 0 else cellGet m k := by
  have h1 : smFind (m.filter (fun p => decide (p.1 < a))) k = if k < a then smFind m k else none := by
    simpa using smFind_filter (fun j => decide (j < a)) m k
  have h3 : smFind (m.filter (fun p => decide (a + bs.length ≤ p.1))) k = if a + bs.length ≤ k then smFind m k else none := by
    simpa using smFind_filter (fun j => decide (a + bs.length ≤ j)) m k
  have h2 := smFind_cellsFrom a bs k
  unfold cellGet smGet cellsPut
  rw [smFind_append, smFind_append, h1, h3]
  by_cases c1 : k < a
  · have : ¬(a ≤ k ∧ k < a + bs.length) := by omega
    have c3 : ¬ a + bs.length ≤ k := by omega
    rw [if_neg this] at h2 ⊢
    simp only [c1, c3, if_true, if_false, Option.or_none]
    cases hm : smFind m k with
    | some v => simp
    | none => simpa [hm] using h2
  · by_cases c2 : k < a + bs.length
    · have c3 : ¬ a + bs.length ≤ k := by omega
      have c : a ≤ k ∧ k < a + bs.length := by omega
      rw [if_pos c] at h2 ⊢
      simpa [c1, c3] using h2
    · have : ¬(a ≤ k ∧ k < a + bs.length) := by omega
      have c3 : a + bs.length ≤ k := by omega
      rw [if_neg this] at h2 ⊢
      simp only [c1, c3, if_true, if_false, Option.none_or]
      cases hf : smFind (cellsFrom a bs) k with
      | none => simp
      | some v =>
        exfalso
        have hmem : ∀ (l : SMap Byte), smFind l k = some v → (k, v) ∈ l := by
          intro l
          induction l with
          | nil => simp
          | cons p rest ih =>
            obtain ⟨j, w⟩ := p
            simp only [smFind]
            split
            · next e => intro hw; simp only [Option.some.injEq] at hw; subst hw; subst e; simp
            · intro hw; exact List.mem_cons_of_mem _ (ih hw)
        have := (cellsFrom_lt a bs (k, v) (hmem _ hf)).1
        simp only at this
        omega

theorem cellsGet_length (m : List Host.Cell) (a n : Nat) : (cellsGet m a n).length = n := by simp [cellsGet]

/-- A run read back after it was written. -/
theorem cellsGet_put_same (m : List Host.Cell) (a : Nat) (bs : List Byte) : cellsGet (cellsPut m a bs) a bs.length = bs := by
  apply List.ext_getElem
  · simp [cellsGet]
  · intro i h1 h2
    simp only [cellsGet, List.getElem_map, List.getElem_range, cellGet_put]
    rw [if_pos ⟨by omega, by omega⟩]
    simp [List.getD_eq_getElem?_getD, h2]

/-- A run that a write does not touch reads as before. -/
theorem cellsGet_put_other (m : List Host.Cell) (a : Nat) (bs : List Byte) (b n : Nat) (h : b + n ≤ a ∨ a + bs.length ≤ b) :
    cellsGet (cellsPut m a bs) b n = cellsGet m b n := by
  apply List.ext_getElem
  · simp [cellsGet]
  · intro i h1 h2
    simp only [cellsGet, List.length_map, List.length_range] at h1
    simp only [cellsGet, List.getElem_map, List.getElem_range, cellGet_put]
    rw [if_neg (by omega)]

end Sys2Proof.Machine
end

