-- ==== Sys2Proof/Laws/Issue.lean ====
section
/-!
SUPPORT. Laws of the issue (03 R84, R93, R94; 06 R205): what settling and committing leave of a context, and that a slot operation
whose bundle issues completes with what its own definition answers.
-/
namespace Sys2Proof.Machine

/-! ## What register writes leave -/

theorem wrReg_exceptRegs (x : Ctx) (r : RegId) (v : Nat) : exceptRegs (wrReg x r v) = exceptRegs x := exceptRegs_wrReg x r v

/-- A context without its registers and the results in flight. -/
def exceptFlight (x : Ctx) : Ctx := { exceptRegs x with pend := [], land := [] }

theorem exceptFlight_wrReg (x : Ctx) (r : RegId) (v : Nat) : exceptFlight (wrReg x r v) = exceptFlight x := by
  unfold exceptFlight; rw [exceptRegs_wrReg]

theorem exceptFlight_pend (x : Ctx) (p : List Pend) : exceptFlight { x with pend := p } = exceptFlight x := rfl
theorem exceptFlight_land (x : Ctx) (l : List Landing) : exceptFlight { x with land := l } = exceptFlight x := rfl
theorem exceptFlight_supersede (x : Ctx) (r : RegId) (n : Nat) : exceptFlight (supersede x r n) = exceptFlight x := rfl

theorem foldl_inv {α β : Type} (P : β → Prop) (f : β → α → β) (h : ∀ b a, P b → P (f b a)) (l : List α) (b : β) (hb : P b) :
    P (l.foldl f b) := by
  induction l generalizing b with
  | nil => exact hb
  | cons a rest ih => exact ih (f b a) (h b a hb)

theorem exceptFlight_writePend (x : Ctx) (p : Pend) : exceptFlight (writePend x p) = exceptFlight x := by
  unfold writePend; rw [exceptFlight_wrReg]; rfl

theorem exceptFlight_flushPend (x : Ctx) : exceptFlight (flushPend x) = exceptFlight x := by
  unfold flushPend
  exact foldl_inv (fun y => exceptFlight y = exceptFlight x) _ (fun y p hy => by rw [exceptFlight_writePend]; exact hy) _ _ rfl

theorem exceptFlight_landOne (x : Ctx) (l : Landing) : exceptFlight (landOne x l) = exceptFlight x := by
  unfold landOne
  have h1 : ∀ y : Ctx, ∀ n v, exceptFlight (wrV y n v) = exceptFlight y := fun _ _ _ => rfl
  have h2 : ∀ y : Ctx, ∀ n v, exceptFlight (wrK y n v) = exceptFlight y := fun _ _ _ => rfl
  cases l.kreg <;> cases l.vreg <;> simp only [h1, h2, exceptFlight_pend]

theorem exceptFlight_landDue (x : Ctx) : exceptFlight (landDue x) = exceptFlight x := by
  unfold landDue
  exact foldl_inv (fun y => exceptFlight y = exceptFlight x) _ (fun y l hy => by rw [exceptFlight_landOne]; exact hy) _ _ rfl

/-- Settling changes registers and the results in flight alone. -/
theorem exceptFlight_settled (x : Ctx) : exceptFlight (settled x) = exceptFlight x := by
  unfold settled; rw [exceptFlight_landDue, exceptFlight_flushPend]

theorem settled_id (x : Ctx) : (settled x).id = x.id := by
  have e := congrArg Ctx.id (exceptFlight_settled x)
  exact e
theorem settled_cnt (x : Ctx) : (settled x).cnt = x.cnt := by
  have e := congrArg Ctx.cnt (exceptFlight_settled x)
  exact e
theorem settled_streamCfg (x : Ctx) : (settled x).streamCfg = x.streamCfg := by
  have e := congrArg Ctx.streamCfg (exceptFlight_settled x)
  exact e
theorem settled_win (x : Ctx) : (settled x).win = x.win := by
  have e := congrArg Ctx.win (exceptFlight_settled x)
  exact e
theorem settled_lvl (x : Ctx) : (settled x).lvl = x.lvl := by
  have e := congrArg Ctx.lvl (exceptFlight_settled x)
  exact e
theorem settled_pos (x : Ctx) : (settled x).pos = x.pos := by
  have e := congrArg Ctx.pos (exceptFlight_settled x)
  exact e

/-! ## Saved groups -/

theorem saveGroup_ctx {s s1 : State} {x x1 : Ctx} {g : Nat} (h : saveGroup s x g = some (s1, x1)) :
    { x1 with vsaved := x.vsaved } = x := by
  unfold saveGroup at h
  split at h
  · simp only [Option.some.injEq, Prod.mk.injEq] at h; obtain ⟨_, rfl⟩ := h; rfl
  · simp only at h
    split at h
    · exact absurd h (by simp)
    · split at h
      · exact absurd h (by simp)
      · simp only [Option.some.injEq, Prod.mk.injEq] at h; obtain ⟨_, rfl⟩ := h; rfl

/-- Saving vector groups changes VSAVED alone of the context. -/
theorem saveGroups_ctx {s s1 : State} {x x1 : Ctx} {l : List Nat} (h : saveGroups s x l = some (s1, x1)) :
    { x1 with vsaved := x.vsaved } = x := by
  induction l generalizing s x with
  | nil => simp only [saveGroups, Option.some.injEq, Prod.mk.injEq] at h; obtain ⟨_, rfl⟩ := h; rfl
  | cons g rest ih =>
    unfold saveGroups at h
    split at h
    · exact absurd h (by simp)
    · next s2 x2 hs =>
      have e1 := saveGroup_ctx hs
      have e2 := ih h
      have : x1 = { x with vsaved := x1.vsaved } := by
        calc x1 = { x2 with vsaved := x1.vsaved } := by rw [← e2]
          _ = { x with vsaved := x1.vsaved } := by rw [← e1]
      rw [this]

@[simp] theorem saveGroups_nil (s : State) (x : Ctx) : saveGroups s x [] = some (s, x) := rfl

theorem saveGroups_id {s s1 : State} {x x1 : Ctx} {l : List Nat} (h : saveGroups s x l = some (s1, x1)) : x1.id = x.id := by
  have e := congrArg Ctx.id (saveGroups_ctx h)
  exact e

theorem settle_ctx {s s1 : State} {x x1 : Ctx} (h : settle s x = some (s1, x1)) :
    exceptFlight { x1 with vsaved := x.vsaved } = exceptFlight x := by
  unfold settle at h
  split at h
  · exact absurd h (by simp)
  · next s2 x2 hs =>
    simp only [Option.some.injEq, Prod.mk.injEq] at h
    obtain ⟨_, rfl⟩ := h
    have e := saveGroups_ctx hs
    have : exceptFlight { settled x2 with vsaved := x.vsaved } = { exceptFlight (settled x2) with vsaved := x.vsaved } := rfl
    rw [this, exceptFlight_settled]
    have : { exceptFlight x2 with vsaved := x.vsaved } = exceptFlight { x2 with vsaved := x.vsaved } := rfl
    rw [this, e]

theorem settle_id {s s1 : State} {x x1 : Ctx} (h : settle s x = some (s1, x1)) : x1.id = x.id := by
  have e := congrArg Ctx.id (settle_ctx h)
  exact e
theorem settle_cnt {s s1 : State} {x x1 : Ctx} (h : settle s x = some (s1, x1)) : x1.cnt = x.cnt := by
  have e := congrArg Ctx.cnt (settle_ctx h)
  exact e
theorem settle_streamCfg {s s1 : State} {x x1 : Ctx} (h : settle s x = some (s1, x1)) : x1.streamCfg = x.streamCfg := by
  have e := congrArg Ctx.streamCfg (settle_ctx h)
  exact e
theorem settle_pc {s s1 : State} {x x1 : Ctx} (h : settle s x = some (s1, x1)) : x1.pc = x.pc := by
  have e := congrArg Ctx.pc (settle_ctx h)
  exact e
theorem settle_rep {s s1 : State} {x x1 : Ctx} (h : settle s x = some (s1, x1)) : x1.rep = x.rep := by
  have e := congrArg Ctx.rep (settle_ctx h)
  exact e

/-! ## Committing an issue's writes (03 R94) -/

theorem exceptFlight_commit (x : Ctx) (ws : List (RegId × Nat)) : exceptFlight (commitRegs x ws) = exceptFlight x := by
  unfold commitRegs
  exact foldl_inv (fun y => exceptFlight y = exceptFlight x) _
    (fun y w hy => by rw [exceptFlight_wrReg, exceptFlight_supersede]; exact hy) _ _ rfl

theorem regAfter_nil (x : Ctx) (r : RegId) : regAfter [] x r = rdReg x r := rfl

theorem foldl_reg (x : Ctx) (p : Nat) (ws : List (RegId × Nat)) (r : RegId) :
    rdReg (ws.foldl (fun y w => wrReg (supersede y w.1 p) w.1 w.2) x) r = regAfter ws x r := by
  induction ws generalizing x with
  | nil => rfl
  | cons w rest ih =>
    simp only [List.foldl_cons, ih]
    unfold regAfter
    simp only [List.reverse_cons, List.find?_append]
    cases hf : rest.reverse.find? (fun w => w.1 == r) with
    | some q => simp
    | none =>
      simp only [Option.none_or, List.find?_singleton]
      by_cases hw : w.1 = r
      · subst hw; simp only [beq_self_eq_true, if_true]; rw [rdReg_wrReg, if_pos rfl]; rfl
      · have : (w.1 == r) = false := by simpa using hw
        simp [this, rdReg_wrReg, Ne.symm hw]

/-- What a register holds after an issue's writes. -/
theorem rdReg_commit (x : Ctx) (ws : List (RegId × Nat)) (r : RegId) : rdReg (commitRegs x ws) r = regAfter ws x r :=
  foldl_reg x (x.pos + 1) ws r

/-! ## The core's weights -/

theorem noteWeight_ctx (s : State) (x : Ctx) (w : Nat) (c : CtxId) : getCtx (noteWeight s x w) c = getCtx s c := rfl

theorem noteWeight_rest (s : State) (x : Ctx) (w : Nat) :
    { noteWeight s x w with ctxs := [], clusters := [] } = { s with ctxs := [], clusters := [] } := rfl

theorem noteWeight_cluster (s : State) (x : Ctx) (w n : Nat) :
    { getCl (noteWeight s x w) n with cores := [] } = { getCl s n with cores := [] } := by
  unfold noteWeight modCore putCore
  rw [getCl_modCl]
  split
  · next h => subst h; rfl
  · rfl

theorem noteWeight_core (s : State) (x : Ctx) (w n k : Nat) :
    { getCore (noteWeight s x w) n k with weights := [] } = { getCore s n k with weights := [] } := by
  unfold noteWeight
  rw [getCore_modCore]
  split
  · next h => obtain ⟨rfl, rfl⟩ := h; rfl
  · rfl

/-! ## The commit of an issue -/

/-- The state that an issue leaves before a BR operation acts. -/
def committed (s3 : State) (y3 x : Ctx) (b : Issue) (ws : List (RegId × Nat)) (fl : Flg) : State :=
  noteWeight (putCtx s3 (afterIssue (commitRegs y3 ws) b fl)) x (issueWeight b.exec)

theorem wrote_committed {i : Instr} {s s3 : State} {x y3 : Ctx} {ws : List (RegId × Nat)} {fl : Flg} {so : SlotOp}
    (hx : getCtx s s.cur = some x) (hid : y3.id = s.cur) :
    Wrote i s s3 y3 ws fl (committed s3 y3 x (issueOf i so s x false) ws fl) := by
  have hcur : curCtx s = x := by simp [curCtx, hx]
  have e := exceptFlight_commit y3 ws
  have ids : (afterIssue (commitRegs y3 ws) (issueOf i so s x false) fl).id = s.cur := by
    have h1 := congrArg Ctx.id e
    exact Eq.trans h1 hid
  refine ⟨⟨afterIssue (commitRegs y3 ws) (issueOf i so s x false) fl, ?_, ?_, ?_, ?_, ?_, ?_, rfl, rfl, rfl, ?_⟩, ?_, rfl, ?_, ?_⟩
  · unfold committed; rw [noteWeight_ctx, ← ids]; exact getCtx_putCtx_self _ _
  · intro r
    have : rdReg (afterIssue (commitRegs y3 ws) (issueOf i so s x false) fl) r = rdReg (commitRegs y3 ws) r := by
      cases r <;> rfl
    rw [this, rdReg_commit]
  · have h1 := congrArg Ctx.fpflags e
    exact congrArg (· ||| fl) h1
  · have h1 := congrArg Ctx.pos e
    exact congrArg (· + 1) h1
  · rw [hcur]; rfl
  · rw [hcur]; rfl
  · have h1 := congrArg (fun y : Ctx => ({ y with
      fpflags := 0, pos := 0, sticky := [], rep := none, status := Status.ready, blockedFor := 0, fifoFor := 0, leaseFor := 0,
      leaseNoted := false, sleepAt := none } : Ctx)) e
    exact h1
  · intro c hc
    unfold committed
    rw [noteWeight_ctx, getCtx_putCtx, ids, if_neg hc]
  · intro n; unfold committed; rw [noteWeight_cluster]; rfl
  · intro n k; unfold committed; rw [noteWeight_core]; rfl

/-! ## An operation whose bundle issues -/

theorem passes_settled (x : Ctx) (l : List IssOp) (j : Nat) : passes (settled x) l j = passes x l j := by
  unfold passes streamLim
  rw [settled_cnt, settled_streamCfg]

theorem passing_settled (x : Ctx) (l : List IssOp) : passing (settled x) l = passing x l := by
  unfold passing; congr 1; funext j; exact passes_settled x l j

theorem passes_settle {s s1 : State} {x x1 : Ctx} (h : settle s x = some (s1, x1)) (l : List IssOp) (j : Nat) :
    passes x1 l j = passes x l j := by
  have e1 := settle_cnt h
  have e2 := settle_streamCfg h
  unfold passes streamLim
  rw [e1, e2]

/-- Whether a decode trap is found, for a legal operation alone. -/
theorem issueOf_bad {i : Instr} (h : illegal i = none) (so : SlotOp) (s : State) (x : Ctx) (adv : Bool) :
    (issueOf i so s x adv).bad = none := by simp [issueOf, h]

theorem slotIdx_lt (t : Slot) : slotIdx t < 16 := by cases t <;> decide
theorem slotIdx_ne {t : Slot} (h : t ≠ .br) : slotIdx t ≠ 0 := by cases t <;> simp_all [slotIdx]

/-- A slot operation stands in a slot of its class. -/
theorem slotFor_cases {i : Instr} {t : Slot} (h : slotOf i = some t) (j : Nat) :
    slotFor i j = slotIdx t ∨ (slotFor i j = j ∧ j ≤ 10 ∧ classOf (slotOfIdx j) = classOf t) := by
  unfold slotFor
  split
  · next u =>
    have e : slotOf (.nop u) = some u := rfl
    rw [e] at h
    cases h
    exact .inl rfl
  · rw [h]
    simp only
    split
    · next hc => exact .inr ⟨rfl, hc⟩
    · exact .inl rfl

theorem slotFor_lt {i : Instr} {t : Slot} (h : slotOf i = some t) (j : Nat) : slotFor i j < 16 := by
  rcases slotFor_cases h j with e | ⟨e, hj, _⟩
  · rw [e]; exact slotIdx_lt t
  · omega

/-- An operation that is not of the BR slot stands in another slot. -/
theorem slotFor_ne {i : Instr} {t : Slot} (h : slotOf i = some t) (ht : t ≠ .br) (j : Nat) : slotFor i j ≠ 0 := by
  rcases slotFor_cases h j with e | ⟨e, _, hc⟩
  · rw [e]; exact slotIdx_ne ht
  · rw [e]; rintro rfl; cases t <;> simp_all [slotOfIdx, classOf]

/-- An operation of the BR slot stands in slot 0. -/
theorem slotFor_br {i : Instr} (h : slotOf i = some .br) (j : Nat) : slotFor i j = 0 := by
  rcases slotFor_cases h j with e | ⟨e, hj, hc⟩
  · rw [e]; rfl
  · rw [e]
    have : j = 0 ∨ j = 1 ∨ j = 2 ∨ j = 3 ∨ j = 4 ∨ j = 5 ∨ j = 6 ∨ j = 7 ∨ j = 8 ∨ j = 9 ∨ j = 10 := by omega
    rcases this with rfl | rfl | rfl | rfl | rfl | rfl | rfl | rfl | rfl | rfl | rfl <;> simp_all [slotOfIdx, classOf]

/-- An operation alone waits for none of its own issue. -/
theorem waitsInside_sole (o : IssOp) : waitsInside [o] o = false := by
  unfold waitsInside
  cases o.so.after <;> simp

theorem blocksInside_sole (o : IssOp) : blocksInside [o] o = none := by simp [blocksInside, waitsInside_sole]

/-- The presentation of a bundle that holds one operation comes to its issue (06 R205). -/
theorem present_issues {i : Instr} {so : SlotOp} {s s1 : State} {x x1 : Ctx} (adv : Bool) (hso : slotOpOf i = some so)
    (hs : slotFor i s.iss.slot < 16) (h : Issues i s x s1 x1) :
    present s x (issueOf i so s x adv) = issue (earlyOf i s x) x (issueOf i so s x adv) := by
  have hop : opOf i = so := by simp [opOf, hso]
  obtain ⟨here, itsId, legal, operands, pres, mode, seen, sources, noPoison, noFailure, noBlock, room, noHold, noFreeze, inWin, sett⟩ := h
  rw [hop] at operands pres mode seen sources noBlock noHold noFreeze inWin
  have hsole : (issueOf i so s x adv).exec = [soleOp i s] := by simp [issueOf, soleOp, hop]
  have hnamed : (issueOf i so s x adv).named = [soleOp i s] := by simp [issueOf, soleOp, hop]
  have hiss : ∀ n, issOf (soleOp i s) n = { slot := slotFor i s.iss.slot, k := s.iss.k, len := n } := fun n => rfl
  have hlen : (issueOf i so s x adv).len = s.iss.len := rfl
  have hso' : (soleOp i s).so = so := by simp [soleOp, hop]
  have hat : issOf (soleOp i s) s.iss.len = issAt i s := rfl
  have hearly : (issueOf i so s x adv).exec.foldl (earlyStep (issueOf i so s x adv) (settled x)) s = earlyOf i s x := by
    rw [hsole]
    simp only [List.foldl_cons, List.foldl_nil, earlyStep]
    rw [hsole, waitsInside_sole]
    simp only [Bool.false_eq_true, if_false, earlyOf, hop, hso', hlen, hat]
  have hseen : firstSeen s x (issueOf i so s x adv) = (s, x) := by
    unfold firstSeen
    rw [hnamed, List.any_cons, List.any_nil, Bool.or_false, hso', seen]
    rfl
  unfold present
  rw [hseen]
  unfold presentNoted
  have h1 : firstSome (regBad s x (issueOf i so s x adv).len)
      ((issueOf i so s x adv).exec.filter (fun o => o.slot < badSlot (issueOf i so s x adv).bad)) = none := by
    rw [hsole, issueOf_bad legal, hlen]
    have hsl : (soleOp i s).slot < 16 := hs
    simp [badSlot, hsl, firstSome, regBad, hso', sources, hat, operands]
  rw [h1]
  simp only
  rw [issueOf_bad legal]
  simp only
  rw [hearly, hlen, hsole, hnamed]
  have h2 : firstSome (absentNow s x s.iss.len) [soleOp i s] = none := by
    simp [firstSome, absentNow, hso', hat, pres, sources]
  rw [h2]
  have h3 : firstSome (fun o : IssOp => (o.so.priv x).map (trapB o.slot)) [soleOp i s] = none := by
    simp [firstSome, hso', mode]
  simp only [h3]
  have h4 : clash [soleOp i s] = false := by simp [clash]
  have h5 : ([soleOp i s].any fun o => heldOn x (o.so.reads x)) = false := by simp [hso', sources]
  rw [if_neg (by simp [h4]), if_neg (by simp [h5]), noPoison, noFailure]
  have h6 : blocksOf (earlyOf i s x) (settled x) (issueOf i so s x adv) = [] := by
    unfold blocksOf
    rw [hsole, hlen, passing_settled, room]
    simp [hso', hat, noBlock, blocksInside_sole]
  have h7 : ([soleOp i s].any (holdsNow (issueOf i so s x adv) (earlyOf i s x) (settled x))) = false := by
    simp [holdsNow, hsole, hlen, hso', hat, noHold]
  have h8 : mustFreeze (earlyOf i s x) x (issueWeight [soleOp i s]) = false := by
    simpa [issueWeight, hso'] using noFreeze
  simp only [h6, h7, h8, Bool.false_eq_true, if_false]

/-- The checks and effects of the one operation of an issue. -/
theorem runAll_issues {i : Instr} {so : SlotOp} {s s1 : State} {x x1 : Ctx} (hso : slotOpOf i = some so)
    (hst : ∀ j, so.stream = some j → j < 16) (h : Issues i s x s1 x1) (s2 : State) {s3 : State} {ws : List (RegId × Nat)} {fl : Flg}
    (hrun : so.run (issAt i s) x1 s2 = .ok s3 ws fl) :
    runAll x1 [soleOp i s] s.iss.len [soleOp i s] s2 [] 0 = .ok s3 ws fl := by
  have hop : opOf i = so := by simp [opOf, hso]
  have hso' : (soleOp i s).so = so := by simp [soleOp, hop]
  have hat : issOf (soleOp i s) s.iss.len = issAt i s := rfl
  have hwin : outside x1 so = none := by rw [← hop]; exact h.inWindow
  have hroom := h.streamRoom
  have hex : exhaust x1 [soleOp i s] so = none := by
    unfold exhaust
    cases hj0 : so.stream with
    | none => rfl
    | some j =>
      have hp : passes x1 [soleOp i s] j = false := by
        rw [passes_settle h.settles]
        have := List.find?_eq_none.mp hroom j (List.mem_range.mpr (hst j hj0))
        simpa using this
      simp [hp]
  simp [runAll, runOne, hso', hwin, hat, hrun, hex]

theorem finish_issueOf {i : Instr} {so : SlotOp} {s : State} {x : Ctx} (h0 : slotFor i s.iss.slot ≠ 0) (t : State) (c : CtxId)
    (y : Ctx) : finish t c y (issueOf i so s x false) = .ok t := by
  have : (slotFor i s.iss.slot == 0) = false := by simpa using h0
  simp [finish, issueOf, this]

/-- A slot operation, not of the BR slot, whose bundle issues completes with what its definition answers. -/
theorem completes {i : Instr} {so : SlotOp} {s s1 s2 : State} {x x1 : Ctx} {ws : List (RegId × Nat)} {fl : Flg}
    (hexec : exec i s = issueAlone i so s) (hso : slotOpOf i = some so) (hs : slotFor i s.iss.slot < 16)
    (h0 : slotFor i s.iss.slot ≠ 0) (hst : ∀ j, so.stream = some j → j < 16) (h : Issues i s x s1 x1)
    (hrun : so.run (issAt i s) x1 (putCtx s1 x1) = .ok s2 ws fl) : Completes i s s2 ws fl := by
  intro y s3 y3 hy hyid hsave
  have hop : opOf i = so := by simp [opOf, hso]
  have hsole : (issueOf i so s x false).exec = [soleOp i s] := by simp [issueOf, soleOp, hop]
  have hlen : (issueOf i so s x false).len = s.iss.len := rfl
  have hid : y3.id = s.cur := (saveGroups_id hsave).trans hyid
  refine ⟨committed s3 y3 x (issueOf i so s x false) ws fl, ?_, wrote_committed h.here hid⟩
  rw [hexec]
  unfold issueAlone
  rw [h.here]
  simp only
  rw [present_issues false hso hs h]
  unfold issue
  rw [h.settles]
  simp only
  rw [hlen, hsole, runAll_issues hso hst h _ hrun]
  simp only
  rw [h.itsId, hy]
  simp only
  rw [hsave]
  simp only
  rw [finish_issueOf h0]
  simp only [presented, committed, hsole]

/-- A BR operation whose bundle issues completes: it writes what its definition answers and then acts. -/
theorem completes_br {i : Instr} {so : SlotOp} {s s1 s5 : State} {x x1 : Ctx} {ws : List (RegId × Nat)} (post : State → State)
    (hexec : exec i s = issueAlone i so s) (hso : slotOpOf i = some so) (h0 : slotFor i s.iss.slot = 0) (hst : so.stream = none)
    (hg : groupsOf (ws.map (·.1)) = []) (h : Issues i s x s1 x1) (hrun : so.run (issAt i s) x1 (putCtx s1 x1) = .ok (putCtx s1 x1) ws 0)
    (hpost : so.post (issAt i s) x1 (committed (putCtx s1 x1) x1 x (issueOf i so s x false) ws 0) = .ok s5)
    (hs5 : s5 = post (committed (putCtx s1 x1) x1 x (issueOf i so s x false) ws 0)) : CompletesBr i s s1 x1 ws post := by
  have hop : opOf i = so := by simp [opOf, hso]
  have hsole : (issueOf i so s x false).exec = [soleOp i s] := by simp [issueOf, soleOp, hop]
  have hlen : (issueOf i so s x false).len = s.iss.len := rfl
  have hs : slotFor i s.iss.slot < 16 := by rw [h0]; decide
  have hid : x1.id = s.cur := (settle_id h.settles).trans h.itsId
  have hget : getCtx (putCtx s1 x1) s.cur = some x1 := by rw [← hid]; exact getCtx_putCtx_self _ _
  refine ⟨committed (putCtx s1 x1) x1 x (issueOf i so s x false) ws 0, wrote_committed h.here hid, ?_⟩
  rw [hexec]
  unfold issueAlone
  rw [h.here]
  simp only
  rw [present_issues false hso hs h]
  unfold issue
  rw [h.settles]
  simp only
  rw [hlen, hsole, runAll_issues hso (by simp [hst]) h _ hrun]
  simp only
  rw [h.itsId, hget]
  simp only
  rw [hg, saveGroups_nil]
  simp only
  have hfin : finish (committed (putCtx s1 x1) x1 x (issueOf i so s x false) ws 0) s.cur x1 (issueOf i so s x false) = .ok s5 := by
    have hslot : (soleOp i s).slot = 0 := h0
    have hat : issOf (soleOp i s) s.iss.len = issAt i s := rfl
    have hso' : (soleOp i s).so = so := by simp [soleOp, hop]
    unfold finish
    rw [hsole, hlen]
    have hlast : (issueOf i so s x false).last = true := rfl
    simp [hlast, hslot, hat, hso']
    exact hpost
  have e : committed (putCtx s1 x1) x1 x (issueOf i so s x false) ws 0
      = noteWeight (putCtx (putCtx s1 x1) (afterIssue (commitRegs x1 ws) (issueOf i so s x false) 0)) x (issueWeight [soleOp i s]) := by
    simp only [committed, hsole]
  rw [e] at hfin hs5
  rw [hfin]
  simp only [presented]
  rw [hs5, ← e]

/-! ## Whole families -/

/-- An operation that computes its results from its context alone does so wherever it issues. -/
theorem yields_of {i : Instr} {so : SlotOp} {ws : Ctx → List (RegId × Nat)} {fl : Ctx → Flg} {t : Slot}
    (hexec : ∀ s, exec i s = issueAlone i so s) (hso : slotOpOf i = some so) (hslot : slotOf i = some t) (ht : t ≠ .br)
    (hst : ∀ j, so.stream = some j → j < 16) (hrun : ∀ is x s, so.run is x s = .ok s (ws x) (fl x)) : Yields i ws fl := by
  intro s x s1 x1 h
  exact completes (hexec s) hso (slotFor_lt hslot _) (slotFor_ne hslot ht _) hst h (hrun _ _ _)

/-- The same of an operation whose result lands later. -/
theorem yieldsLate_of {i : Instr} {so : SlotOp} {l : Ctx → Landing} {fl : Ctx → Flg} {t : Slot}
    (hexec : ∀ s, exec i s = issueAlone i so s) (hso : slotOpOf i = some so) (hslot : slotOf i = some t) (ht : t ≠ .br)
    (hst : ∀ j, so.stream = some j → j < 16) (hrun : ∀ is x s, so.run is x s = .ok (addLanding s x (l x)) [] (fl x)) :
    YieldsLate i l fl := by
  intro s x s1 x1 h
  exact completes (hexec s) hso (slotFor_lt hslot _) (slotFor_ne hslot ht _) hst h (hrun _ _ _)

/-- The same of an operation with an effect on the state, where its checks pass. -/
theorem yieldsIf_of {i : Instr} {so : SlotOp} {ok : Iss → Ctx → State → Prop} {eff : Iss → Ctx → State → State}
    {ws : Ctx → State → List (RegId × Nat)} {t : Slot}
    (hexec : ∀ s, exec i s = issueAlone i so s) (hso : slotOpOf i = some so) (hslot : slotOf i = some t) (ht : t ≠ .br)
    (hst : ∀ j, so.stream = some j → j < 16)
    (hrun : ∀ is x s, ok is x s → so.run is x s = .ok (eff is x s) (ws x s) 0) : YieldsIf i ok eff ws := by
  intro s x s1 x1 h hok
  exact completes (hexec s) hso (slotFor_lt hslot _) (slotFor_ne hslot ht _) hst h (hrun _ _ _ hok)

/-- A stream number of a memory operation. -/
theorem stream_lt (v : BitVec 4) (j : Nat) (h : some v.toNat = some j) : j < 16 := by
  have := v.isLt
  simp only [Option.some.injEq] at h
  omega

/-! ## Slot operations -/

/-- The arm of every slot operation is the issue of it alone. -/
theorem exec_slot (i : Instr) (s : State) (hi : (slotOpOf i).isSome = true) : exec i s = issueAlone i (opOf i) s := by
  cases i <;> first
    | exact Bool.noConfusion (show false = true from hi)
    | exact (rfl : exec _ s = _)

end Sys2Proof.Machine
end

