-- ==== Sys2Proof/Laws/Commands.lean ====
section
/-!
SUPPORT. Laws of the copy slot (10 R318 to R333) and of memory addresses at issue (07 R219, R243): an accepted command, an
aligned access.
-/
namespace Sys2Proof.Machine

theorem handleTrap_valid {x : Ctx} {r : Nat} (h : (rdH x r).getLsbD 63 = true) : handleTrap x r = none := by
  simp [handleTrap, hValid, h]

/-- A copy command without a handle is accepted where its operand checks find nothing. -/
theorem accepts_of {i : Instr} {o : CD} {so : SlotOp} {w reads entries bad absent stepD traps ranges scope extra step ok rs sc}
    {t : Slot} (hexec : ∀ s, exec i s = issueAlone i so s) (hso : slotOpOf i = some so) (hslot : slotOf i = some t) (ht : t ≠ .br)
    (he : so = cpOp o w reads entries bad none absent stepD traps ranges scope extra) (hw : w = encodeWord i)
    (hs : ∀ k s x d, stepD k s x d = step k d) (hrs : ranges = rs) (hsc : scope = sc) (hok : ∀ s x d, ok s x d → traps s x d = []) :
    Accepts i o entries step ok rs sc extra := by
  subst he hw hrs hsc
  unfold Accepts Starts
  refine yieldsIf_of hexec hso hslot ht (fun j h => stream_lt _ _ h) ?_
  intro is x s h
  simp only [cpOp, plainOp, hs, hok _ _ _ h]
  rfl

/-- The same of a command that names a handle. -/
theorem acceptsHandle_of {i : Instr} {o : CD} {so : SlotOp} {w reads bad absent stepD traps ranges scope extra step ok rs sc}
    {t : Slot} (hexec : ∀ s, exec i s = issueAlone i so s) (hso : slotOpOf i = some so) (hslot : slotOf i = some t) (ht : t ≠ .br)
    (he : so = cpOp o w reads 1 bad (some (cdHandle o)) absent stepD traps ranges scope extra) (hw : w = encodeWord i)
    (hs : ∀ k s x d, stepD k s x d = step k d) (hrs : ranges = rs) (hsc : scope = sc) (hok : ∀ s x d, ok s x d → traps s x d = []) :
    AcceptsHandle i o step ok rs sc extra := by
  subst he hw hrs hsc
  unfold AcceptsHandle Starts
  refine yieldsIf_of hexec hso hslot ht (fun j h => stream_lt _ _ h) ?_
  rintro is x s ⟨hh, h⟩
  simp only [cpOp, plainOp, hs, hok _ _ _ h, handleTrap_valid hh]
  rfl

/-! ## Addresses -/

theorem alignBad_none {a n : Nat} (h1 : a < 2 ^ 56) (h2 : a % n = 0) : alignBad n a = none := by
  unfold alignBad
  rw [if_neg]
  simp [h2]
  omega

theorem alignAll_none {n : Nat} {l : List Nat} (h : ∀ a ∈ l, a < 2 ^ 56 ∧ a % n = 0) : alignAll n l = none := by
  unfold alignAll
  induction l with
  | nil => rfl
  | cons a r ih =>
    have h1 := h a (by simp)
    simp only [firstSome, alignBad_none h1.1 h1.2]
    exact ih (fun b hb => h b (by simp [hb]))

/-- An access that passes its checks, by its state and its place. -/
theorem accessed_ok {s : State} {x : Ctx} {a n : Nat} {r : AccReq} (h : ∃ p, (ctxAccess s x a n r).2 = .ok p) :
    ctxAccess s x a n r = (accessed s x a n r, .ok (accessPlace s x a n r)) := by
  obtain ⟨p, hp⟩ := h
  unfold accessed accessPlace
  rw [hp]
  ext
  · rfl
  · rw [hp]

theorem lsFifo_none {o : LM} {a : Nat} (h : inFifo a = false) : lsFifo o a = none := by simp [lsFifo, fifoNo, h]

end Sys2Proof.Machine
end

