-- ==== Sys2Proof/Laws/Memory.lean ====
section
/-!
SUPPORT. Laws of the bytes behind a translated address: every memory operation keeps the canonical form of every memory, a
read gives what a write put there, and a write, a notice, a poison record, the checks of a read and of the containment tables
and the host's taking of posted writes leave every other byte.
-/
namespace Sys2Proof.Machine

/-! ## Folds -/

theorem foldl_keeps {α β : Type} (P : β → Prop) (f : β → α → β) (hf : ∀ b a, P b → P (f b a)) (l : List α) (b : β) (h : P b) :
    P (l.foldl f b) := by
  induction l generalizing b with
  | nil => exact h
  | cons a l ih => exact ih _ (hf b a h)

/-! ## The canonical form -/

theorem wf_iff (m : Mem) : m.wf = true ↔
    cellsWf m.hbm = true ∧ cellsWf m.carved = true ∧ cellsWf m.mere = true ∧ cellsWf m.host = true := by
  simp only [Mem.wf, Bool.and_eq_true, and_assoc]

/-- A memory with the bytes of another keeps its form. -/
theorem wf_bytes {m n : Mem} (h : m.wf = true) (h1 : n.hbm = m.hbm) (h2 : n.carved = m.carved) (h3 : n.mere = m.mere)
    (h4 : n.host = m.host) : n.wf = true := by
  simpa only [Mem.wf, h1, h2, h3, h4] using h

theorem wf_empty : Mem.empty.wf = true := rfl

theorem setPoisonList_wf (s : State) (p : Space) (l : List Nat) (h : s.mem.wf = true) : (setPoisonList s p l).mem.wf = true := by
  cases p <;> exact h

theorem clearFlips_wf (s : State) (p : Space) (u : Nat) (h : s.mem.wf = true) : (clearFlips s p u).mem.wf = true := h

/-- The bytes of one space replaced by bytes in canonical form. -/
theorem setSpaceCells_wf (s : State) (p : Space) (m : List Host.Cell) (h : s.mem.wf = true) (hm : cellsWf m = true) :
    (setSpaceCells s p m).mem.wf = true := by
  rw [wf_iff] at h
  cases p <;> simp only [setSpaceCells, modMem, wf_iff] <;> simp_all

theorem spaceCells_wf (s : State) (p : Space) (h : s.mem.wf = true) : cellsWf (spaceCells s p) = true := by
  rw [wf_iff] at h
  cases p
  · exact h.2.2.1
  · exact h.1
  · exact h.2.1
  · rfl
  · exact h.2.2.2

theorem postNotice_wf (s : State) (kind tag data : Nat) (h : s.mem.wf = true) : (postNotice s kind tag data).mem.wf = true := by
  unfold postNotice
  split
  · exact h
  · split
    · exact h
    · rw [wf_iff] at h ⊢
      exact ⟨h.1, h.2.1, h.2.2.1, cellsWf_put _ _ h.2.2.2⟩

/-- What a comparison of a table's copies can do. -/
theorem compared_cases (s : State) (t : Nat) :
    compared s t = s ∨ (tableBad s t = true ∧ compared s t = goFatal s t) ∨
      (tableBad s t = false ∧ compared s t = modPkg s (fun g => { g with damage := g.damage.filter (fun f => f.place != t) })) := by
  unfold compared
  split
  · exact .inl rfl
  · split
    · exact .inr (.inl ⟨‹_›, rfl⟩)
    · exact .inr (.inr ⟨by simpa using ‹¬ tableBad s t = true›, rfl⟩)

theorem goFatal_wf (s : State) (t : Nat) (h : s.mem.wf = true) : (goFatal s t).mem.wf = true := by
  unfold goFatal
  split
  · exact h
  · exact postNotice_wf _ _ _ _ h

theorem compared_wf (s : State) (t : Nat) (h : s.mem.wf = true) : (compared s t).mem.wf = true := by
  rcases compared_cases s t with e | ⟨-, e⟩ | ⟨-, e⟩ <;> rw [e]
  · exact h
  · exact goFatal_wf s t h
  · exact h

theorem makeRecord_wf (s : State) (p : Space) (u : Nat) (h : s.mem.wf = true) : (makeRecord s p u).mem.wf = true := by
  have h1 := compared_wf s 1 h
  unfold makeRecord
  dsimp only
  split
  · exact h1
  · split <;> exact postNotice_wf _ _ _ _ h1

theorem poisonUnit_wf (s : State) (p : Space) (u : Nat) (h : s.mem.wf = true) : (poisonUnit s p u).mem.wf = true := by
  unfold poisonUnit
  apply makeRecord_wf
  split
  · exact h
  · exact setPoisonList_wf _ _ _ h

theorem probeUnit_wf (s : State) (p : Space) (u : Nat) (h : s.mem.wf = true) : (probeUnit s p u).mem.wf = true := by
  unfold probeUnit
  split
  · exact h
  · exact h
  · exact poisonUnit_wf _ _ _ h

theorem probeRange_wf (s : State) (pl : Place) (n : Nat) (h : s.mem.wf = true) : (probeRange s pl n).mem.wf = true :=
  foldl_keeps (fun (t : State) => t.mem.wf = true) _ (fun _ _ => probeUnit_wf _ _ _) _ _ h

theorem writeUnit_wf (s : State) (pl : Place) (n u : Nat) (h : s.mem.wf = true) : (writeUnit s pl n u).mem.wf = true := by
  unfold writeUnit
  dsimp only
  split
  · exact setPoisonList_wf _ _ _ h
  · exact probeUnit_wf s pl.space u h

theorem rawSectors_mem (s : State) (pl : Place) (n : Nat) : (rawSectors s pl n).mem = s.mem := by
  unfold rawSectors; split <;> rfl

/-- What the mark of written lines can change: the list of them alone. -/
theorem markDirty_cases (s : State) (pl : Place) (n : Nat) :
    ∃ l, markDirty s pl n = { s with mem := { s.mem with dirty := l } } := by
  unfold markDirty
  split
  · exact ⟨_, rfl⟩
  · exact ⟨s.mem.dirty, rfl⟩

theorem markDirty_wf (s : State) (pl : Place) (n : Nat) (h : s.mem.wf = true) : (markDirty s pl n).mem.wf = true := by
  obtain ⟨l, e⟩ := markDirty_cases s pl n
  rw [e]; exact h

/-- A write keeps every memory in canonical form. -/
theorem writePlace_wf (s : State) (pl : Place) (bs : List Byte) (h : s.mem.wf = true) : (writePlace s pl bs).mem.wf = true := by
  unfold writePlace
  have h1 := foldl_keeps (fun t : State => t.mem.wf = true) (fun t u => writeUnit t pl bs.length u) (fun _ _ => writeUnit_wf _ _ _ _)
    (unitsOf pl.space pl.addr bs.length) s h
  exact markDirty_wf _ _ _ (setSpaceCells_wf _ _ _ (by rw [rawSectors_mem]; exact h1) (cellsWf_put _ _ (spaceCells_wf _ _ h1)))

theorem zeroGranule_wf (s : State) (cl p : Nat) (h : s.mem.wf = true) : (zeroGranule s cl p).mem.wf = true := by
  rw [wf_iff] at h ⊢
  exact ⟨h.1, h.2.1, cellsWf_put _ _ h.2.2.1, h.2.2.2⟩

/-- Lines that Tarn loses leave every memory in canonical form. -/
theorem loseLines_wf (s : State) (h : s.mem.wf = true) : (loseLines s).mem.wf = true := by
  unfold loseLines
  refine foldl_keeps (fun t : State => t.mem.wf = true) _ (fun t l ht => ?_) _ _ h
  rw [wf_iff] at ht ⊢
  exact ⟨cellsWf_put _ _ ht.1, ht.2⟩

/-! ## Frames: the bytes of the part's own memories -/

/-- Every memory of the part reads the same in t as in s; notices may have been written to the host's memory. -/
def SameBytes (s t : State) : Prop := ∀ p : Space, p ≠ .host → spaceCells t p = spaceCells s p

theorem SameBytes.refl (s : State) : SameBytes s s := fun _ _ => rfl
theorem SameBytes.trans {s t u : State} (h1 : SameBytes s t) (h2 : SameBytes t u) : SameBytes s u :=
  fun p hp => (h2 p hp).trans (h1 p hp)

theorem sameBytes_read {s t : State} (h : SameBytes s t) (pl : Place) (n : Nat) (hp : pl.space ≠ .host) :
    readPlace t pl n = readPlace s pl n := by rw [readPlace, readPlace, h _ hp]

theorem postNotice_bytes (s : State) (kind tag data : Nat) : SameBytes s (postNotice s kind tag data) := by
  unfold postNotice
  split
  · intro p _; cases p <;> rfl
  · split
    · intro p _; cases p <;> rfl
    · intro p hp; cases p <;> first | rfl | exact absurd rfl hp

theorem setPoisonList_bytes (s : State) (p : Space) (l : List Nat) : SameBytes s (setPoisonList s p l) := by
  intro q _; cases p <;> cases q <;> rfl

theorem clearFlips_bytes (s : State) (p : Space) (u : Nat) : SameBytes s (clearFlips s p u) := by
  intro q _; cases q <;> rfl

theorem modPkg_bytes (s : State) (f : Pkg → Pkg) : SameBytes s (modPkg s f) := by
  intro q _; cases q <;> rfl

theorem goFatal_bytes (s : State) (t : Nat) : SameBytes s (goFatal s t) := by
  unfold goFatal
  split
  · exact .refl s
  · refine .trans ?_ (postNotice_bytes _ _ _ _)
    intro p _; cases p <;> rfl

theorem compared_bytes (s : State) (t : Nat) : SameBytes s (compared s t) := by
  rcases compared_cases s t with e | ⟨-, e⟩ | ⟨-, e⟩ <;> rw [e]
  · exact .refl s
  · exact goFatal_bytes s t
  · exact modPkg_bytes s _

theorem makeRecord_bytes (s : State) (p : Space) (u : Nat) : SameBytes s (makeRecord s p u) := by
  have h1 := compared_bytes s 1
  unfold makeRecord
  dsimp only
  split
  · exact h1
  · split <;> exact h1.trans ((modPkg_bytes _ _).trans (postNotice_bytes _ _ _ _))

theorem poisonUnit_bytes (s : State) (p : Space) (u : Nat) : SameBytes s (poisonUnit s p u) := by
  unfold poisonUnit
  refine SameBytes.trans ?_ (makeRecord_bytes _ _ _)
  split
  · exact .refl s
  · exact setPoisonList_bytes _ _ _

theorem countCorrected_bytes (s : State) : SameBytes s (countCorrected s) := fun p _ => by cases p <;> rfl

theorem probeUnit_bytes (s : State) (p : Space) (u : Nat) : SameBytes s (probeUnit s p u) := by
  unfold probeUnit
  split
  · exact .refl s
  · exact countCorrected_bytes s
  · exact (clearFlips_bytes s p u).trans (poisonUnit_bytes _ _ _)

/-- The error checks of a read change no byte of the part. -/
theorem probeRange_bytes (s : State) (pl : Place) (n : Nat) : SameBytes s (probeRange s pl n) :=
  foldl_keeps (fun (t : State) => SameBytes s t) _ (fun _ _ h => h.trans (probeUnit_bytes _ _ _)) _ _ (.refl s)

theorem writeUnit_bytes (s : State) (pl : Place) (n u : Nat) : SameBytes s (writeUnit s pl n u) := by
  unfold writeUnit
  dsimp only
  split
  · exact (clearFlips_bytes s _ u).trans (setPoisonList_bytes _ _ _)
  · exact (probeUnit_bytes s _ u).trans (clearFlips_bytes _ _ _)

theorem rawSectors_bytes (s : State) (pl : Place) (n : Nat) : SameBytes s (rawSectors s pl n) := by
  intro p _
  cases p <;> simp only [spaceCells, rawSectors_mem]

theorem markDirty_cells (s : State) (pl : Place) (n : Nat) (p : Space) : spaceCells (markDirty s pl n) p = spaceCells s p := by
  obtain ⟨l, e⟩ := markDirty_cases s pl n
  rw [e]; cases p <;> rfl

/-- The bytes of the part after a write: the written space holds the written run. -/
theorem writePlace_cells (s : State) (pl : Place) (bs : List Byte) (p : Space) (hp : p ≠ .host) (hl : pl.space ≠ .peer) :
    spaceCells (writePlace s pl bs) p =
      if p = pl.space then cellsPut (spaceCells s p) pl.addr bs else spaceCells s p := by
  have h1 : SameBytes s ((unitsOf pl.space pl.addr bs.length).foldl (fun t u => writeUnit t pl bs.length u) s) :=
    foldl_keeps (fun (t : State) => SameBytes s t) _ (fun _ _ h => h.trans (writeUnit_bytes _ _ _ _)) _ _ (.refl s)
  have h2 := h1.trans (rawSectors_bytes _ pl bs.length)
  unfold writePlace
  dsimp only
  rw [markDirty_cells]
  generalize he : (unitsOf pl.space pl.addr bs.length).foldl (fun t u => writeUnit t pl bs.length u) s = s1 at h1 h2
  split
  · next e =>
    subst e
    have hc := h1 _ hp
    rw [hc]
    cases hs : pl.space <;> first | rfl | exact absurd hs hp | exact absurd hs hl
  · next e =>
    have hc := h2 p hp
    rw [← hc]
    cases hs : pl.space <;> cases p <;> first | rfl | exact absurd hs.symm e

/-- A run read back after it was written to a memory of the part. -/
theorem readPlace_write_same (s : State) (pl : Place) (bs : List Byte) (h1 : pl.space ≠ .host) (h2 : pl.space ≠ .peer) :
    readPlace (writePlace s pl bs) pl bs.length = bs := by
  rw [readPlace, writePlace_cells s pl bs _ h1 h2, if_pos rfl, cellsGet_put_same]

/-- A run of a memory of the part that a write does not touch reads as before. -/
theorem readPlace_write_other (s : State) (pl q : Place) (bs : List Byte) (n : Nat) (h1 : q.space ≠ .host) (h2 : pl.space ≠ .peer)
    (h : q.space ≠ pl.space ∨ q.addr + n ≤ pl.addr ∨ pl.addr + bs.length ≤ q.addr) :
    readPlace (writePlace s pl bs) q n = readPlace s q n := by
  rw [readPlace, writePlace_cells s pl bs _ h1 h2, readPlace]
  split
  · next e =>
    rcases h with h | h
    · exact absurd e h
    · exact cellsGet_put_other _ _ _ _ _ h
  · rfl

/-! ## The posted writes to the host -/

theorem hostTake_wf (s : State) (w : Posted) (h : s.mem.wf = true) : (hostTake s w).mem.wf = true := by
  rw [wf_iff] at h ⊢
  exact ⟨h.1, h.2.1, h.2.2.1, cellsWf_put _ _ h.2.2.2⟩

theorem hostTake_bytes (s : State) (w : Posted) : SameBytes s (hostTake s w) := by
  intro p hp; cases p <;> first | rfl | exact absurd rfl hp

theorem hostUpTo_wf (s : State) (sel : Posted → Bool) (h : s.mem.wf = true) : (hostUpTo s sel).mem.wf = true :=
  foldl_keeps (fun t : State => t.mem.wf = true) _ (fun t w ht => hostTake_wf t w ht) _ _ h

theorem modNet_bytes (s : State) (f : Net → Net) : SameBytes s (modNet s f) := by
  intro p _; cases p <;> rfl

theorem hostUpTo_bytes (s : State) (sel : Posted → Bool) : SameBytes s (hostUpTo s sel) :=
  foldl_keeps (fun t : State => SameBytes s t) hostTake (fun t w ht => ht.trans (hostTake_bytes t w)) _ _ (modNet_bytes s _)

theorem hostSettled_wf (s : State) (who : Option (CtxId × Nat)) (p : Place) (n : Nat) (h : s.mem.wf = true) :
    (hostSettled s who p n).mem.wf = true := by
  unfold hostSettled
  split
  · exact hostUpTo_wf s _ h
  · exact h

theorem hostSettled_bytes (s : State) (who : Option (CtxId × Nat)) (p : Place) (n : Nat) : SameBytes s (hostSettled s who p n) := by
  unfold hostSettled
  split
  · exact hostUpTo_bytes s _
  · exact .refl s

theorem hostPasses_wf (s : State) (h : s.mem.wf = true) : (hostPasses s).mem.wf = true :=
  foldl_keeps (fun t : State × List Posted => t.1.mem.wf = true) (hostPass s.cyc)
    (fun t w ht => by
      unfold hostPass
      split
      · exact hostTake_wf t.1 _ ht
      · exact ht) _ _ h

theorem hostPasses_bytes (s : State) : SameBytes s (hostPasses s) :=
  .trans (foldl_keeps (fun t : State × List Posted => SameBytes s t.1) (hostPass s.cyc)
    (fun t w ht => by
      unfold hostPass
      split
      · exact ht.trans (hostTake_bytes t.1 _)
      · exact ht) _ _ (.refl s)) (modNet_bytes _ _)

end Sys2Proof.Machine
end

