-- ==== Sys2Proof/Laws/Engine.lean ====
section
/-!
SUPPORT. Laws of the engines' readings and writings (10 R323 to R333, 09 R288): what pieces that have come give, and writes to Mere
that meet no wait.
-/
namespace Sys2Proof.Machine

/-! ## Readings -/

/-- A range whose pieces are all at hand is read whole, and nothing changes. -/
theorem readGo_data (s : State) (x : Ctx) (c : Cmd) (w : Nat) (D : Nat × Nat → List Byte) :
    ∀ (l : List (Nat × Nat)) (g : Got), (∀ q ∈ l, readPiece s x c w q.1 q.2 = (s, .data (D q))) →
      readGo s x c w l g = (s, { g with bs := g.bs ++ l.flatMap D })
  | [], g, _ => by simp [readGo]
  | q :: rest, g, h => by
    have h1 := h q (by simp)
    have h2 := readGo_data s x c w D rest { g with bs := g.bs ++ D q } (fun r hr => h r (by simp [hr]))
    unfold readGo
    simp only [h1, h2, List.flatMap_cons, List.append_assoc]

/-- A range whose pieces are all poisoned. -/
theorem readGo_poison (s : State) (x : Ctx) (c : Cmd) (w : Nat) :
    ∀ (l : List (Nat × Nat)) (g : Got), (∀ q ∈ l, readPiece s x c w q.1 q.2 = (s, .bad 10 q.1)) →
      readGo s x c w l g =
        (s, { g with bs := g.bs ++ l.flatMap (fun q => List.replicate q.2 0), bads := g.bads ++ l.map (fun q => (10, q.1)) })
  | [], g, _ => by simp [readGo]
  | q :: rest, g, h => by
    have h1 := h q (by simp)
    have h2 := readGo_poison s x c w rest { g with bs := g.bs ++ List.replicate q.2 0, bads := g.bads ++ [(10, q.1)] }
      (fun r hr => h r (by simp [hr]))
    unfold readGo
    simp only [h1, h2, List.flatMap_cons, List.map_cons, List.append_assoc, List.singleton_append]

/-- Answers for every piece of a list, their content by address. -/
theorem gotPiece_at {x : Ctx} {c : Cmd} {o : MemOp} {w : Nat} {l : List (Nat × Nat)} {D : Nat → List Byte} (ho : findOp x c.seq = some o)
    (hg : o.gathered = l.map (fun q => (pieceKey w q.1, D q.1))) {q : Nat × Nat} (hq : q ∈ l) : gotPiece x c (pieceKey w q.1) = some (D q.1) := by
  simp only [gotPiece, ho, hg, Option.bind_some]
  have hs : ((l.map (fun q => (pieceKey w q.1, D q.1))).find? (fun g => g.1 == pieceKey w q.1)).isSome = true := by
    rw [List.find?_isSome]
    exact ⟨_, List.mem_map.2 ⟨q, hq, rfl⟩, by simp⟩
  obtain ⟨g, he⟩ := Option.isSome_iff_exists.1 hs
  obtain ⟨r, -, rfl⟩ := List.mem_map.1 (List.mem_of_find?_eq_some he)
  have hk : pieceKey w r.1 = pieceKey w q.1 := by simpa using List.find?_some he
  have : r.1 = q.1 := Nat.add_right_cancel hk
  simp [he, this]

/-- Answers of one content for every piece of a list. -/
theorem gotPiece_same {x : Ctx} {c : Cmd} {o : MemOp} {w : Nat} {l : List (Nat × Nat)} {D : List Byte} (ho : findOp x c.seq = some o)
    (hg : o.gathered = l.map (fun q => (pieceKey w q.1, D))) {q : Nat × Nat} (hq : q ∈ l) : gotPiece x c (pieceKey w q.1) = some D :=
  gotPiece_at (D := fun _ => D) ho hg hq

theorem readPiece_got {s : State} {x : Ctx} {c : Cmd} {w a n : Nat} {D : List Byte} (h : gotPiece x c (pieceKey w a) = some D)
    (hd : D ≠ []) : readPiece s x c w a n = (s, .data D) := by
  unfold readPiece
  rw [h]
  cases D with
  | nil => exact absurd rfl hd
  | cons b r => rfl

/-- A range of which every piece has come. -/
theorem readRange_got {s : State} {x : Ctx} {c : Cmd} {o : MemOp} {w a n : Nat} {l : List (Nat × Nat)} {D : Nat → List Byte}
    (ho : findOp x c.seq = some o) (hg : o.gathered = l.map (fun q => (pieceKey w q.1, D q.1))) (hd : ∀ q ∈ l, D q.1 ≠ [])
    (hl : ∀ q ∈ pieces a n, q ∈ l) :
    readRange s x c w a n = (s, { Got.none with bs := (pieces a n).flatMap (fun q => D q.1) }) := by
  have h := readGo_data s x c w (fun q => D q.1) (pieces a n) Got.none
    (fun q hq => readPiece_got (gotPiece_at ho hg (hl q hq)) (hd q (hl q hq)))
  unfold readRange
  rw [h]
  rfl

theorem readPiece_poison {s : State} {x : Ctx} {c : Cmd} {w a n : Nat} (h : gotPiece x c (pieceKey w a) = some []) :
    readPiece s x c w a n = (s, .bad 10 a) := by
  unfold readPiece
  rw [h]

/-! ## What a write leaves of the granules -/

/-- Two states with one clock and the same granules in every cluster. -/
def SameGrans (s t : State) : Prop := t.cyc = s.cyc ∧ ∀ cl, (getCl t cl).grans = (getCl s cl).grans

theorem SameGrans.refl (s : State) : SameGrans s s := ⟨rfl, fun _ => rfl⟩
theorem SameGrans.trans {s t u : State} (h1 : SameGrans s t) (h2 : SameGrans t u) : SameGrans s u :=
  ⟨h2.1.trans h1.1, fun cl => (h2.2 cl).trans (h1.2 cl)⟩
theorem sameGrans_of {s t : State} (h1 : t.cyc = s.cyc) (h2 : t.clusters = s.clusters) : SameGrans s t :=
  ⟨h1, fun cl => by simp [getCl, h2]⟩

theorem postNotice_grans (s : State) (kind tag data : Nat) : SameGrans s (postNotice s kind tag data) := by
  unfold postNotice
  split
  · exact sameGrans_of rfl rfl
  · split <;> exact sameGrans_of rfl rfl

theorem setPoisonList_grans (s : State) (p : Space) (l : List Nat) : SameGrans s (setPoisonList s p l) := by
  cases p <;> exact sameGrans_of rfl rfl

theorem compared_grans (s : State) (t : Nat) : SameGrans s (compared s t) := by
  rcases compared_cases s t with e | ⟨-, e⟩ | ⟨-, e⟩ <;> rw [e]
  · exact .refl s
  · unfold goFatal
    split
    · exact .refl s
    · exact SameGrans.trans (t := modDev s (fun d => { d with fatal := true })) (sameGrans_of rfl rfl) (postNotice_grans _ _ _ _)
  · exact sameGrans_of rfl rfl

theorem makeRecord_grans (s : State) (p : Space) (u : Nat) : SameGrans s (makeRecord s p u) := by
  have h := compared_grans s 1
  unfold makeRecord
  dsimp only
  split
  · exact h
  · split
    · exact (h.trans (sameGrans_of rfl rfl)).trans (postNotice_grans _ _ _ _)
    · exact (h.trans (sameGrans_of rfl rfl)).trans (postNotice_grans _ _ _ _)

theorem poisonUnit_grans (s : State) (p : Space) (u : Nat) : SameGrans s (poisonUnit s p u) := by
  unfold poisonUnit
  dsimp only
  split
  · exact makeRecord_grans _ _ _
  · exact (setPoisonList_grans s p _).trans (makeRecord_grans _ _ _)

theorem clearFlips_grans (s : State) (p : Space) (u : Nat) : SameGrans s (clearFlips s p u) := sameGrans_of rfl rfl

theorem probeUnit_grans (s : State) (p : Space) (u : Nat) : SameGrans s (probeUnit s p u) := by
  unfold probeUnit
  split
  · exact .refl s
  · exact sameGrans_of rfl rfl
  · exact (clearFlips_grans s p u).trans (poisonUnit_grans _ _ _)

theorem writeUnit_grans (s : State) (pl : Place) (n u : Nat) : SameGrans s (writeUnit s pl n u) := by
  unfold writeUnit
  dsimp only
  split
  · exact (clearFlips_grans s pl.space u).trans (setPoisonList_grans _ _ _)
  · exact (probeUnit_grans s pl.space u).trans (clearFlips_grans _ _ _)

theorem rawSectors_grans (s : State) (pl : Place) (n : Nat) : SameGrans s (rawSectors s pl n) := by
  unfold rawSectors
  split
  · refine ⟨rfl, fun cl => ?_⟩
    simp only [modCl, putCl, getCl, smGet_put]
    split
    · next h => rw [h]
    · rfl
  · exact .refl s

theorem markDirty_grans (s : State) (pl : Place) (n : Nat) : SameGrans s (markDirty s pl n) := by
  obtain ⟨l, e⟩ := markDirty_cases s pl n
  rw [e]; exact sameGrans_of rfl rfl

theorem setSpaceCells_grans (s : State) (p : Space) (m : List Host.Cell) : SameGrans s (setSpaceCells s p m) := by
  cases p <;> exact sameGrans_of rfl rfl

/-- A write of memory keeps the granules of every cluster. -/
theorem writePlace_grans (s : State) (pl : Place) (bs : List Byte) : SameGrans s (writePlace s pl bs) := by
  unfold writePlace
  have h := foldl_keeps (fun t : State => SameGrans s t) (fun t u => writeUnit t pl bs.length u)
    (fun t u h => h.trans (writeUnit_grans t pl bs.length u)) (unitsOf pl.space pl.addr bs.length) s (.refl s)
  exact ((h.trans (rawSectors_grans _ _ _)).trans (setSpaceCells_grans _ _ _)).trans (markDirty_grans _ _ _)

theorem entriesIn_mere (base : Word) (n : Nat) (p : Place) (m : Nat) (h : p.space = .mere) : entriesIn base n p m = [] := by
  unfold entriesIn
  dsimp only
  rw [if_pos]
  rw [h]
  unfold tablePlace
  dsimp only
  split <;> rfl

/-- A write of an engine to a place of Mere. -/
theorem storedMere_grans (s : State) (x : Ctx) (ss : Nat) (p : Place) (bs : List Byte) (a : Nat) (h : p.space = .mere) :
    SameGrans s (homeStored (placeWrite s x ss p bs) a p) := by
  have h1 : p.space ≠ .host := by rw [h]; decide
  have h2 : p.space ≠ .hbm := by rw [h]; decide
  unfold homeStored
  refine SameGrans.trans ?_ (markDirty_grans _ _ _)
  unfold homeTouch
  rw [if_neg h2]
  unfold placeWrite
  rw [if_neg h1]
  unfold homeWrite hostSettled
  rw [if_neg h1]
  dsimp only
  rw [entriesIn_mere _ _ _ _ h, entriesIn_mere _ _ _ _ h]
  exact writePlace_grans s p bs

/-! ## Writes to Mere that meet no wait -/

/-- An address of the gang's Mere that the engines may use now. -/
def mereOpen (s : State) (x : Ctx) (c : Cmd) (a : Nat) : Bool :=
  inMere a && (match merePlace s x.id.cl x.env.iter x.env.gang a with
  | none => false
  | some (_, g) => ownerSeen s none g && !givePending x c.seq g.num)

theorem mereOpen_same {s t : State} (h : SameGrans s t) (x : Ctx) (c : Cmd) (a : Nat) : mereOpen t x c a = mereOpen s x c a := by
  simp only [mereOpen, merePlace, granOf, ownerSeen, h.1, h.2]

theorem wordLoc_mere {s : State} {x : Ctx} {c : Cmd} {w a : Nat} (hw : bit w 63 = false) (h : mereOpen s x c a = true) (wr : Bool) :
    ∃ p, wordLoc s x c w a wr = (s, .here p false) ∧ p.space = .mere := by
  simp only [mereOpen, Bool.and_eq_true] at h
  obtain ⟨hm, h⟩ := h
  split at h
  · exact absurd h (by decide)
  · next p g he =>
    refine ⟨p, ?_, ?_⟩
    · simp only [wordLoc, hw, Bool.not_false, if_true, ownLoc, hm, mereLoc, he]
      rw [if_pos h]
    · simp only [merePlace] at he
      split at he
      · exact absurd he nofun
      · simp only [Option.some.injEq, Prod.mk.injEq] at he
        rw [← he.1]

theorem writePiece_mere {s : State} {x : Ctx} {c : Cmd} {w a : Nat} (hw : bit w 63 = false) (h : mereOpen s x c a = true) (bs : List Byte) :
    ∃ t, writePiece s x c w a bs = (t, .done) ∧ SameGrans s t := by
  obtain ⟨p, he, hp⟩ := wordLoc_mere hw h true
  unfold writePiece
  rw [he]
  exact ⟨_, rfl, storedMere_grans s x _ p bs a hp⟩

theorem writeGo_mere {x : Ctx} {c : Cmd} {w : Nat} (hw : bit w 63 = false) :
    ∀ (l : List (Nat × Nat)) (s : State) (bs : List Byte) (r : Put), (∀ q ∈ l, mereOpen s x c q.1 = true) →
      (writeGo s x c w l bs r).2 = r
  | [], _, _, _, _ => rfl
  | q :: rest, s, bs, r, h => by
    obtain ⟨t, he, hg⟩ := writePiece_mere hw (h q (by simp)) (bs.take q.2)
    unfold writeGo
    rw [he]
    exact writeGo_mere hw rest t _ r (fun e hm => (mereOpen_same hg x c e.1).trans (h e (by simp [hm])))

/-- A range of Mere whose every piece is open is written without a wait and without a failure. -/
theorem writeRange_mere {s : State} {x : Ctx} {c : Cmd} {w a : Nat} {bs : List Byte} (hw : bit w 63 = false)
    (h : ∀ q ∈ pieces a bs.length, mereOpen s x c q.1 = true) :
    writeWait s x c w a bs.length = none ∧ (writeRange s x c w a bs).2 = { sent := [], bad := none } := by
  refine ⟨?_, writeGo_mere hw _ _ _ _ h⟩
  unfold writeWait
  rw [List.findSome?_eq_none_iff]
  intro q hq
  obtain ⟨p, he, -⟩ := wordLoc_mere hw (h q hq) true
  simp [writeLoc, he]

/-! ## Operands of the array that have come (09 R288, R299) -/

/-- An operand of Mere whose every piece came poisoned: it is read with the poison of each piece. -/
theorem readOpnd_poison {s : State} {x : Ctx} {c : Cmd} {v idx : Nat} {f : Fmt} (hf : f = fmtOfCode (BitVec.ofNat 4 (bits v 59 56)))
    (h : ∀ q ∈ finePieces (bits v 55 0) (tileBytes f), gotPiece x c (pieceKey 0 q.1) = some [])
    {ps : List (Option Nat × Nat)}
    (hp : ps = ((finePieces (bits v 55 0) (tileBytes f)).map (fun q => (stepOfByte f (q.1 - bits v 55 0), q.1))).filter (fun p => p.1 != some 8))
    (hn : finePieces (bits v 55 0) (tileBytes f) ≠ []) (ha : ps.any (fun p => p.1.isNone) = true) :
    readOpnd s x c 0 v idx = (s, .ok (outOpnd f) ps) := by
  have hr := readGo_poison s x c 0 (finePieces (bits v 55 0) (tileBytes f)) Got.none (fun q hq => readPiece_poison (h q hq))
  have hs : poisonSteps s x c { f := f, addr := bits v 55 0, out := false } = ps := by
    rw [hp]
    unfold poisonSteps
    congr 1
    generalize finePieces (bits v 55 0) (tileBytes f) = l at h
    clear hr hn ha hp
    induction l with
    | nil => rfl
    | cons q r ih =>
      rw [List.filterMap_cons, readPiece_poison (h q (by simp)), List.map_cons, ih (fun q hq => h q (by simp [hq]))]
      rfl
  unfold readOpnd opndSpec
  dsimp only
  rw [if_pos rfl, ← hf]
  simp only [Bool.false_eq_true, if_false]
  rw [hr]
  have hb : ((Got.none.bads ++ (finePieces (bits v 55 0) (tileBytes f)).map (fun q : Nat × Nat => (10, q.1))).find? (fun b : Nat × Nat => b.1 != 10)) = none := by
    rw [List.find?_eq_none]
    intro b hb
    rw [show Got.none.bads = [] from rfl, List.nil_append] at hb
    obtain ⟨q, -, rfl⟩ := List.mem_map.1 hb
    simp
  have hne : Got.none.bads ++ (finePieces (bits v 55 0) (tileBytes f)).map (fun q : Nat × Nat => (10, q.1)) ≠ [] := by simp [Got.none, hn]
  simp only [hb, hne, if_false, hs, ha, if_true]
  rfl

/-! ## A bank of zeros (09 R300, 02 R75) -/

theorem denseGo_nil {α : Type} (d : α) : ∀ n k, denseGo d [] k n = List.replicate n d
  | 0, _ => rfl
  | n + 1, k => by rw [denseGo, denseGo_nil d n (k + 1), List.replicate_succ]

theorem dense_nil {α : Type} (d : α) (n : Nat) : dense [] n d = List.replicate n d := denseGo_nil d n 0

theorem vals32_zeros (n : Nat) : vals32 (List.replicate n 0) = List.replicate n (.zero false) := by
  unfold vals32
  rw [List.map_replicate, show decodeVal .fp32 0 = .zero false by decide +kernel]

theorem rowsOf_replicate {α : Type} (v : α) : rowsOf (List.replicate 65536 v) = List.replicate 256 (List.replicate 256 v) := by
  unfold rowsOf
  rw [List.eq_replicate_iff]
  refine ⟨by rw [List.length_map, List.length_range], fun r hr => ?_⟩
  obtain ⟨i, hi, rfl⟩ := List.mem_map.1 hr
  rw [List.drop_replicate, List.take_replicate]
  rw [List.mem_range] at hi
  congr 1
  omega

theorem bankVals_zeros {b : Bank} (h1 : b.el = []) (h2 : b.srow = []) (h3 : b.arow = []) (h4 : b.scol = []) (h5 : b.acol = []) :
    bankVals b = { el := List.replicate 256 (List.replicate 256 (.zero false)), sr := List.replicate 256 (.zero false),
                   ar := List.replicate 256 (.zero false), sc := List.replicate 256 (.zero false), ac := List.replicate 256 (.zero false) } := by
  unfold bankVals
  rw [h1, h2, h3, h4, h5, dense_nil, dense_nil, vals32_zeros, vals32_zeros, rowsOf_replicate]

theorem chkLanes_zeros (n : Nat) : chkLanes (List.replicate n (.zero false)) = (.zero false, .zero false) := by
  unfold chkLanes
  induction n with
  | zero => rfl
  | succ n ih =>
    rw [List.replicate_succ, List.foldl_cons]
    have h : (add32 (.zero false) (.zero false), add32 (.zero false) (valAbs (.zero false))) = (Val.zero false, Val.zero false) := by decide +kernel
    simp only [h]
    exact ih

theorem faults_zeros (tau eps n m : Nat) (h : laneOk (.zero false) (.zero false) (.zero false) tau eps = true) :
    faults tau eps (List.replicate n (List.replicate m (.zero false))) (List.replicate n (.zero false, .zero false)) = [] := by
  unfold faults
  rw [List.filterMap_eq_nil_iff]
  intro p hp
  have hz : p.2 ∈ (List.replicate n (List.replicate m (Val.zero false))).zip (List.replicate n (Val.zero false, Val.zero false)) := by
    obtain ⟨i, q⟩ := p
    exact (List.of_mem_zip hp).2
  obtain ⟨h1, h2⟩ := List.of_mem_zip hz
  rw [(List.mem_replicate.1 h1).2, (List.mem_replicate.1 h2).2]
  simp [lineFault, chkLanes_zeros, h]

theorem columns_zeros : columns (List.replicate 256 (List.replicate 256 (.zero false))) = List.replicate 256 (List.replicate 256 (.zero false)) := by
  unfold columns
  rw [List.eq_replicate_iff]
  refine ⟨by rw [List.length_map, List.length_range], fun r hr => ?_⟩
  obtain ⟨j, hj, rfl⟩ := List.mem_map.1 hr
  rw [List.mem_range] at hj
  unfold colOf
  rw [List.map_replicate, List.getD_eq_getElem?_getD, List.getElem?_replicate, if_pos hj]
  rfl

/-- A bank of zeros passes its check, and no record is made. -/
theorem checkBank_zeros (s : State) (x : Ctx) (c : Cmd) (bn : Nat)
    (h : bankVals (getBank s x.id.cl bn) = bankVals Bank.free)
    (ht : laneOk (.zero false) (.zero false) (.zero false) (bits (smGet s.pkg.chktol 0 0).toNat 63 32) (bits (smGet s.pkg.chktol 0 0).toNat 31 0) = true) :
    checkBank s x c bn = (s, none) := by
  have hz : (List.replicate 256 (Val.zero false)).zip (List.replicate 256 (Val.zero false)) = List.replicate 256 (Val.zero false, Val.zero false) := by
    rw [List.zip_replicate]; rfl
  have hn : ∀ l : List (List Val × (Val × Val)), (∀ p ∈ l, lineNonfin p.1 p.2 = false) →
      (l.filter (fun p => lineNonfin p.1 p.2)).length = 0 := by
    intro l hl
    rw [List.length_eq_zero_iff, List.filter_eq_nil_iff]
    intro p hp
    simp [hl p hp]
  have hl : ∀ p ∈ (List.replicate 256 (List.replicate 256 (Val.zero false))).zip (List.replicate 256 (Val.zero false, Val.zero false)),
      lineNonfin p.1 p.2 = false := by
    intro p hp
    obtain ⟨h1, h2⟩ := List.of_mem_zip (show (p.1, p.2) ∈ _ from hp)
    rw [(List.mem_replicate.1 h1).2, (List.mem_replicate.1 h2).2]
    simp only [lineNonfin, chkLanes_zeros]
    rfl
  unfold checkBank
  simp only [h, bankVals_zeros (b := Bank.free) rfl rfl rfl rfl rfl, hz]
  unfold checkLines
  simp only [columns_zeros, faults_zeros _ _ _ _ ht, nonfinLines, hn _ hl]
  rfl

/-! ## Images (09 R294) -/

theorem denseGo_length {α : Type} (d : α) : ∀ n (m : SMap α) k, (denseGo d m k n).length = n
  | 0, m, k => by unfold denseGo; rfl
  | n + 1, [], k => by rw [denseGo, List.length_cons, denseGo_length d n [] (k + 1)]
  | n + 1, p :: rest, k => by
    obtain ⟨j, v⟩ := p
    rw [denseGo]
    split
    · rw [List.length_cons, denseGo_length d n rest (k + 1)]
    · rw [List.length_cons, denseGo_length d n _ (k + 1)]

theorem dense_length {α : Type} (m : SMap α) (n : Nat) (d : α) : (dense m n d).length = n := denseGo_length d n m 0

theorem flatMap_length_const {α β : Type} (f : α → List β) (n : Nat) (h : ∀ a, (f a).length = n) : ∀ l : List α, (l.flatMap f).length = n * l.length
  | [] => by simp
  | a :: l => by rw [List.flatMap_cons, List.length_append, h, flatMap_length_const f n h l, List.length_cons, Nat.mul_succ, Nat.add_comm]

/-- An accumulator image fills its bytes. -/
theorem imageOf_length {el : List Nat} {b : Bank} (h : el.length = 65536) : (imageOf el b).length = imageBytes := by
  have hl : ∀ s a : List Nat, s.length = 256 → a.length = 256 → ((s.zip a).flatMap (fun p => natLe 4 p.1 ++ natLe 4 p.2)).length = 2048 := by
    intro s a hs ha
    rw [flatMap_length_const _ 8 (fun p => by rw [List.length_append, natLe_length, natLe_length]), List.length_zip, hs, ha]
    rfl
  unfold imageOf padTo
  simp only [List.length_append, List.length_replicate, natLe_length, flatMap_length_const _ 4 (natLe_length 4), h,
    hl _ _ (dense_length _ _ _) (dense_length _ _ _)]
  decide

/-- A part of one piece of a range whose pieces have one content. -/
theorem imgNat_same {α : Type} (D : List Byte) (j n : Nat) (hj : j + n ≤ D.length) :
    ∀ (l : List α) (k : Nat), k < l.length → imgNat (l.flatMap (fun _ => D)) (D.length * k + j) n = imgNat D j n
  | [], k, h => absurd h (by simp)
  | a :: l, 0, _ => by
    unfold imgNat
    rw [List.flatMap_cons, Nat.mul_zero, Nat.zero_add, List.drop_append, List.take_append]
    have : n - (D.drop j).length = 0 := by rw [List.length_drop]; omega
    rw [this, List.take_zero, List.append_nil]
  | a :: l, k + 1, h => by
    have ih := imgNat_same D j n hj l k (by simpa using h)
    unfold imgNat at ih ⊢
    have e : D.length * (k + 1) + j - D.length = D.length * k + j := by rw [Nat.mul_succ]; omega
    rw [List.flatMap_cons, List.drop_append, List.drop_of_length_le (by rw [Nat.mul_succ]; omega), List.nil_append, e]
    exact ih

/-! ## Tiles (07 R226 to R229, 10 R326) -/

theorem flatMap_length_all {α β : Type} (f : α → List β) (n : Nat) : ∀ l : List α, (∀ a ∈ l, (f a).length = n) → (l.flatMap f).length = n * l.length
  | [], _ => by simp
  | a :: l, h => by
    rw [List.flatMap_cons, List.length_append, h a (by simp), flatMap_length_all f n l (fun b hb => h b (by simp [hb])), List.length_cons,
      Nat.mul_succ, Nat.add_comm]

/-- A tile of 256 rows with 8 scales each and 256 lanes each way. -/
structure Tile.Full (t : Tile) : Prop where
  codes : t.codes.length = 256
  scales : t.scales.length = 256
  each : ∀ r ∈ t.scales, r.length = 8
  rowL : t.rowL.length = 256
  colL : t.colL.length = 256

theorem tileImage_length {f : Fmt} {t : Tile} (hf : f ≠ .fp64) (h : t.Full) : (tileImage f t).length = tileLen f := by
  have h1 : (t.codes.flatMap (packRow f)).length = rowBytes f * 256 := by
    rw [flatMap_length_const (packRow f) (rowBytes f) (fun l => natLe_length _ _), h.codes]
  have h2 : (t.scales.flatMap (fun r => r.flatMap (natLe 1))).length = 8 * 256 := by
    rw [flatMap_length_all _ 8 _ (fun r hr => by rw [flatMap_length_const _ 1 (natLe_length 1), h.each r hr]), h.scales]
  have h3 : (((List.range 256).zip t.rowL).flatMap (fun p => entryBytes p.2 (p.1 < 128 && bit t.head p.1))).length = 8 * 256 := by
    rw [flatMap_length_const (fun p : Nat × Nat × Nat => entryBytes p.2 (p.1 < 128 && bit t.head p.1)) 8 (fun p => natLe_length _ _), List.length_zip, h.rowL, List.length_range]; rfl
  have h4 : (t.colL.flatMap (fun l => entryBytes l false)).length = 8 * 256 := by
    rw [flatMap_length_const (fun l => entryBytes l false) 8 (fun p => natLe_length _ _), h.colL]
  unfold tileImage padTo
  simp only [List.length_append, List.length_replicate, h1, h3, h4]
  cases f <;> first | exact absurd rfl hf | simp [hasScale, fmtCode, rowBytes, fmtWidth, tileLen, tileGranules, laneWidth, h2]

theorem zeroTile_full (f : Fmt) (idx : Nat) : (zeroTile f idx).Full := by
  refine ⟨List.length_replicate, List.length_replicate, fun r hr => ?_, List.length_replicate, List.length_replicate⟩
  rw [(List.mem_replicate.1 hr).2, List.length_replicate]

theorem tileVals_length (f : Fmt) (t : Tile) : (tileVals f t).length = 256 := by rw [tileVals, List.length_map, List.length_range]

theorem sealTile_full {f : Fmt} {codes scales : List (List Nat)} {idx : Nat} (h1 : codes.length = 256) (h2 : scales.length = 256)
    (h3 : ∀ r ∈ scales, r.length = 8) : (sealTile f codes scales idx).Full := by
  refine ⟨h1, h2, h3, ?_, ?_⟩
  · simp only [sealTile, List.length_map, tileVals_length]
  · simp only [sealTile, List.length_map, List.length_range]

/-- A conversion gives a row of codes and a row of eight scales for each row. -/
theorem convertRows_shape (f : Fmt) (rm : Rm) (sat : Bool) (key : Nat) (fixed : Nat → Option Nat) (rows : List (List Val)) :
    let q := convertRows f rm sat key fixed rows
    q.1.length = rows.length ∧ q.2.1.length = rows.length ∧ ∀ r ∈ q.2.1, r.length = 8 := by
  have go : ∀ (l : List (Nat × List Val)) (acc : List (List Nat) × List (List Nat) × Nat), (∀ r ∈ acc.2.1, r.length = 8) →
      let q := l.foldl (fun acc p =>
        let bs := (List.range 8).map (fun b =>
          quantBlock f rm sat (blockWords f rm key p.1 b) (fixed p.1) ((p.2.drop (32 * b)).take 32))
        (acc.1 ++ [bs.flatMap (fun q => q.2.1)], acc.2.1 ++ [bs.map (·.1)], acc.2.2 + (bs.map (fun q => q.2.2)).sum)) acc
      q.1.length = acc.1.length + l.length ∧ q.2.1.length = acc.2.1.length + l.length ∧ ∀ r ∈ q.2.1, r.length = 8 := by
    intro l
    induction l with
    | nil => exact fun acc h => ⟨rfl, rfl, h⟩
    | cons p l ih =>
      intro acc h
      have h' := ih (acc.1 ++ [((List.range 8).map (fun b =>
        quantBlock f rm sat (blockWords f rm key p.1 b) (fixed p.1) ((p.2.drop (32 * b)).take 32))).flatMap (fun q => q.2.1)],
        acc.2.1 ++ [((List.range 8).map (fun b =>
        quantBlock f rm sat (blockWords f rm key p.1 b) (fixed p.1) ((p.2.drop (32 * b)).take 32))).map (·.1)],
        acc.2.2 + (((List.range 8).map (fun b =>
        quantBlock f rm sat (blockWords f rm key p.1 b) (fixed p.1) ((p.2.drop (32 * b)).take 32))).map (fun q => q.2.2)).sum) (by
          intro r hr
          rcases List.mem_append.1 hr with hr | hr
          · exact h r hr
          · rw [List.mem_singleton.1 hr, List.length_map, List.length_map, List.length_range])
      simp only [List.length_append, List.length_singleton] at h'
      refine ⟨?_, ?_, h'.2.2⟩
      · rw [List.foldl_cons]; exact h'.1.trans (by rw [List.length_cons]; omega)
      · rw [List.foldl_cons]; exact h'.2.1.trans (by rw [List.length_cons]; omega)
  have h := go (zipIdx rows) ([], [], 0) nofun
  have hz : (zipIdx rows).length = rows.length := by rw [zipIdx, List.length_zip, List.length_range, Nat.min_self]
  rw [hz] at h
  simpa [convertRows] using h

/-- The tile of a conversion of 256 rows fills its bytes. -/
theorem sealed_length {f : Fmt} {rm : Rm} {sat : Bool} {key idx : Nat} {fixed : Nat → Option Nat} {rows : List (List Val)} (hf : f ≠ .fp64)
    (h : rows.length = 256) :
    (tileImage f (sealTile f (convertRows f rm sat key fixed rows).1 (convertRows f rm sat key fixed rows).2.1 idx)).length = tileLen f := by
  obtain ⟨h1, h2, h3⟩ := convertRows_shape f rm sat key fixed rows
  exact tileImage_length hf (sealTile_full (h1.trans h) (h2.trans h) h3)

theorem leNat_zeros : ∀ n, leNat (List.replicate n 0) = 0
  | 0 => rfl
  | n + 1 => by rw [List.replicate_succ, leNat, leNat_zeros n]; rfl

/-- What stands before and behind the end of the zeros that an image begins with. -/
theorem imgNat_zeros {k off n : Nat} (bs : List Byte) (h : off + n ≤ k) : imgNat (List.replicate k 0 ++ bs) off n = 0 := by
  unfold imgNat
  rw [List.drop_append_of_le_length (by rw [List.length_replicate]; omega), List.drop_replicate,
    List.take_append_of_le_length (by rw [List.length_replicate]; omega), List.take_replicate]
  exact leNat_zeros _
theorem imgNat_behind (k off n : Nat) (bs : List Byte) : imgNat (List.replicate k 0 ++ bs) (k + off) n = imgNat bs off n := by
  unfold imgNat
  rw [List.drop_append, List.drop_of_length_le (by rw [List.length_replicate]; omega), List.nil_append, List.length_replicate,
    Nat.add_sub_cancel_left]

theorem range_map_const {α : Type} (n : Nat) (g : Nat → α) (v : α) (hg : ∀ i < n, g i = v) : (List.range n).map g = List.replicate n v := by
  rw [List.eq_replicate_iff]
  refine ⟨by rw [List.length_map, List.length_range], fun r hr => ?_⟩
  obtain ⟨i, hi, rfl⟩ := List.mem_map.1 hr
  exact hg i (List.mem_range.1 hi)

/-- An image whose elements, scales and lanes are zero, with side bits behind them, is a tile of zeros. -/
theorem tileOf_zeros {f : Fmt} {bs : List Byte} (hs : hasScale f = true)
    (hl : ∀ j < 512, imgNat bs (8 * j) 8 % 2 ^ 63 = 0) :
    tileOf f (List.replicate (tCheckOff f) 0 ++ bs) =
      { codes := List.replicate 256 (List.replicate 256 0), scales := List.replicate 256 (List.replicate 8 0),
        rowL := List.replicate 256 (0, 0), colL := List.replicate 256 (0, 0), head := headOf (List.replicate (tCheckOff f) 0 ++ bs) f } := by
  have he : ∀ j < 512, ((laneEntry (List.replicate (tCheckOff f) 0 ++ bs) f j).1, (laneEntry (List.replicate (tCheckOff f) 0 ++ bs) f j).2.1) = (0, 0) := by
    intro j hj
    have h := hl j hj
    simp only [laneEntry, imgNat_behind, bits, Prod.mk.injEq]
    generalize imgNat bs (8 * j) 8 = n at *
    constructor <;> omega
  have hc : ∀ i < 256, rowCodes (List.replicate (tCheckOff f) 0 ++ bs) f i = List.replicate 256 0 := by
    intro i hi
    have hw : fmtWidth f ≤ 64 := by cases f <;> decide
    have h0 : imgNat (List.replicate (tCheckOff f) 0 ++ bs) (i * rowBytes f) (rowBytes f) = 0 := by
      refine imgNat_zeros _ ?_
      simp only [tCheckOff, tDataLen, rowBytes, hs, if_true]
      have : i * (32 * fmtWidth f) ≤ 255 * (32 * fmtWidth f) := Nat.mul_le_mul_right _ (by omega)
      omega
    unfold rowCodes
    rw [h0]
    exact range_map_const 256 _ 0 (fun j _ => by simp)
  have hg : ∀ i < 256, rowScales (List.replicate (tCheckOff f) 0 ++ bs) f i = List.replicate 8 0 := by
    intro i hi
    refine range_map_const 8 _ 0 (fun b hb => ?_)
    rw [if_pos hs]
    exact imgNat_zeros _ (by simp only [tCheckOff, hs, if_true]; omega)
  unfold tileOf
  dsimp only
  rw [range_map_const 256 _ _ hc, range_map_const 256 _ _ hg, range_map_const 256 _ _ (fun j hj => he j (by omega)),
    range_map_const 256 _ _ (fun j hj => he (256 + j) (by omega))]

/-- A tile of zeros passes its check. -/
theorem checkTile_zeros {f : Fmt} {tau eps h : Nat} (hv : scaledVal f (scaleUsed f 0) 0 = .zero false)
    (ht : laneOk (.zero false) (.zero false) (.zero false) tau eps = true) :
    let t : Tile := { codes := List.replicate 256 (List.replicate 256 0), scales := List.replicate 256 (List.replicate 8 0),
                      rowL := List.replicate 256 (0, 0), colL := List.replicate 256 (0, 0), head := h }
    checkTile f tau eps t = .ok t none 0 := by
  intro t
  have hz : tileVals f t = List.replicate 256 (List.replicate 256 (.zero false)) := by
    unfold tileVals
    rw [List.eq_replicate_iff]
    refine ⟨by rw [List.length_map, List.length_range], fun r hr => ?_⟩
    obtain ⟨i, hi, rfl⟩ := List.mem_map.1 hr
    rw [List.mem_range] at hi
    have h1 : t.codes.getD i [] = List.replicate 256 0 := by
      rw [List.getD_eq_getElem?_getD, List.getElem?_replicate, if_pos hi]; rfl
    have h2 : t.scales.getD i [] = List.replicate 8 0 := by
      rw [List.getD_eq_getElem?_getD, List.getElem?_replicate, if_pos hi]; rfl
    unfold rowVals
    rw [h1, h2, List.eq_replicate_iff]
    refine ⟨by rw [List.length_map, List.length_zip, List.length_range, List.length_replicate]; rfl, fun v hw => ?_⟩
    obtain ⟨p, hp, rfl⟩ := List.mem_map.1 hw
    obtain ⟨hp1, hp2⟩ := List.of_mem_zip (show (p.1, p.2) ∈ _ from hp)
    rw [List.mem_range] at hp1
    rw [(List.mem_replicate.1 hp2).2, List.getD_eq_getElem?_getD, List.getElem?_replicate, if_pos (by omega)]
    exact hv
  have hl : (List.replicate 256 ((0, 0) : Nat × Nat)).map laneVal = List.replicate 256 (.zero false, .zero false) := by
    rw [List.map_replicate, show laneVal (0, 0) = (.zero false, .zero false) by decide +kernel]
  have hn : ∀ l : List (List Val × (Val × Val)), (∀ p ∈ l, lineNonfin p.1 p.2 = false) →
      (l.filter (fun p => lineNonfin p.1 p.2)).length = 0 := by
    intro l hl
    rw [List.length_eq_zero_iff, List.filter_eq_nil_iff]
    intro p hp
    simp [hl p hp]
  have hf : ∀ p ∈ (List.replicate 256 (List.replicate 256 (Val.zero false))).zip (List.replicate 256 (Val.zero false, Val.zero false)),
      lineNonfin p.1 p.2 = false := by
    intro p hp
    obtain ⟨h1, h2⟩ := List.of_mem_zip (show (p.1, p.2) ∈ _ from hp)
    rw [(List.mem_replicate.1 h1).2, (List.mem_replicate.1 h2).2]
    simp only [lineNonfin, chkLanes_zeros]
    rfl
  unfold checkTile
  simp only [linesOf, hz, show t.rowL = List.replicate 256 (0, 0) from rfl, show t.colL = List.replicate 256 (0, 0) from rfl, hl]
  unfold checkLines
  simp only [columns_zeros, faults_zeros _ _ _ _ ht, nonfinLines, hn _ hf]

end Sys2Proof.Machine
end

