-- ==== Sys2Proof/Tests/Slice0.lean ====
section
/-!
SUPPORT. Tests: the decode checks refuse ill-formed instructions, words written out from the manual decode, every statement's
hypotheses are met somewhere, and results worked by hand.
-/
namespace Sys2Proof.Tests
open Sys2Proof Sys2Proof.Machine

-- One proof at a time: each asks the kernel to evaluate a step.
set_option Elab.async false

/-! ## States -/

/-- A context at the first bundle of a page that users read, write and fetch, with some register values. -/
def here : Ctx :=
  { fetchCtx with
    s := [(1, 7), (2, 0xFFFFFFFFFFFFFFFF), (3, 0x100), (4, 0x18), (5, 0x1000_0000_0000_0000)], c := 0x2, ctxsave := 0x20_0000 }

/-- The machine with that context, nothing else resident, its core split and current, and the page mapped; the page's bytes
are those of the words ws. -/
def withCtx (x : Ctx) (ws : List Word) : State :=
  { putCtx (placeBundle State.reset ws) x with agenda := [] }

def base : State := withCtx here []

/-! ## When an operation issues, as a test -/

/-- The conditions of `Issues`, with the state and the context that the results due leave. -/
def issued (i : Instr) (s : State) : Option (Ctx × State × Ctx) :=
  match getCtx s s.cur with
  | none => none
  | some x =>
    if x.id = s.cur ∧ illegal i = none ∧ ((opOf i).illReg (issAt i s) s (settled x)).isNone = true ∧
      ((opOf i).absent (issAt i s) s (settled x)).isNone = true ∧ ((opOf i).priv x).isNone = true ∧
      ((opOf i).timed && x.sleepAt.isNone) = false ∧ heldOn x ((opOf i).reads x) = false ∧ (poisonDue x).isNone = true ∧ (dueFailure x [soleOp i s]).isNone = true ∧
      ((opOf i).block (issAt i s) (earlyOf i s x) (settled x)).isNone = true ∧ (passing x [soleOp i s]).isNone = true ∧
      (opOf i).hold (issAt i s) (earlyOf i s x) (settled x) = false ∧ mustFreeze (earlyOf i s x) x (2 + (opOf i).weight) = false
    then match settle (earlyOf i s x) x with
      | none => none
      | some (s1, x1) => if (outside x1 (opOf i)).isNone then some (x, s1, x1) else none
    else none

/-- The operation i issues in s, and ok holds there. -/
def meets (i : Instr) (s : State) (ok : Iss → Ctx → State → Bool) : Bool :=
  match issued i s with
  | none => false
  | some (_, s1, x1) => ok (issAt i s) x1 (putCtx s1 x1)

theorem meets_issues {i : Instr} {s : State} {ok : Iss → Ctx → State → Bool} (h : meets i s ok = true) :
    ∃ x s1 x1, Issues i s x s1 x1 ∧ ok (issAt i s) x1 (putCtx s1 x1) = true := by
  unfold meets issued at h
  split at h
  · exact absurd h (by decide)
  · next y s1 x1 he =>
    split at he
    · exact absurd he nofun
    · next x hx =>
      split at he
      · next hc =>
        obtain ⟨h1, h2, h3, h4, h5, h6, h7, h8, h9, h10, h11, h12, h13⟩ := hc
        simp only [Option.isNone_iff_eq_none] at h3 h4 h5 h8 h9 h10 h11
        split at he
        · exact absurd he nofun
        · next r t1 y1 hs =>
          split at he
          · next ho =>
            simp only [Option.some.injEq, Prod.mk.injEq] at he
            obtain ⟨rfl, rfl, rfl⟩ := he
            exact ⟨_, _, _, ⟨hx, h1, h2, h3, h4, h5, h6, h7, h8, h9, h10, h11, h12, h13, by simpa using ho, hs⟩, h⟩
          · exact absurd he nofun
      · exact absurd he nofun

/-- An operation that issues, whatever else. -/
def goes (s : State) (i : Instr) : Bool := meets i s (fun _ _ _ => true)

/-- An access that passes. -/
def passes' (p : State × Acc) : Bool :=
  match p.2 with
  | .ok _ => true
  | .bad _ => false

theorem passes_ok {p : State × Acc} (h : passes' p = true) : ∃ q, p.2 = .ok q := by
  unfold passes' at h
  split at h
  · next q he => exact ⟨q, he⟩
  · exact absurd h nofun

def accOk (s : State) (x : Ctx) (a n : Nat) (r : AccReq) : Bool := decide (a < 2 ^ 56) && a % n == 0 && passes' (ctxAccess s x a n r)

theorem accOk_ok {s : State} {x : Ctx} {a n : Nat} {r : AccReq} (h : accOk s x a n r = true) : accessOk s x a n r := by
  simp only [accOk, Bool.and_eq_true, decide_eq_true_eq, beq_iff_eq] at h
  exact ⟨h.1.1, h.1.2, passes_ok h.2⟩


/-! ## Well-formedness: an ill-formed term for each check, with the sub-cause of 06 R202 -/

def refuses (l : List (Instr × Nat)) : Bool := l.all (fun p => Machine.illegal p.1 == some p.2 && !p.1.wf)

def sr : SR := { d := 63, a := 1, b := 2, e := 0, x := 0, f := 0, rm := 0 }
def sr0 : SR := { sr with d := 0, f := 7 }
def sb0 : SR := { sr with b := 0 }
def sc : SR := { sr with d := 15 }
def si : SI := { d := 63, a := 1, x := 0, imm := 0xFFFFFFFF }
def vx : VX := { d := 63, a := 1, b := 2, m := 0, f := 0, g := 0, rm := 0, x := 0 }
def vb0 : VX := { vx with b := 0 }
def vr : VR := { d := 63, a := 1, b := 2, c := 3, m := 15, f := 0, rm := 7 }
def kr : KR := { d := 63, a := 1, x := 0 }
def xr : XR := { d := 63, a := 1, b := 0, k := 0, f := 0, g := 0, rm := 0, x := 0 }
def bt : BT := { shape := 1, ta := 0, tb := 0, tc := 0, td := 0, fall := 31, fresh := 0, leaf1 := 0, ext := none }
def lm : LM := { ss := 1, pm := 3, d := 63, a := 0, st := 0, m := 0, x := 0 }
def lg : LG := { ss := 0, pm := 0, d := 63, a := 0, b := 2, m := 0, x := 1 }
def lgr (f : BitVec 10) (m : BitVec 4) : LG := { lg with b := f, m := m, x := 0 }
def la : LA := { ss := 2, pm := 0, d := 63, a := 0, b := 1, e := 0, x := 0 }
def yf : YF := { ss := 0, pm := 0, d := 0, a := 0, b := 0, x := 0 }
def mm : MM := { ss := 0, pm := 0, acc := 3, ka := 0, ra := 6, ha := 0, kb := 0, rb := 6, hb := 0, sg := 0 }
def mc : MC := { ss := 0, pm := 0, acc := 3, ra := 0, rb := 0, x := 0, sg := 0 }
def cd : CD := { ss := 0, pm := 0, v := 9, sg := 0, st := 0, x := 0 }

theorem smoke_tree : refuses [(.tree { bt with shape := 14 }, 2), (.tree { bt with leaf1 := 1 }, 2), (.tree { bt with fall := 15 }, 2),
    (.tree { bt with ext := some 0x1_0000 }, 2)] = true := by decide +kernel

theorem smoke_integer : refuses [(.add { sr with x := 1 }, 1), (.maxz { sr with rm := 1 }, 1), (.sub { sr with e := 1 }, 1), (.mul { sr with f := 8 }, 1),
    (.div { sr with f := 4 }, 2), (.abs sr, 1), (.popc { sb0 with x := 1 }, 1), (.sext { sb0 with x := 0x40 }, 1), (.sext sr, 1),
    (.sext { sb0 with f := 3, x := 8 }, 2), (.bfx sr, 1), (.bfi { sb0 with f := 2, x := 16 }, 2), (.bfxz { sb0 with f := 3, x := 0x1C1 }, 2),
    (.lea { sr with x := 8 }, 1), (.lea { sr with f := 4 }, 2), (.addi { si with x := 8 }, 1), (.xori { si with x := 4 }, 2),
    (.movi { si with a := 0, x := 8 }, 1), (.movi si, 1), (.movi { si with a := 0, x := 1 }, 1), (.movhi { si with a := 0, x := 1 }, 1), (.movhi si, 1),
    (.cmpi { si with d := 16 }, 1), (.cmpi { si with d := 1, x := 8 }, 1), (.cmpi { si with d := 1, x := 4 }, 2), (.cmpi { si with d := 1, x := 0xA0 }, 2)] = true := by
  decide +kernel

theorem smoke_moves : refuses [(.mov { sb0 with x := 0x10 }, 1), (.mov sr, 1), (.mov { sb0 with e := 1 }, 1), (.mov { sb0 with rm := 1 }, 1), (.mov { sb0 with f := 8 }, 1),
    (.mov { sb0 with d := 16, x := 1 }, 1), (.mov { sb0 with a := 32, x := 8 }, 1), (.mov { sb0 with d := 1, x := 3 }, 1), (.mov { sb0 with d := 1, x := 1, f := 4 }, 2),
    (.mov { sb0 with d := 1, x := 1, f := 1 }, 1), (.mov { sb0 with f := 4 }, 2), (.mov { sb0 with d := 1, x := 9 }, 2),
    (.sel { sr with x := 1 }, 1), (.sel { sr with rm := 1 }, 1), (.sel { sr with e := 16 }, 1), (.sel { sr with f := 8 }, 1), (.sel { sr with f := 4 }, 2),
    (.cmp sr, 1), (.cmp { sc with x := 16 }, 1), (.cmp { sc with e := 1 }, 1), (.cmp { sc with rm := 1 }, 1), (.cmp { sc with f := 8 }, 1), (.cmp { sc with f := 4 }, 2),
    (.cmp { sc with x := 10 }, 2), (.cset sr, 1), (.cset { sc with a := 16 }, 1), (.cset { sc with b := 16 }, 1), (.cset { sc with x := 16 }, 1),
    (.cset { sc with e := 1 }, 1), (.cset { sc with rm := 1 }, 1), (.cset { sc with f := 8 }, 1), (.cset { sc with f := 4 }, 2), (.cset { sc with f := 1 }, 1),
    (.cset { sc with x := 9 }, 1), (.cset { sc with b := 0, x := 10 }, 2)] = true := by decide +kernel

theorem smoke_float : refuses [(.fadd { sr with x := 1 }, 1), (.fsub { sr with e := 1 }, 1), (.fmul { sr with f := 1 }, 3), (.fdiv { sr with rm := 4 }, 2),
    (.ffma { sr with x := 1 }, 1), (.ffma { sr with f := 13 }, 3), (.ffma { sr with rm := 6 }, 2), (.fsqrt { sb0 with x := 1 }, 1), (.fsqrt { sb0 with e := 1 }, 1),
    (.fsqrt sr, 1), (.fsqrt { sb0 with f := 1 }, 3), (.fsqrt { sb0 with rm := 5 }, 2), (.fmin { sr with x := 1 }, 1), (.fmax { sr with e := 1 }, 1),
    (.fmin { sr with rm := 1 }, 1), (.fmax { sr with f := 2 }, 3), (.fcmp sr, 1), (.fcmp { sc with x := 16 }, 1), (.fcmp { sc with e := 1 }, 1), (.fcmp { sc with rm := 1 }, 1),
    (.fcmp { sc with f := 5 }, 3), (.fcmp { sc with x := 6 }, 2), (.fcvt { sb0 with x := 32 }, 1), (.fcvt { sb0 with e := 1 }, 1), (.fcvt sr, 1),
    (.fcvt { sb0 with f := 12 }, 3), (.fcvt { sb0 with x := 5 }, 3), (.fcvt { sb0 with f := 13, x := 14 }, 2), (.fcvt { sb0 with x := 16 }, 2), (.fcvt { sb0 with rm := 4 }, 2),
    (.fclass { sb0 with x := 1 }, 1), (.fclass { sb0 with e := 1 }, 1), (.fclass sr, 1), (.fclass { sb0 with rm := 1 }, 1), (.fclass { sb0 with f := 14 }, 3)] = true := by
  decide +kernel

theorem smoke_vector : refuses [(.vadd { vx with g := 1 }, 1), (.vsub { vx with x := 1 }, 1), (.vadd { vx with f := 14, x := 2 }, 1), (.vadd { vx with f := 3 }, 3), (.vsub { vx with f := 13, rm := 7 }, 2),
    (.vmul { vx with g := 1 }, 1), (.vmul { vx with x := 1 }, 1), (.vmul { vx with f := 15 }, 3), (.vmul { vx with rm := 5 }, 2), (.vmin { vx with g := 1 }, 1),
    (.vmax { vx with x := 1 }, 1), (.vmin { vx with f := 3 }, 3), (.vmax { vx with rm := 7 }, 2), (.vcopysgn { vx with g := 1 }, 1), (.vcopysgn { vx with x := 1 }, 1),
    (.vcopysgn { vx with f := 13 }, 3), (.vcopysgn { vx with rm := 1 }, 2), (.vabs vx, 1), (.vneg { vb0 with g := 1 }, 1), (.vabs { vb0 with x := 1 }, 1), (.vabs { vb0 with f := 4 }, 3),
    (.vneg { vb0 with rm := 7 }, 2), (.vround vx, 1), (.vrcp { vb0 with g := 1 }, 1), (.vrsq { vb0 with x := 1 }, 1), (.vsqrt { vb0 with f := 14 }, 3), (.vround { vb0 with rm := 6 }, 2),
    (.vfn vx, 1), (.vfn { vb0 with x := 1 }, 1), (.vfn { vb0 with f := 13 }, 3), (.vfn { vb0 with g := 5 }, 2), (.vfn { vb0 with rm := 5 }, 2),
    (.vfma { vr with f := 5 }, 3), (.vfms { vr with rm := 5 }, 2), (.vclamp { vr with f := 3 }, 3), (.vclamp vr, 2), (.vdot vr, 3), (.vdot { vr with f := 13 }, 2)] = true := by
  decide +kernel

theorem smoke_vectorMoves : refuses [(.vcmp { vx with d := 16 }, 1), (.vcmp { vx with d := 1, x := 16 }, 1), (.vcmp { vx with d := 1, g := 1 }, 1), (.vcmp { vx with d := 1, f := 5 }, 3),
    (.vcmp { vx with d := 1, rm := 1 }, 2), (.vcmp { vx with d := 1, x := 6 }, 2), (.vcmp { vx with d := 1, f := 13, x := 10 }, 2), (.vsel { vx with g := 1 }, 1), (.vsel { vx with x := 1 }, 1),
    (.vsel { vx with f := 15 }, 3), (.vsel { vx with rm := 1 }, 2), (.vand { vx with g := 1 }, 1), (.vor { vx with x := 1 }, 1), (.vxor { vx with f := 1 }, 1), (.vand { vx with rm := 1 }, 2),
    (.vnot vx, 1), (.vnot { vb0 with g := 1 }, 1), (.vnot { vb0 with x := 1 }, 1), (.vnot { vb0 with f := 1 }, 1), (.vnot { vb0 with rm := 1 }, 2), (.vshl { vx with g := 1 }, 1),
    (.vshr { vx with x := 32 }, 1), (.vsar { vx with x := 64 }, 1), (.vshl { vx with x := 1 }, 1), (.vshl vx, 3), (.vshr { vx with f := 14, rm := 1 }, 2),
    (.vcvt vx, 1), (.vcvt { vb0 with x := 4 }, 1), (.vcvt { vb0 with f := 5 }, 3), (.vcvt { vb0 with x := 1 }, 2), (.vcvt { vb0 with rm := 5 }, 2), (.vcvt { vb0 with f := 13, g := 14, rm := 7 }, 2),
    (.vpack { vx with f := 7 }, 1), (.vunpk { vb0 with f := 7, g := 1 }, 1), (.vpack { vb0 with f := 7, x := 1 }, 1), (.vpack { vb0 with f := 7, m := 1 }, 1), (.vunpk vb0, 3), (.vpack { vb0 with f := 7, rm := 1 }, 2),
    (.vperm { vx with x := 2 }, 1), (.vperm { vx with g := 1 }, 1), (.vperm { vx with f := 15 }, 3), (.vperm { vx with rm := 1 }, 2), (.vshuf { vx with g := 4 }, 1), (.vshuf { vx with x := 1 }, 1),
    (.vshuf { vx with f := 15 }, 3), (.vshuf { vx with rm := 1 }, 2), (.vshuf { vb0 with g := 6 }, 2), (.vshuf { vb0 with g := 5, x := 32 }, 2), (.vbcast vx, 1), (.vbcast { vb0 with g := 1, x := 1 }, 1),
    (.vbcast { vb0 with f := 15 }, 3), (.vbcast { vb0 with rm := 1 }, 2), (.vbcast { vb0 with g := 2 }, 2), (.vbcast { vb0 with x := 32 }, 2), (.vmovs vx, 1), (.vmovs { vb0 with g := 1 }, 1),
    (.vmovs { vb0 with m := 1 }, 1), (.vmovs { vb0 with d := 64 }, 1), (.vmovs { vb0 with f := 15 }, 3), (.vmovs { vb0 with rm := 1 }, 2), (.vmovs { vb0 with x := 32 }, 2), (.vins vx, 1), (.vins { vb0 with g := 1 }, 1),
    (.vins { vb0 with m := 1 }, 1), (.vins { vb0 with a := 64 }, 1), (.vins { vb0 with f := 15 }, 3), (.vins { vb0 with rm := 1 }, 2), (.vins { vb0 with x := 32 }, 2), (.vidx { vx with f := 14 }, 1),
    (.vidx { vb0 with f := 14, g := 1 }, 1), (.vidx { vb0 with f := 14, m := 1 }, 1), (.vidx { vb0 with f := 14, a := 64 }, 1), (.vidx vb0, 3), (.vidx { vb0 with f := 14, rm := 1 }, 2)] = true := by decide +kernel

theorem smoke_reductions : refuses [(.vredSum vx, 1), (.vredSum { vb0 with x := 1 }, 1), (.vredSum { vb0 with f := 3 }, 3), (.vredSum { vb0 with g := 1 }, 2), (.vredSum { vb0 with rm := 5 }, 2),
    (.vredMin { vb0 with g := 1, rm := 7 }, 2), (.vredMax vb0, 2), (.vredVsum { vx with g := 3 }, 1), (.vredVsum { vb0 with g := 3, x := 64 }, 1), (.vredVsum { vb0 with g := 3, f := 3 }, 3),
    (.vredRsum { vb0 with g := 4, f := 1 }, 3), (.vredRsum { vb0 with g := 3 }, 2), (.vredVsum { vb0 with g := 3, a := 961, x := 63 }, 2), (.vredVsum { vb0 with g := 3, rm := 5 }, 2),
    (.vscan vx, 1), (.vscan { vb0 with g := 1 }, 1), (.vscan { vb0 with x := 1 }, 1), (.vscan { vb0 with f := 3 }, 3), (.vscan { vb0 with f := 13, rm := 1 }, 2),
    (.vnfchk { vb0 with d := 16 }, 1), (.vnfchk { vx with d := 1 }, 1), (.vnfchk { vb0 with d := 1, g := 1 }, 1), (.vnfchk { vb0 with d := 1, x := 1 }, 1), (.vnfchk { vb0 with d := 1, f := 5 }, 3),
    (.vnfchk { vb0 with d := 1, rm := 1 }, 2), (.mand { vx with d := 16 }, 1), (.mor { vx with d := 1, f := 1 }, 1), (.mxor { vx with d := 1, rm := 1 }, 2), (.mnot { vx with d := 1 }, 1),
    (.mnot { vb0 with d := 1, x := 1 }, 1), (.mnot { vb0 with d := 1, rm := 1 }, 2), (.mpop { vb0 with d := 64 }, 1), (.mfirst { vb0 with m := 1 }, 1), (.mpop { vb0 with f := 15 }, 3), (.mfirst { vb0 with rm := 1 }, 2),
    (.mset { vb0 with d := 16 }, 1), (.mset { vb0 with d := 1, x := 2 }, 1), (.mset { vb0 with d := 1, rm := 1 }, 2), (.vrand { vx with b := 64 }, 1), (.vrand { vx with x := 1 }, 1), (.vrand { vx with rm := 1 }, 2)] = true := by
  decide +kernel

theorem smoke_transform : refuses [(.kmov { kr with a := 64 }, 1), (.kmax { kr with x := 1 }, 1), (.kset kr, 1), (.kset { kr with a := 0, x := 0x4000 }, 1), (.kset { kr with a := 0, x := 0x200 }, 1),
    (.xtr { xr with b := 1 }, 1), (.xtr { xr with k := 1 }, 1), (.xtr { xr with x := 4 }, 1), (.xtr { xr with f := 15 }, 3), (.xexp { xr with rm := 1 }, 1), (.xexp { xr with x := 2 }, 1), (.xexp { xr with f := 12 }, 3),
    (.xcvt { xr with b := 1 }, 1), (.xcvt { xr with f := 1, k := 1 }, 1), (.xcvt { xr with f := 5 }, 3), (.xcvt { xr with x := 1 }, 2), (.xcvt { xr with rm := 5 }, 2), (.xqnt { xr with f := 5, x := 8 }, 1),
    (.xqnt { xr with f := 5, b := 32 }, 1), (.xqnt xr, 3), (.xqnt { xr with f := 5, g := 3 }, 3), (.xqnt { xr with f := 5, x := 4 }, 2), (.xqnt { xr with f := 5, rm := 5 }, 2), (.xamx { xr with b := 1 }, 1),
    (.xamx { xr with g := 3 }, 3), (.xswz { xr with f := 1 }, 1), (.xswz { xr with g := 4 }, 2), (.xswz { xr with g := 3, x := 4 }, 2)] = true := by decide +kernel

theorem smoke_memory : refuses [(.ld { lm with d := 64 }, 1), (.ld { lm with m := 8 }, 1), (.ld { lm with x := 8 }, 1), (.ld { lm with m := 4 }, 2), (.ld { lm with x := 6 }, 2), (.st { lm with d := 64 }, 1), (.st { lm with m := 8 }, 1),
    (.st { lm with x := 8 }, 1), (.st { lm with m := 5 }, 2), (.st { lm with x := 7 }, 2), (.vld { lm with x := 8 }, 1), (.vst { lm with x := 6 }, 2), (.vlds { lm with m := 5 }, 1), (.vlds { lm with m := 1, x := 8 }, 1),
    (.vlds lm, 2), (.vlds { lm with m := 1, a := 63 }, 2), (.vlds { lm with m := 1, x := 6 }, 2), (.vgth { lg with x := 0 }, 2), (.vsct { lg with x := 0 }, 2), (.amo { la with x := 0x40 }, 1), (.amo { la with e := 12 }, 0),
    (.amo { la with x := 16 }, 2), (.amo { la with x := 0x20 }, 2), (.amo { la with x := 6 }, 2), (.cas { la with x := 0x80 }, 1), (.cas { la with x := 24 }, 2), (.red { la with d := 0, x := 0x20 }, 1), (.red la, 1), (.red { la with d := 0, e := 12 }, 0),
    (.red { la with d := 0, e := 8 }, 2), (.red { la with d := 0, x := 7 }, 2), (.vredm lg, 1), (.vredm (lgr 3 0), 3), (.vredm (lgr 48 0), 2), (.vredm (lgr 65 0), 2), (.vredm (lgr 768 0), 2), (.vredm { lgr 64 0 with a := 63 }, 2),
    (.pref lm, 1), (.pref { lm with d := 3 }, 2)] = true := by decide +kernel

theorem smoke_engines : refuses [(.mma { mm with ha := 1 }, 1), (.mma { mm with sg := 1 }, 2), (.mmao { mm with hb := 1 }, 1), (.mmao { mm with sg := 63 }, 2), (.mmao { mm with ra := 63 }, 2), (.mzero { mc with ra := 1 }, 1), (.mchk { mc with sg := 1 }, 2),
    (.mload { mc with rb := 1 }, 1), (.mload { mc with sg := 63 }, 2), (.mdrain { mc with sg := 1 }, 2), (.mdrain { mc with x := 0x50 }, 2), (.mdrain { mc with x := 0x8F }, 2), (.mdrain { mc with rb := 1, x := 0x800 }, 2), (.mdrain { mc with x := 0x200 }, 2),
    (.mdrain { mc with rb := 62 }, 2), (.mrel { mc with x := 1 }, 1), (.mrel { mc with acc := 0, sg := 1, x := 1 }, 2), (.mrel { mc with acc := 0 }, 2), (.cpy { cd with x := 1 }, 1), (.coll { cd with sg := 1 }, 2), (.cpyt { cd with x := 0x80 }, 1),
    (.cpyt { cd with x := 0x21 }, 1), (.cpyt { cd with sg := 63 }, 2), (.cpst { cd with sg := 1 }, 2), (.cpst { cd with x := 0xA0 }, 2), (.cpz { cd with x := 2 }, 1), (.cpz { cd with x := 1 }, 2), (.cpz { cd with sg := 1 }, 2), (.cpzTile { cd with x := 0x21 }, 1),
    (.cpzTile cd, 2), (.cpzTile { cd with x := 0x1F }, 3), (.cpzTile { cd with x := 1, sg := 1 }, 2), (.cpxOut { cd with x := 0x40 }, 1), (.cpxOut { cd with x := 0x20 }, 2), (.cpxIn cd, 2), (.cpxOut { cd with sg := 1 }, 2), (.cpnWr { cd with x := 2 }, 1),
    (.cpnWr { cd with x := 1 }, 2), (.cpnRd cd, 2), (.cpnWr { cd with sg := 1 }, 2)] = true := by decide +kernel

theorem smoke_system : refuses [(.give { yf with d := 1 }, 1), (.take { yf with b := 1 }, 1), (.waits { yf with ss := 1 }, 1), (.waits { yf with d := 1 }, 1), (.phreg { yf with pm := 1 }, 1), (.phreg { yf with x := 4 }, 1), (.phreg { yf with b := 1 }, 1),
    (.phdrop { yf with ss := 1 }, 1), (.phdrop { yf with x := 2 }, 1), (.phdrop { yf with b := 1 }, 1), (.pharr { yf with b := 1 }, 1), (.phaw { yf with x := 1 }, 1), (.tbarr { yf with x := 1 }, 1), (.phwait { yf with x := 1 }, 1), (.tbwait { yf with x := 1 }, 1),
    (.tbinit { yf with d := 1 }, 2), (.tbexp { yf with x := 2 }, 1), (.done { yf with ss := 1 }, 1), (.done { yf with a := 1 }, 1), (.jraise { yf with b := 1 }, 1), (.launchOn { yf with b := 1 }, 1), (.launchOn { yf with x := 1 }, 2), (.launchOff yf, 2),
    (.evrd { yf with ss := 1 }, 1), (.evrd { yf with a := 1 }, 1), (.evrd { yf with d := 3, b := 3 }, 2), (.csrr { yf with pm := 1 }, 1), (.csrr { yf with a := 1 }, 1), (.csrr { yf with x := 0x04 }, 2), (.csrw { yf with ss := 1, x := 0x10 }, 1),
    (.csrs { yf with b := 1, x := 0x10 }, 1), (.csrc { yf with x := 0x15 }, 2), (.csrw { yf with x := 0x00 }, 2), (.hpinOn { yf with b := 1 }, 1), (.hpinOn { yf with x := 1 }, 2), (.hpinOff yf, 2), (.hpri { yf with a := 32 }, 1), (.hdem { yf with b := 1 }, 1),
    (.hevict { yf with x := 1 }, 1), (.hmov { yf with a := 32, b := 1 }, 1), (.hmov yf, 2), (.hmov { yf with b := 63 }, 2), (.purge { yf with b := 1 }, 1), (.qflushCp { yf with ss := 1 }, 1), (.qflushMx { yf with b := 1, x := 1 }, 1), (.qflushMx yf, 2),
    (.qflushCp { yf with x := 1 }, 2), (.rdtime { yf with ss := 1 }, 1), (.rdtime { yf with a := 1 }, 1), (.rdtime { yf with d := 4, b := 4 }, 2), (.sleep { yf with ss := 1 }, 1), (.sleep { yf with d := 1 }, 1)] = true := by decide +kernel

/-- Events that name what the part does not have. -/
theorem smoke_events :
    let far : CtxId := { cl := 80, core := 0, ctx := 0 }
    let it : IterId := { entry := 256, task := 0, ord := 0 }
    ([Instr.presentBundle 80 0, .presentBundle 0 8, .blockClears far, .interlockedWrite { far with cl := 0, core := 8 }, .landing { far with cl := 0, ctx := 4 }, .operationPerformed far 0, .watchdog far, .fifoTimeout far, .leaseTimeout far,
      .leaseWaitEvent far, .sleepWake far, .engineAccessResume far 0, .cpCommandComplete far 0, .signatureMatch 0 4 true, .pairModeChange 80 0, .leaseGrant 80, .leaseEnd 80, .mxQueueTransfer 80, .arrayCommandStart 80, .arrayCommandComplete 80, .rowRetire 80,
      .cpCommandStart 80, .pairmodeWrite 80 0, .doorbellArm 256 1, .doorbellDisarm 256 0, .releaseTask 256 0, .placeIteration 0 16, .preempt 256 0, .placementComplete it, .preemptDrainTimeout it, .resumeIteration it, .completionPost it,
      .fifoWordArrive (.depart 0 6), .fifoWordArrive (.arrive 80 0 0), .flitReplay 6, .linkRetrain 6, .linkDown 6, .linkRestored 6, .deadlockTimer 6 0, .logEntryReplayed 1024, .logEntryAbandoned 1024] : List Instr).all (fun i => !i.wf) = true := by
  decide +kernel

/-! ## Hypotheses of the statements of the scalar slots -/


theorem witness_ScalarTwoSource :
    [sr, sr0].all (fun o => [Instr.add o, .sub o, .mul o, .mulh o, .mulhz o, .div o, .divz o, .rem o, .remz o, .and o, .or o, .xor o,
      .andn o, .shl o, .shr o, .sar o, .rot o, .min o, .max o, .minz o, .maxz o].all (goes base)) = true := by decide +kernel

theorem witness_ScalarOneSource :
    [Instr.abs { sr with b := 0 }, .clz { sr0 with b := 0 }, .ctz { sr with b := 0 }, .popc { sr with b := 0 },
      .sext { sr with b := 0, x := 63 }, .bfx { sr with b := 0, x := 0xFC0 }, .bfxz { sr with b := 0, x := 63 },
      .bfi { sr0 with b := 0, x := 0x1C0 }, .lea { sr with x := 7 }].all (goes base) = true ∧
    (∀ i ∈ [Instr.abs sr, .clz sr, .ctz sr, .popc sr, .sext sr, .bfx sr, .bfxz sr, .bfi sr], illegal i = some 1) ∧
    srN { sr with b := 0, f := 3, x := 8 } ≤ srPos { sr with b := 0, f := 3, x := 8 } ∧
    srN { sr with b := 0, f := 3, x := 0x1C1 } < srPos { sr with f := 3, x := 0x1C1 } + srLen { sr with f := 3, x := 0x1C1 } ∧
    illegal (.sext { sr with b := 0, x := 0x40 }) = some 1 ∧ illegal (.lea { sr with x := 8 }) = some 1 := by decide +kernel

theorem witness_ScalarImmediate :
    [Instr.addi si, .andi { si with d := 0 }, .ori { si with x := 7 }, .xori si, .movi { si with a := 0, x := 4 }, .movhi { si with a := 0 },
      .cmpi { si with d := 15, x := 0x90 }].all (goes base) = true := by decide +kernel

theorem witness_ScalarMovesAndConditions :
    [Instr.mov { sr with b := 0 }, .mov { sr with d := 15, b := 0, x := 1 }, .mov { sr with a := 15, b := 0, x := 4 },
      .mov { sr with d := 15, a := 15, b := 0, x := 5 }, .mov { sr with d := 31, b := 0, x := 2 }, .mov { sr with a := 31, b := 0, x := 8 },
      .mov { sr with d := 31, a := 31, b := 0, x := 0xA }, .mov { sr with a := 0, b := 0, x := 0xC }, .mov { sr with d := 0, b := 0, x := 3 },
      .sel { sr with e := 15 }, .cmp { sr with d := 15, x := 9 }, .cset { sr with d := 15, x := 7 }].all (goes base) = true ∧
    (∀ i ∈ [Instr.mov sr, .mov { sr with d := 16, b := 0, x := 1 }, .mov { sr with d := 32, b := 0, x := 2 },
      .mov { sr with d := 1, b := 0, x := 3 }, .mov { sr with a := 16, b := 0, x := 4 }, .mov { sr with a := 32, b := 0, x := 8 },
      .mov { sr with a := 1, b := 0, x := 0xC }, .mov { sr with d := 15, b := 0, x := 1, f := 1 }, .mov { sr with d := 0, a := 0, b := 0, x := 0xF },
      .sel { sr with e := 16 }, .cmp { sr with d := 15, x := 10 }, .cmp { sr with d := 16 }, .cset { sr with d := 15, x := 10 },
      .cset { sr with d := 15, f := 1 }, .cset { sr with d := 15, a := 16 }, .cset { sr with d := 15, b := 16 },
      .cset { sr with d := 15, x := 8 }], (illegal i).isSome = true) := by decide +kernel

theorem witness_ScalarFloat :
    [Instr.fadd { sr with rm := 7 }, .fsub { sr with f := 15, rm := 7 }, .fmul { sr with rm := 3 }, .ffma { sr with e := 63, rm := 7 },
      .fdiv { sr with rm := 7 }, .fsqrt { sr with b := 0, rm := 7 }, .fmin sr, .fmax { sr with f := 15 }, .fcmp { sr with d := 15, x := 11 },
      .fclass { sr with b := 0, f := 4 }, .fcvt { sr with b := 0, x := 15, rm := 7 }, .fcvt { sr with b := 0, f := 14, rm := 7 },
      .fcvt { sr with b := 0, f := 14, x := 16, rm := 7 }, .fcvt { sr with b := 0, x := 14, rm := 7 }].all (goes base) = true := by decide +kernel

/-! ## Vector slots -/


theorem witness_VectorArithmetic :
    [Instr.vadd { vx with rm := 7 }, .vadd { vx with f := 13, x := 1 }, .vsub { vx with f := 14 }, .vmul { vx with rm := 7 }, .vmin vx, .vmax { vx with f := 13 },
      .vcopysgn vx, .vabs { vx with b := 0 }, .vneg { vx with b := 0, f := 14 }, .vround { vx with b := 0, rm := 7 }, .vrcp { vx with b := 0, rm := 7 },
      .vrsq { vx with b := 0, rm := 7 }, .vsqrt { vx with b := 0, rm := 7 }, .vfn { vx with b := 0, rm := 7 }].all (goes base) = true := by decide +kernel

theorem witness_VectorThreeSource :
    [Instr.vfma vr, .vfms { vr with f := 14, rm := 0 }, .vclamp { vr with rm := 0 }, .vdot { vr with f := 13, rm := 0 }, .vdot { vr with f := 1 }].all
      (goes base) = true := by decide +kernel

theorem witness_VectorCompareLogicShift :
    [Instr.vcmp { vx with d := 15 }, .vsel vx, .vand vx, .vor vx, .vxor vx, .vnot { vx with b := 0 }, .vshl { vx with f := 14 },
      .vshr { vx with f := 13, b := 0, x := 0x47 }, .vsar { vx with f := 14, b := 0, x := 0x5F }].all (goes base) = true := by decide +kernel

theorem witness_VectorConvertMove :
    [Instr.vcvt { vx with b := 0, f := 1, rm := 7 }, .vpack { vx with b := 0, f := 7 }, .vunpk { vx with b := 0, f := 8 }, .vperm vx, .vshuf vx,
      .vbcast { vx with b := 0, x := 31 }, .vbcast { vx with b := 0, g := 1 }, .vmovs { vx with b := 0, x := 31 },
      .vins { vx with b := 0, x := 31 }, .vidx { vx with b := 0, f := 14, x := 127 }].all (goes base) = true := by decide +kernel

theorem witness_VectorReductions :
    [Instr.vredSum { vx with b := 0, rm := 7 }, .vredMin { vx with b := 0, g := 1 }, .vredMax { vx with b := 0, g := 2 },
      .vredVsum { vx with a := 0, b := 0, g := 3, rm := 7, x := 63 }, .vscan { vx with b := 0, rm := 7 }].all (goes base) = true := by decide +kernel

/-- With no valid contribution (m1 is 0) and with one (m0). -/
theorem witness_VectorRescaledSum :
    meets (.vredRsum { vx with a := 0, b := 0, g := 4, m := 1, rm := 7, x := 63 }) base (fun _ x _ =>
      ((List.range 64).filter (fun j => (rdM x 1).getLsbD j)).isEmpty) = true ∧
    meets (.vredRsum { vx with b := 0, g := 4, rm := 7 }) base (fun _ x _ => (rdM x 0).getLsbD 0) = true := by decide +kernel

theorem witness_VectorMasks :
    [Instr.vnfchk { vx with d := 15, b := 0 }, .mand { vx with d := 15 }, .mor { vx with d := 15 }, .mxor { vx with d := 0 },
      .mnot { vx with d := 15, b := 0 }, .mpop { vx with b := 0 }, .mfirst { vx with b := 0, f := 13 }, .mset { vx with d := 15, b := 0, x := 1 },
      .mset { vx with d := 15, b := 0 }, .vrand vx].all (goes base) = true := by decide +kernel


theorem witness_ScaleAndTransform :
    [Instr.kmov kr, .kset { kr with a := 0, x := 0xFF }, .kset { kr with a := 0, x := 0x3F00 }, .kmax kr, .xtr xr, .xexp { xr with b := 2 },
      .xcvt { xr with f := 1, rm := 7 }, .xqnt { xr with f := 5, k := 63, rm := 7 }, .xamx xr, .xswz xr].all (goes base) = true := by decide +kernel

/-! ## Memory slots -/


/-- The base with the gang's first two granules, the second with the engines. -/
def baseM : State :=
  modCl base 0 (fun c => { c with grans := [(0, { iter := 0, gang := 0, num := 0, engine := false }), (1, { iter := 0, gang := 0, num := 1, engine := true })] })
def inM (s : State) (r : Nat) (v : Word) : State := modCtx s fetchCtxId (fun x => wrS x r v)

theorem witness_ScalarLoadStoreIssue :
    [lm, { lm with a := 3, m := 7, x := 4 }, { lm with d := 0, a := 4 }].all (fun o =>
      meets (.ld o) base (fun is x s => accOk s x (lmAddr o x is.k (lmSize o)) (lmSize o) accRead) &&
      meets (.st { o with m := o.m &&& 3 }) base
        (fun is x s => accOk s x (lmAddr o x is.k (lmSize o)) (lmSize o) accWrite)) = true ∧
    meets (.ld { lm with a := 6 }) (inM baseM 6 (BitVec.ofNat 64 mereBase))
      (fun is x s => accOk s x (lmAddr { lm with a := 6 } x is.k 8) 8 accRead) = true ∧
    (let up := modCtx base fetchCtxId (fun x => { x with lvl := 2 })
     let at_ := fun a (is : Iss) (x : Ctx) (_ : State) =>
       x.lvl == 2 && lmAddr { lm with a := 6 } x is.k 8 == a && !inFifo a && !fifoMoved { lm with a := 6 } x is.k
     (inContain containBase = true ∧ containBase % 8 = 0 ∧ inContain (containBase + 0x4000) = true ∧ (0#64).getLsbD 56 = false) ∧
     meets (.ld { lm with a := 6 }) (inM up 6 (BitVec.ofNat 64 containBase)) (at_ containBase) = true ∧
     [0x2000, 0x3FF0, 0x4000].all (fun d => meets (.st { lm with a := 6, d := 0 }) (inM up 6 (BitVec.ofNat 64 (containBase + d)))
       (at_ (containBase + d))) = true ∧
     meets (.st { lm with a := 6 }) (inM up 6 (BitVec.ofNat 64 invalAddr)) (at_ invalAddr) = true) := by decide +kernel

/-- The first and the last register. -/
theorem witness_LinkFifoAccess :
    [0, 5].all (fun k =>
      let s := inM (modDev (modPkg (modCl base 0 (fun c => { c with recvF := [(k, [7, 8])] })) (fun g => { g with units := BitVec.allOnes 64 }))
        (fun d => { d with txn := 1, tyn := 1, tzn := 1 })) 6 (BitVec.ofNat 64 (fifoBase + 8 * k))
      meets (.ld { lm with a := 6 }) s
        (fun is x t => lmAddr { lm with a := 6 } x is.k 8 == fifoBase + 8 * k && (recvFifo t x.id.cl k).length == 2) &&
      meets (.st { lm with a := 6 }) s (fun is x _ => lmAddr { lm with a := 6 } x is.k 8 == fifoBase + 8 * k)) = true ∧
    [Instr.ld { lm with a := 6, st := 1 }, .st { lm with a := 6, st := 1 }].all (fun i =>
      meets i { inM base 6 (BitVec.ofNat 64 fifoBase) with iss := { base.iss with k := 1 } } (fun is x _ => !unfinished x &&
        fifoMoved { lm with a := 6, st := 1 } x is.k && lmAddr { lm with a := 6, st := 1 } x is.k 8 == fifoBase + 8)) = true := by
  decide +kernel

def allPass (s : State) (x : Ctx) (l : List Nat) (n : Nat) (r : AccReq) : Bool :=
  l.all (fun a => decide (a < 2 ^ 56) && a % n == 0) && (checkAll s x n r l).2.isNone

theorem witness_VectorLoadStoreIssue :
    meets (.vld { lm with m := 0 }) base (fun is x s => rdM x 0 != 0 && accOk s x (lmAddr lm x is.k 128) 128 accRead) = true ∧
    meets (.vst { lm with m := 0 }) base (fun is x s => rdM x 0 != 0 && accOk s x (lmAddr lm x is.k 128) 128 accWrite) = true ∧
    meets (.vld { lm with m := 1 }) base (fun is x _ => rdM x 1 == 0 && lmAddr lm x is.k 128 % 128 == 0) = true ∧
    meets (.vst { lm with m := 15 }) base (fun is x _ => rdM x 15 == 0 && lmAddr lm x is.k 128 % 128 == 0) = true ∧
    meets (.vlds { lm with m := 1 }) (inM base 1 8) (fun is x s => allPass s x (vldsAddrs { lm with m := 1 } x is.k) 4 accRead) = true ∧
    meets (.vgth lg) base (fun _ x s => gatherLanes lg x != [] && allPass s x ((gatherLanes lg x).map (·.2)) (lgSize lg) accRead) = true ∧
    meets (.vsct { lg with x := 3 }) base (fun _ x s => gatherLanes { lg with x := 3 } x != [] &&
      allPass s x ((gatherLanes { lg with x := 3 } x).map (·.2)) 1 accWrite) = true ∧
    [Instr.vgth { lg with m := 1 }, .vsct { lg with m := 1 }].all (fun i => meets i base (fun _ x _ =>
      gatherLanes { lg with m := 1 } x == [] && (rdS x 0).toNat % 2 ^ 56 % lgSize lg == 0)) = true := by decide +kernel


theorem witness_AtomicIssue :
    [la, { la with e := 8, x := 12 }, { la with e := 11, d := 0 }].all (fun o =>
      meets (.amo o) base (fun _ x s => accOk s x (rdS x 0).toNat (laSize o) (amoReq (o.e.toNat == 0 || o.e.toNat == 8)))) = true ∧
    meets (.cas { la with e := 2 }) base (fun _ x s => accOk s x (rdS x 0).toNat 8 (amoReq true)) = true ∧
    meets (.red { la with d := 0 }) base (fun _ x s => accOk s x (rdS x 0).toNat 8 (amoReq false)) = true ∧
    meets (.vredm (lgr 0 0)) base (fun _ x s => accOk s x (rdS x 0).toNat 128 (amoReq false) && vredmLanes (lgr 0 0) x != []) = true ∧
    meets (.vredm (lgr 64 0)) (inM base 1 0x10002) (fun _ x s => accOk s x (rdS x 0).toNat 128 (amoReq false) &&
      vredmLanes (lgr 64 0) x != [] && vmRescale (lgr 64 0) && vmNv (lgr 64 0) x != 0) = true ∧
    meets (.vredm { lgr 0 0 with m := 1 }) base (fun _ x _ => decide ((rdS x 0).toNat < 2 ^ 56) && (rdS x 0).toNat % 128 == 0 &&
      vredmLanes { lgr 0 0 with m := 1 } x == []) = true ∧
    meets (.vredm (lgr 64 0)) (inM base 1 2) (fun _ x s => accOk s x (rdS x 0).toNat 128 (amoReq false) &&
      vmRescale (lgr 64 0) && vmNv (lgr 64 0) x == 0) = true ∧
    goes base (.pref { lm with d := 2 }) = true := by decide +kernel

def km : KM := { ss := 0, pm := 0, d := 63, a := 6, st := 0 }

theorem witness_ScaleLoadStoreIssue :
    [Instr.kld km, .kst km].all (fun i => meets i (inM baseM 6 (BitVec.ofNat 64 (mereBase + 0xFE0)))
      (fun is x s => inMere (kmAddr km x is.k) && accOk s x (kmAddr km x is.k) 32 accRead)) = true := by decide +kernel

/-- Just past a boundary for each access, at the first address with a bit of [63:56] set, and for register targets the lowest bits
that stop them. -/
theorem witness_AlignmentTraps :
    let l6 : LM := { lm with a := 6 }
    let g6 : LG := { lg with a := 6 }
    let hits := fun (i : Instr) (n : Nat) (addrs : Iss → Ctx → List Nat) (v : Word) => meets i (inM base 6 v) (fun is x _ =>
      !unfinished x && ((addrs is x).find? (fun b => decide (2 ^ 56 ≤ b) || b % n != 0)).isSome)
    [(1 : Word), 0x100_0000_0000_0000].all (fun v =>
      [Instr.ld l6, .st l6].all (fun i => hits i 8 (fun is x => [lmAddr l6 x is.k 8]) v) &&
      [Instr.vld l6, .vst l6].all (fun i => hits i 128 (fun is x => [lmAddr l6 x is.k 128]) v) &&
      hits (.vlds { l6 with m := 1 }) 4 (fun is x => vldsAddrs { l6 with m := 1 } x is.k) v &&
      [Instr.amo { la with a := 6 }, .cas { la with a := 6 }, .red { la with a := 6, d := 0 }].all (fun i =>
        hits i (laSize la) (fun _ x => [(rdS x 6).toNat]) v) &&
      hits (.vredm { lgr 0 0 with a := 6 }) 128 (fun _ x => [(rdS x 6).toNat]) v &&
      [Instr.kld { km with a := 6 }, .kst { km with a := 6 }].all (fun i => hits i 32 (fun is x => [kmAddr { km with a := 6 } x is.k]) v)) = true ∧
    [Instr.vgth g6, .vsct g6].all (fun i =>
      hits i (lgSize g6) (fun _ x => ((rdS x 6).toNat % 2 ^ 56) :: (gatherLanes g6 x).map (·.2)) 1) = true ∧
    [1, 4, 0x1_0000_0000_0000].all (fun v => [Instr.jmpr { a := 6 }, .callr { a := 6 }].all (fun i =>
      meets i (inM base 6 v) (fun _ x _ => !unfinished x && ((rdS x 6).extractLsb' 0 3 != 0 || (rdS x 6).extractLsb' 48 16 != 0)))) = true ∧
    meets .ret (inM base 63 4) (fun _ x _ => !unfinished x && (rdS x 63).extractLsb' 0 3 != 0) = true := by decide +kernel

/-! ## BR and SY slots -/


theorem witness_BranchSlotCompletes :
    [Instr.nop .br, .nop .sa, .tree bt, .jmp { off := 1 }, .call { off := 0xFFFFFFFF }, .jmpr { a := 0 }, .callr { a := 3 }, .ret, .yield, .halt].all
      (goes base) = true ∧
    meets (.trap { imm := 0xFFFF }) base (fun _ x _ => !unfinished x) = true := by decide +kernel


/-- One granule with the cores for `give`, one with the engines for `take`. -/
theorem witness_OwnersAndWaits :
    let fits := fun (o : YF) held (x : Ctx) s => decide ((rdS x o.a.toNat).toNat < 2 ^ 56) && (rdS x o.a.toNat).toNat % 4096 == 0 &&
      (mereInside s x (sa o x) (gvN o * 4096)).isNone && (ownedAt s x (gvFirst o x) (gvN o) held).isNone
    let o := { yf with a := 6 }
    meets (.give o) (inM baseM 6 (BitVec.ofNat 64 mereBase)) (fun _ x s => fits o true x s) = true ∧
    meets (.take o) (inM baseM 6 (BitVec.ofNat 64 (mereBase + 0x1000))) (fun _ x s => fits o false x s && !gangCommands s x (sa o x, 4096)) = true ∧
    goes base (.waits { yf with a := 63, b := 63, x := 0x3C3F }) = true := by decide +kernel

/-- A context with a stream at and above the count; a member whose wait is over and one whose is not. -/
theorem witness_WaitsAndBlocks :
    let o : YF := { yf with b := 1, x := 1 }
    let x : Ctx := { here with cnt := [(4, 2)] }
    (opOf (.waits { yf with b := 1, x := 0 })).block (issAt (.waits o) base) base x = some .waits ∧
    (opOf (.waits { yf with b := 1, x := 2 })).block (issAt (.waits o) base) base x = none ∧
    (let m := { newMember here 2 5 false with waiting := true, waitPhase := 5 }
     let s := putPh base 0 { Phaser.idle with phase := 6, members := [m] }
     phMember (getPh s 0) here.id here.env.iter = some m ∧
     (opOf (.phwait { yf with b := 7 })).block (issAt (.phwait yf) s) s (wrS here 7 5) = none ∧
     (opOf (.phaw yf)).block (issAt (.phaw yf) s) s here = none) ∧
    [1, 2].all (fun n =>
      let m := newMember here 2 5 false
      let s := putPh base 0 { Phaser.idle with phase := 5, pend := n, nsig := n, members := [m] }
      phMember (getPh s 0) here.id here.env.iter == some m && !m.waiting && m.mode == 2 && !m.joining && !m.arrived && !m.leaving &&
        phawMay yf here && decide (1 ≤ (getPh s 0).pend) &&
        ((opOf (.phaw yf)).block (issAt (.phaw yf) s) ((opOf (.phaw yf)).early (issAt (.phaw yf) s) s here) here).isNone == (n == 1)) = true ∧
    (newMember here 0 5 false).mode = 0 := by decide +kernel
def withPh (s : State) (p : Phaser) : State := putPh s 0 p
def ph3 (mode : Nat) : Phaser := { Phaser.idle with phase := 5, pend := 2, nsig := 3, nanon := 7, members := [newMember here mode 5 false] }

/-- Registration in each mode, anonymous registration and drop, and the drop of a member. -/
theorem witness_PhaserMembership :
    [0, 1, 2].all (fun mode => meets (.phreg { yf with x := mode }) base (fun _ x s =>
      (phMember (getPh s 0) x.id x.env.iter).isNone && nodeMembers s 0 == 0 && !phFull { getPh s 0 with pend := 1, nsig := 1 })) = true ∧
    meets (.phreg { yf with x := 3, b := 1 }) base (fun _ _ s => !phFull { getPh s 0 with nsig := 7, nanon := 7, pend := 7 }) = true ∧
    meets (.phdrop { yf with x := 1, b := 1 }) (withPh base (ph3 2)) (fun _ _ s => (getPh s 0).nanon == 7) = true ∧
    meets (.phdrop yf) (withPh base (ph3 2)) (fun _ x s => phMember (getPh s 0) x.id x.env.iter == some (newMember here 2 5 false) &&
      !phFull (phDropMember (getPh s 0) (newMember here 2 5 false))) = true := by
  decide +kernel

def tb0 : Barrier := { phase := 15, err := false, pld := 0, arr := 0, reload := 9, sec := 0, rsvd := 0 }

/-- Every clause at its edges: the drops, the changes of a phase, and the payload against the arrivals. -/
theorem witness_PhaserAndBarrierRules :
    let p := ph3 0
    let m := newMember here 0 5 false
    (newMember here 1 5 false).mode = 1 ∧
    ({ m with arrived := true } : Member).arrived = true ∧
    (m.mode ≠ 1 ∧ m.arrived = false ∧ phTakesPart { m with joining := true } = false) ∧
    (phTakesPart m = true ∧ 2 ≤ p.pend) ∧ ({ p with pend := 1 } : Phaser).pend = 1 ∧
    (p.pend ≠ 0 ∧ ({ p with pend := 0 } : Phaser).pend = 0 ∧ (phDue { p with pend := 0 }).members ≠ []) ∧
    (tb0.sec = 0 ∧ tb0.pld = 0 ∧ tb0.arr = 0) ∧ (let b := { tb0 with arr := 1 }; b.sec = 0 ∧ b.pld = 0 ∧ b.arr ≠ 0) ∧
    (let b := { tb0 with pld := 1, arr := 2 }; b.sec = 0 ∧ b.pld ≠ 0 ∧ b.pld < b.arr) ∧
    (let b := { tb0 with pld := 2, arr := 1 }; b.sec = 0 ∧ b.pld ≠ 0 ∧ b.arr < b.pld) ∧
    (let b := { tb0 with pld := 2, arr := 2 }; b.sec = 0 ∧ b.pld ≠ 0 ∧ b.arr = b.pld) ∧ ({ tb0 with sec := 1 } : Barrier).sec ≠ 0 := by
  decide +kernel

theorem witness_PhaserArriveWait :
    meets (.pharr yf) (withPh base (ph3 0)) (fun _ x s => match phMember (getPh s 0) x.id x.env.iter with
      | none => false
      | some m => m.mode == 0 && phTakesPart m && !m.arrived) = true ∧
    meets (.phwait { yf with b := 6 }) (inM (withPh base (ph3 1)) 6 4) (fun _ x s =>
      ((phMember (getPh s 0) x.id x.env.iter).map (·.mode)) == some 1) = true ∧
    meets (.phaw yf) (withPh base { ph3 2 with phase := 6, members := [{ newMember here 2 5 false with waiting := true, waitPhase := 5 }] })
      (fun _ x s => ((phMember (getPh s 0) x.id x.env.iter).map (·.waiting)) == some true) = true ∧
    (let m := newMember here 2 5 false
     phMember (getPh (withPh base (ph3 2)) 0) here.id here.env.iter = some m ∧ m.waiting = false ∧ m.mode = 2 ∧ m.joining = false ∧
     m.arrived = false ∧ m.leaving = false ∧ 1 ≤ (ph3 2).pend ∧ (ph3 2).pend ≠ 1 ∧ phawMay yf here = true ∧
     phawMay { yf with pm := 1 } { here with ops := [default] } = false) := by decide +kernel

/-- A barrier in memory, with its phase at the last value before it wraps for `tbwait`. -/
theorem witness_BarrierIssue :
    let chk := fun (x : Ctx) (s : State) w => (rdS x 0).toNat % 16 == 0 && (tbCheck s x 0 w).2.isNone &&
      passes' (reachBarrier (tbCheck s x 0 w).1 (agentOf x x.lvl) 0 w)
    meets (.tbinit { yf with b := 1 }) base (fun _ x s => chk x s true) = true ∧
    meets (.tbarr yf) base (fun _ x s => chk x s true) = true ∧
    meets (.tbexp { yf with b := 6 }) (inM base 6 0xFFFFFFFF) (fun _ x s => chk x s true &&
      (tbExpect (tbFresh 0) ((rdS x 6).extractLsb' 0 32).toNat false).isSome && !hasOp s x.id (tbWaits { yf with b := 6 } 0)) = true ∧
    [0, 1].all (fun pay => meets (.tbexp { yf with b := 0, x := pay }) base (fun _ x s => chk x s true && (tbExpect (tbFresh 0) 0 true).isSome &&
      !hasOp s x.id (tbWaits { yf with b := 0, x := pay } 0))) = true ∧
    meets (.tbwait { yf with b := 6 }) (inM base 6 15) (fun _ x s => chk x s false && !hasOp s x.id (tbWaits { yf with b := 6 } 0)) = true := by decide +kernel

theorem witness_JobsLaunchesTime :
    meets (.done yf) base (fun _ x s => !hasPosted s x.env.iter && opsHome s x) = true ∧
    meets (.done yf) (modCtx base fetchCtxId (fun x => { x with ops := [default] })) (fun _ x s => !hasPosted s x.env.iter && !opsHome s x) = true ∧
    (let it : Iter := { (default : Iter) with uid := 0, posted := true }
     meets (.done yf) (modSpring base (fun p => { p with iters := [it] })) (fun _ x s => hasPosted s x.env.iter) = true) ∧
    meets (.jraise { yf with a := 1 }) base (fun _ x s => !hasPosted s x.env.iter) = true ∧
    [Instr.launchOn { yf with d := 63 }, .launchOff { yf with d := 63, x := 1 }, .evrd { yf with d := 2, b := 4, x := 1 },
     .evrd { yf with d := 2, b := 4 }, .rdtime { yf with d := 2, b := 3 }, .sleep yf].all (goes base) = true := by decide +kernel

/-- At user level, and above it for a register that users do not reach. -/
theorem witness_ControlRegisterAccess :
    let up := modCtx base fetchCtxId (fun x => { x with lvl := 2 })
    [Instr.csrr { yf with d := 63, x := 0x000 }, .csrw { yf with a := 1, x := 0x010 }, .csrs { yf with a := 2, x := 0x011 },
      .csrc { yf with a := 2, x := 0x024 }].all (goes base) = true ∧
    [Instr.csrr { yf with x := 0x048 }, .csrw { yf with x := 0x028 }].all (goes up) = true := by decide +kernel

/-- An entry of one tile at place 5 of the core's cache and of the table, named by h4. -/
def entry1 : List Word := [0x11, 0x4000_0000, 0x100_0000_0100, 0] ++ List.replicate 12 0
def baseH : State :=
  modCore (modCtx base fetchCtxId (fun x => wrH x 4 0x8000_0000_0000_0005)) 0 0 (fun y => { y with hcache := [(5, entry1)] })

theorem witness_HandlesPurgesFlushes :
    let h : YF := { yf with a := 4, b := 10 }
    let v := fun (o : YF) (x : Ctx) => (rdH x (o.a.extractLsb' 0 5).toNat).getLsbD 63
    [Instr.hpinOn { h with b := 0 }, .hpinOff { h with b := 0, x := 1 }, .hdem { h with b := 0 }, .hevict { h with b := 0 }, .hpri h].all
      (fun i => meets i baseH (fun _ x _ => v h x)) = true ∧
    meets (.hmov h) baseH (fun _ x s => v h x && (hmovAlign h s x).isNone) = true ∧
    (let up := modCtx base fetchCtxId (fun x => { x with lvl := 2 })
     [Instr.purge { yf with a := 1 }, .qflushCp yf, .qflushMx { yf with x := 1 }].all (goes up) = true) := by decide +kernel

/-! ## Engine commands -/

/-- The gang holds 70 granules and core 0 the lease. -/
def baseE : State :=
  modCl baseH 0 (fun c => { c with
    grans := (List.range 70).map (fun n => (n, { iter := 0, gang := 0, num := n, engine := false }))
    lease := { c.lease with holder := some 0, used := 0 } })

theorem witness_ArrayCommandsAccepted :
    let s := inM (inM baseE 6 (BitVec.ofNat 64 (mereBase + 2 ^ 56))) 7 8
    let sm := inM baseE 6 (BitVec.ofNat 64 mereBase)
    let ok := fun (o : MM) list (x : Ctx) t => operandTraps t x o.ka o.ra o.ha == [] && operandTraps t x o.kb o.rb o.hb == [] &&
      (!list || (rdS x (o.ra.toNat + 1)).toNat % 8 == 0)
    meets (.mma mm) s (fun _ x t => ok mm false x t) = true ∧
    meets (.mma { mm with kb := 1, rb := 0, hb := 4 }) s (fun _ x t => ok { mm with kb := 1, rb := 0, hb := 4 } false x t) = true ∧
    meets (.mmao mm) s (fun _ x t => ok mm true x t) = true ∧
    [Instr.mzero mc, .mchk mc].all (goes s) = true ∧
    [1, 31].all (fun v => goes s (.mrel { mc with acc := 0, x := v })) = true ∧
    meets (.mload { mc with ra := 6 }) sm (fun _ x t => mereChecks t x (bits (rdS x 6).toNat 55 0) imageBytes == []) = true ∧
    meets (.mdrain { mc with ra := 6, x := 15 }) sm
      (fun _ x t => mereChecks t x (bits (rdS x 6).toNat 55 0) (mdBytes { mc with ra := 6, x := 15 }) == []) = true ∧
    meets (.mdrain { mc with ra := 6, rb := 10, x := 0xA05 }) sm (fun _ x t => let o : MC := { mc with ra := 6, rb := 10, x := 0xA05 }
      mereChecks t x (bits (rdS x 6).toNat 55 0) (mdBytes o) == [] && mdBias o && mdKs o && mdBiasAt o x % 128 == 0 &&
        (mereInside t x (mdBiasAt o x) 1024).isNone) = true := by decide +kernel

def withDesc (d : Nat) : State := modCtx baseE fetchCtxId (fun x => wrV x 9 (BitVec.ofNat 1024 d))

/-- Both sides in Mere, the strides of `cpy` at multiples of an element of 16 bytes; the tile moves at the window's first byte. -/
theorem witness_CopyCommandsAccepted :
    let m := mereBase
    let dOf := fun (o : CD) x => descOf o x
    meets (.cpy cd) (withDesc (m + (m + 16) * 2 ^ 64 + 4 * 2 ^ 224)) (fun _ x s =>
      let d := cpyDesc cd 0 (dOf cd x)
      bits d 55 0 % cpyEs d == 0 && bits d 119 64 % cpyEs d == 0 && (strides d 256).all (fun v => v % (cpyEs d : Int) == 0) &&
        (strides d 448).all (fun v => v % (cpyEs d : Int) == 0) && cpySide s x d 0 256 == [] && cpySide s x d 64 448 == []) = true ∧
    (let o := { cd with x := 4 }
     meets (.cpyt o) (withDesc m) (fun _ x s => let d := cpytDesc o 0 (dOf o x)
      (rdH x 4).getLsbD 63 && !ctMere o && bits d 55 0 % 4096 == 0 && wordTraps s x (bits d 63 0) (cpyWhole d) == []) = true) ∧
    (let o := { cd with x := 32 }
     meets (.cpyt o) (withDesc (m + (m + 0x1000) * 2 ^ 128)) (fun _ x s => let d := cpytDesc o 0 (dOf o x)
      ctMere o && bits d 55 0 % 4096 == 0 && wordTraps s x (bits d 63 0) (cpyWhole d) == [] && bits d 183 128 % 4096 == 0 &&
        wordTraps s x (bits d 191 128) 4096 == []) = true) ∧
    (let o := { cd with x := 4 }
     meets (.cpst o) (withDesc (m + 0x3F800000 * 2 ^ 96)) (fun _ x s => let d := cpstDesc o 0 (dOf o x)
      (rdH x 4).getLsbD 63 && bits d 55 0 % 4096 == 0 && wordTraps s x (bits d 63 0) 4096 == [] && bits d 183 128 % 4 == 0) = true) ∧
    meets (.cpz cd) (withDesc (m + 8 * 2 ^ 64)) (fun _ x s => let d := cpzDesc cd 0 (dOf cd x)
      bits d 55 0 % 8 == 0 && wordTraps s x (bits d 63 0) (bits d 104 64) == []) = true ∧
    (let o := { cd with x := 1 }
     meets (.cpzTile o) (withDesc m) (fun _ x s => let d := cpzTileDesc o 0 (dOf o x)
      bits d 55 0 % 4096 == 0 && wordTraps s x (bits d 63 0) (tileGranules (czFmt o) * 4096) == []) = true) := by decide +kernel

theorem witness_MetadataAndFabricCommandsAccepted :
    let m := mereBase
    let s := fun d => modPkg (withDesc d) (fun g => { g with units := BitVec.allOnes 64 })
    (let o := { cd with x := 4 }
     [Instr.cpxOut o, .cpxIn { o with x := 36 }].all (fun i => meets i (s (m + 256 * 2 ^ 128)) (fun _ x t =>
      let d := cpxDesc o 0 (descOf o x)
      (rdH x 4).getLsbD 63 && bits d 55 0 % 128 == 0 && wordTraps t x (bits d 63 0) (bits d 175 128 / 2) == [])) = true) ∧
    [Instr.cpnWr cd, .cpnRd { cd with x := 1 }].all (fun i => meets i (s (m + 1 * 2 ^ 160 + 11 * 2 ^ 216)) (fun _ x t =>
      let d := cpnDesc cd 0 (descOf cd x)
      wordTraps t x (bits d 63 0) (bits d 191 160) == [])) = true ∧
    meets (.coll cd) (s (m + (2 ^ 63 + m) * 2 ^ 64 + 1 * 2 ^ 288)) (fun _ x t => let d := collDesc cd 0 (descOf cd x)
      bits d 55 0 % 256 == 0 && bits d 119 64 % 256 == 0 && bits d 183 128 % 4 == 0 && bits d 247 192 % 4 == 0 &&
        wordTraps t x (bits d 63 0) (collNb d * 256) == []) = true := by decide +kernel
/-! ## Exceptions -/

/-- The context saves into its gang's granules. -/
def saves (lvl : Nat) (s : State) : State := modCtx s fetchCtxId (fun x => { x with ctxsave := BitVec.ofNat 64 mereBase, lvl := lvl })
def at0 (s : State) : Ctx := (getCtx s fetchCtxId).getD default
def entersFrom (lvl : Nat) (s : State) : Bool :=
  let x := at0 s
  let f := flushPend x
  x.lvl == lvl && (saveGroups s x (groupsOf ((readyPend [] x.pend).map (·.reg)))).isSome && (areaWrite s f (frameAddr f (if f.lvl = 0 then 0 else 1))
    (frameImage f 8 (issueWord f false) 2 0 0 0 [] 0 false) areaPages).isSome

/-- With a user handler and without, from both levels; with a frame that cannot be written, and at the level that takes none. -/
theorem witness_ExceptionEntry :
    let hooked := modCore (modCtx (saves 0 baseE) fetchCtxId (fun x => { x with uvec := 0x100 })) 0 0 (fun y => { y with trapRoute := 4 })
    entersFrom 0 hooked = true ∧ entersFrom 1 (saves 1 baseE) = true ∧
    (getCore hooked 0 0).trapRoute.getLsbD 2 = true ∧ (at0 hooked).uvec ≠ 0 ∧
    (let y := modCtx baseE fetchCtxId (fun x => { x with ctxsave := 0x100_0000 })
     (at0 y).lvl = 0 ∧ entersFrom 0 y = false) ∧ (at0 (saves 2 baseE)).lvl = 2 := by decide +kernel

/-- As many landings as a frame holds. -/
theorem witness_ExceptionFrame :
    ({ here with land := List.replicate 16 (default : Landing) } : Ctx).land.length ≤ 16 ∧
    (let x : Ctx := { here with sticky := [(9, { (default : Sticky) with k := -1 })] }
     smFind x.sticky (6 + 3) = some { (default : Sticky) with k := -1 } ∧ smFind x.sticky (0 + 3) = none) := by decide

/-- The machine after a trap at U, and after one in a handler of users: the handler returns. -/
def trapped : State := takeTrap (saves 0 baseE) fetchCtxId { cause := 2, info := 0, addr := 0 } 0x40
def trapped1 : State := takeTrap (saves 1 baseE) fetchCtxId { cause := 2, info := 0, addr := 0 } 0x40

def frameAt (s : State) (ok : State → List Byte → Bool) : Bool :=
  let x := at0 s
  let r := areaRead s x x.lvl (frameAddr x (eretSlot x)) 0x2800 areaPages
  match r.2 with
  | .inl img => ok r.1 img
  | .inr _ => false
def loads (r : State × (Ctx ⊕ TrapC)) : Bool :=
  match r.2 with
  | .inl _ => true
  | .inr _ => false
def wasOk (r : EretRes) : Bool :=
  match r with
  | .ok _ => true
  | .trap _ => false

/-- To U; to UH, whose own frame is read too; a frame of the other slot; and a return that waits, with an access of its bundle to the
area still under way and with none. -/
theorem witness_ExceptionReturn :
    (at0 trapped).lvl = 2 ∧ frameAt trapped (fun s1 img => let x := at0 trapped
      (frameCheck x img (eretSlot x)).isNone && (bits (imgNat img 8 8) 13 12 == 0) && loads (reloadGroups s1 x (frameAddr x (eretSlot x)))) = true ∧
    eretSlot (at0 trapped1) = 1 ∧ frameAt trapped1 (fun s1 img => let x := at0 trapped1
      (frameCheck x img 1).isNone && (bits (imgNat img 8 8) 13 12 == 1) && loads (reloadGroups s1 x (frameAddr x 1)) &&
        (match (areaRead (reloadGroups s1 x (frameAddr x 1)).1 x x.lvl (frameAddr x 0) 0x50 areaPages).2 with
        | .inl _ => true
        | .inr _ => false)) = true ∧
    (let s := modCtx trapped fetchCtxId (fun x => { x with use1 := true })
     frameAt s (fun _ img => frameCheck (at0 s) img (eretSlot (at0 s)) == some 8) = true) ∧
    goes trapped .eret = true ∧
    (let x : Ctx := { at0 trapped with eretWait := true }
     let y : Ctx := { x with ops := [{ (default : MemOp) with kind := .store false [(frameAddr x 0 + 8, [0])] }] }
     x.trapWait = none ∧ x.ops = [] ∧ wasOk (returnTrap (putCtx trapped { x with eretWait := false }) { x with eretWait := false }) = true ∧
     y.trapWait = none ∧ (y.ops.any (fun o => (opRanges o.kind).any (fun p => (eretAreas y).any (fun q =>
       decide (p.1 < q.1 + q.2 ∧ q.1 < p.1 + p.2))))) = true) := by decide +kernel

def decodesTo (i : Instr) (s : State) : Bool :=
  let x := at0 s
  (slotOpOf i).isSome && decide (x.id = s.cur) && illegal i == none && ((opOf i).illReg (issAt i s) s (settled x)).isNone &&
    ((opOf i).absent (issAt i s) s (settled x)).isNone

/-- A reserved field; and each privileged operation below SH, at the control registers it checks. -/
theorem witness_DecodeTraps :
    illegal (.sext { sr with b := 0, x := 0x40 }) = some 1 ∧ (slotOpOf (.sext sr)).isSome = true ∧ (at0 base).id = base.cur ∧
    [Instr.eret, .purge { yf with a := 1 }, .qflushCp yf, .qflushMx { yf with x := 1 }, .csrr { yf with x := 0x048 }, .csrw { yf with x := 0x028 },
      .csrs { yf with x := 0x030 }, .csrc { yf with x := 0x030 }].all (fun i => decodesTo i base) = true ∧
    csrHidden 0x048 = true ∧ csrHidden 0x028 = true ∧ csrUser 0x030 = false := by decide +kernel

/-! ## Steps of a core -/

/-- A bundle of one addition at the program counter. -/
theorem witness_PresentationRunsOperations :
    let s := placeBundle State.reset (encode (.add sr))
    (slotOpOf (.add sr)).isSome = true ∧ (getCtx base base.cur).isSome = true ∧
    (match pickCtx s 0 0 with
    | some x => !x.joined && x.trapWait.isNone && !x.eretWait && x.rep.isNone && x.sticky == [] && (match (fetchBundle (runs s x) x).2 with
      | .inl (h, ws) => (match decodeBundle h ws with
        | .inl b => !treeHeld x b && b.rep == 0 && !b.pres.getLsbD 0 && (match b.ops with
          | [d] => d.slot == 1 && d.tag == 0 && d.op == .add sr
          | _ => false)
        | .inr _ => false)
      | .inr _ => false)
    | none => false) = true := by decide +kernel

/-- A wait that is over; a sleep that is over; results that have come; a landing that is due; each also in a handler of users whose
group is saved first, and where it cannot be. -/
theorem witness_WakesAndResults :
    let s := placeBundle State.reset (encode (.waits yf))
    let w := { at0 s with status := .blocked [(10, .waits)] }
    let z := { at0 s with status := .blocked [(10, .sleep)] }
    (blockedOn w ≠ [] ∧ sleeping w = false ∧ awaitsMatch (putCtx s w) 0 0 = false ∧ unblocked (putCtx s w) w = true) ∧
    (sleeping z = true ∧ unblocked (putCtx s z) z = true) ∧
    (let p := { here with pend := [{ reg := .v 1, val := some 9, vis := 0, seq := some 1 }] }
     let gs := groupsOf ((readyPend [] p.pend).map (·.reg))
     readyPend [] p.pend ≠ [] ∧ gs = [0] ∧ (saveGroups base p gs).isSome = true ∧
     (let h := at0 (saves 1 baseE)
      h.lvl ≠ 0 ∧ h.vsaved.getLsbD 0 = false ∧ (saveGroups (saves 1 baseE) { h with pend := p.pend } gs).isSome = true) ∧
     (let s := modCtx baseE fetchCtxId (fun x => { x with ctxsave := 0x100_0000, lvl := 1 })
      saveGroups s (at0 s) gs = none)) ∧
    (let q := fun v => ({ reg := .s 3, val := v, vis := 0, seq := some 1 } : Pend)
     discards (.s 3) = false ∧ (q none).val = none ∧ (q (some 9)).val = some 9 ∧ { here with pend := [q none, q (some 9)] }.pend = [q none, q (some 9)]) ∧
    (let l := { here with pos := 6, land := [{ (default : Landing) with vreg := some 1, vis := 6 }] }
     l.land.any (landsAt l.pos) = true ∧ (∀ e ∈ l.land, e.vis ≤ l.pos → e.wait = none) ∧
     (saveGroups base l (groupsOf ((l.land.filter (landsAt l.pos)).filterMap (fun e => e.vreg.map RegId.v)))).isSome = true) := by decide +kernel

/-- The bundle of i at the program counter, every unit present, and the context as f leaves it. -/
def waitsAt (i : Instr) (f : Ctx → Ctx) : State :=
  modCtx (modDev (modPkg (modCl (placeBundle State.reset (encode i)) 0 (fun c => { c with leaseMax := 5 }))
    (fun g => { g with units := BitVec.allOnes 64 })) (fun d => { d with txn := 1 })) fetchCtxId f
def blocksOn (s : State) (w : List (Nat × BlockWhy)) : Bool :=
  match presentation s (at0 s) with
  | .blocked _ v => v == w
  | _ => false

/-- The lease one cycle past LEASE_MAX and one past 16,384, a FIFO one past its limit, the lower limits not reached, and a wait
one past WDOG; a joined context. -/
theorem witness_LimitTraps :
    let past := fun n limit => limit != 0 && decide (limit < n)
    let stands := fun (s : State) w => blocksOn s w && decide (getCtx s fetchCtxId = some (at0 s) ∧ (at0 s).id = fetchCtxId ∧
      blockedOn (at0 s) ≠ [] ∧ (at0 s).lvl < 2 ∧ unfinished (at0 s) = false ∧ awaitsMatch s 0 0 = false)
    let wait := fun (x : Ctx) => { x with cnt := [(4, 2)], status := .blocked [(10, .waits)], blockedFor := 0x1_0000_0001 }
    (let s := waitsAt (.mzero mc) (fun x => { x with status := .blocked [(8, .lease)], leaseFor := 16385, leaseNoted := false })
     stands s [(8, .lease)] = true ∧ (at0 s).joined = false ∧ past (at0 s).leaseFor ((getCl s 0).leaseMax.toNat % 2 ^ 32) = true ∧
     16384 < (at0 s).leaseFor ∧ (at0 s).leaseNoted = false) ∧
    (let s := waitsAt (.ld { lm with a := 6 }) (fun x => { wrS x 6 (BitVec.ofNat 64 fifoBase) with
       status := .blocked [(5, .fifo 0)], fifoFor := 0x10_0001 })
     stands s [(5, .fifo 0)] = true ∧ (at0 s).joined = false ∧ sleeping (at0 s) = false ∧
     past (at0 s).fifoFor ((getCore s 0 0).fifoMax.toNat % 2 ^ 32) = true ∧ onLease (at0 s) = none ∧
     past 0x10_0000 ((getCore s 0 0).fifoMax.toNat % 2 ^ 32) = false) ∧
    (let s := waitsAt (.waits { yf with a := 63, b := 63, x := 0x3C00 }) wait
     stands s [(10, .waits)] = true ∧ (at0 s).joined = false ∧ sleeping (at0 s) = false ∧
     past (at0 s).blockedFor ((getCore s 0 0).wdog.toNat % 2 ^ 48) = true ∧ onLease (at0 s) = none ∧ onFifo (at0 s) = none) ∧
    (let s := waitsAt (.waits { yf with a := 63, b := 63, x := 0x3C00 }) (fun x => { wait x with joined := true })
     stands s [(10, .waits)] = true ∧ (at0 s).joined = true ∧ (limitFor s (at0 s)).isSome = true) := by decide +kernel

/-- A pair with an issue unmatched, after none and after two mismatches, and at a wait that is over its limit; a pair with a change
pending and nothing resident. -/
theorem witness_PairSteps :
    let p := fun n => getPair (modPair base 0 0 (fun q => { q with unmatched := some 0, mismatches := n, missAt := some (0, here.env.iter, here.pos) })) 0 0
    let k := fun n => if (p n).missAt = some (0, here.env.iter, here.pos) then (p n).mismatches + 1 else 1
    (p 0).unmatched = some 0 ∧ getCtx base { cl := 0, core := 0, ctx := 0 } = some here ∧ here.status ≠ .stopped ∧ here.id.ctx = 0 ∧
    dueLimit base here = none ∧ k 1 = 2 ∧ k 2 = 3 ∧
    (let s := waitsAt (.waits { yf with a := 63, b := 63, x := 0x3C00 }) (fun x =>
       { x with joined := true, cnt := [(4, 2)], status := .blocked [(10, .waits)], blockedFor := 0x1_0000_0001 })
     (dueLimit s (at0 s)).isSome = true) ∧
    (let s := modPair base 0 1 (fun q => { q with pend := true })
     (getPair s 0 1).pend = true ∧ ∀ q ∈ s.ctxs, ¬ (q.2.id.cl = 0 ∧ q.2.id.core / 2 = 1)) := by decide +kernel

/-! ## Spring and the nest walkers -/

/-- A record of two iterations of one context and one granule, with its dimensions in order; a launch of priority 3; its task,
bound to cluster 0. -/
def rec1 : List Word :=
  [0, 0x1_0000_0002, 0x1_0000_0001, 0x1_0000_0001, 0x80_0002_C688, 0, 0, 0, 0x200, 0, 0, 0, 0, 0, 0, 0]
def task1 : Task :=
  { words := rec1, roles := some [0], bindOk := true, state := .idle, jcb := 0x100, next := 0, scan := none, walker := 0, served := 0, order := 0 }
def inst1 : Inst :=
  { entry := 3, words := [2, 0, 0, 0, 0, 0x10_0000, 0, 0, 0, 0x100, 0, 0, 0, 0, 0, 0], tag := 9, prio := 3, tasks := [(0, task1)],
    rejected := false, purged := false }
def iter1 (st : IterState) : Iter :=
  { uid := 5, id := { entry := 3, task := 0, ord := 0 }, idx := [], gangs := [{ cl := 0, ctxs := [fetchCtxId], wins := [0], grans := [7] }],
    state := st, posted := false, fillLeft := 2, placedAt := 0, tag := 9, prio := 1, savedBanks := [], savedGrans := [], frames := [], cmds := [],
    postDue := none, lost := false }
def spring1 (t : Task) (l : List Iter) : State :=
  modSpring { base with ctxs := [] } (fun p => { p with insts := [{ inst1 with tasks := [(0, t)] }], iters := l, nextUid := 6 })

/-- The launch entry 3 with the words of the list from its first, its tasks' records at the mapped page. -/
def withEntry (ws : List Word) : State := (zipIdx ws).foldl (fun s w => setLaunchWord s 3 w.1 w.2.toNat) base

/-- An armed start, the last slot that has passed, and each ground of a rejection; a run that has ended. -/
theorem witness_LaunchRuns :
    startDue (withEntry [1]) 3 = true ∧ startDue (withEntry [1]) 4 = false ∧
    slotPassed (withEntry [0x11, 0, 0]) 3 = some (0, 0) ∧
    (readEntry (withEntry [1, 0, 0, 0, 0, 0, 8]) 3).2.map badBases = some true ∧
    (let s := withEntry [1, 0, 0, 0, 0, 0, 0, 0, 0x10_0000]
     (readEntry s 3).2.map (fun ws => (badBases ws, (readTasks s ws 0 (entryTasks ws)).2.isNone)) = some (false, true)) ∧
    (let s := withEntry [1, 0, 0, 0, 0, 0x10_0000]
     (readEntry (setPoisonList s .hbm [(launchPlace s 3 0).addr / 64 * 64]) 3).2 = none ∧
     (readEntry s 3).2.map (fun ws => (bits (wordN ws 0) 4 3 != 3 && bits (wordN ws 0) 6 5 != 3 && !badBases ws,
       (readTasks s ws 0 (entryTasks ws)).2.map (fun l => (l.length, badMasks (l.map depMask))))) = some (true, some (1, false))) ∧
    badMasks [1] = true ∧ badMasks [2] = true ∧ badMasks [2, 1] = true ∧ badMasks [0, 1] = false ∧
    instEnded base { inst1 with tasks := [(0, { task1 with state := .complete })] } = true := by decide +kernel

/-- A task that is released, and one that is rejected. -/
theorem witness_TaskReleased :
    let s := spring1 task1 []
    (getTask s 3 0 = some ({ inst1 with tasks := [(0, task1)] }, task1)) ∧ task1.state = .idle ∧ inst1.rejected = false ∧
    depsDone inst1 (depMask rec1) = true ∧ badRecord inst1 rec1 = false ∧ badBinding s [0] = false ∧ couldHold s inst1 0 task1 = true ∧
    couldHold s inst1 0 { task1 with roles := some [], bindOk := true } = false ∧
    badBinding s [] = true ∧ badRecord inst1 (rec1.set 1 0) = true := by decide +kernel

theorem witness_IterationLife :
    (let k := { task1 with state := .released, next := 1 }
     let s := spring1 k []
     walkerChoice s 0 = some (3, 0) ∧ (preemptedOf s 3 0).isEmpty = true ∧ (placementOf s { inst1 with tasks := [(0, k)] } 0 k).2.length = 1) ∧
    (let s := { spring1 task1 [iter1 .filling] with ran := 2 }
     findIterId s (iter1 .filling).id = some (iter1 .filling) ∧ (iter1 .filling).placedAt + (iter1 .filling).fillLeft ≤ s.ran) ∧
    (let i := { iter1 .running with postDue := some (fetchCtxId, 2) }
     let s := spring1 task1 [i]
     findIterId s i.id = some i ∧ i.state ≠ .preempted ∧ getOwner s fetchCtxId i.uid = none) ∧
    (let s := spring1 task1 [iter1 .running]
     findIterId s (iter1 .running).id = some (iter1 .running) ∧ allCtxs s = [] ∧ s.ghosts = []) := by decide +kernel

/-- An iteration of another launch, of lower priority, that fills the clusters the task may use. -/
def wide : Task := { task1 with state := .released, words := rec1.set 4 (0x180_0002_C688 + 2 ^ 39 * 765) }

theorem witness_PreemptionSteps :
    (let s := spring1 task1 [iter1 .stopping]
     s.spring.iters.find? (mayClose s) = some (iter1 .stopping)) ∧
    (let s := modCl (spring1 wide [{ iter1 .running with id := { entry := 8, task := 0, ord := 0 } }]) 0 (fun c =>
       { c with grans := [(7, { iter := 5, gang := 0, num := 0, engine := false })] })
     (s.spring.iters.any (mayClose s)) = false ∧ wantsRoom s { inst1 with tasks := [(0, wide)] } 0 wide = true ∧
     (victimOf s inst1 wide).map (·.uid) = some 5) ∧
    (let i := { iter1 .stopping with lost := true }
     findIterId (spring1 task1 [i]) i.id = some i ∧ i.state = .stopping ∧ i.lost = true) ∧
    (let k := { task1 with state := .released }
     let i := { iter1 .preempted with frames := [{ here with joined := true }] }
     let s := spring1 k [i]
     let t := modPair s 0 0 (fun q => { q with cur := true })
     (preemptedOf t 3 0).find? (resumable t) = some i ∧ walkerChoice t 0 = some (3, 0)) := by decide +kernel

/-! ## Engines -/

def after (s : State) (i : Instr) : State :=
  match exec i s with
  | .next t => t
  | .fault _ => s
  | .refused _ => s
def mxHead (s : State) : Cmd := (getCore s 0 0).mxq.headD default
def cpHead (s : State) : Cmd := (getCore s 0 0).cpq.headD default
def mxAt (i : Instr) : State := after baseE i

theorem witness_LeaseAndArrayStart :
    (let w := { here with status := .blocked [(8, .lease)] }
     let s := modCl (putCtx base w) 0 (fun c => { c with lease := { c.lease with holder := none } })
     (getCl s 0).lease.holder = none ∧ leaseChoice s 0 = some (0, 0)) ∧
    (let w := { here with id := { fetchCtxId with core := 2 }, status := .blocked [(8, .lease)] }
     let s := modCl (putCtx base w) 0 (fun c => { c with lease := { c.lease with holder := some 0, used := 64 } })
     leaseOver s 0 = true ∧ leaseWaiters s 0 0 none = true) ∧
    (let s := mxAt (.mzero mc)
     oldestCmd (mxHeads s 0) = some (mxHead s) ∧ arrEntries s 0 + (mxHead s).entries ≤ 64) ∧
    (let s0 := mxAt (.mzero mc)
     let c := mxHead s0
     let s := modCl s0 0 (fun y => { y with arrq := [refOf c] })
     (getCl s 0).running = none ∧ retiresNow s 0 = false ∧ (getCl s 0).arrq = [refOf c] ∧ findCmd s (refOf c) = some c ∧
     (cmdOwner s c).isSome = true ∧ iterStopping s c.iter = false ∧ (cmdOwner s c).map (fun x => decide (arrayHold s (listNarrowed s x c) c = .free)) = some true) := by
  decide +kernel

/-- The command runs, with its end where it is what the clause names. -/
def runsCmd (s : State) (p : State → Ctx → Cmd → Bool) : Bool :=
  let c := mxHead s
  let t := modCl s 0 (fun y => { y with running := some (refOf c) })
  findCmd t (refOf c) == some c && (match cmdOwner t c with
    | some x => p t x c
    | none => false)
/-- Both operands name a tile past their tensor's last. -/
def mmOut : MM := { mm with ka := 1, ra := 1, ha := 4, kb := 1, rb := 1, hb := 4 }
def clean : OpndRead → Bool
  | .ok _ p => p == []
  | .header => false
  | .bad _ _ => false
  | .wait => false
  | .ask _ => false
def endsOk : ArrRes → Bool
  | .ok _ => true
  | .fail _ _ _ => false
  | .pend _ _ => false
  | .wait => false

/-- The commands that end by themselves, a poisoned bank, a failed command, a product with both operands outside their tensors, and
rows that leave service; a bank's rows of 256 elements. -/
theorem witness_ArrayCommandEnds :
    runsCmd (mxAt (.mzero mc)) (fun s x c => cmdInstr c == some (.mzero mc) && c.awaiting == [] && c.failed == none && endsOk (runArray s x c)) = true ∧
    (let o := { mc with acc := 0, x := 31 }
     runsCmd (mxAt (.mrel o)) (fun _ _ c => cmdInstr c == some (.mrel o) && c.awaiting == [] && c.failed == none) = true) ∧
    [Instr.mchk mc, .mma mmOut].all (fun i => runsCmd (putBank (mxAt i) 0 3 { getBank (mxAt i) 0 3 with poison := true })
      (fun s x c => cmdInstr c == some i && c.awaiting == [] && c.failed == none && (getBank s x.id.cl 3).poison && !endsOk (runArray s x c))) = true ∧
    (let s := modCore (mxAt (.mzero mc)) 0 0 (fun y => { y with mxq := y.mxq.map (fun c => { c with failed := some (17, 8) }) })
     runsCmd s (fun _ _ c => c.awaiting == [] && c.failed == some (17, 8)) = true) ∧
    runsCmd (mxAt (.mma mmOut)) (fun s x c => cmdInstr c == some (.mma mmOut) && c.awaiting == [] && c.failed == none &&
      !(getBank s x.id.cl 3).poison && clean (readOpnd s x c 1 (c.ops.getD 0 0).toNat c.hidx).2 &&
      clean (readOpnd (readOpnd s x c 1 (c.ops.getD 0 0).toNat c.hidx).1 x c 1 (c.ops.getD 1 0).toNat c.hidxB).2) = true ∧
    (let s := modCl base 0 (fun c => { c with retire := [(319, { ctx := here.id, seq := 0, iter := 0 })] })
     (getCl s 0).running = none ∧ (getCl s 0).rowMap.mode = 0 ∧ (freeSpare (getCl s 0).rowMap).isSome = true) ∧
    banksFree base 0 = true := by decide +kernel

theorem witness_runSteps : (List.replicate 256 (List.replicate 256 Val.nan)).length = 256 ∧
    ∀ r ∈ List.replicate 256 (List.replicate 256 Val.nan), r.length = 256 := by
  refine ⟨List.length_replicate, fun r hr => ?_⟩
  rw [(List.mem_replicate.1 hr).2]
  exact List.length_replicate

/-- Both operands at one tile whose pieces all came poisoned: the products stop before the first step. -/
def poisonTile : List (Nat × Nat) := finePieces mereBase (tileBytes (fmtOfCode 9))
def poisonAt : State :=
  modCtx (after (inM baseE 6 (BitVec.ofNat 64 (mereBase + 9 * 2 ^ 56))) (.mma mm)) fetchCtxId
    (fun x => { x with ops := x.ops.map (fun o => { o with gathered := poisonTile.map (fun q => (pieceKey 0 q.1, [])) }) })
def poisonSeen : List (Option Nat × Nat) :=
  (poisonTile.map (fun q => (stepOfByte (fmtOfCode 9) (q.1 - mereBase), q.1))).filter (fun p => p.1 != some 8)

theorem witness_poisonedOperand :
    runsCmd poisonAt (fun s x c => cmdInstr c == some (.mma mm) && c.awaiting == [] && c.failed == none && !(getBank s x.id.cl 3).poison &&
      x == at0 poisonAt && c == mxHead poisonAt && c.ops.getD 0 0 == BitVec.ofNat 64 (mereBase + 9 * 2 ^ 56) &&
      c.ops.getD 1 0 == BitVec.ofNat 64 (mereBase + 9 * 2 ^ 56)) = true ∧
    (∀ s, readOpnd s (at0 poisonAt) (mxHead poisonAt) 0 (mereBase + 9 * 2 ^ 56) 0 = (s, .ok (outOpnd (fmtOfCode 9)) poisonSeen)) ∧
    (stopStep (poisonSeen ++ poisonSeen)).isSome = true := by
  refine ⟨by decide +kernel, fun s => ?_, by decide +kernel⟩
  have h1 : ((findOp (at0 poisonAt) (mxHead poisonAt).seq).map (·.gathered)) = some (poisonTile.map (fun q => (pieceKey 0 q.1, []))) := by
    decide +kernel
  obtain ⟨o, ho, hg⟩ := Option.map_eq_some_iff.1 h1
  have hv : bits (mereBase + 9 * 2 ^ 56) 55 0 = mereBase := by decide
  refine readOpnd_poison (f := fmtOfCode 9) (by decide) ?_ ?_ ?_ ?_
  · rw [hv]; exact fun q hq => gotPiece_same ho hg hq
  · rw [hv]; rfl
  · rw [hv]; decide +kernel
  · decide +kernel

/-- An image whose every piece has come, its version byte in place. -/
def imagePiece : List Byte := List.replicate 8 0 ++ [0xA6] ++ List.replicate 247 0
def imagePieces : List (Nat × Nat) := pieces mereBase 0x42000
def loadAt : State :=
  modCtx (after (inM baseE 6 (BitVec.ofNat 64 mereBase)) (.mload { mc with ra := 6 })) fetchCtxId
    (fun x => { x with ops := x.ops.map (fun o => { o with gathered := imagePieces.map (fun q => (pieceKey 0 q.1, imagePiece)) }) })

theorem witness_mload :
    runsCmd loadAt (fun _ x c => cmdInstr c == some (.mload { mc with ra := 6 }) && c.awaiting == [] && c.failed == none && x == at0 loadAt &&
      c == mxHead loadAt && bits (c.ops.getD 0 0).toNat 55 0 == mereBase) = true ∧
    ∀ s, ∃ g, readRange s (at0 loadAt) (mxHead loadAt) 0 mereBase 0x42000 = (s, g) ∧ g.wait = none ∧ g.bads = [] ∧ imgNat g.bs 0x41008 1 = 0xA6 := by
  refine ⟨by decide +kernel, fun s => ⟨_, readGo_data s _ _ 0 (fun _ => imagePiece) imagePieces Got.none (fun q hq => ?_), rfl, rfl, ?_⟩⟩
  · have h1 : ((findOp (at0 loadAt) (mxHead loadAt).seq).map (·.gathered)) = some (imagePieces.map (fun q => (pieceKey 0 q.1, imagePiece))) := by
      decide +kernel
    obtain ⟨o, ho, hg⟩ := Option.map_eq_some_iff.1 h1
    exact readPiece_got (gotPiece_same ho hg hq) (by decide)
  · have h := imgNat_same imagePiece 8 1 (by decide +kernel) imagePieces 0x410 (by decide +kernel)
    have e : imagePiece.length * 0x410 + 8 = 0x41008 := by decide +kernel
    rw [e] at h
    rw [show Got.none.bs = [] from rfl, List.nil_append]
    exact h.trans (by decide)

/-- A drain of a bank of zeros as an image, over granules that the engines hold. -/
def drainAt : State :=
  modCl (after (inM baseE 6 (BitVec.ofNat 64 mereBase)) (.mdrain { mc with ra := 6, x := 15 })) 0
    (fun c => { c with grans := c.grans.map (fun g => (g.1, { g.2 with engine := true })) })

theorem witness_mdrain :
    let o : MC := { mc with ra := 6, x := 15 }
    let s := drainAt
    let x := at0 drainAt
    let c := mxHead drainAt
    runsCmd s (fun t y d => cmdInstr d == some (.mdrain o) && d.awaiting == [] && d.failed == none && y == x && d == c &&
      !(getBank t 0 3).poison && bits (d.ops.getD 0 0).toNat 55 0 == mereBase) = true ∧ mdBias o = false ∧
    writeWait s x c 0 mereBase (mdBytes o) = none ∧ checkBank s x c 3 = (s, none) ∧
    ∀ z : List (List Val), z.flatten.length = 65536 → (writeRange s x c 0 mereBase (drainImage o c (getBank s 0 3) z).1).2.bad = none := by
  have hm : (pieces mereBase 0x42000).all (fun q => mereOpen drainAt (at0 drainAt) (mxHead drainAt) q.1) = true := by decide +kernel
  rw [List.all_eq_true] at hm
  refine ⟨by decide +kernel, by decide, ?_, ?_, fun z hz => ?_⟩
  · have h := (writeRange_mere (s := drainAt) (x := at0 drainAt) (c := mxHead drainAt) (w := 0) (a := mereBase)
      (bs := List.replicate 0x42000 0) (by decide) (by rw [List.length_replicate]; exact hm)).1
    rw [List.length_replicate] at h
    exact h
  · refine checkBank_zeros _ _ _ 3 ?_ (by decide +kernel)
    rw [bankVals_zeros (b := Bank.free) rfl rfl rfl rfl rfl]
    exact bankVals_zeros (by decide +kernel) (by decide +kernel) (by decide +kernel) (by decide +kernel) (by decide +kernel)
  · have hl : (drainImage { mc with ra := 6, x := 15 } (mxHead drainAt) (getBank drainAt 0 3) z).1.length = 0x42000 := by
      unfold drainImage
      dsimp only
      rw [if_pos (by decide)]
      exact imageOf_length (by rw [codes32, List.length_map, hz])
    rw [(writeRange_mere (by decide) (by rw [hl]; exact hm)).2]

def cpzAt : State := after (withDesc (mereBase + 8 * 2 ^ 64)) (.cpz cd)
/-- A command that has not started, and one that has, where a `qflush` begins. -/
theorem witness_flush_begins :
    let y := getCore cpzAt 0 0
    let x := at0 cpzAt
    (y.cpq.length = 1 ∧ (∀ c ∈ y.mxq ++ y.cpq, c.ctx.cl = 0 ∧ c.ctx.core = 0 ∧ c.flush.isSome = false) ∧ flushOf y false x = none) ∧
    (getCore (flushBegin cpzAt x 0 false) 0 0).cpq = [] ∧ (flushEnd (flushBegin cpzAt x 0 false) x 0 false).2 = 1 ∧
    ((getCore (flushBegin (modCore cpzAt 0 0 (fun y => { y with cpq := y.cpq.map (fun c => { c with started := true }) })) x 0 false) 0 0).cpq.map
      (·.flush)) = [some x.id] := by decide +kernel

def cpzRun (f : Cmd → Cmd) : State := modCore cpzAt 0 0 (fun y => { y with cpq := y.cpq.map (fun c => f { c with started := true }) })

/-- A command that may start, one whose wait object has failed, one that runs, and one stopped at an access that may go on. -/
theorem witness_CopyEngineSteps :
    (let s := cpzAt
     cpRunning s 0 < 8 ∧ cpChoice s 0 = some (cpHead s) ∧ (cmdOwner s (cpHead s)).map (fun x => decide (startHold s x (cpHead s) = .free)) = some true) ∧
    (let s := modCore cpzAt 0 0 (fun y => { y with cpq := y.cpq.map (fun c => { c with wait := 0x8000_0000_1000_0000 }) })
     cpChoice s 0 = some (cpHead s) ∧ (cmdOwner s (cpHead s)).map (fun x => match startHold s x (cpHead s) with
       | .fails _ => true
       | _ => false) = some true) ∧
    (let s := cpzRun id
     let c := cpHead s
     startedCp s c.ctx c.seq = some c ∧ c.awaiting = [] ∧ pauses s c = false ∧ c.stop = none ∧ rdmaPending s c = false ∧ portPaused s c = false ∧ c.failed = none ∧
     c.flush = none ∧ (cmdOwner s c).map (fun x => (overlapAt (narrowed s x c) c).isNone) = some true) ∧
    (let s := cpzRun (fun c => { c with flush := some c.ctx })
     let c := cpHead s
     startedCp s c.ctx c.seq = some c ∧ (cmdOwner s c).isSome = true ∧ c.awaiting = [] ∧ pauses s c = false ∧ c.flush.isSome = true ∧
     rdmaPending s c = false) ∧
    (let s := { setOwners (cpzRun (fun c => { c with stop := some 0 })) 0 0 0 0 0 1 true with cyc := 1 }
     let c := cpHead s
     startedCp s c.ctx c.seq = some c ∧ c.stop.isSome = true ∧ (cmdOwner s c).map (fun x => mayResume s x c) = some true) := by decide +kernel

/-- A machine of eight nodes in a ring whose engines hold the granules of Mere, with a copy command of descriptor d that has started; its
role 0 names cluster 0 of node 1, its handle entry 0 a tensor of one tile, entry 1 a compressed one. -/
def entryAt : List Word := [0x91, BitVec.ofNat 64 mereBase, 0x100_0000_0100, 0]
def packedAt : List Word := [0x191, 0x30_0000, 0x100_0000_0100, BitVec.ofNat 64 (mereBase + 0x1000)]
def engS : State :=
  modDev (modPkg (modCore (modCl cpzAt 0 (fun c => { c with grans := c.grans.map (fun g => (g.1, { g.2 with engine := true })) })) 0 0
    (fun y => { y with hcache := [(0, entryAt), (1, packedAt)] }))
    (fun g => { g with units := BitVec.allOnes 64 })) (fun d => { d with txn := 7 })
def engX : Ctx := { at0 engS with env := { (at0 engS).env with roles := [7] } }
def engC (d : Nat) : Cmd := { cpHead engS with started := true, desc := BitVec.ofNat 640 d }
theorem engC_seq (d : Nat) : (engC d).seq = (cpHead engS).seq := by simp only [engC]
def farWord : Nat := 2 ^ 63 + mereBase
def useS : State := modCl engS 0 (fun c => { c with grans := c.grans.map (fun g => (g.1, { g.2 with engine := false })) })

def wroteDone (r : State × WrRes) : Bool := decide (r.2 = .done)
def sentFar (r : State × WrRes) : Bool := decide (r.2 = .send 1 (some (0, 0)) mereBase)
def gaveData (r : State × RdRes) : Bool :=
  match r.2 with
  | .data _ => true
  | .ask _ _ _ => false
  | .wait _ _ => false
  | .bad _ _ => false

/-- A piece of Mere that the engines hold, and one of another package. -/
theorem witness_enginePieces :
    let c := engC 0
    mereOpen engS engX c mereBase = true ∧ gotPiece engX c (pieceKey mereBase mereBase) = none ∧
    [false, true].all (fun wr => decide ((wordLoc engS engX c mereBase mereBase wr).2 = .here { space := .mere, addr := 0, node := 0 } false)) = true ∧
    isPoisoned (probeRange (wordLoc engS engX c mereBase mereBase false).1 { space := .mere, addr := 0, node := 0 } 8)
      { space := .mere, addr := 0, node := 0 } 8 = false ∧
    (wordLoc engS engX c farWord mereBase true).2 = .far 1 (some (0, 0)) mereBase ∧ reachable engS 1 = true ∧
    sentFar (writePiece engS engX c farWord mereBase (natLe 8 5)) = true ∧
    wroteDone (writePiece engS engX c mereBase mereBase (natLe 8 5)) = true := by decide +kernel

theorem witness_farLoc : (wordLoc engS engX (engC 0) farWord mereBase true).1 = engS := by
  have h : ∃ r, roleOf engX farWord = some r ∧ ¬ bits r.toNat 1 0 ≤ 1 ∧ bits r.toNat 1 0 = 3 ∧ bits r.toNat 13 2 ≠ nodeNo engS := ⟨7, by decide +kernel⟩
  obtain ⟨r, h1, h2, h3, h4⟩ := h
  unfold wordLoc
  rw [if_neg (by decide)]
  simp only [h1, h3, h4, if_false, if_true]
  rw [if_neg (by decide)]

/-- Words of zeros to Mere and to another package; a granule of the users; an address past the granules; the last word. -/
theorem witness_cpzSteps :
    let d := mereBase + 8 * 2 ^ 64
    let f := farWord + 8 * 2 ^ 64
    let bs := natLe 8 (bits d 191 128)
    wroteDone (writePiece engS engX (engC d) (bits d 63 0) ((bits d 55 0 + 8 * 0) % 2 ^ 56) bs) = true ∧
    decide ((writePiece useS engX (engC d) (bits d 63 0) ((bits d 55 0 + 8 * 0) % 2 ^ 56) bs).2 = .wait 4 mereBase) = true ∧
    decide ((writePiece engS engX (engC d) (bits d 63 0) ((bits d 55 0 + 8 * 0x2_0000) % 2 ^ 56) bs).2 = .bad 7 (mereBase + 0x10_0000)) = true ∧
    sentFar (writePiece engS engX (engC f) (bits f 63 0) ((bits f 55 0 + 8 * 0) % 2 ^ 56) bs) = true ∧
    unanswered (writePiece engS engX (engC f) (bits f 63 0) ((bits f 55 0 + 8 * 0) % 2 ^ 56) bs).1 [] 1 mereBase 8 = false := by decide +kernel

/-- One element of 16 bytes within Mere, and one that goes to another package. -/
theorem witness_cpySteps :
    let d := mereBase + (mereBase + 16) * 2 ^ 64 + 4 * 2 ^ 224
    let f := mereBase + farWord * 2 ^ 64 + 4 * 2 ^ 224
    (let r := readPiece engS engX (engC d) (bits d 63 0) (cpySrc d 0) (cpyEs d)
     gaveData r = true ∧ wroteDone (writePiece r.1 engX (engC d) (bits d 127 64) (cpyDst d 0) (List.replicate 16 1)) = true) ∧
    (let r := cpyBytes engS engX (engC f) f 0 []
     sentFar (writePiece r.1 engX (engC f) (bits f 127 64) (cpyDst f 0) r.2) = true) ∧
    ((cpyE d).foldl (· * ·) 1 = 1 ∧ min 1 ((0 / (32 / cpyEs d) + 1) * (32 / cpyEs d)) = 1) ∧
    (let r := cpyReads (engC d) d engX 1 0 engS []
     r.2 = ([], 1, .data []) ∧ (cpyPuts (engC d) d engX [] 1 0 r.1).2 = (1, .done, false)) := by decide +kernel

/-- A tile of zeros of MXFP4 in 152 pieces, its header in four of them, each piece of which has come. -/
def tilePieces : List (Nat × Nat) := pieces mereBase 38912
def headBits : Nat := headNat .mxe2m1 0 false 0 0
def tilePiece (a : Nat) : List Byte :=
  if mereBase + 0x8800 ≤ a ∧ a < mereBase + 0x8C00 then
    (List.range 32).flatMap (fun j => natLe 8 ((bit headBits ((a - mereBase - 0x8800) / 8 + j)).toNat * 2 ^ 63))
  else List.replicate 256 0
def tileX : Ctx :=
  { engX with ops := engX.ops.map (fun o => { o with gathered := tilePieces.map (fun q => (pieceKey 0 q.1, tilePiece q.1)) }) }
def tileTail : List Byte := (tilePieces.drop 136).flatMap (fun q => tilePiece q.1)
def tileData : List Byte := List.replicate (tCheckOff .mxe2m1) 0 ++ tileTail

/-- Reads of that tile's bytes. -/
theorem tile_read (s : State) (d a n : Nat) (h : (pieces a n).all (fun q => tilePieces.contains q) = true) :
    readRange s tileX (engC d) 0 a n = (s, { Got.none with bs := (pieces a n).flatMap (fun q => tilePiece q.1) }) := by
  have h1 : ((findOp tileX (cpHead engS).seq).map (·.gathered)) = some (tilePieces.map (fun q => (pieceKey 0 q.1, tilePiece q.1))) := by
    decide +kernel
  obtain ⟨o, ho, hg⟩ := Option.map_eq_some_iff.1 h1
  have hd : tilePieces.all (fun q => (tilePiece q.1).isEmpty == false) = true := by decide +kernel
  rw [List.all_eq_true] at h hd
  rw [← engC_seq d] at ho
  refine readRange_got (w := 0) (l := tilePieces) (D := tilePiece) ho hg (fun q hq e => ?_) (fun q hq => List.contains_iff_mem.1 (h q hq))
  have hq' := hd q hq
  rw [e] at hq'
  exact absurd hq' (by decide)

theorem zeros_flat {α : Type} (D : α → List Byte) (k : Nat) : ∀ l : List α, (∀ q ∈ l, D q = List.replicate k 0) →
    l.flatMap D = List.replicate (k * l.length) 0
  | [], _ => rfl
  | q :: l, h => by
    rw [List.flatMap_cons, h q (by simp), zeros_flat D k l (fun r hr => h r (by simp [hr])), List.replicate_append_replicate,
      List.length_cons, Nat.mul_succ, Nat.add_comm]

theorem tile_bytes : tilePieces.flatMap (fun q => tilePiece q.1) = tileData := by
  have hz : (tilePieces.take 136).all (fun q => decide (tilePiece q.1 = List.replicate 256 0)) = true := by decide +kernel
  rw [List.all_eq_true] at hz
  have hl : 256 * (tilePieces.take 136).length = tCheckOff .mxe2m1 := by decide +kernel
  conv => lhs; rw [← List.take_append_drop 136 tilePieces]
  rw [List.flatMap_append, zeros_flat _ 256 _ (fun q hq => of_decide_eq_true (hz q hq)), hl]
  rfl

/-- Whether the first n words have nothing below bit 63. -/
def lowClear : Nat → List Byte → Bool
  | 0, _ => true
  | n + 1, bs => leNat (bs.take 8) % 2 ^ 63 == 0 && lowClear n (bs.drop 8)

theorem lowClear_word : ∀ (n : Nat) (bs : List Byte), lowClear n bs = true → ∀ j < n, imgNat bs (8 * j) 8 % 2 ^ 63 = 0
  | n + 1, bs, h, j, hj => by
    rw [lowClear, Bool.and_eq_true] at h
    cases j with
    | zero => exact beq_iff_eq.1 h.1
    | succ j =>
      have := lowClear_word n (bs.drop 8) h.2 j (by omega)
      rwa [imgNat, List.drop_drop, show 8 + 8 * j = 8 * (j + 1) by omega] at this

/-- The tile as read: of zeros, with a header that its reader expects; it passes its check. -/
theorem tile_parsed : ∃ h, headOk h .mxe2m1 = true ∧ tileOf .mxe2m1 tileData =
    { codes := List.replicate 256 (List.replicate 256 0), scales := List.replicate 256 (List.replicate 8 0),
      rowL := List.replicate 256 (0, 0), colL := List.replicate 256 (0, 0), head := h } := by
  have hl : lowClear 512 tileTail = true := by decide +kernel
  have hh : headOk ((List.range 128).foldr (fun j acc => acc * 2 + (bit (imgNat tileTail (8 * j) 8) 63).toNat) 0) .mxe2m1 = true := by decide +kernel
  have h2 := tileOf_zeros (f := .mxe2m1) (bs := tileTail) (by decide)
    (fun j hj => lowClear_word 512 tileTail hl j hj)
  simp only [headOf, laneEntry, imgNat_behind] at h2
  exact ⟨_, hh, h2⟩

theorem tile_checked (s : State) (d : Nat) (check : Bool)
    (ht : laneOk (.zero false) (.zero false) (.zero false) (bits (smGet s.pkg.chktol (fmtCode .mxe2m1) 0).toNat 63 32)
      (bits (smGet s.pkg.chktol (fmtCode .mxe2m1) 0).toNat 31 0) = true) :
    ∃ t, cpCheck s (engC d) .mxe2m1 tileData check = .ok s t [] ∧ t.Full := by
  obtain ⟨h, h1, h2⟩ := tile_parsed
  let t : Tile := { codes := List.replicate 256 (List.replicate 256 0), scales := List.replicate 256 (List.replicate 8 0),
                    rowL := List.replicate 256 (0, 0), colL := List.replicate 256 (0, 0), head := h }
  have hf : t.Full := ⟨List.length_replicate, List.length_replicate, fun r hr => by
    rw [(List.mem_replicate.1 hr).2, List.length_replicate], List.length_replicate, List.length_replicate⟩
  refine ⟨t, ?_, hf⟩
  unfold cpCheck
  simp only [h2, h1, Bool.not_true, Bool.false_eq_true, if_false]
  cases check
  · rfl
  · simp only [Bool.not_true, Bool.false_eq_true, if_false]
    rw [checkTile_zeros (by decide +kernel) ht]
    rfl

theorem tile_open : (pieces mereBase 40960).all (fun q => mereOpen engS tileX (engC 0) q.1) = true := by decide +kernel

/-- Any tile of that format is written. -/
theorem tile_written (d : Nat) (bs : List Byte) (h : bs.length = tileLen .mxe2m1) : ∃ t,
    writeWait engS tileX (engC d) mereBase mereBase bs.length = none ∧
    writeRange engS tileX (engC d) mereBase mereBase bs = (t, { sent := [], bad := none }) := by
  have hm := tile_open
  rw [List.all_eq_true] at hm
  have h1 := writeRange_mere (s := engS) (x := tileX) (c := engC d) (w := mereBase) (a := mereBase) (bs := bs) (by decide)
    (by rw [h, show tileLen .mxe2m1 = 40960 by decide]; simpa only [mereOpen, engC_seq] using hm)
  exact ⟨_, h1.1, Prod.ext rfl h1.2⟩

theorem tile_found (d : Nat) : findFmt engS tileX (engC d) 0 mereBase probes = (engS, .fmt .mxe2m1) := by
  unfold probes findFmt
  rw [tile_read engS d (mereBase + 0x8800) 1024 (by decide +kernel)]
  have h : headProbe (probeHead ((pieces (mereBase + 0x8800) 1024).flatMap (fun q => tilePiece q.1))) [9, 12] = true ∧
    fmtOfCode (BitVec.ofNat 4 (headFmt (probeHead ((pieces (mereBase + 0x8800) 1024).flatMap (fun q => tilePiece q.1))))) = .mxe2m1 := by decide +kernel
  simp only [Got.none, Got.bad, List.head?_nil, bne_self_eq_false, Bool.false_eq_true, if_false, h.1, h.2, if_true]


theorem engS_entry (d : Nat) : seeEntry engS tileX (engC d).hidx = (engS, some (hEntryOf entryAt)) := by
  have h : cachedWords engS tileX (cpHead engS).hidx = some entryAt := by decide +kernel
  have e : (engC d).hidx = (cpHead engS).hidx := by simp only [engC]
  unfold seeEntry
  rw [e, h]
  dsimp only
  rw [if_pos (by decide +kernel)]

theorem tile_given (d : Nat) : readRange engS tileX (engC d) 0 mereBase (tileBytes .mxe2m1) = (engS, { Got.none with bs := tileData }) := by
  rw [tile_read engS d mereBase (tileBytes .mxe2m1) (by decide +kernel)]
  rw [show pieces mereBase (tileBytes .mxe2m1) = tilePieces by rfl, tile_bytes]

/-- Tiles written as zeros, moved, converted and stored, with the entry and the header they need. -/
theorem witness_tileSteps :
    (let d := (engC (mereBase + 9 * 2 ^ 96 + mereBase * 2 ^ 128)).desc.toNat
     bits d 63 0 = mereBase ∧ bits d 55 0 = mereBase ∧ bits d 95 64 = 0 ∧ fmtOfCode (BitVec.ofNat 4 (bits d 99 96)) = .mxe2m1 ∧
     bits d 191 128 = mereBase ∧ bits d 183 128 = mereBase ∧ inMere mereBase = true ∧
     roleLost engS tileX (engC (mereBase + 9 * 2 ^ 96 + mereBase * 2 ^ 128)) mereBase = false) ∧
    (let d := (engC (mereBase + 0x3F800000 * 2 ^ 96)).desc.toNat
     bits d 55 0 = mereBase ∧ bits d 95 64 = 0 ∧ bits d 183 128 = 0 ∧
     cpstAt (engC (mereBase + 0x3F800000 * 2 ^ 96)) .mxe2m1 = mereBase ∧ amaxWait engS tileX (engC (mereBase + 0x3F800000 * 2 ^ 96)) = none) ∧
    ((engC 0).phase ≠ 2 ∧ czFmt { cd with x := 19 } = .mxe2m1 ∧ ctMere cd = false ∧ ctMere { cd with x := 32 } = true ∧ ctRegen cd = false ∧
     ctRegen { cd with x := 64 } = true) ∧
    (let e := hEntryOf entryAt
     hTiles e ≤ 1 ∧ ¬ hTiles e ≤ 0 ∧ hFmt e = .mxe2m1 ∧ e.base = mereBase ∧ e.comp = false) ∧
    headOk (tileOf .mxe2m1 []).head .mxe2m1 = false := by decide +kernel

theorem witness_tileData (d : Nat) (idx : Nat) (check : Bool) :
    findFmt engS tileX (engC d) 0 mereBase probes = (engS, .fmt .mxe2m1) ∧
    (∃ t, cpCheck engS (engC d) .mxe2m1 tileData check = .ok engS t [] ∧
      ∀ rm key, ∀ f : List (List Val) → List (List Val), (∀ l, (f l).length = l.length) →
        let q := convertRows .mxe2m1 rm (engC d).sat key (fun _ => none) (f (tileVals .mxe2m1 t))
        ∀ u ∈ [zeroTile .mxe2m1 idx, t, sealTile .mxe2m1 q.1 q.2.1 idx], ∃ v,
          writeWait engS tileX (engC d) mereBase mereBase (tileImage .mxe2m1 u).length = none ∧
          writeRange engS tileX (engC d) mereBase mereBase (tileImage .mxe2m1 u) = (v, { sent := [], bad := none })) := by
  refine ⟨tile_found d, ?_⟩
  obtain ⟨t, h1, h2⟩ := tile_checked engS d check (by decide +kernel)
  refine ⟨t, h1, ?_⟩
  intro rm key f hf q u hu
  refine tile_written d _ ?_
  simp only [List.mem_cons, List.not_mem_nil, or_false] at hu
  rcases hu with rfl | rfl | rfl
  · exact tileImage_length (by decide) (zeroTile_full _ _)
  · exact tileImage_length (by decide) h2
  · exact sealed_length (by decide) (by rw [hf, tileVals_length])

def readsAll (r : State × Got) : Bool := decide (r.2 = { Got.none with bs := r.2.bs })
def writesAll (s : State) (x : Ctx) (c : Cmd) (bs : List Byte) : Bool :=
  decide (writeWait s x c mereBase mereBase bs.length = none ∧ (writeRange s x c mereBase mereBase bs).2 = { sent := [], bad := none })

/-- Metadata of a tensor that is compressed and of one that is not; a queue pair that is ready, one that is not, data that came. -/
theorem witness_cpxAndCpn :
    (let d := mereBase + 4 * 2 ^ 128
     let e := hEntryOf packedAt
     cachedWords engS engX 1 = some packedAt ∧ e.valid = true ∧ hInvalid e = false ∧ e.comp = true ∧
     [e.metaB, mereBase].all (fun a => let r := readRange engS engX (engC d) (if a = mereBase then mereBase else 0) a 2
       readsAll r && writesAll r.1 engX (engC d) r.2.bs) = true) ∧
    (hEntryOf entryAt).comp = false ∧ writesAll engS engX (engC 0) (List.replicate 2 0) = true ∧
    (let c := engC (mereBase + 8 * 2 ^ 160)
     qpReady engS (bits c.desc.toNat 215 192) (bits c.desc.toNat 219 216) = false ∧
     qpReady (setQpWord engS 0 0 3) (bits c.desc.toNat 215 192) (bits c.desc.toNat 219 216) = true ∧ rdmaData engX c = none ∧ c.phase ≠ 2 ∧
     readsAll (readRange (setQpWord engS 0 0 3) engX c mereBase mereBase 8) = true ∧
     (let x := { engX with ops := engX.ops.map (fun o => { o with gathered := [(0, natLe 8 5)] }) }
      rdmaData x c = some (natLe 8 5) ∧ writesAll engS x c (natLe 8 5) = true)) := by decide +kernel

/-- A collective of one block to a gang of the same iteration, which takes it or refuses it, and to another package. -/
theorem witness_coll :
    let near := modSpring engS (fun p => { p with iters := [{ iter1 .running with uid := 0 }] })
    let x := { engX with env := { engX.env with roles := [0, 7] } }
    let c := engC (mereBase + farWord * 2 ^ 64)
    let q := fun s => { collSpecOf s c 0 0 with near := c.iter + 1 }
    let run := fun s => nearBlocks (0, c.iter, 0) (q s) (collBlocks (q s) (List.replicate 256 0) []) { s := s, nonfin := 0, novalid := 0, firstNv := 0, bad := none }
    let refuse := modCl near 0 (fun y => { y with grans := y.grans.map (fun g => (g.1, { g.2 with engine := false })) })
    readsAll (readRange engS x c 0 mereBase (256 * collNb c.desc.toNat)) = true ∧ readsAll (readRange engS x c mereBase mereBase 4) = true ∧
    roleOf x (bits c.desc.toNat 127 64) = some 0 ∧ roleOf engX (bits c.desc.toNat 127 64) = some 7 ∧ collLossy c.desc.toNat = false ∧
    (findIter near c.iter).bind (fun i => gangOn i (bits (0 : Word).toNat 8 2)) = some 0 ∧ (run near).bad = none ∧ (run refuse).bad = some 0 ∧
    bits (7 : Word).toNat 1 0 = 3 ∧ bits (7 : Word).toNat 13 2 ≠ nodeNo engS ∧ reachable engS (bits (7 : Word).toNat 13 2) = true := by decide +kernel

/-! ## Operations performed -/

def opAt (s : State) : Option (Ctx × MemOp) :=
  match getCtx s fetchCtxId with
  | some x => match x.ops with
    | [o] => if (findOwner s fetchCtxId o.seq) == some x && findOp x o.seq == some o && o.awaiting == [] && mayPerform x o && !(reachesHome o && behindReleased s x o.phys) then some (x, o) else none
    | _ => none
  | none => none

/-- A store and an atomic in Mere at its first bytes; a store to HBM4 of cluster scope, and one of package scope. -/
theorem witness_OperationPerformed :
    let m := inM baseM 6 (BitVec.ofNat 64 mereBase)
    (match opAt (after m (.st { lm with a := 6 })) with
    | some (x, o) => (performKind (after m (.st { lm with a := 6 })) x o).isSome && o.done.isNone && (match o.kind with
      | .store false [(a, _)] => inMere a && !inContain a && (merePlace m 0 0 0 a).isSome
      | _ => false)
    | none => false) = true ∧
    (match opAt (after m (.amo { la with a := 6 })) with
    | some (x, o) => getOwner (after m (.amo { la with a := 6 })) x.id x.env.iter == some x && (match o.kind with
      | .amo (some _) _ a n _ _ => inMere a && (match merePlace m 0 0 0 a with
        | some (p, _) => !isPoisoned (probeRange (after m (.amo { la with a := 6 })) p n) p n
        | none => false)
      | _ => false)
    | none => false) = true ∧
    [(0, 2), (3, 3)].all (fun sc => match opAt (after base (.st { lm with x := BitVec.ofNat 4 sc.1 })) with
    | some (x, o) => (if sc.1 == 3 then decide (3 ≤ o.scope) else decide (o.scope ≤ sc.2)) && o.done.isNone && (match o.kind with
      | .store false [(a, _)] => !inContain a && (match (opAccess (after base (.st { lm with x := BitVec.ofNat 4 sc.1 })) x o a accWrite).2 with
        | .ok p => p.space == .hbm
        | .bad _ => false)
      | _ => false)
    | none => false) = true := by decide +kernel
/-! ## Ports and links -/

def pk (k : PktKind) : Packet :=
  { dst := 0, src := 1, tc := 0, kind := k, tag := 9, op := 0, addr := 0x100, spec := 0, data := [], rid := 4 }
/-- Eight nodes in the first dimension, with every link present. -/
def ring : State :=
  modDev (modPkg base (fun g => { g with units := BitVec.allOnes 64 })) (fun d => { d with txn := 7 })

theorem witness_PortSteps :
    let fw : FifoWord := { w := 7, ctx := fetchCtxId, seq := 1, iter := 0 }
    (pk .read).dst = nodeNo (landed ring (pk .read)) ∧ ({ pk .read with dst := 5 } : Packet).dst ≠ nodeNo (landed ring { pk .read with dst := 5 }) ∧
    (pk .unsent).kind = .unsent ∧ ({ pk .read with ok := false } : Packet).ok = false ∧ (pk .read).kind ≠ .unsent ∧ (pk .read).ok = true ∧
    (landed ring (pk .read)).dev.fatal = false ∧ portHeld (landed ring (pk .read)) (pk .read) = false ∧ (landed ring (pk .read)).net.portq = [] ∧ (landed ring (pk .write)).dev.fatal = false ∧ portHeld (landed ring (pk .write)) (pk .write) = false ∧
    (let w : PortWrite := { port := 0, pkt := pk .write, runs := [] }
     let s := modNet ring (fun n => { n with portq := [w] })
     (landed s (pk .write)).net.portq.find? (fun w => w.pkt == pk .write) = some w ∧ queueWaits (landed s (pk .write)) w = false) ∧
    (landed (modDev ring (fun d => { d with fatal := true })) (pk .atomic)).dev.fatal = true ∧ (landed ring (pk .ack)).net.reqs = [] ∧
    logWord (setLogWord ring 1023 1 2) 1023 1 % 4 = 2 ∧ smFind ring.net.logRid 1023 = none ∧
    (let s := modNet (setLogWord ring 0 1 3) (fun n => { n with logRid := [(0, (1, 4))] })
     logWord s 0 1 % 4 = 3 ∧ smFind s.net.logRid 0 = some (1, 4)) ∧
    (let s := modCl ring 0 (fun c => { c with sendF := [(5, [fw])], recvF := [(0, List.replicate 63 1)] })
     sendFifo s 0 5 = [fw] ∧ (getLink s 5).health = .up ∧ pushReady s fw = true ∧ (recvFifo s 0 0).length < 64) := by decide +kernel

/-- A collective of one block for cluster 0 and tag 9, by an iteration placed there; an open lossy one. -/
def spec1 (lossy : Bool) : CollSpec :=
  { dst := 0, dstSt := 0, fmt := 14, op := 0, rescale := false, lossy := lossy, nb := 1, n := 1, tsig := 0, cl := 0, tag := 9, t0 := 0 }
def withColl : State := modSpring ring (fun p => { p with iters := [iter1 .running] })
def rxOf (p : Packet) : CollRx := newColl p p.rid (spec1 true)

theorem witness_LinkAndCollectiveSteps :
    let opens := { pk .collOpen with ext := specBytes (spec1 false) }
    let block := { pk .collBlock with tc := 1, data := List.replicate 256 0, ext := specBytes (spec1 false) }
    let lossy := { pk .collBlock with tc := 2, data := List.replicate 256 0 }
    (let o : OutPkt := { pkt := { pk .write with dst := 1, src := 0, tc := 0 }, sent := some 5 }
     let s := modNet ring (fun n => { n with out := [o] })
     s.pkg.units.getLsbD 5 = true ∧ (getLink s 5).health = .up ∧ o ∈ s.net.out ∧ o.sent = some 5 ∧ o.pkt.tc ≠ 2) ∧
    (let s := putLink ring 5 { health := .retraining, since := 3 }
     (getLink s 5).health = .retraining ∧ s.cyc < 3 + retrainBound ∧ 3 + retrainBound ≤ ({ s with cyc := 2400003 } : State).cyc) ∧
    (getLink (putLink ring 5 { health := .down, since := 0 }) 5).health = .down ∧
    [(false, 0), (true, 2)].all (fun e =>
      let o : OutPkt := { pkt := { pk .write with dst := 1, src := 0, tc := 2, esc := e.1 }, head := some 0 }
      let s := modNet { ring with ran := deadlockCycles } (fun n => { n with out := [o] })
      s.net.out.contains o && standsIn s 0 e.2 o && o.head == some 0 && decide (0 + deadlockCycles ≤ s.ran) && o.pkt.tc == 2) = true ∧
    (opens.ok = true ∧ (landed ring opens).dev.fatal = false ∧ opens.dst = nodeNo (landed ring opens) ∧
      collGang (landed ring opens) (specOfWords (wordsOfBytes opens.ext)) = none) ∧
    ((collGang (landed withColl opens) (specOfWords (wordsOfBytes opens.ext))).isSome = true ∧ withColl.net.early = []) ∧
    (block.ok = true ∧ lanesPass (landed withColl block) (specOfWords (wordsOfBytes block.ext)) (blockOf block true) = true ∧ block.tc ≠ 2) ∧
    (let s := modNet withColl (fun n => { n with colls := [rxOf lossy] })
     findColl (landed s lossy) lossy.src lossy.rid = some (rxOf lossy) ∧ lossy.src ≠ nodeNo (landed s lossy) ∧
     findColl (landed ring lossy) lossy.src lossy.rid = none ∧ lossy.src ≠ lossy.dst ∧
     pastClose (landed (modPkg ring (fun g => { g with devtime := 50000 * 65536 })) lossy) lossy = true ∧
     (landed (modDev ring (fun d => { d with fatal := true })) lossy).dev.fatal = true ∧ s.dev.fatal = false ∧
     (modPkg s (fun g => { g with devtime := 50000 * 65536 })).net.colls.find? (fun k => k.lossy &&
       decide (closeAt s k ≤ devNs (modPkg s (fun g => { g with devtime := 50000 * 65536 })))) = some (rxOf lossy)) ∧
    ((pk .collClose).ok = true ∧ (pk .collClose).dst = nodeNo (landed ring (pk .collClose))) ∧
    [2, 3].all (fun st => qpReceives (setQpWord ring 4095 0 (st + 8 * 11)) 11 4095) = true ∧ ring.net.rdma = [] ∧
    (let x : RdmaRx := { region := 0, va := 0, left := 8 }
     let s := setQpWord ring 4095 0 (2 + 8 * 11)
     let t := modNet s (fun n => { n with rdmaRx := [(4095, x)] })
     qpReceives t 11 4095 = true ∧ s.dev.fatal = false ∧ seenBefore s 4095 (2 ^ 24 - 1) = true ∧
     (seenBefore s 4095 5 = false ∧ 5 ≠ qpExpected s 4095) ∧ (seenBefore t 4095 0 = false ∧ 0 = qpExpected t 4095) ∧
     writeSpot s .only 4095 0 0 8 8 = none ∧ writeSpot t .last 4095 0 0 0 8 = some { x with left := 0 } ∧ frozenMeets t [(0, 8)] = false) ∧
    (let m : RdmaMsg := { port := 0, qp := 0, kind := 0, va := 0, rkey := 0, len := 8, data := [] }
     let s0 := { setQpWord ring 0 1 (2 * 2 ^ 48) with ran := 5 }
     let wait := fun n : Nat => ({ (default : RdmaWait) with msg := m, tries := n, since := 0 } : RdmaWait)
     let s := fun n : Nat => modNet s0 (fun k => { k with rdma := [wait n] })
     [1, 2].all (fun n => (s n).net.rdma.find? (fun w => decide (w.since + ackTimeout (s n) w.msg.qp ≤ (s n).ran)) == some (wait n)) = true ∧
     (wait 1).tries < bits (qpWord (s 1) 0 1) 50 48 ∧ bits (qpWord (s 2) 0 1) 50 48 ≤ (wait 2).tries) := by
  decide +kernel

/-! ## Containment, power, the host -/

theorem witness_ContainmentSteps :
    (0 < 1 ∧ 65535 < 65536) ∧ ((pk .purge).ok = true ∧ (pk .purge).dst = nodeNo ring ∧ ring.dev.fatal = false ∧ (pk .purge).tag ≠ 0) ∧
    (let q : Purge := { tag := 9, cause := 1, awaiting := [1] }
     q ∈ (modPkg ring (fun g => { g with purges := [q] })).pkg.purges ∧ q.tag.toNat = (pk .purgeAck).tag ∧ (pk .purgeAck).src ∈ q.awaiting) ∧
    purgeCaused (modPkg ring (fun g => { g with poisonRecs := [(0, { addr := 0, place := 0, consumed := true, tag := 9, at_ := 0 })] })) 9 .poison = true ∧
    ring.pkg.damage = [] ∧
    (let f : Flip := { place := 3, addr := 0, bit := 0 }
     let one := modPkg ring (fun g => { g with damage := [f] })
     let two := modPkg ring (fun g => { g with damage := [f, { f with bit := 1 }] })
     ((∀ t ∈ [0, 1, 2, 3], tableBad one t = false) ∧ ∀ f ∈ one.pkg.damage, f.place < 4) ∧
     (tableBad two 3 = true ∧ two.dev.fatal = false ∧ ∀ u ∈ [0, 1, 2, 3], u ≠ 3 → tableBad two u = false) ∧
     ∀ g ∈ one.pkg.damage, g ≠ { place := 1, addr := 0, bit := 0 }) ∧
    (let s := modPkg ring (fun g => { g with invals := [{ word := 0x8000_0000_0000_0000, src := none }] })
     s.pkg.invals[0]? = some { word := 0x8000_0000_0000_0000, src := none } ∧ invalHeld s (invalKind 0x8000_0000_0000_0000) = false) ∧
    (let m := { (default : Migration) with base := 0, len := 4096 }
     m ∈ (modPkg ring (fun g => { g with migrations := [m] })).pkg.migrations ∧ migrationHeld (modPkg ring (fun g => { g with migrations := [m] })) m = false) := by
  decide +kernel

theorem witness_PowerAndResetSteps :
    smFind base.dev.alarms 7 = none ∧
    (let s := modDev { base with cyc := 120000 } (fun d => { d with alarms := [(7, 0)] })
     smFind s.dev.alarms 7 = some 0 ∧ (7, 0) ∈ s.dev.alarms ∧ (0 : Nat) + 120000 ≤ s.cyc ∧ s.dev.hold = false) ∧
    (let s := modDev { base with cyc := 24000 } (fun d => { d with hold := true, okSince := 0 })
     s.dev.hold = true ∧ s.dev.alarms = [] ∧ s.dev.okSince + 24000 ≤ s.cyc) ∧
    (base.net.hostq = [] ∧ base.dev.flashBusy = none ∧ base.mem.dirty = [] ∧ base.spring.insts = []) ∧
    [1, 2].all (fun b => let s := modDev { base with cyc := 9 } (fun d => { d with boot := b, romUntil := 9 })
      s.dev.boot == b && decide (s.dev.romUntil ≤ s.cyc)) = true ∧
    base.dev.throttle = false ∧ (modDev base (fun d => { d with throttle := true })).dev.throttle = true ∧
    base.dev.fatal = false ∧ (modDev base (fun d => { d with fatal := true })).dev.fatal = true := by decide +kernel

theorem witness_HostSteps :
    ((255 < 256 ∧ (1 : Word).getLsbD 0 = true ∧ (3 : Word).getLsbD 0 = true ∧ (0 : Word).getLsbD 0 = false ∧ (2 : Word).getLsbD 0 = false) ∧
      base.dev.boot = 0 ∧ base.dev.fatal = false ∧ (modDev base (fun d => { d with fatal := true })).dev.fatal = true) ∧
    ((modDev base (fun d => { d with launched := true })).dev.launched = true ∧ base.dev.launched = false ∧ torusOk base 0x0FFF = true) ∧
    (base.dev.flashBusy = none ∧ (modDev base (fun d => { d with flashBusy := some (0, []) })).dev.flashBusy.isSome = true) ∧
    (flashGet base (base.dev.flashWin.toNat * 2 ^ 21 + (2 ^ 21 - 1) / 8 * 8) 8).all (fun b => b == 0xFF) = true ∧
    (modDev base (fun d => { d with attBusy := true })).dev.attBusy = true ∧ (0x3F_F000 + 4096 ≤ 2 ^ 22 ∧ 4096 ≤ 4096) ∧
    ([(.read true 0x10_5000 4096), .write true 0 [1], .atomic true 8 0 8 1 0] : List HostAccess).all (fun a => hostShape a &&
      (match hostSpan base a with
      | some (pa, n) => decide (pa + n ≤ hbmBytes) && !frozenPhys base pa n
      | none => false)) = true ∧
    (match hostSpan base (.read true hbmBytes 1) with
    | some (pa, n) => decide (hbmBytes < pa + n)
    | none => false) = true ∧ base.dev.hold = false ∧ ((0x3F_FFF8 : Nat) % 8 = 0 ∧ (0x3F_FFF8 : Nat) < 2 ^ 22) := by decide +kernel

/-! ## The frame, the step and the invariants -/

theorem witness_RegisterOperationFrame :
    [Instr.add sr, .fdiv { sr with rm := 7 }, .vadd { vx with rm := 7 }, .vscan { vx with b := 0, rm := 7 }, .kset { kr with a := 0, x := 0xFF }, .xtr xr].all
      (fun i => registerOnly i && goes base i && (match exec i base with
        | .next _ => true
        | .fault _ => false
        | .refused _ => false)) = true ∧ here.lvl = 0 := by decide +kernel

/-- Scheduled with no cycles and with some, and nothing scheduled; a step whose unit does not run; a bundle of one operation. -/
theorem witness_StepRunsScheduled :
    let s := placeBundle State.reset (encode (.add sr))
    (let t := { s with agenda := [] }
     (Machine.pick t).map (fun i => stopped i { passTime 1 t with which := 0 }) = some none ∧ inRom t = false ∧ t.net.out = []) ∧
    (State.reset.agenda = [] ∧ Machine.pick State.reset = none ∧ inRom State.reset = false) ∧
    (let t := modDev State.reset (fun d => { d with boot := 1, romUntil := 9 })
     t.agenda = [] ∧ Machine.pick t = none ∧ inRom t = true) ∧
    s.agenda = [(0, 0, .presentBundle 0 0)] ∧ stopped (.presentBundle 0 0) { passTime 0 { s with agenda := [] } with which := 0 } = none ∧
    (stopped (.presentBundle 0 0) (passTime 7 (modDev s (fun d => { d with hold := true })))).isSome = true ∧
    (match pickCtx s 0 0 with
    | some x => !x.joined && x.trapWait.isNone && !x.eretWait && (match (fetchBundle (runs s x) x).2 with
      | .inl (h, ws) => (match decodeBundle h ws with
        | .inl b => !treeHeld x b
        | .inr _ => false)
      | .inr _ => false)
    | none => false) = true := by decide +kernel

theorem witness_MemoryFormKept :
    let s := placeBundle State.reset (encode (.add sr))
    s.mem.wf = true ∧ (match step s with
      | .next t => t.mem.wf
      | .fault _ => false
      | .refused _ => false) = true := by decide +kernel

/-- A legal operation in the second slot of its class with a path tag, and a branch, which carries none. -/
theorem witness_DecodeEncodeAgree :
    illegal (.add sr) = none ∧ Laws.RoundTrip.Fits (.add sr) .sb 5 ∧ illegal (.jmp { off := 1 }) = none ∧
    Laws.RoundTrip.Fits (.jmp { off := 1 }) .br 0 := by
  refine ⟨by decide +kernel, ⟨⟨.sa, rfl, rfl⟩, nofun, by decide, nofun⟩, by decide +kernel, ⟨⟨.br, rfl, rfl⟩, nofun, by decide, fun _ => rfl⟩⟩

/-! ## Words of the manual's examples (04 R138; 07 R251; 09 R291 to R298; 10 R318; 12 R396; 13 R454) -/

theorem test_words_of_engines :
    decodeSlot .mx none 0x00120001_4A02A8DE = .inl (.mma { ss := 2, pm := 1, acc := 1, ka := 0, ra := 20, ha := 0, kb := 1, rb := 21, hb := 3, sg := 30 }) ∧
    decodeSlot .mx none 0x00530004_56612140 = .inl (.mdrain { ss := 3, pm := 4, acc := 1, ra := 22, rb := 24, x := 0x485, sg := 0 }) ∧
    decodeSlot .mx none 0x00700000_00000240 = .inl (.mrel { ss := 0, pm := 0, acc := 0, ra := 0, rb := 0, x := 9, sg := 0 }) ∧
    decodeSlot .sy none 0x01C00000_50054000 = .inl (.rdtime { ss := 0, pm := 0, d := 20, a := 0, b := 21, x := 0 }) ∧
    decodeSlot .sy none 0x01920003_18428000 = .inl (.hmov { ss := 2, pm := 3, d := 6, a := 4, b := 10, x := 0 }) := by decide +kernel

theorem test_words_of_memory :
    decodeSlot .ls none 0x00820001_14418005 = .inl (.amo { ss := 2, pm := 1, d := 5, a := 4, b := 6, e := 0, x := 5 }) ∧
    decodeSlot .ls none 0x00610000_0506030F = .inl (.vgth { ss := 1, pm := 0, d := 20, a := 6, b := 12, m := 3, x := 3 }) := by decide +kernel

/-! ## Results worked by hand -/

def reg (s : State) (i : Instr) (f : Ctx → Nat) : Option Nat :=
  match exec i s with
  | .next t => (getCtx t fetchCtxId).map f
  | .fault _ => none
  | .refused _ => none
def sReg (i : Instr) (n : Nat) : Option Nat := reg base i (fun x => (rdS x n).toNat)

/-- 32-bit unsigned 7 + (2^32 − 1) wraps to 6; a source that is also the destination (04 R122). -/
theorem test_add_wraps : sReg (.add { sr with d := 1, f := 1 }) 1 = some 6 := by decide +kernel

/-- Division by zero gives all ones, and −1 / 7 truncates to 0; the remainder has the dividend's sign (04 R123). -/
theorem test_div : sReg (.div { sr with b := 0 }) 63 = some 0xFFFFFFFFFFFFFFFF ∧ sReg (.div { sr with a := 2, b := 1 }) 63 = some 0 ∧
    sReg (.rem { sr with a := 2, b := 1 }) 63 = some 0xFFFFFFFFFFFFFFFF := by decide +kernel

/-- 64-bit shifts take the amount modulo 64: 7 shifted by 2^64 − 1 mod 64 = 63 (04 R122). -/
theorem test_shift : sReg (.shl sr) 63 = some 0x8000000000000000 := by decide +kernel

/-- A write to s0 is dropped (04 R113). -/
theorem test_zero_register : sReg (.add { sr with d := 0 }) 0 = some 0 := by decide +kernel

/-- 1.0 + 2^−24 rounds to 1.0, to nearest even, and raises NX alone (02 R62, R65). -/
theorem test_fadd_ties_to_even :
    let s := inM (inM base 6 0x3F800000) 7 0x33800000
    let o : SR := { sr with a := 6, b := 7, rm := 7 }
    reg s (.fadd o) (fun x => (rdS x 63).toNat) = some 0x3F800000 ∧ reg s (.fadd o) (fun x => x.fpflags.toNat) = some 16 := by decide +kernel

/-- 1.0 + 1.0 in the active lanes; the lane that m1 leaves out keeps its value (05 R149). -/
theorem test_vadd_masked :
    let ones := BitVec.ofNat 1024 ((List.range 32).map (fun i => 0x3F800000 * 2 ^ (32 * i))).sum
    let s := modCtx base fetchCtxId (fun x => wrM (wrV (wrV x 1 ones) 2 ones) 1 0xF)
    (reg s (.vadd { vx with m := 1 }) (fun x => (rdV x 63).toNat % 2 ^ 64)) = some 0x40000000 := by decide +kernel

/-- Two operations of a bundle read before either writes: the sources swap (03 R84). -/
theorem test_bundle_swaps :
    let s := withCtx here [0x0060_0000_2000_0000, (encodeWord (.mov { sr with d := 1, a := 4, b := 0 })), (encodeWord (.mov { sr with d := 4, a := 1, b := 0 }))]
    (reg s (.presentBundle 0 0) (fun x => (rdS x 1).toNat), reg s (.presentBundle 0 0) (fun x => (rdS x 4).toNat),
      reg s (.presentBundle 0 0) (fun x => x.pc.toNat)) = (some 0x18, some 7, some 24) := by decide +kernel

/-- A branch of −1 unit from 0x40 goes to 0x38 (04 R138). -/
theorem test_jump_back :
    reg (modCtx base fetchCtxId (fun x => { x with pc := 0x40 })) (.jmp { off := 0xFFFFFFFF }) (fun x => x.pc.toNat) = some 0x38 := by decide +kernel

/-- A reserved field traps ILLEGAL_OP, sub-cause 1: the context enters SH at the handler's address (06 R197, R202, R208). -/
theorem test_illegal_traps :
    let s := modCore (saves 0 baseE) 0 0 (fun y => { y with svec := 0x2000 })
    reg s (.abs sr) (fun x => x.lvl * 2 ^ 32 + x.cause.toNat * 2 ^ 16 + x.pc.toNat) = some (2 * 2 ^ 32 + 2 * 2 ^ 16 + 0x2000) := by decide +kernel

/-- A store to Mere, once performed, leaves its bytes there, least significant first (07 R244). -/
theorem test_store :
    let s := after (inM (inM baseM 6 (BitVec.ofNat 64 mereBase)) 63 0x1122334455667788) (.st { lm with a := 6 })
    (match exec (.operationPerformed fetchCtxId 0) s with
    | .next t => cellsGet t.mem.mere 0 8
    | .fault _ => []
    | .refused _ => []) = [0x88, 0x77, 0x66, 0x55, 0x44, 0x33, 0x22, 0x11] := by decide +kernel

/-- A phaser with one signaller advances when it drops: the phase goes from 5 to 6 (13 R440). -/
theorem test_phaser_drop :
    (match exec (.phdrop yf) (withPh base { ph3 0 with pend := 1, nsig := 1 }) with
    | .next t => (getPh t 0).phase.toNat
    | .fault _ => 0
    | .refused _ => 0) = 6 := by decide +kernel

/-- The placed instruction runs as the next step: `movi` of 5 into s1, in a bundle of two words (03 R81, log 26). -/
theorem test_withFetchWord :
    (match step (State.reset.withFetchWord 128 ((encode (.movi { d := 1, a := 0, x := 0, imm := 5 })).foldr (fun w n => w.toNat + n * 2 ^ 64) 0)) with
    | .next t => (getCtx t fetchCtxId).map (fun x => ((rdS x 1).toNat, x.pc.toNat))
    | .fault _ => none
    | .refused _ => none) = some (5, 16) := by decide +kernel

end Sys2Proof.Tests
end

section
/-!
SUPPORT. The model computes integer results as numbers below 2 ^ n; the statements write them as operations on n-bit words.
Each lemma here ties one result function of Scalar.lean (04 R118 to R131) to the operation on `BitVec n` of the same meaning.
-/
namespace Sys2Proof.Machine

variable {n : Nat}

/-! ## Patterns, signed values and extension -/

theorem sextInt_toNat (a : BitVec n) : sextInt a.toNat n = a.toInt := by
  have hlt := a.isLt
  unfold sextInt
  rw [Nat.mod_eq_of_lt hlt, BitVec.toInt_eq_toNat_cond]
  cases n with
  | zero => simp_all
  | succ k =>
    have hhalf : a.toNat < 2 ^ k ↔ 2 * a.toNat < 2 ^ (k + 1) := by rw [Nat.pow_succ]; omega
    simp only [Nat.add_sub_cancel, hhalf]

theorem wrapNat_eq_toNat_ofInt (i : Int) (n : Nat) : wrapNat i n = (BitVec.ofInt n i).toNat :=
  (BitVec.toNat_ofInt i).symm

/-- Extension of a result to 64 bits (04 R118). -/
theorem extTo_toNat (sx : Bool) (y : BitVec n) (hn : n ≤ 64) : extTo sx n y.toNat = (extend64 sx y).toNat := by
  unfold extTo extend64
  cases sx with
  | true => simp only [if_true]; rw [sextInt_toNat, wrapNat_eq_toNat_ofInt, BitVec.signExtend]
  | false =>
    have hlt : y.toNat < 2 ^ 64 := Nat.lt_of_lt_of_le y.isLt (Nat.pow_le_pow_right (by decide) hn)
    simp only [Bool.false_eq_true, if_false]
    rw [BitVec.toNat_setWidth, Nat.mod_eq_of_lt hlt, Nat.mod_eq_of_lt y.isLt]

theorem sizeBits_pos (c : BitVec 2) : 0 < sizeBits c := by revert c; decide
theorem sizeBits_le (c : BitVec 2) : sizeBits c ≤ 64 := by revert c; decide

theorem srN_pos (o : SR) : 0 < srN o := sizeBits_pos _
theorem srN_le (o : SR) : srN o ≤ 64 := sizeBits_le _

/-- The low bits of a scalar source, as a number and as a word. -/
theorem opLow_eq_toNat_srSrc (o : SR) (x : Ctx) (r : BitVec 6) : opLow x r (srN o) = (srSrc o x r).toNat :=
  (BitVec.toNat_setWidth _ _).symm

theorem toNat_eq_zero_iff (b : BitVec n) : b.toNat = 0 ↔ b = 0 := by
  simp [← BitVec.toNat_inj]

/-! ## Sums and products (04 R122) -/

theorem yAdd_toNat (a b : BitVec n) : yAdd n a.toNat b.toNat = (a + b).toNat := (BitVec.toNat_add a b).symm

theorem ySub_toNat (a b : BitVec n) : ySub n a.toNat b.toNat = (a - b).toNat := by
  unfold ySub
  rw [wrapNat_eq_toNat_ofInt, Int.sub_eq_add_neg, BitVec.ofInt_add, BitVec.ofInt_neg, BitVec.ofInt_natCast,
    BitVec.ofInt_natCast, BitVec.ofNat_toNat, BitVec.ofNat_toNat, BitVec.setWidth_eq, BitVec.setWidth_eq, BitVec.sub_eq_add_neg]

theorem yMul_toNat (a b : BitVec n) : yMul n a.toNat b.toNat = (a * b).toNat := (BitVec.toNat_mul a b).symm

/-- The upper half of a 2n-bit pattern is the pattern of the quotient by 2 ^ n. -/
theorem wrapNat_ediv_two_pow (m : Int) (n : Nat) :
    wrapNat (m / ((2 ^ n : Nat) : Int)) n = ((BitVec.ofInt (2 * n) m).extractLsb' n n).toNat := by
  rw [BitVec.extractLsb'_toNat, BitVec.toNat_ofInt, Nat.shiftRight_eq_div_pow, Nat.two_mul, Nat.pow_add]
  unfold wrapNat
  have hK : ((2 ^ n : Nat) : Int) ≠ 0 := by positivity
  generalize 2 ^ n = K at hK ⊢
  have hnonneg : 0 ≤ m % ((K * K : Nat) : Int) := Int.emod_nonneg _ (by push_cast; exact mul_ne_zero hK hK)
  have hsplit : m / (K : Int) = (m % ((K * K : Nat) : Int)) / K + K * (m / ((K * K : Nat) : Int)) := by
    conv_lhs => rw [← Int.emod_add_mul_ediv m ((K * K : Nat) : Int), Nat.cast_mul, mul_assoc, Int.add_mul_ediv_left _ _ hK]
    push_cast; rfl
  rw [hsplit, Int.add_mul_emod_self_left]
  obtain ⟨r, hr⟩ := Int.eq_ofNat_of_zero_le hnonneg
  rw [hr]
  norm_cast

theorem yMulh_toNat (a b : BitVec n) : yMulh n a.toNat b.toNat =
    ((a.signExtend (2 * n) * b.signExtend (2 * n)).extractLsb' n n).toNat := by
  unfold yMulh
  rw [sextInt_toNat, sextInt_toNat, wrapNat_ediv_two_pow, BitVec.ofInt_mul, BitVec.signExtend, BitVec.signExtend]

theorem yMulhz_toNat (a b : BitVec n) : yMulhz n a.toNat b.toNat =
    ((a.setWidth (2 * n) * b.setWidth (2 * n)).extractLsb' n n).toNat := by
  have hprod : a.toNat * b.toNat < 2 ^ n * 2 ^ n := Nat.mul_lt_mul'' a.isLt b.isLt
  have hdbl : 2 ^ (2 * n) = 2 ^ n * 2 ^ n := by rw [Nat.two_mul, Nat.pow_add]
  have hle : n ≤ 2 * n := by omega
  rw [BitVec.extractLsb'_toNat, BitVec.toNat_mul, BitVec.toNat_setWidth_of_le hle, BitVec.toNat_setWidth_of_le hle, hdbl,
    Nat.mod_eq_of_lt hprod, Nat.shiftRight_eq_div_pow, Nat.mod_eq_of_lt (Nat.div_lt_of_lt_mul hprod)]
  rfl

/-! ## Division (04 R123) -/

theorem sdiv_eq_ofInt_tdiv (a b : BitVec n) : a.sdiv b = BitVec.ofInt n (a.toInt.tdiv b.toInt) := by
  rw [← BitVec.toInt_inj, BitVec.toInt_sdiv, BitVec.toInt_ofInt]

theorem srem_eq_ofInt_tmod (a b : BitVec n) : a.srem b = BitVec.ofInt n (a.toInt.tmod b.toInt) := by
  rw [← BitVec.toInt_srem, BitVec.ofInt_toInt]

/-- The least signed word divided by −1 is itself. -/
theorem sdiv_of_overflow (hn : 0 < n) {a b : BitVec n} (ha : a.toInt = -((2 ^ (n - 1) : Nat) : Int)) (hb : b.toInt = -1) :
    a.sdiv b = a := by
  have hmin : a = BitVec.intMin n := by rw [← BitVec.toInt_inj, ha, BitVec.toInt_intMin_of_pos hn]; norm_cast
  rw [sdiv_eq_ofInt_tdiv, hb, Int.tdiv_neg, Int.tdiv_one, BitVec.ofInt_neg, BitVec.ofInt_toInt, hmin, BitVec.neg_intMin]

/-- A remainder of a division by −1 is 0. -/
theorem srem_of_toInt_neg_one (a : BitVec n) {b : BitVec n} (hb : b.toInt = -1) : a.srem b = 0 := by
  rw [srem_eq_ofInt_tmod, hb, Int.tmod_neg, Int.tmod_one]; rfl

theorem yDiv_toNat (hn : 0 < n) (a b : BitVec n) :
    yDiv n a.toNat b.toNat = (if b = 0 then BitVec.allOnes _ else a.sdiv b).toNat := by
  unfold yDiv
  simp only [toNat_eq_zero_iff, sextInt_toNat]
  split
  · exact BitVec.toNat_allOnes.symm
  · split
    · next h => rw [sdiv_of_overflow hn h.1 h.2]
    · rw [wrapNat_eq_toNat_ofInt, sdiv_eq_ofInt_tdiv]

theorem yRem_toNat (a b : BitVec n) : yRem n a.toNat b.toNat = (if b = 0 then a else a.srem b).toNat := by
  unfold yRem
  simp only [toNat_eq_zero_iff, sextInt_toNat]
  split
  · rfl
  · split
    · next h => rw [srem_of_toInt_neg_one a h.2]; rfl
    · rw [wrapNat_eq_toNat_ofInt, srem_eq_ofInt_tmod]

theorem yDivz_toNat (a b : BitVec n) : yDivz n a.toNat b.toNat = (if b = 0 then BitVec.allOnes _ else a / b).toNat := by
  unfold yDivz
  simp only [toNat_eq_zero_iff]
  split
  · exact BitVec.toNat_allOnes.symm
  · exact BitVec.toNat_udiv.symm

theorem yRemz_toNat (a b : BitVec n) : yRemz n a.toNat b.toNat = (if b = 0 then a else a % b).toNat := by
  unfold yRemz
  simp only [toNat_eq_zero_iff]
  split
  · rfl
  · exact BitVec.toNat_umod.symm

/-! ## Logic and shifts (04 R122) -/

theorem yAnd_toNat (a b : BitVec n) : yAnd n a.toNat b.toNat = (a &&& b).toNat := (BitVec.toNat_and a b).symm
theorem yOr_toNat (a b : BitVec n) : yOr n a.toNat b.toNat = (a ||| b).toNat := (BitVec.toNat_or a b).symm
theorem yXor_toNat (a b : BitVec n) : yXor n a.toNat b.toNat = (a ^^^ b).toNat := (BitVec.toNat_xor a b).symm

theorem yAndn_toNat (a b : BitVec n) : yAndn n a.toNat b.toNat = (a &&& ~~~b).toNat := by
  rw [BitVec.toNat_and, BitVec.toNat_not]; rfl

theorem yShl_toNat (a b : BitVec n) : yShl n a.toNat b.toNat = (a <<< (b.toNat % n)).toNat := BitVec.toNat_shiftLeft.symm

theorem yShr_toNat (a b : BitVec n) : yShr n a.toNat b.toNat = (a >>> (b.toNat % n)).toNat :=
  (BitVec.toNat_ushiftRight a _).symm

theorem ySar_toNat (a b : BitVec n) : ySar n a.toNat b.toNat = (a.sshiftRight (b.toNat % n)).toNat := by
  unfold ySar
  rw [sextInt_toNat, wrapNat_eq_toNat_ofInt, BitVec.sshiftRight]

/-- The model cuts the two halves of a rotation to n bits together, the word operation cuts the left shift alone. -/
theorem yRot_toNat (a b : BitVec n) : yRot n a.toNat b.toNat = (a.rotateLeft (b.toNat % n)).toNat := by
  have hright : a.toNat >>> (n - b.toNat % n) < 2 ^ n := Nat.lt_of_le_of_lt (Nat.shiftRight_le _ _) a.isLt
  unfold yRot
  rw [BitVec.toNat_rotateLeft, Nat.mod_mod, Nat.or_mod_two_pow, Nat.mod_eq_of_lt hright]

/-! ## Minimum and maximum (04 R122) -/

theorem yMin_toNat (a b : BitVec n) : yMin n a.toNat b.toNat = (if b.slt a then b else a).toNat := by
  unfold yMin
  rw [sextInt_toNat, sextInt_toNat, BitVec.slt_eq_decide]
  by_cases h : b.toInt < a.toInt
  · simp [h]
  · simp [h, Int.not_lt.mp h]

theorem yMax_toNat (a b : BitVec n) : yMax n a.toNat b.toNat = (if a.slt b then b else a).toNat := by
  unfold yMax
  rw [sextInt_toNat, sextInt_toNat, BitVec.slt_eq_decide]
  rcases lt_trichotomy a.toInt b.toInt with h | h | h
  · simp [h, Int.le_of_lt h]
  · have hab : a = b := BitVec.toInt_inj.mp h
    simp [hab]
  · simp [Int.not_le.mpr h, Int.lt_asymm h]

theorem yMinz_toNat (a b : BitVec n) : yMinz n a.toNat b.toNat = (if b.ult a then b else a).toNat := by
  unfold yMinz
  rw [BitVec.ult_eq_decide]
  by_cases h : b.toNat < a.toNat
  · simp [h, Nat.le_of_lt h]
  · simp [h, Nat.not_lt.mp h]

theorem yMaxz_toNat (a b : BitVec n) : yMaxz n a.toNat b.toNat = (if a.ult b then b else a).toNat := by
  unfold yMaxz
  rw [BitVec.ult_eq_decide]
  by_cases h : a.toNat < b.toNat
  · simp [h, Nat.le_of_lt h]
  · simp [h, Nat.not_lt.mp h]

/-! ## Comparisons (04 R130) -/

theorem condHolds_toNat (c : Nat) (a b : BitVec n) : condHolds c n a.toNat b.toNat = bvCompare c a b := by
  match c with
  | 0 | 1 => simp [condHolds, bvCompare, bne, Bool.beq_eq_decide_eq, BitVec.toNat_inj]
  | 2 | 3 | 4 | 5 => simp only [condHolds, bvCompare, sextInt_toNat, BitVec.slt_eq_decide, BitVec.sle_eq_decide]
  | 6 | 7 | 8 | _ + 9 => simp only [condHolds, bvCompare, BitVec.ult_eq_decide, BitVec.ule_eq_decide]

end Sys2Proof.Machine
end

section
/-!
SUPPORT. Operations whose results come from their context alone: what such an operation yields, that writes leaving the same
registers may stand for each other, and when a list of decode checks finds a violation.
-/
namespace Sys2Proof.Machine

/-- An operation of register results and flags, not of the BR slot, yields what its function of the context answers. -/
theorem yields_pureOp {i : Instr} {reads : Ctx → List RegId} {writes : List RegId} {weight : Nat} {t : Slot}
    {f : Ctx → List (RegId × Nat) × Flg} {ws : Ctx → List (RegId × Nat)} {fl : Ctx → Flg}
    (hso : slotOpOf i = some (pureOp reads writes weight f)) (hslot : slotOf i = some t) (ht : t ≠ .br)
    (hf : ∀ x, f x = (ws x, fl x)) : Yields i ws fl := by
  have hop : opOf i = pureOp reads writes weight f := by rw [opOf, hso, Option.getD_some]
  refine yields_of (fun s => ?_) hso hslot ht (fun j hj => absurd hj (by simp [pureOp, plainOp])) (fun is x s => ?_)
  · rw [exec_slot i s (by rw [hso]; rfl), hop]
  · simp only [pureOp, plainOp, hf]

/-! ## Writes that leave the same registers -/

/-- Two lists of writes name the same registers and leave every context the same. -/
structure SameWrites (ws ws' : List (RegId × Nat)) : Prop where
  regs : ws.map (·.1) = ws'.map (·.1)
  commit : ∀ y, commitRegs y ws = commitRegs y ws'

theorem SameWrites.regAfter_eq {ws ws' : List (RegId × Nat)} (h : SameWrites ws ws') (y : Ctx) (r : RegId) :
    regAfter ws y r = regAfter ws' y r := by
  rw [← rdReg_commit, h.commit, rdReg_commit]

theorem Wrote.congr {i : Instr} {s s3 t : State} {y3 : Ctx} {ws ws' : List (RegId × Nat)} {fl : Flg} (h : SameWrites ws ws')
    (hw : Wrote i s s3 y3 ws fl t) : Wrote i s s3 y3 ws' fl t := by
  obtain ⟨⟨y, hy, hreg, hfl, hpos, hsticky, hrep, hstatus, hpend, hland, hexcept⟩, hothers, hrest, hcluster, hcore⟩ := hw
  refine ⟨⟨y, hy, fun r => ?_, hfl, hpos, hsticky, hrep, hstatus, ?_, ?_, hexcept⟩, hothers, hrest, hcluster, hcore⟩
  · rw [hreg, h.regAfter_eq]
  · rw [hpend, h.commit]
  · rw [hland, h.commit]

theorem Yields.congr {i : Instr} {ws ws' : Ctx → List (RegId × Nat)} {fl : Ctx → Flg} (h : ∀ x, SameWrites (ws x) (ws' x))
    (hy : Yields i ws fl) : Yields i ws' fl := by
  intro s x s1 x1 hi y s3 y3 hget hid hsave
  rw [← (h x1).regs] at hsave
  obtain ⟨t, hexec, hwrote⟩ := hy s x s1 x1 hi y s3 y3 hget hid hsave
  exact ⟨t, hexec, hwrote.congr (h x1)⟩

/-- A handle register keeps the bits of R115, so it may be written with them alone. -/
theorem sameWrites_handle (r : Nat) (w : Word) :
    SameWrites [(.h r, w.toNat)] [(.h r, (w &&& 0x8000_0000_0000_0FFF).toNat)] := by
  refine ⟨rfl, fun y => ?_⟩
  simp only [commitRegs, List.foldl_cons, List.foldl_nil, wrReg, wrH, BitVec.ofNat_toNat, BitVec.setWidth_eq, BitVec.and_assoc,
    BitVec.and_self]

/-! ## Decode checks -/

/-- A list of checks finds a violation where one of them does. -/
theorem firstBad_isSome (l : List (Bool × Nat)) : (firstBad l).isSome = l.any (·.1) := by
  induction l with
  | nil => rfl
  | cons p rest ih =>
    obtain ⟨bad, sub⟩ := p
    cases bad with
    | true => rfl
    | false => simpa [firstBad] using ih

end Sys2Proof.Machine
end

section
/-!
The two-source integer instructions (04 R122, R123).
-/
namespace Sys2Proof.Machine

/-- A two-source integer instruction whose result function y computes the word operation g at the instruction's width. -/
theorem yields_int2 {i : Instr} {o : SR} {y : Nat → Nat → Nat → Nat} {g : BitVec (srN o) → BitVec (srN o) → BitVec (srN o)}
    (hso : slotOpOf i = some (int2 o y)) (hslot : slotOf i = some .sa)
    (hy : ∀ a b : BitVec (srN o), y (srN o) a.toNat b.toNat = (g a b).toNat) : Yields i (sr2 o g) noFlags := by
  refine yields_pureOp hso hslot (by decide) fun x => ?_
  rw [opLow_eq_toNat_srSrc, opLow_eq_toNat_srSrc, hy, extTo_toNat _ _ (srN_le o)]
  rfl

/-- Settles O1: each result function of the model is the word operation that the statement names, at every width. -/
theorem scalarTwoSource : Obligations.ScalarTwoSource := fun o =>
  ⟨yields_int2 rfl rfl yAdd_toNat, yields_int2 rfl rfl ySub_toNat, yields_int2 rfl rfl yMul_toNat,
    yields_int2 rfl rfl yMulh_toNat, yields_int2 rfl rfl yMulhz_toNat, yields_int2 rfl rfl (yDiv_toNat (srN_pos o)),
    yields_int2 rfl rfl yDivz_toNat, yields_int2 rfl rfl yRem_toNat, yields_int2 rfl rfl yRemz_toNat,
    yields_int2 rfl rfl yAnd_toNat, yields_int2 rfl rfl yOr_toNat, yields_int2 rfl rfl yXor_toNat,
    yields_int2 rfl rfl yAndn_toNat, yields_int2 rfl rfl yShl_toNat, yields_int2 rfl rfl yShr_toNat,
    yields_int2 rfl rfl ySar_toNat, yields_int2 rfl rfl yRot_toNat, yields_int2 rfl rfl yMin_toNat,
    yields_int2 rfl rfl yMax_toNat, yields_int2 rfl rfl yMinz_toNat, yields_int2 rfl rfl yMaxz_toNat⟩

end Sys2Proof.Machine
end

section
/-!
Moves between register classes, selection and conditions (04 R128 to R131).
-/
namespace Sys2Proof.Machine

section
variable {o : SR}

/-! ## Results -/

/-- `mov` yields the writes that its two classes give. -/
theorem yields_mov {ws : Ctx → List (RegId × Nat)} (h : ∀ x, movWrites o (movVal o x) = ws x) :
    Yields (.mov o) ws noFlags :=
  yields_pureOp (t := .sa) rfl rfl (by decide) fun x => by rw [h]; rfl

theorem yields_mov_s_s (hd : srMovD o = 0) (ha : srMovA o = 0) : Yields (.mov o) (sr1 o fun a => a) noFlags :=
  yields_mov fun x => by
    simp only [movWrites, movVal, hd, ha, if_true, opLow_eq_toNat_srSrc, extTo_toNat _ _ (srN_le o)]; rfl

theorem yields_mov_c_s (hd : srMovD o = 1) (ha : srMovA o = 0) :
    Yields (.mov o) (fun x => toC o.d.toNat (rdS x o.a.toNat != 0)) noFlags :=
  yields_mov fun x => by
    have hne : ((rdS x o.a.toNat).toNat != 0) = (rdS x o.a.toNat != 0) := by
      rw [Bool.eq_iff_iff, bne_iff_ne, bne_iff_ne, ne_eq, ne_eq, toNat_eq_zero_iff]
    simp [movWrites, movVal, hd, ha, hne, toC]

theorem yields_mov_s_c (hd : srMovD o = 0) (ha : srMovA o = 1) :
    Yields (.mov o) (fun x => [(.s o.d.toNat, (rdC x o.a.toNat).toNat)]) noFlags :=
  yields_mov fun x => by simp only [movWrites, movVal, hd, ha, rD]

theorem yields_mov_c_c (hd : srMovD o = 1) (ha : srMovA o = 1) :
    Yields (.mov o) (fun x => toC o.d.toNat (rdC x o.a.toNat)) noFlags :=
  yields_mov fun x => by
    have hbit : ((rdC x o.a.toNat).toNat != 0) = rdC x o.a.toNat := by cases rdC x o.a.toNat <;> rfl
    simp only [movWrites, movVal, hd, ha, hbit, toC]

/-- The model writes the whole source, of which the handle register keeps the bits that the statement names. -/
theorem yields_mov_h_s (hd : srMovD o = 2) (ha : srMovA o = 0) :
    Yields (.mov o) (fun x => [(.h o.d.toNat, (rdS x o.a.toNat &&& 0x8000_0000_0000_0FFF).toNat)]) noFlags :=
  (yields_mov (ws := fun x => [(.h o.d.toNat, (rdS x o.a.toNat).toNat)]) fun x => by
    simp [movWrites, movVal, hd, ha]).congr fun x => sameWrites_handle _ _

theorem yields_mov_s_h (hd : srMovD o = 0) (ha : srMovA o = 2) :
    Yields (.mov o) (fun x => [(.s o.d.toNat, (rdH x o.a.toNat).toNat)]) noFlags :=
  yields_mov fun x => by simp only [movWrites, movVal, hd, ha, rD]

theorem yields_mov_h_h (hd : srMovD o = 2) (ha : srMovA o = 2) :
    Yields (.mov o) (fun x => [(.h o.d.toNat, (rdH x o.a.toNat).toNat)]) noFlags :=
  yields_mov fun x => by simp only [movWrites, movVal, hd, ha]

theorem yields_mov_s_cc (hd : srMovD o = 0) (ha : srMovA o = 3) :
    Yields (.mov o) (fun x => [(.s o.d.toNat, (rdCC x).toNat)]) noFlags :=
  yields_mov fun x => by simp only [movWrites, movVal, hd, ha, rD]

theorem yields_mov_cc_s (hd : srMovD o = 3) (ha : srMovA o = 0) : Yields (.mov o) (fun x =>
    (List.range 15).map (fun j => (.c (j + 1), ((rdS x o.a.toNat).getLsbD (j + 1)).toNat))) noFlags :=
  yields_mov fun x => by
    simp only [movWrites, movVal, hd, ha, ccRegs, List.map_map]; rfl

theorem yields_sel : Yields (.sel o) (fun x => [(.s o.d.toNat, (extend64 (o.f.getLsbD 2)
    (if rdC x o.e.toNat then srSrc o x o.a else srSrc o x o.b)).toNat)]) noFlags :=
  yields_pureOp (t := .sa) rfl rfl (by decide) fun x => by
    rw [opLow_eq_toNat_srSrc, extTo_toNat _ _ (srN_le o), apply_ite (srSrc o x)]; rfl

theorem yields_cmp : Yields (.cmp o) (fun x => toC o.d.toNat
    (bvCompare (o.x.extractLsb' 0 4).toNat (srSrc o x o.a) (srSrc o x o.b))) noFlags :=
  yields_pureOp (t := .sa) rfl rfl (by decide) fun x => by
    rw [opLow_eq_toNat_srSrc, opLow_eq_toNat_srSrc, condHolds_toNat]; rfl

theorem yields_cset : Yields (.cset o) (fun x => toC o.d.toNat
    (csetHolds (o.x.extractLsb' 0 4).toNat (rdC x o.a.toNat) (rdC x o.b.toNat))) noFlags :=
  yields_pureOp (t := .sa) rfl rfl (by decide) fun _ => rfl

/-! ## Illegal operands -/

theorem nz_true {w : Nat} {b : BitVec w} (h : b ≠ 0) : nz b = true := bne_iff_ne.mpr h

/-- A register number of 16 or more is no condition register. -/
theorem movRegBad_c (r : BitVec 6) : 16 ≤ r.toNat → movRegBad 1 r = true := by revert r; decide

/-- A register number of 32 or more is no handle register. -/
theorem movRegBad_h (r : BitVec 6) : 32 ≤ r.toNat → movRegBad 2 r = true := by revert r; decide

theorem movRegBad_cc {r : BitVec 6} (h : r ≠ 0) : movRegBad 3 r = true := nz_true h

/-- A field f that is not 0 has a bit that a decode check looks at: the reserved bit, the extension or the size (04 R120). -/
theorem srField_parts {f : BitVec 4} : f ≠ 0 → f.getLsbD 3 = true ∨ f.getLsbD 2 = true ∨ nz (f.extractLsb' 0 2) = true := by
  revert f; decide

theorem movPair_eq_false {d a : Nat}
    (h : (d, a) ∉ [(0, 0), (1, 0), (0, 1), (1, 1), (2, 0), (0, 2), (2, 2), (0, 3), (3, 0)]) : movPair d a = false := by
  rw [movPair, ← Bool.not_eq_true, List.contains_iff_mem]; exact h

/-- What makes a `mov` illegal, as the checks of the model put it (04 R128). -/
theorem illegal_mov_isSome (h : o.b ≠ 0 ∨ movRegBad (srMovD o) o.d = true ∨ movRegBad (srMovA o) o.a = true ∨
    ((srMovD o ≠ 0 ∨ srMovA o ≠ 0) ∧ o.f ≠ 0) ∨ movPair (srMovD o) (srMovA o) = false) : (illegal (.mov o)).isSome = true := by
  show (badMov o).isSome = true
  rw [badMov, firstBad_isSome]
  rcases h with h | h | h | ⟨hcls, hf⟩ | h
  · simp [nz_true h]
  · simp [h]
  · simp [h]
  · have hne : ((srMovD o) == 0 && (srMovA o) == 0) = false := by
      rcases hcls with h | h <;> simp [h]
    rcases srField_parts hf with h | h | h <;> simp [hne, h]
  · simp [h]

theorem illegal_sel_isSome (h : o.e.extractLsb' 4 2 ≠ 0) : (illegal (.sel o)).isSome = true := by
  show (badSel o).isSome = true
  rw [badSel, firstBad_isSome]
  simp [nz_true h]

theorem illegal_cmp_isSome (h : o.d.extractLsb' 4 2 ≠ 0 ∨ 10 ≤ (o.x.extractLsb' 0 4).toNat) :
    (illegal (.cmp o)).isSome = true := by
  show (badCmp o).isSome = true
  rw [badCmp, firstBad_isSome]
  rcases h with h | h
  · simp [nz_true h]
  · simp [-BitVec.extractLsb'_toNat, h]

theorem illegal_cset_isSome (h : o.d.extractLsb' 4 2 ≠ 0 ∨ o.a.extractLsb' 4 2 ≠ 0 ∨ o.b.extractLsb' 4 2 ≠ 0 ∨
    10 ≤ (o.x.extractLsb' 0 4).toNat ∨ o.f ≠ 0 ∨
    (((o.x.extractLsb' 0 4).toNat = 8 ∨ (o.x.extractLsb' 0 4).toNat = 9) ∧ o.b ≠ 0)) : (illegal (.cset o)).isSome = true := by
  show (badCset o).isSome = true
  rw [badCset, firstBad_isSome]
  rcases h with h | h | h | h | hf | ⟨hcode, hb⟩
  · simp [nz_true h]
  · simp [nz_true h]
  · simp [nz_true h]
  · simp [-BitVec.extractLsb'_toNat, h]
  · rcases srField_parts hf with h | h | h <;> simp [h]
  · rcases hcode with h | h <;> simp [-BitVec.extractLsb'_toNat, h, nz_true hb]

end

/-- Settles O4: one lemma for each pair of classes of `mov`, for `sel`, `cmp` and `cset`, and for the checks of each. -/
theorem scalarMovesAndConditions : Obligations.ScalarMovesAndConditions := fun o => by
  refine ⟨yields_mov_s_s, yields_mov_c_s, yields_mov_s_c, yields_mov_c_c, yields_mov_h_s, yields_mov_s_h, yields_mov_h_h,
    yields_mov_s_cc, yields_mov_cc_s, yields_sel, yields_cmp, yields_cset, fun h => illegal_mov_isSome ?_,
    illegal_sel_isSome, illegal_cmp_isSome, illegal_cset_isSome⟩
  rcases h with hb | ⟨hD, hd⟩ | ⟨hD, hd⟩ | ⟨hD, hd⟩ | ⟨hA, ha⟩ | ⟨hA, ha⟩ | ⟨hA, ha⟩ | hf | hp
  · exact .inl hb
  · rw [hD]; exact .inr (.inl (movRegBad_c _ hd))
  · rw [hD]; exact .inr (.inl (movRegBad_h _ hd))
  · rw [hD]; exact .inr (.inl (movRegBad_cc hd))
  · rw [hA]; exact .inr (.inr (.inl (movRegBad_c _ ha)))
  · rw [hA]; exact .inr (.inr (.inl (movRegBad_h _ ha)))
  · rw [hA]; exact .inr (.inr (.inl (movRegBad_cc ha)))
  · exact .inr (.inr (.inr (.inl hf)))
  · exact .inr (.inr (.inr (.inr (movPair_eq_false hp))))

end Sys2Proof.Machine
end

section
/-!
Decoding and encoding agree (03 R81, R95, R106): the laws of all instructions together.
-/
namespace Sys2Proof.Laws.RoundTrip

/-- Settles O60: every instruction has its own law, named after it. -/
theorem decodeEncodeAgree : Obligations.DecodeEncodeAgree := fun i =>
  Instr.casesOn (motive := Statement) i
    presentBundle blockClears interlockedWrite landing operationPerformed watchdog fifoTimeout leaseTimeout leaseWaitEvent
    sleepWake signatureMatch pairModeChange releaseTask placeIteration placementComplete preempt preemptDrainTimeout
    resumeIteration completionPost leaseGrant leaseEnd mxQueueTransfer arrayCommandStart arrayCommandComplete rowRetire
    cpCommandStart engineAccessResume cpCommandComplete packetReceive responseReceive logEntryReplayed logEntryAbandoned
    fifoWordArrive flitReplay linkRetrain linkDown linkRestored deadlockTimer collOpenReceive collBlockReceive
    collCloseReceive rdmaReceive purgeStart purgePacketReceive purgeAckReceive droopAlarm resetreqWrite doorbellArm
    doorbellDisarm hostInvalidate hostPurgeRequest mgmtcfgWrite pairmodeWrite devtimeLWrite bootFlashErase bootFlashProgram
    hostMemoryAccess registerWrite smbusReadTemperature smbusWarmReset jtagSamplePreload nop tree jmp jmpr call callr trap
    add sub mul mulh mulhz div divz rem remz and or xor andn shl shr sar rot min max minz maxz abs clz ctz popc sext bfx bfxz
    bfi lea addi andi ori xori movi movhi cmpi mov sel cmp cset fadd fsub fmul ffma fdiv fsqrt fmin fmax fcmp fcvt fclass
    vadd vsub vmul vmin vmax vcopysgn vabs vneg vround vrcp vrsq vsqrt vfn vfma vfms vclamp vdot vcmp vsel vand vor vxor vnot
    vshl vshr vsar vcvt vpack vunpk vperm vshuf vbcast vmovs vins vidx vredSum vredMin vredMax vredVsum vredRsum vscan vnfchk
    mand mor mxor mnot mpop mfirst mset vrand kld kst kmov kset kmax xtr xexp xcvt xqnt xamx xswz ld st vld vst vlds vgth
    vsct amo cas red vredm pref mma mmao mzero mload mchk mdrain mrel cpy cpyt cpst cpz cpzTile cpxOut cpxIn cpnWr cpnRd coll
    give take waits phreg phdrop pharr phwait phaw tbinit tbexp tbarr tbwait done jraise launchOn launchOff evrd csrr csrw
    csrs csrc hpinOn hpinOff hpri hdem hevict hmov purge qflushCp qflushMx rdtime sleep droopAlarmCleared softError
    launchStart timeSlot instanceComplete lossyClose scrub invalidationPerformed hmovMigrate holdEnter holdExit
    supplyRetentionLoss throttleEnter throttleExit thermalTrip powerOnReset warmReset functionLevelReset droppedCountRead
    attestationRequest attestationReady smbusReadDevstat smbusReadPower smbusReadDropped jtagBypass jtagIdcode jtagExtest ret
    eret halt yield rdmaAckTimeout bootFlashOperationComplete

end Sys2Proof.Laws.RoundTrip
end

section
/-!
The one-source, bit-field, address and immediate integer instructions (04 R124 to R127): each result function of the model is
the word operation of the same meaning.
-/
namespace Sys2Proof.Machine

variable {n : Nat}

/-! ## Signed fields -/

/-- The low m bits of a number, read as a signed number, are those of the m-bit word. -/
theorem sextInt_eq_toInt_ofNat (a m : Nat) : sextInt a m = (BitVec.ofNat m a).toInt := by
  have hmod : sextInt a m = sextInt (BitVec.ofNat m a).toNat m := by
    unfold sextInt
    rw [BitVec.toNat_ofNat, Nat.mod_mod]
  rw [hmod, sextInt_toNat]

theorem wrapNat_toInt {m : Nat} (w : BitVec m) (n : Nat) : wrapNat w.toInt n = (w.signExtend n).toNat := by
  rw [wrapNat_eq_toNat_ofInt, BitVec.signExtend]

theorem ofNat_toNat_eq_setWidth (a : BitVec n) (m : Nat) : BitVec.ofNat m a.toNat = a.setWidth m := by
  apply BitVec.eq_of_toNat_eq
  rw [BitVec.toNat_ofNat, BitVec.toNat_setWidth]

theorem ofNat_shiftRight_eq_extractLsb' (a : BitVec n) (p l : Nat) : BitVec.ofNat l (a.toNat >>> p) = a.extractLsb' p l := by
  apply BitVec.eq_of_toNat_eq
  rw [BitVec.toNat_ofNat, BitVec.extractLsb'_toNat]

/-! ## One source (04 R124) -/

theorem yAbs_toNat (a : BitVec n) : yAbs n a.toNat = (if a.slt 0 then 0 - a else a).toNat := by
  unfold yAbs
  have hzero : (0 : BitVec n).toInt = 0 := BitVec.toInt_zero
  rw [sextInt_toNat, BitVec.slt_eq_decide, hzero]
  by_cases h : a.toInt < 0
  · rw [Int.ofNat_natAbs_of_nonpos (Int.le_of_lt h), wrapNat_eq_toNat_ofInt, BitVec.ofInt_neg, BitVec.ofInt_toInt]
    simp [h]
  · rw [Int.natAbs_of_nonneg (Int.not_lt.mp h), wrapNat_eq_toNat_ofInt, BitVec.ofInt_toInt]
    simp [h]

/-- The highest bit of a word that is not 0 stands below its leading zeros. -/
theorem log2_toNat (hn : 0 < n) {a : BitVec n} (ha : a ≠ 0) : a.toNat.log2 = n - 1 - a.clz.toNat := by
  have hne : a.toNat ≠ 0 := fun h => ha ((toNat_eq_zero_iff a).mp h)
  have hlow := BitVec.two_pow_sub_clz_le_toNat_of_ne_zero hn ha
  have hhigh := BitVec.toNat_lt_two_pow_sub_clz (x := a)
  have hlt : a.clz.toNat < n := by
    rcases Nat.lt_or_ge a.clz.toNat n with h | h
    · exact h
    · rw [Nat.sub_eq_zero_of_le h] at hhigh
      omega
  rw [Nat.log2_eq_iff hne]
  exact ⟨hlow, by rwa [show n - 1 - a.clz.toNat + 1 = n - a.clz.toNat by omega]⟩

theorem yClz_toNat (hn : 0 < n) (a : BitVec n) : yClz n a.toNat = a.clz.toNat := by
  unfold yClz
  by_cases ha : a = 0
  · rw [if_pos ((toNat_eq_zero_iff a).mpr ha), BitVec.clz_eq_iff_eq_zero.mpr ha]
    simp
  · have hlt : a.clz.toNat < n := by
      have h := BitVec.clz_lt_iff_ne_zero.mpr ha
      simpa [BitVec.lt_def] using h
    rw [if_neg (fun h => ha ((toNat_eq_zero_iff a).mp h)), log2_toNat hn ha]
    omega

/-- The search for the lowest set bit stops at the first one it meets. -/
theorem ctzGo_eq {a c : Nat} : ∀ k i, i ≤ c → c ≤ i + k → (∀ j, j < c → a.testBit j = false) →
    (c < i + k → a.testBit c = true) → ctzGo a k i = c
  | 0, i, hi, hk, _, _ => by
    have hic : i = c := by omega
    rw [ctzGo, hic]
  | k + 1, i, hi, hk, hlow, hset => by
    rw [ctzGo]
    rcases Nat.lt_or_eq_of_le hi with h | rfl
    · rw [hlow i h, if_neg (by decide)]
      exact ctzGo_eq k (i + 1) h (by omega) hlow (fun hc => hset (by omega))
    · rw [hset (by omega), if_pos rfl]

theorem yCtz_toNat (a : BitVec n) : yCtz n a.toNat = a.ctz.toNat := by
  have hle : a.ctz.toNat ≤ n := by
    have h := BitVec.clz_le (x := a.reverse)
    simpa [BitVec.ctz, BitVec.le_def] using h
  refine ctzGo_eq n 0 (Nat.zero_le _) (by omega) (fun j hj => BitVec.getLsbD_false_of_lt_ctz hj) (fun hlt => ?_)
  refine BitVec.getLsbD_true_ctz_of_ne_zero (fun ha => ?_)
  have hrev : a.reverse = 0#n := BitVec.reverse_eq_zero_iff.mpr ha
  have hctz : a.ctz = BitVec.ofNat n n := by rw [BitVec.ctz, BitVec.clz_eq_iff_eq_zero.mpr hrev]; rfl
  rw [hctz] at hlt
  simp at hlt

theorem cpopNatRec_eq_length_filter (a : BitVec n) (m : Nat) :
    a.cpopNatRec m 0 = ((List.range m).filter (fun i => a.toNat.testBit i)).length := by
  induction m with
  | zero => rfl
  | succ m ih =>
    rw [BitVec.cpopNatRec_succ, BitVec.cpopNatRec_eq, ih, List.range_succ, List.filter_append, List.length_append,
      BitVec.getLsbD]
    cases h : a.toNat.testBit m <;> simp [h]

theorem yPopc_toNat (a : BitVec n) : yPopc n a.toNat = a.cpop.toNat := by
  rw [BitVec.toNat_cpop, cpopNatRec_eq_length_filter]; rfl

/-! ## Bit fields (04 R125) -/

theorem ySext_toNat (p : Nat) (a : BitVec n) : ySext n p a.toNat = ((a.setWidth (p + 1)).signExtend n).toNat := by
  rw [ySext, sextInt_eq_toInt_ofNat, wrapNat_toInt, ofNat_toNat_eq_setWidth]

theorem yBfx_toNat (p l : Nat) (a : BitVec n) : yBfx n p l a.toNat = ((a.extractLsb' p l).signExtend n).toNat := by
  rw [yBfx, sextInt_eq_toInt_ofNat, wrapNat_toInt, ofNat_shiftRight_eq_extractLsb']

theorem yBfxz_toNat (p l : Nat) (a : BitVec n) : yBfxz p l a.toNat = ((a.extractLsb' p l).setWidth n).toNat := by
  have hlt : a.toNat >>> p % 2 ^ l < 2 ^ n :=
    Nat.lt_of_le_of_lt ((Nat.mod_le _ _).trans (Nat.shiftRight_le _ _)) a.isLt
  rw [BitVec.toNat_setWidth, BitVec.extractLsb'_toNat, Nat.mod_eq_of_lt hlt, yBfxz]

/-- A number with the field of l bits from p replaced, bit by bit. -/
theorem testBit_replaceField (d v p l i : Nat) :
    (d - (d >>> p) % 2 ^ l * 2 ^ p + v % 2 ^ l * 2 ^ p).testBit i =
      if p ≤ i ∧ i < p + l then v.testBit (i - p) else d.testBit i := by
  have hlow : d % 2 ^ p < 2 ^ p := Nat.mod_lt _ (Nat.two_pow_pos p)
  have hmid : ∀ u : Nat, u % 2 ^ l < 2 ^ l := fun u => Nat.mod_lt _ (Nat.two_pow_pos l)
  have hparts : d = 2 ^ p * (2 ^ l * (d / 2 ^ p / 2 ^ l) + d / 2 ^ p % 2 ^ l) + d % 2 ^ p := by
    rw [Nat.div_add_mod, Nat.div_add_mod]
  have hsum : d - (d >>> p) % 2 ^ l * 2 ^ p + v % 2 ^ l * 2 ^ p =
      2 ^ p * (2 ^ l * (d / 2 ^ p / 2 ^ l) + v % 2 ^ l) + d % 2 ^ p := by
    rw [Nat.shiftRight_eq_div_pow]
    conv_lhs => enter [1, 1]; rw [hparts]
    rw [Nat.mul_add, Nat.mul_add, Nat.mul_comm (d / 2 ^ p % 2 ^ l) (2 ^ p), Nat.mul_comm (v % 2 ^ l) (2 ^ p)]
    omega
  rw [hsum, Nat.testBit_two_pow_mul_add _ hlow, Nat.testBit_two_pow_mul_add _ (hmid v)]
  rcases Nat.lt_or_ge i p with h | h
  · rw [if_pos h, if_neg (by omega), Nat.testBit_mod_two_pow]
    simp [h]
  · rw [if_neg (by omega)]
    rcases Nat.lt_or_ge (i - p) l with hl | hl
    · rw [if_pos hl, if_pos ⟨h, by omega⟩, Nat.testBit_mod_two_pow]
      simp [hl]
    · rw [if_neg (by omega), if_neg (by omega), Nat.testBit_div_two_pow, Nat.testBit_div_two_pow]
      congr 1
      omega

theorem getLsbD_fieldBits (p l i : Nat) (hi : i < n) : (fieldBits n p l).getLsbD i = decide (p ≤ i ∧ i < p + l) := by
  rw [fieldBits, BitVec.getLsbD_shiftLeft, BitVec.getLsbD_setWidth, BitVec.getLsbD_allOnes]
  rcases Nat.lt_or_ge i p with h | h
  · simp [h, Nat.not_le.mpr h]
  · have hip : i - p < n := by omega
    have hl : (i - p < l) = (i < p + l) := propext (by omega)
    simp [hi, h, hip, hl, Nat.not_lt.mpr h]

theorem yBfi_toNat (p l : Nat) (a d : BitVec n) : yBfi n p l a.toNat d.toNat =
    ((d &&& ~~~(fieldBits n p l)) ||| ((a <<< p) &&& fieldBits n p l)).toNat := by
  refine Nat.eq_of_testBit_eq (fun i => ?_)
  rw [yBfi, Nat.testBit_mod_two_pow, testBit_replaceField]
  simp only [BitVec.testBit_toNat]
  rcases Nat.lt_or_ge i n with hi | hi
  · rw [BitVec.getLsbD_or, BitVec.getLsbD_and, BitVec.getLsbD_and, BitVec.getLsbD_not, getLsbD_fieldBits p l i hi,
      BitVec.getLsbD_shiftLeft]
    by_cases h : p ≤ i ∧ i < p + l
    · simp [hi, h]
    · simp [hi, h]
  · simp [Nat.not_lt.mpr hi, BitVec.getLsbD_of_ge _ _ hi]

theorem yLea_toNat (sh : Nat) (a b : BitVec n) : yLea n sh a.toNat b.toNat = (a + b <<< sh).toNat := by
  rw [yLea, BitVec.toNat_add, BitVec.toNat_shiftLeft, Nat.add_mod_mod]

/-! ## The instructions -/

/-- A one-source integer instruction whose result function y computes the word operation g. -/
theorem yields_int1 {i : Instr} {o : SR} {y : Nat → Nat → Nat} {g : BitVec (srN o) → BitVec (srN o)}
    (hso : slotOpOf i = some (int1 o y)) (hslot : slotOf i = some .sa)
    (hy : ∀ a : BitVec (srN o), y (srN o) a.toNat = (g a).toNat) : Yields i (sr1 o g) noFlags := by
  refine yields_pureOp hso hslot (by decide) fun x => ?_
  rw [opLow_eq_toNat_srSrc, hy, extTo_toNat _ _ (srN_le o)]
  rfl

theorem yields_bfi (o : SR) : Yields (.bfi o) (fun x => [(.s o.d.toNat, (extend64 (o.f.getLsbD 2)
    ((srSrc o x o.d &&& ~~~(fieldBits _ (srPos o) (srLen o))) |||
      ((srSrc o x o.a <<< srPos o) &&& fieldBits _ (srPos o) (srLen o)))).toNat)]) noFlags := by
  refine yields_pureOp (t := .sa) rfl rfl (by decide) fun x => ?_
  rw [opLow_eq_toNat_srSrc, opLow_eq_toNat_srSrc, yBfi_toNat, extTo_toNat _ _ (srN_le o)]
  rfl

/-! ## Illegal operands -/

theorem firstBad_reserved {w : Nat} {b : BitVec w} {rest : List (Bool × Nat)} (h : b ≠ 0) : firstBad ((nz b, 1) :: rest) = some 1 := by
  rw [firstBad, nz_true h, if_pos rfl]

/-- A check before the one that finds a violation can only find the same sub-cause. -/
theorem firstBad_skip {bad : Bool} {sub : Nat} {rest : List (Bool × Nat)} (h : firstBad rest = some sub) :
    firstBad ((bad, sub) :: rest) = some sub := by
  cases bad
  · exact h
  · rfl

/-- A source field that an instruction of one source does not use is reserved. -/
theorem illegal_oneSource (o : SR) (h : o.b ≠ 0) :
    ∀ i ∈ [Instr.abs o, .clz o, .ctz o, .popc o, .sext o, .bfx o, .bfxz o, .bfi o], illegal i = some 1 := by
  have hint : badInt1 o = some 1 := firstBad_skip (firstBad_reserved h)
  have hsext : badSext o = some 1 := firstBad_skip (firstBad_reserved h)
  have hbf : badBf o = some 1 := firstBad_reserved h
  simp only [List.forall_mem_cons, List.not_mem_nil, false_imp_iff, implies_true, and_true]
  exact ⟨hint, hint, hint, hint, hsext, hbf, hbf, hbf⟩

/-- A position outside the width. -/
theorem illegal_position (o : SR) (h : srN o ≤ srPos o) :
    ∀ i ∈ [Instr.sext o, .bfx o, .bfxz o, .bfi o], (illegal i).isSome = true := by
  have hsext : (badSext o).isSome = true := by rw [badSext, firstBad_isSome]; simp [h]
  have hbf : (badBf o).isSome = true := by rw [badBf, firstBad_isSome]; simp [h]
  simp only [List.forall_mem_cons, List.not_mem_nil, false_imp_iff, implies_true, and_true]
  exact ⟨hsext, hbf, hbf, hbf⟩

/-- A field that does not end in the width. -/
theorem illegal_field (o : SR) (h : srN o < srPos o + srLen o) :
    ∀ i ∈ [Instr.bfx o, .bfxz o, .bfi o], (illegal i).isSome = true := by
  have hbf : (badBf o).isSome = true := by rw [badBf, firstBad_isSome]; simp [h]
  simp only [List.forall_mem_cons, List.not_mem_nil, false_imp_iff, implies_true, and_true]
  exact ⟨hbf, hbf, hbf⟩

/-- Settles O2: the result functions of one source, of bit fields and of `lea` are the word operations that it names. -/
theorem scalarOneSource : Obligations.ScalarOneSource := fun o =>
  ⟨yields_int1 rfl rfl yAbs_toNat, yields_int1 rfl rfl (yClz_toNat (srN_pos o)), yields_int1 rfl rfl yCtz_toNat,
    yields_int1 rfl rfl yPopc_toNat, yields_int1 rfl rfl (ySext_toNat _), yields_int1 rfl rfl (yBfx_toNat _ _),
    yields_int1 rfl rfl (yBfxz_toNat _ _), yields_bfi o, yields_int2 rfl rfl (yLea_toNat _), illegal_oneSource o,
    illegal_position o, illegal_field o, fun h => firstBad_reserved h, fun h => firstBad_reserved h⟩

/-! ## Immediates (04 R127) -/

theorem siN_le (o : SI) : siN o ≤ 64 := sizeBits_le _

theorem opLow_eq_toNat_siSrc (o : SI) (x : Ctx) (r : BitVec 6) : opLow x r (siN o) = (siSrc o x r).toNat :=
  (BitVec.toNat_setWidth _ _).symm

/-- An instruction of one source and the immediate whose result function y computes the word operation g. -/
theorem yields_intI {i : Instr} {o : SI} {y : Nat → Nat → Nat} {g : BitVec (siN o) → BitVec (siN o)}
    (hso : slotOpOf i = some (intI o y)) (hslot : slotOf i = some .sa)
    (hy : ∀ a : BitVec (siN o), y (siN o) a.toNat = (g a).toNat) : Yields i (si1 o g) noFlags := by
  refine yields_pureOp hso hslot (by decide) fun x => ?_
  rw [opLow_eq_toNat_siSrc, hy, extTo_toNat _ _ (siN_le o)]
  rfl

theorem siUnsigned_mod (o : SI) (n : Nat) : siUnsigned o % 2 ^ n = (o.imm.setWidth n).toNat := (BitVec.toNat_setWidth _ _).symm

theorem addImm_toNat (o : SI) (a : BitVec n) :
    wrapNat ((a.toNat : Int) + siSigned o) n = (a + o.imm.signExtend n).toNat := by
  rw [wrapNat_eq_toNat_ofInt, BitVec.ofInt_add, BitVec.ofInt_natCast, BitVec.ofNat_toNat, BitVec.setWidth_eq, siSigned,
    BitVec.signExtend]

theorem yields_movi (o : SI) :
    Yields (.movi o) (fun _ => [(.s o.d.toNat, (extend64 (o.x.getLsbD 2) o.imm).toNat)]) noFlags :=
  yields_pureOp (t := .sa) rfl rfl (by decide) fun _ => by
    rw [siUnsigned, extTo_toNat _ _ (by decide)]; rfl

theorem yields_movhi (o : SI) :
    Yields (.movhi o) (fun x => [(.s o.d.toNat, (o.imm ++ (rdS x o.d.toNat).setWidth 32).toNat)]) noFlags :=
  yields_pureOp (t := .sa) rfl rfl (by decide) fun x => by
    have hlow : opLow x o.d 32 = ((rdS x o.d.toNat).setWidth 32).toNat := (BitVec.toNat_setWidth _ _).symm
    rw [BitVec.toNat_append, ← Nat.shiftLeft_add_eq_or_of_lt (BitVec.isLt _), Nat.shiftLeft_eq, hlow]
    rfl

theorem yields_cmpi (o : SI) : Yields (.cmpi o) (fun x => toC o.d.toNat
    (bvCompare (o.x.extractLsb' 4 4).toNat (siSrc o x o.a) (o.imm.signExtend _))) noFlags :=
  yields_pureOp (t := .sa) rfl rfl (by decide) fun x => by
    rw [opLow_eq_toNat_siSrc, siSigned, wrapNat_toInt, condHolds_toNat]; rfl

/-- Settles O3: the immediate joins the source as a word of the instruction's width. -/
theorem scalarImmediate : Obligations.ScalarImmediate := fun o =>
  ⟨yields_intI rfl rfl (addImm_toNat o),
    yields_intI rfl rfl fun a => by rw [siUnsigned_mod, BitVec.toNat_and],
    yields_intI rfl rfl fun a => by rw [siUnsigned_mod, BitVec.toNat_or],
    yields_intI rfl rfl fun a => by rw [siUnsigned_mod, BitVec.toNat_xor],
    yields_movi o, yields_movhi o, yields_cmpi o⟩

end Sys2Proof.Machine
end

section
/-!
The floating instructions of the scalar slots (04 R133 to R137).
-/
namespace Sys2Proof.Machine

/-- The choice of `fmin` and `fmax` between two codes, as a choice between the registers that hold them. -/
theorem minMaxCode_opLow (f : Fmt) (mx : Bool) (x : Ctx) (a b : BitVec 6) :
    minMaxCode f mx (opLow x a (fmtWidth f)) (opLow x b (fmtWidth f)) =
      if valIsNaN (opVal x a f) || valIsNaN (opVal x b f) then (qnanCode f, fNF)
      else (opLow x (if (if mx then valLess (opVal x b f) (opVal x a f) else valLess (opVal x a f) (opVal x b f)) then a else b)
        (fmtWidth f), 0) := by
  rw [apply_ite (fun r => opLow x r (fmtWidth f))]; rfl

theorem yieldsPair_floatMM {i : Instr} {o : SR} (mx : Bool) (hso : slotOpOf i = some (floatMM o mx)) (hslot : slotOf i = some .sa) :
    YieldsPair i (fun x =>
      let a := opVal x o.a (fmtOfCode o.f)
      let b := opVal x o.b (fmtOfCode o.f)
      if valIsNaN a || valIsNaN b then ([(.s o.d.toNat, qnanCode (fmtOfCode o.f))], fNF)
      else ([(.s o.d.toNat, opLow x (if (if mx then valLess b a else valLess a b) then o.a else o.b) (fmtWidth (fmtOfCode o.f)))], 0)) := by
  refine yields_pureOp hso hslot (by decide) fun x => ?_
  dsimp only
  rw [minMaxCode_opLow]
  split <;> rfl

theorem cvtSource_eq (x : Ctx) (r : BitVec 6) (f : Fmt) (wide : Bool) : cvtSource x r f wide =
    if isInt f then ofRat ((rdS x r.toNat).setWidth (cvtIntWidth f wide)).toInt else opVal x r f := by
  rw [cvtSource, sextInt_eq_toInt_ofNat, ofNat_toNat_eq_setWidth]

/-- An operation of register results and flags that computes both from its context by f. -/
theorem yieldsPair_pureOp {i : Instr} {reads : Ctx → List RegId} {writes : List RegId} {weight : Nat} {t : Slot}
    {f g : Ctx → List (RegId × Nat) × Flg} (hso : slotOpOf i = some (pureOp reads writes weight f)) (hslot : slotOf i = some t)
    (ht : t ≠ .br) (hf : ∀ x, f x = g x) : YieldsPair i g :=
  yields_pureOp hso hslot ht hf

theorem yields_fcmp (o : SR) : Yields (.fcmp o) (fun x => toC o.d.toNat (fcondHolds (o.x.extractLsb' 0 4).toNat
    (opVal x o.a (fmtOfCode o.f)) (opVal x o.b (fmtOfCode o.f)))) noFlags :=
  yields_pureOp (t := .sa) rfl rfl (by decide) fun _ => rfl

theorem yields_fclass (o : SR) :
    Yields (.fclass o) (fun x => [(.s o.d.toNat, 2 ^ classBit (fmtOfCode o.f) (opVal x o.a (fmtOfCode o.f)))]) noFlags :=
  yields_pureOp (t := .sa) rfl rfl (by decide) fun _ => rfl

/-- What `fcvt` converts: the source value v of a context, as the model reads it. -/
def CvtReads (o : SR) (v : Ctx → Val) : Prop :=
  ∀ x, cvtSource x o.a (fmtOfCode (o.x.extractLsb' 0 4)) (o.x.getLsbD 4) = v x

theorem noFlags_or (fl : Flg) : 0 ||| fl = fl := BitVec.zero_or

/-- A conversion into a floating format rounds the exact value of its source once. -/
theorem yieldsPair_fcvt_float {o : SR} {v : Ctx → Val} (hv : CvtReads o v) (h : isInt (fmtOfCode o.f) = false) :
    YieldsPair (.fcvt o) (fun x => fWrite o x (v x, 0)) :=
  yieldsPair_pureOp (t := .sa) rfl rfl (by decide) fun x => by
    simp only [h, hv x, Bool.false_eq_true, if_false, fWrite, noFlags_or]

/-- A conversion into an integer rounds into the range of its width. -/
theorem yieldsPair_fcvt_int {o : SR} {v : Ctx → Val} (hv : CvtReads o v) (h : isInt (fmtOfCode o.f) = true) :
    YieldsPair (.fcvt o) (fun x =>
      let n := cvtIntWidth (fmtOfCode o.f) (o.x.getLsbD 4)
      let r := toIntRange (v x) (-(2 ^ (n - 1) : Int)) (2 ^ (n - 1) - 1) (scalarMode x o.rm) 0 0
      ([(.s o.d.toNat, (BitVec.ofInt 64 r.1).toNat)], r.2)) :=
  yieldsPair_pureOp (t := .sa) rfl rfl (by decide) fun x => by
    simp only [h, hv x, if_true, Nat.cast_pow, Nat.cast_ofNat, wrapNat_eq_toNat_ofInt]; rfl

/-- Settles O5: each operation is its exact result rounded by `fWrite`, the choice of a register, a comparison or a class. -/
theorem scalarFloat : Obligations.ScalarFloat := by
  refine ⟨fun o => ⟨?_, ?_, ?_, ?_, ?_, ?_, yieldsPair_floatMM false rfl rfl, yieldsPair_floatMM true rfl rfl, yields_fcmp o,
    yields_fclass o⟩, fun o => ?_⟩
  iterate 6 exact yieldsPair_pureOp (t := .sa) rfl rfl (by decide) fun _ => rfl
  have hv : CvtReads o _ := fun x => cvtSource_eq x o.a _ _
  exact ⟨yieldsPair_fcvt_float hv, yieldsPair_fcvt_int hv⟩

end Sys2Proof.Machine
end

section
/-!
The vector slots (05 R152 to R174): lanes as the statements read them, masked operations, and the instructions of each group.
-/
namespace Sys2Proof.Machine

/-! ## Lanes (05 R148) -/

theorem laneWidth_dvd (f : Fmt) : laneWidth f ∣ 1024 := by cases f <;> decide

theorem laneWidth_le (f : Fmt) : laneWidth f ≤ 64 := by cases f <;> decide

theorem fmtWidth_eq_laneWidth {f : Fmt} (h : isInt f = true) : fmtWidth f = laneWidth f := by
  revert h
  cases f <;> decide

theorem laneAt_lt (v w i : Nat) : laneAt v w i < 2 ^ w := Nat.mod_lt _ (Nat.two_pow_pos w)

theorem lane_lt (x : Ctx) (r : BitVec 10) (w i : Nat) : lane x r w i < 2 ^ w := laneAt_lt _ w i

/-- The lanes listed of a register, and 0 beyond them, as its bits: no bit stands beyond the last lane. -/
theorem vLanes_getD {w : Nat} (hw : w ∣ 1024) (x : Ctx) (r i : Nat) : (vLanes x r w).getD i 0 = laneAt (rdV x r).toNat w i := by
  rw [vLanes, lanesOf, List.getD_eq_getElem?_getD, List.getElem?_map]
  rcases Nat.lt_or_ge i (1024 / w) with h | h
  · rw [List.getElem?_range h]; rfl
  · rw [List.getElem?_eq_none (by rwa [List.length_range])]
    have hbits : 1024 ≤ w * i := by
      calc 1024 = w * (1024 / w) := (Nat.mul_div_cancel' hw).symm
        _ ≤ w * i := Nat.mul_le_mul_left w h
    have hzero : (rdV x r).toNat >>> (w * i) = 0 := by rw [← BitVec.toNat_ushiftRight, BitVec.ushiftRight_eq_zero hbits, BitVec.toNat_zero]
    rw [laneAt, hzero, Nat.zero_mod]; rfl

/-! ## Masked operations -/

/-- What an instruction yields may be shown of its legal forms alone: no other issues. -/
theorem yields_of_legal {i : Instr} {ws : Ctx → List (RegId × Nat)} {fl : Ctx → Flg} (h : illegal i = none → Yields i ws fl) :
    Yields i ws fl :=
  fun s x s1 x1 hi => h hi.legal s x s1 x1 hi

/-- No check of a legal instruction finds a violation. -/
theorem firstBad_none {l : List (Bool × Nat)} (h : firstBad l = none) {p : Bool × Nat} (hp : p ∈ l) : p.1 = false := by
  have hany : l.any (·.1) = false := by rw [← firstBad_isSome, h]; rfl
  rw [List.any_eq_false] at hany
  simpa using hany p hp

/-- A masked result looks at the lanes of its register alone. -/
theorem laneMap_congr {m : Mask} {w n : Nat} {old : List Nat} {g h : Nat → Nat × Flg} (hg : ∀ j < n, g j = h j) :
    laneMap m w n old g = laneMap m w n old h := by
  unfold laneMap
  refine List.foldr_ext _ _ _ fun j hj acc => ?_
  rw [hg j (List.mem_range.mp hj)]

/-- A masked vector operation yields its lane function under the mask (05 R150). -/
theorem yieldsLanes_vecOp_lt {i : Instr} {d : Nat} {m : BitVec 4} {srcs : Ctx → List RegId} {w weight : Nat}
    {g h : Ctx → Nat → Nat × Flg} (hso : slotOpOf i = some (vecOp d m srcs w weight g)) (hslot : slotOf i = some .va)
    (hg : ∀ x, ∀ j < 1024 / w, g x j = h x j) : YieldsLanes i d m w h := by
  have hgh : ∀ x, vecResult x d m.toNat w (g x) = vecResult x d m.toNat w (h x) := fun x => by
    unfold vecResult
    rw [laneMap_congr (hg x)]
  exact yields_pureOp hso hslot (by decide) fun x => by rw [hgh]; rfl

theorem yieldsLanes_vecOp {i : Instr} {d : Nat} {m : BitVec 4} {srcs : Ctx → List RegId} {w weight : Nat}
    {g h : Ctx → Nat → Nat × Flg} (hso : slotOpOf i = some (vecOp d m srcs w weight g)) (hslot : slotOf i = some .va)
    (hg : ∀ x j, g x j = h x j) : YieldsLanes i d m w h :=
  yieldsLanes_vecOp_lt hso hslot fun x j _ => hg x j

/-! ## Element arithmetic (05 R155 to R157) -/

section
variable {i : Instr} {o : VX} {h : Ctx → Nat → Nat × Flg}

/-- A two-source operation that rounds float lanes of an exact result and wraps or clamps integer ones. -/
theorem yieldsLanes_vec2 {ex : Rm → Val → Val → Val × Flg} {iy : Int → Int → Int} (hso : slotOpOf i = some (vec2 o ex iy))
    (hslot : slotOf i = some .va) (hg : ∀ x j, (if isInt (vxFmt o) then intArith o (iy (laneI x o.a (vxFmt o) j) (laneI x o.b (vxFmt o) j))
      else rndLane x o.rm (vxFmt o) j (ex (vecMode x o.rm) (laneV x o.a (vxFmt o) j) (laneV x o.b (vxFmt o) j))) = h x j) :
    YieldsLanes i (vD o) o.m (laneWidth (vxFmt o)) h :=
  yieldsLanes_vecOp hso hslot fun x j => by
    rw [vLanes_getD (laneWidth_dvd _), vLanes_getD (laneWidth_dvd _), ← hg]; rfl

/-- A two-source operation on codes. -/
theorem yieldsLanes_vec2Code {weight : Nat} {g : Fmt → Nat → Nat → Nat × Flg} (hso : slotOpOf i = some (vec2Code o weight g))
    (hslot : slotOf i = some .va)
    (hg : ∀ x j, g (vxFmt o) (lane x o.a (laneWidth (vxFmt o)) j) (lane x o.b (laneWidth (vxFmt o)) j) = h x j) :
    YieldsLanes i (vD o) o.m (laneWidth (vxFmt o)) h :=
  yieldsLanes_vecOp hso hslot fun x j => by
    rw [vLanes_getD (laneWidth_dvd _), vLanes_getD (laneWidth_dvd _), ← hg]; rfl

/-- A one-source operation. -/
theorem yieldsLanes_vec1 {rounds : Bool} {weight : Nat} {fl : Ctx → Fmt → Nat → Nat → Nat × Flg} {iy : Int → Int}
    (hso : slotOpOf i = some (vec1 o rounds weight fl iy)) (hslot : slotOf i = some .va)
    (hg : ∀ x j, (if isInt (vxFmt o) then intLane (vxFmt o) (iy (laneI x o.a (vxFmt o) j))
      else fl x (vxFmt o) j (lane x o.a (laneWidth (vxFmt o)) j)) = h x j) :
    YieldsLanes i (vD o) o.m (laneWidth (vxFmt o)) h :=
  yieldsLanes_vecOp hso hslot fun x j => by
    rw [vLanes_getD (laneWidth_dvd _), ← hg]; rfl

/-- A one-source operation of float lanes alone. -/
theorem yieldsLanes_vec1_float {rounds : Bool} {weight : Nat} {fl : Ctx → Fmt → Nat → Nat → Nat × Flg} {iy : Int → Int}
    (hf : isInt (vxFmt o) = false) (hso : slotOpOf i = some (vec1 o rounds weight fl iy)) (hslot : slotOf i = some .va)
    (hg : ∀ x j, fl x (vxFmt o) j (lane x o.a (laneWidth (vxFmt o)) j) = h x j) :
    YieldsLanes i (vD o) o.m (laneWidth (vxFmt o)) h :=
  yieldsLanes_vec1 hso hslot fun x j => by rw [hf, if_neg (by decide), hg]

/-- A correctly rounded operation of one source. -/
theorem yieldsLanes_vec1Ex {ex : Val → Val × Flg} (hf : isInt (vxFmt o) = false) (hso : slotOpOf i = some (vec1Ex o ex))
    (hslot : slotOf i = some .va) (hg : ∀ x j, rndLane x o.rm (vxFmt o) j (ex (laneV x o.a (vxFmt o) j)) = h x j) :
    YieldsLanes i (vD o) o.m (laneWidth (vxFmt o)) h :=
  yieldsLanes_vec1_float hf hso hslot hg

end

/-- Settles O6: each operation is one of three shapes over lane functions, which the statement names. -/
theorem vectorArithmetic : Obligations.VectorArithmetic := fun o => by
  refine ⟨?_, ?_, ?_, ?_, ?_, ?_, ?_, ?_, fun hf => ?_⟩
  iterate 3 exact yieldsLanes_vec2 rfl rfl fun _ _ => rfl
  iterate 3 exact yieldsLanes_vec2Code rfl rfl fun _ _ => rfl
  iterate 2 exact yieldsLanes_vec1 rfl rfl fun _ _ => rfl
  exact ⟨yieldsLanes_vec1_float hf rfl rfl fun _ _ => rfl, yieldsLanes_vec1Ex hf rfl rfl fun _ _ => rfl,
    yieldsLanes_vec1Ex hf rfl rfl fun _ _ => rfl, yieldsLanes_vec1Ex hf rfl rfl fun _ _ => rfl,
    yieldsLanes_vec1_float hf rfl rfl fun _ _ => rfl⟩

/-! ## Three sources (05 R158) -/

theorem yieldsLanes_vec3 {i : Instr} {o : VR} {rounds : Bool} {weight : Nat} {g : Ctx → Fmt → Nat → Nat → Nat → Nat → Nat × Flg}
    (hso : slotOpOf i = some (vec3 o rounds weight g)) (hslot : slotOf i = some .va) {h : Ctx → Nat → Nat × Flg}
    (hg : ∀ x j, g x (vrFmt o) j (lane x o.a (laneWidth (vrFmt o)) j) (lane x o.b (laneWidth (vrFmt o)) j)
      (lane x o.c (laneWidth (vrFmt o)) j) = h x j) :
    YieldsLanes i o.d.toNat o.m (laneWidth (vrFmt o)) h :=
  yieldsLanes_vecOp hso hslot fun x j => by
    rw [vLanes_getD (laneWidth_dvd _), vLanes_getD (laneWidth_dvd _), vLanes_getD (laneWidth_dvd _), ← hg]; rfl

/-- A lane of `vfma`, and of `vfms`, whose integer product is subtracted. -/
theorem fmaLane_eq (neg : Bool) (x : Ctx) (rm : BitVec 3) (f : Fmt) (i : Nat) (a b c : BitVec 10) :
    fmaLane neg f (laneRnd x rm (laneCount f)) i (lane x a (laneWidth f) i) (lane x b (laneWidth f) i) (lane x c (laneWidth f) i) =
      if isInt f then
        intLane f (laneI x c f i + if neg then -(laneI x a f i * laneI x b f i) else laneI x a f i * laneI x b f i)
      else rndLane x rm f i (exFma (vecMode x rm) (if neg then valNegate (laneV x a f i) else laneV x a f i) (laneV x b f i)
        (laneV x c f i)) := by
  unfold fmaLane
  split
  · next h => simp only [fmtWidth_eq_laneWidth h]; rfl
  · rfl

/-- The formats of `vdot` (05 R158). -/
theorem vdot_fmt {o : VR} (h : illegal (.vdot o) = none) (hi : isInt (vrFmt o) = true) : vrFmt o = .int8 := by
  have hf := firstBad_none (p := (!(o.f.toNat == 1 || o.f.toNat == 2 || o.f.toNat == 13), 3)) h List.mem_cons_self
  rw [vrFmt] at hi ⊢
  generalize o.f = f at hf hi ⊢
  revert f
  decide

theorem yieldsLanes_vdot_int (o : VR) (hi : isInt (vrFmt o) = true) :
    let p := fun x i => laneI x o.a (vrFmt o) i * laneI x o.b (vrFmt o) i
    YieldsLanes (.vdot o) o.d.toNat o.m 32 (fun x i => (wrapNat (laneI x o.c .int32 i
      + (p x (4 * i) + p x (4 * i + 1) + p x (4 * i + 2) + p x (4 * i + 3))) 32, 0)) :=
  yields_of_legal fun hl => yieldsLanes_vecOp rfl rfl fun x j => by
    have hw : laneWidth (vrFmt o) = 8 := by rw [vdot_fmt hl hi]; rfl
    have h32 : 32 ∣ 1024 := by decide
    have hsum : ∀ q : Nat → Int, ((List.range 4).map q).sum = q 0 + q 1 + q 2 + q 3 := fun q => by
      simp [List.range_succ, Int.add_assoc]
    simp only [hi, if_true, hsum, Nat.add_zero, vLanes_getD (laneWidth_dvd _), vLanes_getD h32]
    simp only [laneI, lane, hw]; rfl

theorem yieldsLanes_vdot_float (o : VR) (hi : isInt (vrFmt o) = false) :
    let a := fun x i => laneV x o.a (vrFmt o) i
    let b := fun x i => laneV x o.b (vrFmt o) i
    YieldsLanes (.vdot o) o.d.toNat o.m 32 (fun x i => rndLane x o.rm .fp32 i
      (dotExact (vecMode x o.rm) [(a x (2 * i), b x (2 * i)), (a x (2 * i + 1), b x (2 * i + 1))] (laneV x o.c .fp32 i))) :=
  yieldsLanes_vecOp rfl rfl fun x j => by
    have h32 : 32 ∣ 1024 := by decide
    simp only [hi, Bool.false_eq_true, if_false, vLanes_getD (laneWidth_dvd _), vLanes_getD h32]; rfl

/-- Settles O7: `vfma` and `vfms` by one lane function, `vclamp` by two choices, `vdot` by its two forms. -/
theorem vectorThreeSource : Obligations.VectorThreeSource := fun o =>
  ⟨yieldsLanes_vec3 rfl rfl fun x j => fmaLane_eq false x o.rm _ j o.a o.b o.c,
    yieldsLanes_vec3 rfl rfl fun x j => fmaLane_eq true x o.rm _ j o.a o.b o.c,
    yieldsLanes_vec3 rfl rfl fun _ _ => rfl, yieldsLanes_vdot_int o, yieldsLanes_vdot_float o⟩

end Sys2Proof.Machine
end

section
/-!
Vector comparison, selection, logic and shifts (05 R159 to R162), conversion, packing and moves (R163 to R167).
-/
namespace Sys2Proof.Machine

/-! ## The lanes of the two sources of form VX -/

theorem vLanes_vA {w : Nat} (hw : w ∣ 1024) (x : Ctx) (o : VX) (i : Nat) : (vLanes x (vA o) w).getD i 0 = lane x o.a w i :=
  vLanes_getD hw x _ i

theorem vLanes_vB {w : Nat} (hw : w ∣ 1024) (x : Ctx) (o : VX) (i : Nat) : (vLanes x (vB o) w).getD i 0 = lane x o.b w i :=
  vLanes_getD hw x _ i

/-! ## Comparison and selection (05 R159, R160) -/

theorem condHolds_ofNat {w a b : Nat} (c : Nat) (ha : a < 2 ^ w) (hb : b < 2 ^ w) :
    condHolds c w a b = bvCompare c (BitVec.ofNat w a) (BitVec.ofNat w b) := by
  rw [← condHolds_toNat, BitVec.toNat_ofNat, BitVec.toNat_ofNat, Nat.mod_eq_of_lt ha, Nat.mod_eq_of_lt hb]

theorem yields_vcmp (o : VX) : let f := vxFmt o
    let w := laneWidth f
    Yields (.vcmp o) (fun x => [(.m (mD o), maskResult x (mD o) o.m.toNat w (fun i =>
      if isInt f then bvCompare (o.x.extractLsb' 0 4).toNat (BitVec.ofNat w (lane x o.a w i)) (BitVec.ofNat w (lane x o.b w i))
      else fcondHolds (o.x.extractLsb' 0 4).toNat (laneV x o.a f i) (laneV x o.b f i)))]) noFlags :=
  yields_pureOp (t := .va) rfl rfl (by decide) fun x => by
    simp only [vLanes_vA (laneWidth_dvd _), vLanes_vB (laneWidth_dvd _), condHolds_ofNat _ (lane_lt x _ _ _) (lane_lt x _ _ _)]
    rfl

theorem yields_vsel (o : VX) : let f := vxFmt o
    let w := laneWidth f
    Yields (.vsel o) (fun x => [(.v (vD o), ofLanes w ((List.range (1024 / w)).map (fun i =>
      moveCode f (lane x (if active (rdM x o.m.toNat) w i then o.a else o.b) w i))))]) noFlags :=
  yields_pureOp (t := .va) rfl rfl (by decide) fun x => by
    have hlane : ∀ (c : Bool) (i : Nat), lane x (if c then o.a else o.b) (laneWidth (vxFmt o)) i =
        if c then lane x o.a (laneWidth (vxFmt o)) i else lane x o.b (laneWidth (vxFmt o)) i := fun c i => by cases c <;> rfl
    simp only [vLanes_vA (laneWidth_dvd _), vLanes_vB (laneWidth_dvd _), hlane]; rfl

/-! ## Logic and shifts (05 R161, R162) -/

section
variable {i : Instr} {o : VX} {h : Ctx → Nat → Nat × Flg}

theorem yieldsLanes_vecLogic {two : Bool} {g : Nat → Nat → Nat} (hso : slotOpOf i = some (vecLogic o two g))
    (hslot : slotOf i = some .va) (hg : ∀ x j, (g (lane x o.a 8 j) (lane x o.b 8 j), 0) = h x j) :
    YieldsLanes i (vD o) o.m 8 h :=
  yieldsLanes_vecOp hso hslot fun x j => by
    have h8 : 8 ∣ 1024 := by decide
    rw [vLanes_vA h8, vLanes_vB h8, hg]

/-- The shift amount of a lane: the immediate, or the lane of b. -/
def shiftAmount (o : VX) (x : Ctx) (j : Nat) : Nat :=
  if o.x.getLsbD 6 then (o.x.extractLsb' 0 5).toNat else lane x o.b (laneWidth (vxFmt o)) j

theorem yieldsLanes_vecShift {g : Nat → Nat → Nat → Nat} (hso : slotOpOf i = some (vecShift o g)) (hslot : slotOf i = some .va)
    (hg : ∀ x j, (g (laneWidth (vxFmt o)) (lane x o.a (laneWidth (vxFmt o)) j) (shiftAmount o x j), 0) = h x j) :
    YieldsLanes i (vD o) o.m (laneWidth (vxFmt o)) h :=
  yieldsLanes_vecOp hso hslot fun x j => by
    rw [vLanes_vA (laneWidth_dvd _), vLanes_vB (laneWidth_dvd _), ← hg]; rfl

end

section
variable {w a : Nat} (b : Nat) (ha : a < 2 ^ w)
include ha

theorem yShl_ofNat : yShl w a b = (BitVec.ofNat w a <<< (b % w)).toNat := by
  rw [BitVec.toNat_shiftLeft, BitVec.toNat_ofNat, Nat.mod_eq_of_lt ha, yShl]

theorem yShr_ofNat : yShr w a b = (BitVec.ofNat w a >>> (b % w)).toNat := by
  rw [BitVec.toNat_ushiftRight, BitVec.toNat_ofNat, Nat.mod_eq_of_lt ha, yShr]

end

theorem ySar_ofNat {w : Nat} (a b : Nat) : ySar w a b = ((BitVec.ofNat w a).sshiftRight (b % w)).toNat := by
  rw [ySar, sextInt_eq_toInt_ofNat, wrapNat_eq_toNat_ofInt, BitVec.sshiftRight]

/-- Settles O8: each lane of the model is the word operation on the lanes that the statement names. -/
theorem vectorCompareLogicShift : Obligations.VectorCompareLogicShift := fun o => by
  refine ⟨yields_vcmp o, yields_vsel o, ?_, ?_, ?_, ?_, ?_, ?_, ?_⟩
  · exact yieldsLanes_vecLogic (two := true) (g := fun a b => a &&& b) rfl rfl fun _ _ => rfl
  · exact yieldsLanes_vecLogic (two := true) (g := fun a b => a ||| b) rfl rfl fun _ _ => rfl
  · exact yieldsLanes_vecLogic (two := true) (g := fun a b => a ^^^ b) rfl rfl fun _ _ => rfl
  · exact yieldsLanes_vecLogic (two := false) (g := fun a _ => 255 - a) rfl rfl fun _ _ => rfl
  · exact yieldsLanes_vecShift (g := yShl) rfl rfl fun x j => by rw [yShl_ofNat _ (lane_lt x _ _ _)]; rfl
  · exact yieldsLanes_vecShift (g := yShr) rfl rfl fun x j => by rw [yShr_ofNat _ (lane_lt x _ _ _)]; rfl
  · exact yieldsLanes_vecShift (g := ySar) rfl rfl fun x j => by rw [ySar_ofNat]; rfl

/-! ## Conversion and packing (05 R163, R164) -/

theorem yieldsLanes_vcvt (o : VX) : YieldsLanes (.vcvt o) (vD o) o.m (laneWidth (vxFmt o)) (fun x i =>
    cvtLanes (vxFmt o) (fmtOfCode o.g) (o.x.extractLsb' 0 2).toNat (fun j => laneV x o.a (fmtOfCode o.g) j)
      (vLanes x (vD o) (laneWidth (vxFmt o))) (laneRnd x o.rm (laneCount (vxFmt o))) i) :=
  yieldsLanes_vecOp rfl rfl fun x j => by
    simp only [vLanes_getD (laneWidth_dvd (fmtOfCode o.g))]; rfl

theorem yields_vpack (o : VX) :
    Yields (.vpack o) (fun x => [(.v (vD o), ofLanes 6 ((List.range 128).map (fun i => lane x o.a 8 i % 64)))]) noFlags :=
  yields_pureOp (t := .va) rfl rfl (by decide) fun x => by
    have hmap : (vLanes x (vA o) 8).map (· % 64) = (List.range 128).map (fun i => lane x o.a 8 i % 64) := by
      rw [vLanes, lanesOf, List.map_map]; rfl
    rw [hmap]; rfl

theorem yields_vunpk (o : VX) :
    Yields (.vunpk o) (fun x => [(.v (vD o), ofLanes 8 ((List.range 128).map (fun i => lane x o.a 6 i)))]) noFlags :=
  yields_pureOp (t := .va) rfl rfl (by decide) fun _ => rfl

/-! ## Moving elements (05 R165 to R167) -/

theorem yieldsLanes_vperm (o : VX) : YieldsLanes (.vperm o) (vD o) o.m (laneWidth (vxFmt o)) (fun x i =>
    (if o.x.getLsbD 0 && decide (laneCount (vxFmt o) ≤ lane x o.b (laneWidth (vxFmt o)) i) then 0
      else moveCode (vxFmt o) (lane x o.a (laneWidth (vxFmt o)) (lane x o.b (laneWidth (vxFmt o)) i % laneCount (vxFmt o))), 0)) :=
  yieldsLanes_vecOp rfl rfl fun x j => by
    dsimp only
    rw [vLanes_vB (laneWidth_dvd _), vLanes_vA (laneWidth_dvd _)]

theorem yieldsLanes_vshuf (o : VX) : YieldsLanes (.vshuf o) (vD o) o.m (laneWidth (vxFmt o)) (fun x i =>
    let p := shufFrom o.g.toNat (laneCount (vxFmt o)) o.x.toNat i
    (moveCode (vxFmt o) (lane x (if p.1 then o.b else o.a) (laneWidth (vxFmt o)) p.2), 0)) :=
  yieldsLanes_vecOp rfl rfl fun x j => by
    have hlane : ∀ (c : Bool) (k : Nat), (if c then vLanes x (vB o) (laneWidth (vxFmt o)) else vLanes x (vA o) (laneWidth (vxFmt o))).getD k 0 =
        lane x (if c then o.b else o.a) (laneWidth (vxFmt o)) k := fun c k => by
      cases c <;> exact vLanes_getD (laneWidth_dvd _) x _ k
    dsimp only
    rw [hlane]

theorem yieldsLanes_vbcast_lane (o : VX) (hg : o.g = 0) : YieldsLanes (.vbcast o) (vD o) o.m (laneWidth (vxFmt o))
    (fun x _ => (moveCode (vxFmt o) (lane x o.a (laneWidth (vxFmt o)) o.x.toNat), 0)) :=
  yieldsLanes_vecOp rfl rfl fun x j => by rw [hg]; rfl

theorem yieldsLanes_vbcast_scalar (o : VX) (hg : o.g ≠ 0) : YieldsLanes (.vbcast o) (vD o) o.m (laneWidth (vxFmt o))
    (fun x _ => (moveCode (vxFmt o) ((rdS x (low6 o.a)).toNat % 2 ^ laneWidth (vxFmt o)), 0)) :=
  yieldsLanes_vecOp rfl rfl fun x j => by rw [if_neg (fun h => hg ((toNat_eq_zero_iff _).mp h))]

/-- An element moved fits its lane. -/
theorem moveCode_lt (f : Fmt) (c : Nat) : moveCode f c < 2 ^ laneWidth f := by
  have hq : qnanCode f < 2 ^ laneWidth f := by cases f <;> decide
  have hw : 2 ^ fmtWidth f ≤ 2 ^ laneWidth f := Nat.pow_le_pow_right (by decide) (by cases f <;> decide)
  unfold moveCode
  dsimp only
  split
  · exact hq
  · exact Nat.lt_of_lt_of_le (Nat.mod_lt _ (Nat.two_pow_pos _)) hw

theorem yields_vmovs (o : VX) : Yields (.vmovs o) (fun x => [(.s (low6 o.d), (extend64 (isInt (vxFmt o))
    (BitVec.ofNat (laneWidth (vxFmt o)) (moveCode (vxFmt o) (lane x o.a (laneWidth (vxFmt o)) o.x.toNat)))).toNat)]) noFlags :=
  yields_pureOp (t := .va) rfl rfl (by decide) fun x => by
    have hlt : ∀ c, (BitVec.ofNat (laneWidth (vxFmt o)) (moveCode (vxFmt o) c)).toNat = moveCode (vxFmt o) c := fun c => by
      rw [BitVec.toNat_ofNat, Nat.mod_eq_of_lt (moveCode_lt _ _)]
    have hext : ∀ c, (if isInt (vxFmt o) then wrapNat (sextInt (moveCode (vxFmt o) c) (laneWidth (vxFmt o))) 64
        else moveCode (vxFmt o) c) =
        (extend64 (isInt (vxFmt o)) (BitVec.ofNat (laneWidth (vxFmt o)) (moveCode (vxFmt o) c))).toNat := fun c => by
      rw [← extTo_toNat _ _ (laneWidth_le _), hlt, extTo, Nat.mod_eq_of_lt (moveCode_lt _ _)]
    dsimp only
    rw [hext]; rfl

/-- Settles O9: the sources of the model are the lanes that the statement names. -/
theorem vectorConvertMove : Obligations.VectorConvertMove := fun o =>
  ⟨yieldsLanes_vcvt o, yields_vpack o, yields_vunpk o, yieldsLanes_vperm o, yieldsLanes_vshuf o, yieldsLanes_vbcast_lane o,
    yieldsLanes_vbcast_scalar o, yields_vmovs o, yields_pureOp (t := .va) rfl rfl (by decide) fun _ => rfl,
    yields_pureOp (t := .va) rfl rfl (by decide) fun _ => rfl⟩

end Sys2Proof.Machine
end

section
/-!
Vector reductions and scans (05 R169 to R171), non-finite checks, mask instructions and the generator (R172 to R174).
-/
namespace Sys2Proof.Machine

/-! ## Reductions and scans (05 R169 to R171) -/

theorem yieldsPair_vecRed {i : Instr} {o : VX} {rounds : Bool} {g : Ctx → Fmt → (Nat → Bool) → List Nat → Nat × Flg}
    (hso : slotOpOf i = some (vecRed o rounds g)) (hslot : slotOf i = some .va) : YieldsPair i (fun x =>
      let r := g x (vxFmt o) (active (rdM x o.m.toNat) (laneWidth (vxFmt o))) (vLanes x (vA o) (laneWidth (vxFmt o)))
      ([(.v (vD o), r.1)], r.2)) :=
  yieldsPair_pureOp hso hslot (by decide) fun _ => rfl

theorem yieldsLanes_vredVsum (o : VX) : YieldsLanes (.vredVsum o) (vD o) o.m (laneWidth (vxFmt o)) (fun x i =>
    laneSum (vxFmt o) (vecMode x o.rm) (srWords x (vecMode x o.rm) (laneCount (vxFmt o)))
      ((List.range (vxRegs o)).map (fun j => vLanes x (vA o + j) (laneWidth (vxFmt o)))) i) :=
  yieldsLanes_vecOp rfl rfl fun x j => by
    rw [redRegs, List.map_map]; rfl

/-- Settles O10: the model's operations are the sums, choices and scans that the statement names. -/
theorem vectorReductions : Obligations.VectorReductions := fun o => by
  refine ⟨?_, ?_, ?_, yieldsLanes_vredVsum o, yieldsPair_pureOp (t := .va) rfl rfl (by decide) fun _ => rfl⟩
  · exact yieldsPair_vecRed (rounds := true)
      (g := fun x f act l => sumTree f (vecMode x o.rm) (redWords x o.rm f) (srBits (laneCount f)) act l) rfl rfl
  · exact yieldsPair_vecRed (rounds := false) (g := fun _ f act l => redMM f false act l) rfl rfl
  · exact yieldsPair_vecRed (rounds := false) (g := fun _ f act l => redMM f true act l) rfl rfl

/-! ## The rescaled sum (05 R170) -/

/-- A vector operation whose bundle issues completes with what its definition answers. -/
theorem completes_va {i : Instr} {so : SlotOp} {s s1 s2 : State} {x x1 : Ctx} {ws : List (RegId × Nat)} {fl : Flg}
    (hso : slotOpOf i = some so) (hslot : slotOf i = some .va) (hst : so.stream = none) (h : Issues i s x s1 x1)
    (hrun : so.run (issAt i s) x1 (putCtx s1 x1) = .ok s2 ws fl) : Completes i s s2 ws fl := by
  have hop : opOf i = so := by rw [opOf, hso, Option.getD_some]
  have hexec : exec i s = issueAlone i so s := by rw [exec_slot i s (by rw [hso]; rfl), hop]
  exact completes hexec hso (slotFor_lt hslot _) (slotFor_ne hslot (by decide) _) (by simp [hst]) h hrun

/-- Settles O11: the two branches of the model, with the context's own number where the statement names the issuing one. -/
theorem vectorRescaledSum : Obligations.VectorRescaledSum := by
  intro o s s1 x x1 h
  have hid : x1.id = s.cur := (settle_id h.settles).trans h.itsId
  refine ⟨fun hv => completes_va rfl rfl rfl h ?_, fun hv => completes_va rfl rfl rfl h ?_⟩
  · simp only [opVredRsum, plainOp, if_pos hv, hid]
  · simp only [opVredRsum, plainOp, if_neg hv, List.map_map]; rfl

/-! ## Masks (05 R172, R173) -/

theorem yieldsPair_vnfchk (o : VX) : let f := vxFmt o
    YieldsPair (.vnfchk o) (fun x =>
      let bad := fun i => !valIsFinite (laneV x o.a f i)
      ([(.m (mD o), maskResult x (mD o) o.m.toNat (laneWidth f) bad)],
        if ∃ i < laneCount f, active (rdM x o.m.toNat) (laneWidth f) i = true ∧ bad i = true then fNF else 0)) :=
  yieldsPair_pureOp (t := .va) rfl rfl (by decide) fun x => by
    simp only [vLanes_vA (laneWidth_dvd _), List.any_eq_true, List.mem_range, Bool.and_eq_true]; rfl

theorem yields_maskLogic {i : Instr} {o : VX} {g : Mask → Mask → Mask} (hso : slotOpOf i = some (maskLogic o g))
    (hslot : slotOf i = some .va) :
    Yields i (fun x => [(.m (mD o), (g (rdM x (low4 o.a)) (rdM x (low4 o.b))).toNat)]) noFlags :=
  yields_pureOp hso hslot (by decide) fun _ => rfl

theorem yields_mfirst (o : VX) : Yields (.mfirst o) (fun x => [(.s (low6 o.d), ((List.range (laneCount (vxFmt o))).find?
    (active (rdM x (low4 o.a)) (laneWidth (vxFmt o)))).getD (laneCount (vxFmt o)))]) noFlags :=
  yields_pureOp (t := .va) rfl rfl (by decide) fun x => by
    rw [maskElems, List.headD_eq_head?_getD, List.head?_filter]; rfl

/-- Half of a mask replaced (05 R173). -/
theorem msetHalf_toNat (upper : Bool) (m : Mask) (v : Word) :
    (if upper then m.toNat % 2 ^ 64 + v.toNat * 2 ^ 64 else m.toNat / 2 ^ 64 * 2 ^ 64 + v.toNat) =
      ((if upper then v ++ m.setWidth 64 else m.extractLsb' 64 64 ++ v : Mask)).toNat := by
  have hm := m.isLt
  cases upper with
  | true =>
    rw [if_pos rfl, if_pos rfl, BitVec.toNat_append, ← Nat.shiftLeft_add_eq_or_of_lt (BitVec.isLt _), Nat.shiftLeft_eq,
      BitVec.toNat_setWidth, Nat.add_comm]
  | false =>
    have hhi : m.toNat / 2 ^ 64 < 2 ^ 64 := by omega
    rw [if_neg (by decide), if_neg (by decide), BitVec.toNat_append, ← Nat.shiftLeft_add_eq_or_of_lt v.isLt, Nat.shiftLeft_eq,
      BitVec.extractLsb'_toNat, Nat.shiftRight_eq_div_pow, Nat.mod_eq_of_lt hhi]

theorem yields_mset (o : VX) : Yields (.mset o) (fun x => [(.m (mD o),
    (if o.x.getLsbD 0 then rdS x (low6 o.a) ++ (rdM x (mD o)).setWidth 64
      else (rdM x (mD o)).extractLsb' 64 64 ++ rdS x (low6 o.a) : Mask).toNat)]) noFlags :=
  yields_pureOp (t := .va) rfl rfl (by decide) fun x => by
    dsimp only
    rw [msetHalf_toNat]; rfl

/-! ## The generator (05 R174) -/

/-- A lane of a register made of lanes. -/
theorem laneAt_ofLanes (w : Nat) : ∀ (l : List Nat) (i : Nat), laneAt (ofLanes w l) w i = l.getD i 0 % 2 ^ w
  | [], i => by simp [ofLanes, laneAt]
  | a :: l, 0 => by simp [ofLanes, laneAt]
  | a :: l, i + 1 => by
    have hstep : ofLanes w (a :: l) >>> (w * (i + 1)) = ofLanes w l >>> (w * i) := by
      have hdiv : (ofLanes w l * 2 ^ w + a % 2 ^ w) / 2 ^ w = ofLanes w l := by
        rw [Nat.mul_comm, Nat.mul_add_div (Nat.two_pow_pos w), Nat.div_eq_of_lt (Nat.mod_lt _ (Nat.two_pow_pos w)), Nat.add_zero]
      rw [Nat.mul_succ, Nat.add_comm, Nat.shiftRight_add, Nat.shiftRight_eq_div_pow _ w]
      exact congrArg (· >>> (w * i)) hdiv
    rw [laneAt, hstep, ← laneAt, laneAt_ofLanes w l i, List.getD_cons_succ]

/-- A byte of a wider lane. -/
theorem laneAt_byte (v j k : Nat) (hk : k < 16) : laneAt v 8 (16 * j + k) = laneAt v 128 j / 2 ^ (8 * k) % 256 := by
  have hpow : 2 ^ 128 = 2 ^ (8 * k) * 2 ^ (128 - 8 * k) := by rw [← Nat.pow_add]; congr 1; omega
  have h256 : 256 ∣ 2 ^ (128 - 8 * k) := Nat.pow_dvd_pow 2 (show 8 ≤ 128 - 8 * k by omega)
  rw [laneAt, laneAt, show 8 * (16 * j + k) = 128 * j + 8 * k by omega, Nat.shiftRight_add, Nat.shiftRight_eq_div_pow _ (8 * k),
    hpow, Nat.mod_mul_right_div_self]
  exact (Nat.mod_mod_of_dvd _ h256).symm

theorem yieldsLanes_vrand (o : VX) : YieldsLanes (.vrand o) (vD o) o.m 8 (fun x i =>
    let v := (rdV x (vA o)).toNat
    let counter := (v % 2 ^ 128 + 8 * (rdS x (low6 o.b)).toNat + i / 16) % 2 ^ 128
    (randBlock counter (v / 2 ^ 128 % 2 ^ 64) / 2 ^ (8 * (i % 16)) % 256, 0)) :=
  yieldsLanes_vecOp_lt rfl rfl fun x i hi => by
    have hj : i / 16 < 8 := by omega
    have hk : i % 16 < 16 := Nat.mod_lt _ (by decide)
    have hpow : 2 ^ 128 = 2 ^ (8 * (i % 16)) * 2 ^ (128 - 8 * (i % 16)) := by rw [← Nat.pow_add]; congr 1; omega
    have h256 : 256 ∣ 2 ^ (128 - 8 * (i % 16)) := Nat.pow_dvd_pow 2 (show 8 ≤ 128 - 8 * (i % 16) by omega)
    have hsplit : i = 16 * (i / 16) + i % 16 := by omega
    dsimp only
    conv_lhs => rw [hsplit]
    rw [laneAt_byte _ _ _ hk, laneAt_ofLanes, List.getD_eq_getElem?_getD, List.getElem?_map, List.getElem?_range hj,
      Option.map_some, Option.getD_some, Nat.mod_add_mod, hpow, Nat.mod_mul_right_div_self, Nat.mod_mod_of_dvd _ h256]

/-- Settles O12: the mask instructions as word operations, the generator byte by byte. -/
theorem vectorMasks : Obligations.VectorMasks := fun o =>
  ⟨yieldsPair_vnfchk o, yields_maskLogic (g := fun a b => a &&& b) rfl rfl, yields_maskLogic (g := fun a b => a ||| b) rfl rfl,
    yields_maskLogic (g := fun a b => a ^^^ b) rfl rfl, yields_pureOp (t := .va) rfl rfl (by decide) fun _ => rfl,
    yields_pureOp (t := .va) rfl rfl (by decide) fun _ => rfl, yields_mfirst o, yields_mset o, yieldsLanes_vrand o⟩

end Sys2Proof.Machine
end

section
/-!
The transforms (05 R178 to R184): a 6-bit element fills the low bits of a byte lane, of which `xtr` reads no more (02 R49), while
the statement has it move the whole lane.
-/
namespace Sys2Proof.Machine

/-- An issue that lands one result has one landing: two descriptions of it agree. -/
theorem YieldsLate.landing_unique {i : Instr} {l l' : Ctx → Landing} {fl fl' : Ctx → Flg} (h : YieldsLate i l fl)
    (h' : YieldsLate i l' fl') {s s1 : State} {x x1 : Ctx} (hi : Issues i s x s1 x1) : l x1 = l' x1 := by
  have hid : x1.id = s.cur := (settle_id hi.settles).trans hi.itsId
  have hget : ∀ k : Landing, getCtx (addLanding (putCtx s1 x1) x1 k) s.cur = some { x1 with land := x1.land ++ [k] } := fun k => by
    rw [← hid]
    exact getCtx_modCtx _ _ (getCtx_putCtx_self s1 x1) rfl
  obtain ⟨t, hexec, hwrote⟩ := h s x s1 x1 hi _ _ _ (hget _) hid rfl
  obtain ⟨t', hexec', hwrote'⟩ := h' s x s1 x1 hi _ _ _ (hget _) hid rfl
  have ht : t = t' := by rw [hexec'] at hexec; injection hexec with e; exact e.symm
  subst ht
  obtain ⟨y, hy, -, -, -, -, -, -, -, hland, -⟩ := hwrote.ctx
  obtain ⟨y', hy', -, -, -, -, -, -, -, hland', -⟩ := hwrote'.ctx
  have hyy : y = y' := by rw [hy] at hy'; injection hy'
  subst hyy
  have hlist : x1.land ++ [l x1] = x1.land ++ [l' x1] := hland.symm.trans hland'
  simpa using hlist

/-- `xtr` as the model has it: the bits of its elements, transposed. -/
theorem yieldsLate_xtr (o : XR) : YieldsLate (.xtr o) (fun x =>
    let w := laneWidth (xrFd o)
    let n := 1024 / w
    let r := 2 ^ ((o.x.extractLsb' 0 2).toNat + 1)
    landV x (xD o) (ofLanes w ((List.range n).map (fun l =>
      (bitLanes x (xA o) (xrFd o)).getD (l % r * (n / r) + l / r) 0))) 4) noFlags :=
  yieldsLate_of (so := opXtr o) (t := .xf) (fun _ => rfl) rfl rfl (by decide) (fun _ h => nomatch h) fun _ _ _ => rfl

/-! ## A register of byte lanes with a bit above the six of their elements -/

/-- `xtr` of MXE3M2 elements, from v1 into v2, as two rows. -/
def sixBitXtr : XR := { d := 2, a := 1, b := 0, k := 0, f := 7, g := 0, rm := 0, x := 0 }

/-- A context whose v1 has bit 6 of its first lane set. -/
def sixBitCtx : Ctx := { fetchCtx with v := [(1, 0x40)] }

def sixBitState : State := { putCtx (readyCore State.reset) sixBitCtx with cur := fetchCtxId }

theorem issues_sixBitXtr : Issues (.xtr sixBitXtr) sixBitState sixBitCtx sixBitState sixBitCtx where
  here := rfl
  itsId := rfl
  legal := by decide
  operands := rfl
  present := rfl
  mode := rfl
  seen := rfl
  sources := by decide
  noPoison := by decide
  noFailure := by decide
  noBlock := rfl
  streamRoom := by decide
  noHold := rfl
  noFreeze := by decide +kernel
  inWindow := by decide
  settles := rfl

/-- Refutes O13: `xtr` of a 6-bit format moves bits [5:0] of a byte lane, so a lane of 0x40 lands as 0 and not as itself. -/
theorem not_scaleAndTransform : ¬ Obligations.ScaleAndTransform := by
  intro h
  have hland := (h.2 sixBitXtr).1.landing_unique (yieldsLate_xtr sixBitXtr) issues_sixBitXtr
  have hval := congrArg Landing.vval hland
  revert hval
  decide +kernel

end Sys2Proof.Machine
end

section
/-!
The LS slot and the memory accesses of SX at issue (07 R217 to R254, 05 R176, 11 R352 to R355): what each operation answers where its
checks pass, and the trap of an operation whose bundle issues.
-/
namespace Sys2Proof.Machine

/-! ## An operation that traps in its issue -/

/-- An operation that issues and then traps takes the trap of its slot, once no result is still to come (06 R208). -/
theorem exec_of_run_trap {i : Instr} {so : SlotOp} {s s1 : State} {x x1 : Ctx} {t : TrapC} (hso : slotOpOf i = some so)
    (hs : slotFor i s.iss.slot < 16) (hst : ∀ j, so.stream = some j → j < 16) (h : Issues i s x s1 x1) (hearly : earlyOf i s x = s)
    (hu : unfinished x = false) (hrun : so.run (issAt i s) x1 (putCtx s1 x1) = .trap t) :
    exec i s = .next (takeTrap s s.cur (trapB (issAt i s).slot t) x.pc) := by
  have hop : opOf i = so := by simp [opOf, hso]
  have hsole : (issueOf i so s x false).exec = [soleOp i s] := by simp [issueOf, soleOp, hop]
  have hso' : (soleOp i s).so = so := hop
  have hat : issOf (soleOp i s) s.iss.len = issAt i s := rfl
  have hwin : outside x1 so = none := hop ▸ h.inWindow
  have hex : exhaust x1 [soleOp i s] so = none := by
    unfold exhaust
    cases hj : so.stream with
    | none => rfl
    | some j =>
      have hp : passes x [soleOp i s] j = false := by
        simpa using List.find?_eq_none.mp h.streamRoom j (List.mem_range.mpr (hst j hj))
      simp [passes_settle h.settles, hp]
  have hone : runOne x1 [soleOp i s] s.iss.len (soleOp i s) (putCtx s1 x1) = .trap t := by
    simp [runOne, hso', hwin, hat, hrun, hex]
  have hissue : issue s x (issueOf i so s x false) = trapNow s x (trapB (issAt i s).slot t) := by
    have hset : settle s x = some (s1, x1) := by
      have hset := h.settles
      rwa [hearly] at hset
    unfold issue
    rw [hset, hsole]
    simp only [runAll, show (issueOf i so s x false).len = s.iss.len from rfl, hone]
    rfl
  have hexec : exec i s = issueAlone i so s := by rw [exec_slot i s (by simp [hso]), hop]
  rw [hexec, issueAlone, h.here]
  simp only [present_issues false hso hs h, hearly, hissue]
  simp [trapNow, hu, presented, h.itsId]

/-- The trap of an operation of the LS, SX and SY slots that does nothing before its issue. -/
theorem exec_of_mem_trap {i : Instr} {so : SlotOp} {s s1 : State} {x x1 : Ctx} {cause sub a : Nat} {sl : Slot} (hso : slotOpOf i = some so)
    (hsl : slotOf i = some sl) (hst : ∀ j, so.stream = some j → j < 16) (h : Issues i s x s1 x1) (hearly : earlyOf i s x = s)
    (hu : unfinished x = false) (hrun : so.run (issAt i s) x1 (putCtx s1 x1) = .trap (trapC cause sub a)) :
    exec i s = .next (takeTrap s s.cur { cause := cause, info := infoB (issAt i s).slot sub 0, addr := BitVec.ofNat 64 a } x.pc) :=
  exec_of_run_trap (t := trapC cause sub a) hso (slotFor_lt hsl _) hst h hearly hu hrun

/-! ## Addresses -/

theorem lt_of_inContain {a : Nat} (h : inContain a = true) : a < 2 ^ 56 := by
  simp only [inContain, Bool.and_eq_true, decide_eq_true_eq] at h
  unfold containBase at h
  omega

/-- The words of the containment window that a store may write are those of 12 R413 to R416. -/
theorem containStore_eq {a : Nat} {w : Word} (h : a - containBase = 0x4000 ∨ (0x2000 ≤ a - containBase ∧ a - containBase < 0x4000 ∧
    (a - containBase) % 16 = 0 ∧ w.getLsbD 56 = false)) : containStore a w = true := by
  rcases h with h | ⟨h1, h2, h3, h4⟩
  · simp [containStore, h]
  · simp only [containStore, h1, h2, h3, h4, true_and, Bool.or_eq_true, decide_true, Bool.true_and, beq_self_eq_true,
      Bool.not_false, or_true]

/-- A doubleword access at the k-th FIFO register. -/
theorem lsFifo_at {o : LM} {a k : Nat} (hk : k < 6) (ha : a = fifoBase + 8 * k) (h8 : lmSize o = 8) (hx : o.m.getLsbD 2 = false) :
    lsFifo o a = some k ∧ alignBad 8 a = none := by
  subst ha
  have h1 : inFifo (fifoBase + 8 * k) = true := by
    simp only [inFifo, Bool.and_eq_true, decide_eq_true_eq]
    omega
  have h2 : fifoBase + 8 * k - fifoBase = 8 * k := by omega
  have hd : 8 * k / 8 = k := by omega
  refine ⟨?_, alignBad_none (by unfold fifoBase; omega) (by unfold fifoBase; omega)⟩
  simp only [lsFifo, h8, hx, decide_true, Bool.not_false, Bool.and_self, if_true, fifoNo, h1, h2, hd, hk, Nat.mul_mod_right,
    beq_self_eq_true]

/-! ## Scalar loads and stores (07 R244) -/

/-- A load of memory: aligned, not of a FIFO register nor of the containment window at SH. -/
theorem starts_ld_memory (o : LM) : Starts (.ld o)
    (fun is x s => accessOk s x (lmAddr o x is.k (lmSize o)) (lmSize o) accRead ∧ inFifo (lmAddr o x is.k (lmSize o)) = false ∧
      lsContain x (lmSize o) (lmAddr o x is.k (lmSize o)) = false ∧ fifoMoved o x is.k = false)
    (fun is x s => startLoad (accessed s x (lmAddr o x is.k (lmSize o)) (lmSize o) accRead) x is o.ss.toNat o.pm (lmScope o)
      (.loadS (low6 o.d) (lmAddr o x is.k (lmSize o)) (lmSize o) (o.m.getLsbD 2)) (.s (low6 o.d))) := by
  refine yieldsIf_of (t := .ls) (fun _ => rfl) rfl rfl (by decide) (stream_lt _) ?_
  rintro is x s ⟨⟨ha, hal, hacc⟩, hf, hc, hm⟩
  change runLd o is x s = _
  simp only [runLd, alignBad_none ha hal, hm, lsFifo_none hf, hc, accessed_ok hacc, Bool.false_eq_true, if_false]

theorem starts_ld_contain (o : LM) : Starts (.ld o)
    (fun is x _ => x.lvl = 2 ∧ lmSize o = 8 ∧ inContain (lmAddr o x is.k (lmSize o)) = true ∧ lmAddr o x is.k (lmSize o) % 8 = 0 ∧
      inFifo (lmAddr o x is.k (lmSize o)) = false ∧ fifoMoved o x is.k = false)
    (fun is x s => startLoad s x is o.ss.toNat o.pm (lmScope o)
      (.loadS (low6 o.d) (lmAddr o x is.k (lmSize o)) (lmSize o) (o.m.getLsbD 2)) (.s (low6 o.d))) := by
  refine yieldsIf_of (t := .ls) (fun _ => rfl) rfl rfl (by decide) (stream_lt _) ?_
  rintro is x s ⟨hl, h8, hc, hal, hf, hm⟩
  change runLd o is x s = _
  have hal8 : lmAddr o x is.k (lmSize o) % lmSize o = 0 := by simpa only [h8] using hal
  have hwin : lsContain x (lmSize o) (lmAddr o x is.k (lmSize o)) = true := by
    rw [lsContain, hc, hl, h8]
    rfl
  simp only [runLd, alignBad_none (lt_of_inContain hc) hal8, hm, lsFifo_none hf, hwin, Bool.false_eq_true, if_false, if_true]

theorem starts_st_memory (o : LM) : Starts (.st o)
    (fun is x s => accessOk s x (lmAddr o x is.k (lmSize o)) (lmSize o) accWrite ∧ inFifo (lmAddr o x is.k (lmSize o)) = false ∧
      lsContain x (lmSize o) (lmAddr o x is.k (lmSize o)) = false ∧ fifoMoved o x is.k = false ∧
      ¬ (x.lvl = 2 ∧ lmSize o = 8 ∧ lmAddr o x is.k (lmSize o) = invalAddr))
    (fun is x s => startOp (accessed s x (lmAddr o x is.k (lmSize o)) (lmSize o) accWrite) x is o.ss.toNat o.pm (lmScope o)
      (.store false [(lmAddr o x is.k (lmSize o), natLe (lmSize o) (rdS x (low6 o.d)).toNat)])) := by
  refine yieldsIf_of (t := .ls) (fun _ => rfl) rfl rfl (by decide) (stream_lt _) ?_
  rintro is x s ⟨⟨ha, hal, hacc⟩, hf, hc, hm, hinv⟩
  change runSt o is x s = _
  have hi : (decide (x.lvl = 2) && decide (lmSize o = 8) && decide (lmAddr o x is.k (lmSize o) = invalAddr)) = false := by
    rw [Bool.eq_false_iff]
    simpa only [ne_eq, Bool.and_eq_true, decide_eq_true_eq, and_assoc] using hinv
  simp only [runSt, alignBad_none ha hal, hm, lsFifo_none hf, hi, hc, Bool.false_and, accessed_ok hacc, Bool.false_eq_true, if_false]

theorem starts_st_contain (o : LM) : Starts (.st o)
    (fun is x _ => x.lvl = 2 ∧ lmSize o = 8 ∧ inContain (lmAddr o x is.k (lmSize o)) = true ∧ lmAddr o x is.k (lmSize o) % 8 = 0 ∧
      inFifo (lmAddr o x is.k (lmSize o)) = false ∧ fifoMoved o x is.k = false ∧
      (lmAddr o x is.k (lmSize o) - containBase = 0x4000 ∨ (0x2000 ≤ lmAddr o x is.k (lmSize o) - containBase ∧
        lmAddr o x is.k (lmSize o) - containBase < 0x4000 ∧ (lmAddr o x is.k (lmSize o) - containBase) % 16 = 0 ∧
        (rdS x (low6 o.d)).getLsbD 56 = false)))
    (fun is x s => startOp s x is o.ss.toNat o.pm (lmScope o)
      (.store false [(lmAddr o x is.k (lmSize o), natLe 8 (rdS x (low6 o.d)).toNat)])) := by
  refine yieldsIf_of (t := .ls) (fun _ => rfl) rfl rfl (by decide) (stream_lt _) ?_
  rintro is x s ⟨hl, h8, hc, hal, hf, hm, hw⟩
  change runSt o is x s = _
  have hal8 : lmAddr o x is.k (lmSize o) % lmSize o = 0 := by simpa only [h8] using hal
  have hwin : lsContain x (lmSize o) (lmAddr o x is.k (lmSize o)) = true := by
    rw [lsContain, hc, hl, h8]
    rfl
  have hne : lmAddr o x is.k (lmSize o) ≠ invalAddr := by
    intro e
    rw [e] at hc
    exact absurd hc (by decide)
  simp only [runSt, alignBad_none (lt_of_inContain hc) hal8, hm, lsFifo_none hf, hne, hwin, containStore_eq hw, decide_false,
    Bool.and_false, Bool.and_self, Bool.false_eq_true, if_false, if_true]

theorem starts_st_inval (o : LM) : Starts (.st o)
    (fun is x _ => x.lvl = 2 ∧ lmSize o = 8 ∧ lmAddr o x is.k (lmSize o) = invalAddr ∧ fifoMoved o x is.k = false)
    (fun is x s => startOp s x is o.ss.toNat o.pm 3 (.inval (rdS x (low6 o.d)))) := by
  refine yieldsIf_of (t := .ls) (fun _ => rfl) rfl rfl (by decide) (stream_lt _) ?_
  rintro is x s ⟨hl, h8, ha, hm⟩
  change runSt o is x s = _
  have hal : alignBad (lmSize o) invalAddr = none := h8 ▸ alignBad_none (by decide) (by decide)
  have hf : lsFifo o invalAddr = none := lsFifo_none (by decide)
  rw [runSt, ha, hal]
  simp only [hm, hf, hl, decide_true, Bool.true_and, Bool.and_true, Bool.false_eq_true, if_false]
  rw [h8]
  rfl

/-- Settles O14: each clause is the run of its own kind of access. -/
theorem scalarLoadStoreIssue : Obligations.ScalarLoadStoreIssue := by
  unfold Obligations.ScalarLoadStoreIssue
  exact fun o => ⟨starts_ld_memory o, starts_st_memory o, starts_ld_contain o, starts_st_contain o, starts_st_inval o⟩

/-! ## Link FIFO registers (11 R352 to R355) -/

/-- An access that a step has moved away from its FIFO traps PAGE_PERM with sub-cause 3 (11 R352; log 123). -/
theorem run_fifoMoved {o : LM} {is : Iss} {x : Ctx} {s : State} (h8 : lmSize o = 8) (hm : fifoMoved o x is.k = true)
    (ha : lmAddr o x is.k 8 < 2 ^ 56) (hal : lmAddr o x is.k 8 % 8 = 0) :
    runLd o is x s = .trap (trapC 8 3 (lmAddr o x is.k 8)) ∧ runSt o is x s = .trap (trapC 8 3 (lmAddr o x is.k 8)) := by
  constructor
  · simp only [runLd, h8, alignBad_none ha hal, hm, if_true]
  · simp only [runSt, h8, alignBad_none ha hal, hm, if_true]

/-- Settles O15: a receive takes the head of its FIFO, a send appends; a moved access traps. -/
theorem linkFifoAccess : Obligations.LinkFifoAccess := by
  unfold Obligations.LinkFifoAccess
  intro o k h8 hx
  refine ⟨?_, ?_, ?_⟩
  · refine yieldsIf_of (t := .ls) (fun _ => rfl) rfl rfl (by decide) (stream_lt _) ?_
    rintro is x s ⟨hk, ha, hm, hne⟩
    obtain ⟨hf, hal⟩ := lsFifo_at hk ha h8 hx
    change runLd o is x s = _
    cases hr : recvFifo s x.id.cl k with
    | nil => exact absurd hr hne
    | cons w rest => simp only [runLd, h8, hal, hm, hf, hr, Bool.false_eq_true, if_false]; rfl
  · refine yieldsIf_of (t := .ls) (fun _ => rfl) rfl rfl (by decide) (stream_lt _) ?_
    rintro is x s ⟨hk, ha, hm⟩
    obtain ⟨hf, hal⟩ := lsFifo_at hk ha h8 hx
    change runSt o is x s = _
    simp only [runSt, h8, hal, hm, hf, Bool.false_eq_true, if_false]
    rfl
  · intro i hi s x s1 x1 h hu a hm ha hal
    have hrun := run_fifoMoved (s := putCtx s1 x1) h8 hm ha hal
    rcases hi with rfl | rfl
    · exact exec_of_mem_trap (so := opLd o) (sl := .ls) rfl rfl (stream_lt _) h rfl hu hrun.1
    · exact exec_of_mem_trap (so := opSt o) (sl := .ls) rfl rfl (stream_lt _) h rfl hu hrun.2

end Sys2Proof.Machine
end

section
/-!
Vector, strided and indexed accesses, atomics, reductions, prefetch and scale accesses (07 R245 to R252, 05 R176), and the alignment
traps of all of them (07 R219, 04 R139).
-/
namespace Sys2Proof.Machine

/-! ## Several addresses -/

/-- The checks of several addresses that find nothing. -/
theorem checkAll_ok {s : State} {x : Ctx} {n : Nat} {r : AccReq} {l : List Nat} (h : (checkAll s x n r l).2 = none) :
    checkAll s x n r l = ((checkAll s x n r l).1, none) := by
  rw [← h]

/-- ALIGN of an address, as a trap. -/
theorem alignBad_some {n a : Nat} (h : (decide (2 ^ 56 ≤ a) || a % n != 0) = true) : alignBad n a = some (trapC 6 0 (a % 2 ^ 56)) := by
  rw [alignBad, if_pos h]

theorem alignBad_eq_none {n a : Nat} (h : (decide (2 ^ 56 ≤ a) || a % n != 0) = false) : alignBad n a = none := by
  rw [alignBad, if_neg (by simp only [h, Bool.false_eq_true, not_false_eq_true])]

/-- ALIGN of several addresses is that of the first that has one. -/
theorem alignAll_some {n a : Nat} {l : List Nat} (h : l.find? (fun b => decide (2 ^ 56 ≤ b) || b % n != 0) = some a) :
    alignAll n l = some (trapC 6 0 (a % 2 ^ 56)) := by
  unfold alignAll
  induction l with
  | nil => exact absurd h (by simp)
  | cons b r ih =>
    by_cases hb : (decide (2 ^ 56 ≤ b) || b % n != 0) = true
    · rw [List.find?_cons, hb] at h
      cases h
      simp only [firstSome, alignBad_some hb]
    · rw [Bool.not_eq_true] at hb
      rw [List.find?_cons, hb] at h
      simp only [firstSome, alignBad_eq_none hb]
      exact ih h

/-- The one address of an access, where it is the first that is not aligned. -/
theorem alignBad_of_find {n a b : Nat} (h : [b].find? (fun b => decide (2 ^ 56 ≤ b) || b % n != 0) = some a) :
    alignBad n b = some (trapC 6 0 (a % 2 ^ 56)) := by
  have hall := alignAll_some h
  unfold alignAll firstSome at hall
  cases hb : alignBad n b with
  | none => simp [hb, firstSome] at hall
  | some t => simpa only [hb] using hall

/-! ## Vector, strided and indexed accesses (07 R245 to R247) -/

section
variable (o : LM)

theorem starts_vld : Starts (.vld o)
    (fun is x s => rdM x o.m.toNat ≠ 0 ∧ accessOk s x (lmAddr o x is.k 128) 128 accRead)
    (fun is x s => startVec (accessed s x (lmAddr o x is.k 128) 128 accRead) x is o.ss.toNat o.pm (lmScope o)
      (.loadV o.d.toNat (lmAddr o x is.k 128) (rdM x o.m.toNat)) o.d.toNat) := by
  refine yieldsIf_of (t := .ls) (fun _ => rfl) rfl rfl (by decide) (stream_lt _) ?_
  rintro is x s ⟨hm, ha, hal, hacc⟩
  change runVld o is x s = _
  simp only [runVld, alignBad_none ha hal, hm, accessed_ok hacc, if_false]

theorem starts_vst : Starts (.vst o)
    (fun is x s => rdM x o.m.toNat ≠ 0 ∧ accessOk s x (lmAddr o x is.k 128) 128 accWrite)
    (fun is x s => startOp (accessed s x (lmAddr o x is.k 128) 128 accWrite) x is o.ss.toNat o.pm (lmScope o)
      (.store true ((maskRuns (rdM x o.m.toNat)).map
        (fun r => (lmAddr o x is.k 128 + r.1, ((natLe 128 (rdV x o.d.toNat).toNat).drop r.1).take r.2))))) := by
  refine yieldsIf_of (t := .ls) (fun _ => rfl) rfl rfl (by decide) (stream_lt _) ?_
  rintro is x s ⟨hm, ha, hal, hacc⟩
  change runVst o is x s = _
  simp only [runVst, alignBad_none ha hal, hm, accessed_ok hacc, if_false, vecBytes]

/-- With no active lane a vector access is performed at its issue. -/
theorem starts_vld_none : Starts (.vld o) (fun is x _ => rdM x o.m.toNat = 0 ∧ lmAddr o x is.k 128 < 2 ^ 56 ∧ lmAddr o x is.k 128 % 128 = 0)
    (fun _ x s => passOp s x o.ss.toNat) := by
  refine yieldsIf_of (t := .ls) (fun _ => rfl) rfl rfl (by decide) (stream_lt _) ?_
  rintro is x s ⟨hm, ha, hal⟩
  change runVld o is x s = _
  simp only [runVld, alignBad_none ha hal, hm, if_true]

theorem starts_vst_none : Starts (.vst o) (fun is x _ => rdM x o.m.toNat = 0 ∧ lmAddr o x is.k 128 < 2 ^ 56 ∧ lmAddr o x is.k 128 % 128 = 0)
    (fun _ x s => passOp s x o.ss.toNat) := by
  refine yieldsIf_of (t := .ls) (fun _ => rfl) rfl rfl (by decide) (stream_lt _) ?_
  rintro is x s ⟨hm, ha, hal⟩
  change runVst o is x s = _
  simp only [runVst, alignBad_none ha hal, hm, if_true]

theorem starts_vlds : Starts (.vlds o) (fun is x s => accessesOk s x (vldsAddrs o x is.k) (lmSize o) accRead)
    (fun is x s => startVec (checkAll s x (lmSize o) accRead (vldsAddrs o x is.k)).1 x is o.ss.toNat o.pm (lmScope o)
      (.loadL o.d.toNat (lmSize o) (laneAddrs (vldsAddrs o x is.k)) true) o.d.toNat) := by
  refine yieldsIf_of (t := .ls) (fun _ => rfl) rfl rfl (by decide) (stream_lt _) ?_
  rintro is x s ⟨hal, hacc⟩
  change runVlds o is x s = _
  rw [runVlds, alignAll_none hal]
  simp only
  rw [checkAll_ok hacc]
end

section
variable (o : LG)

theorem starts_vgth : Starts (.vgth o)
    (fun _ x s => gatherLanes o x ≠ [] ∧ (rdS x o.a.toNat).toNat % 2 ^ 56 % lgSize o = 0 ∧
      accessesOk s x ((gatherLanes o x).map (fun p => p.2)) (lgSize o) accRead)
    (fun is x s => startVec (checkAll s x (lgSize o) accRead ((gatherLanes o x).map (fun p => p.2))).1 x is o.ss.toNat o.pm 3
      (.loadL o.d.toNat (lgSize o) (gatherLanes o x) false) o.d.toNat) := by
  refine yieldsIf_of (t := .ls) (fun _ => rfl) rfl rfl (by decide) (stream_lt _) ?_
  rintro is x s ⟨hl, hb, hal, hacc⟩
  change runVgth o is x s = _
  rw [runVgth, alignBad_none (Nat.mod_lt _ (by decide)) hb, alignAll_none hal]
  simp only [if_neg hl]
  rw [checkAll_ok hacc]

theorem starts_vsct : Starts (.vsct o)
    (fun _ x s => gatherLanes o x ≠ [] ∧ (rdS x o.a.toNat).toNat % 2 ^ 56 % lgSize o = 0 ∧
      accessesOk s x ((gatherLanes o x).map (fun p => p.2)) (lgSize o) accWrite)
    (fun is x s => startOp (checkAll s x (lgSize o) accWrite ((gatherLanes o x).map (fun p => p.2))).1 x is o.ss.toNat o.pm 3
      (.store false ((lastLanes (gatherLanes o x)).map (fun p => (p.2, natLe (lgSize o) (lane x o.d (8 * lgSize o) p.1)))))) := by
  refine yieldsIf_of (t := .ls) (fun _ => rfl) rfl rfl (by decide) (stream_lt _) ?_
  rintro is x s ⟨hl, hb, hal, hacc⟩
  change runVsct o is x s = _
  rw [runVsct, alignBad_none (Nat.mod_lt _ (by decide)) hb, alignAll_none hal]
  simp only [if_neg hl]
  rw [checkAll_ok hacc]
  rfl

/-- With no active lane a gather or a scatter is performed at its issue. -/
theorem starts_indexed_none (i : Instr) (hi : i = .vgth o ∨ i = .vsct o) : Starts i
    (fun _ x _ => gatherLanes o x = [] ∧ (rdS x o.a.toNat).toNat % 2 ^ 56 % lgSize o = 0) (fun _ x s => passOp s x o.ss.toNat) := by
  rcases hi with rfl | rfl
  · refine yieldsIf_of (t := .ls) (fun _ => rfl) rfl rfl (by decide) (stream_lt _) ?_
    rintro is x s ⟨hl, hb⟩
    change runVgth o is x s = _
    rw [runVgth, alignBad_none (Nat.mod_lt _ (by decide)) hb, hl]
    rfl
  · refine yieldsIf_of (t := .ls) (fun _ => rfl) rfl rfl (by decide) (stream_lt _) ?_
    rintro is x s ⟨hl, hb⟩
    change runVsct o is x s = _
    rw [runVsct, alignBad_none (Nat.mod_lt _ (by decide)) hb, hl]
    rfl
end

/-- Settles O16: by kind of access, with and without an active lane. -/
theorem vectorLoadStoreIssue : Obligations.VectorLoadStoreIssue := by
  unfold Obligations.VectorLoadStoreIssue
  exact ⟨fun o => ⟨starts_vld o, starts_vst o, starts_vld_none o, starts_vst_none o, starts_vlds o⟩,
    fun o => ⟨starts_vgth o, starts_vsct o, starts_indexed_none o⟩⟩

/-! ## Atomics, reductions and prefetch (07 R248 to R252) -/

section
variable (o : LA)

theorem starts_amo : Starts (.amo o)
    (fun _ x s => accessOk s x (rdS x o.a.toNat).toNat (laSize o) (amoReq (o.e.toNat == 0 || o.e.toNat == 8)))
    (fun is x s => startLoad (accessed s x (rdS x o.a.toNat).toNat (laSize o) (amoReq (o.e.toNat == 0 || o.e.toNat == 8))) x is
      o.ss.toNat o.pm
      (atomicScope (accessPlace s x (rdS x o.a.toNat).toNat (laSize o) (amoReq (o.e.toNat == 0 || o.e.toNat == 8))) (laScope o))
      (.amo (some o.d.toNat) o.e.toNat (rdS x o.a.toNat).toNat (laSize o) ((rdS x o.b.toNat).toNat % 2 ^ (8 * laSize o)) (laSx o))
      (.s o.d.toNat)) := by
  refine yieldsIf_of (t := .ls) (fun _ => rfl) rfl rfl (by decide) (stream_lt _) ?_
  rintro is x s ⟨ha, hal, hacc⟩
  change runAmo o is x s = _
  simp only [runAmo, alignBad_none ha hal, accessed_ok hacc, opLow]

theorem starts_cas : Starts (.cas o) (fun _ x s => accessOk s x (rdS x o.a.toNat).toNat (laSize o) (amoReq true))
    (fun is x s => startLoad (accessed s x (rdS x o.a.toNat).toNat (laSize o) (amoReq true)) x is o.ss.toNat o.pm
      (atomicScope (accessPlace s x (rdS x o.a.toNat).toNat (laSize o) (amoReq true)) (laScope o))
      (.cas o.d.toNat (rdS x o.a.toNat).toNat (laSize o) ((rdS x o.b.toNat).toNat % 2 ^ (8 * laSize o))
        ((rdS x o.e.toNat).toNat % 2 ^ (8 * laSize o)) (laSx o)) (.s o.d.toNat)) := by
  refine yieldsIf_of (t := .ls) (fun _ => rfl) rfl rfl (by decide) (stream_lt _) ?_
  rintro is x s ⟨ha, hal, hacc⟩
  change runCas o is x s = _
  simp only [runCas, alignBad_none ha hal, accessed_ok hacc, opLow]

theorem starts_red : Starts (.red o) (fun _ x s => accessOk s x (rdS x o.a.toNat).toNat (laSize o) (amoReq false))
    (fun is x s => startOp (accessed s x (rdS x o.a.toNat).toNat (laSize o) (amoReq false)) x is o.ss.toNat o.pm
      (atomicScope (accessPlace s x (rdS x o.a.toNat).toNat (laSize o) (amoReq false)) (laScope o))
      (.amo none o.e.toNat (rdS x o.a.toNat).toNat (laSize o) ((rdS x o.b.toNat).toNat % 2 ^ (8 * laSize o)) false)) := by
  refine yieldsIf_of (t := .ls) (fun _ => rfl) rfl rfl (by decide) (stream_lt _) ?_
  rintro is x s ⟨ha, hal, hacc⟩
  change runRed o is x s = _
  simp only [runRed, alignBad_none ha hal, accessed_ok hacc, opLow]
end

section
variable (o : LG)

/-- A reduction that is no rescale, or one with a valid contribution, has something to do (07 R251). -/
theorem vmEmpty_false {o : LG} {x : Ctx} (h : vmRescale o = true → vmNv o x ≠ 0) : vmEmpty o x = false := by
  unfold vmEmpty
  cases hr : vmRescale o with
  | false => rfl
  | true => simpa using h hr

theorem starts_vredm : Starts (.vredm o)
    (fun _ x s => accessOk s x (rdS x o.a.toNat).toNat 128 (amoReq false) ∧ vredmLanes o x ≠ [] ∧ (vmRescale o = true → vmNv o x ≠ 0))
    (fun is x s => startOp (accessed s x (rdS x o.a.toNat).toNat 128 (amoReq false)) x is o.ss.toNat o.pm
      (atomicScope (accessPlace s x (rdS x o.a.toNat).toNat 128 (amoReq false)) (vmScope o))
      (.vredm (rdS x o.a.toNat).toNat (fmtCode (vmFmt o)) (vmOp o) (vredmLanes o x))) := by
  refine yieldsIf_of (t := .ls) (fun _ => rfl) rfl rfl (by decide) (stream_lt _) ?_
  rintro is x s ⟨⟨ha, hal, hacc⟩, hl, hnv⟩
  change runVredm o is x s = _
  simp only [runVredm, alignBad_none ha hal, hl, accessed_ok hacc, vmEmpty_false hnv, false_and, Bool.false_eq_true, if_false]

/-- With no active lane a `vredm` is performed at its issue (log 88). -/
theorem starts_vredm_none : Starts (.vredm o)
    (fun _ x _ => (rdS x o.a.toNat).toNat < 2 ^ 56 ∧ (rdS x o.a.toNat).toNat % 128 = 0 ∧ vredmLanes o x = [] ∧
      (vmRescale o = true → vmNv o x ≠ 0)) (fun _ x s => passOp s x o.ss.toNat) := by
  refine yieldsIf_of (t := .ls) (fun _ => rfl) rfl rfl (by decide) (stream_lt _) ?_
  rintro is x s ⟨ha, hal, hl, hnv⟩
  change runVredm o is x s = _
  simp only [runVredm, alignBad_none ha hal, hl, vmEmpty_false hnv, and_self, Bool.false_eq_true, if_false, if_true]

/-- With no valid contribution a rescaling `vredm` passes its checks and posts its event. -/
theorem starts_vredm_invalid (hr : vmRescale o = true) : Starts (.vredm o)
    (fun _ x s => accessOk s x (rdS x o.a.toNat).toNat 128 (amoReq false) ∧ vmNv o x = 0)
    (fun is x s => postEvent (passOp (accessed s x (rdS x o.a.toNat).toNat 128 (amoReq false)) x o.ss.toNat) x.id x.env.iter
      (eventRec 8 is.slot 0 x.id.ctx x.pc (rdS x o.a.toNat).toNat)) := by
  refine yieldsIf_of (t := .ls) (fun _ => rfl) rfl rfl (by decide) (stream_lt _) ?_
  rintro is x s ⟨⟨ha, hal, hacc⟩, hnv⟩
  have he : vmEmpty o x = true := by simp [vmEmpty, hr, hnv]
  change runVredm o is x s = _
  simp only [runVredm, alignBad_none ha hal, he, accessed_ok hacc, Bool.true_eq_false, and_false, if_false, if_true,
    Nat.mod_eq_of_lt ha]
end

theorem starts_pref (o : LM) : Starts (.pref o) (fun _ _ _ => True)
    (fun is x s => startOp s x is o.ss.toNat o.pm 0 (.pref (o.d.extractLsb' 0 2).toNat (lmAddr o x is.k 128))) :=
  yieldsIf_of (so := opPref o) (t := .ls) (fun _ => rfl) rfl rfl (by decide) (stream_lt _) fun _ _ _ _ => rfl

/-- Settles O17: by instruction; `vredm` by whether it has lanes and valid contributions. -/
theorem atomicIssue : Obligations.AtomicIssue := by
  unfold Obligations.AtomicIssue
  exact ⟨fun o => ⟨starts_amo o, starts_cas o, starts_red o⟩,
    fun o => ⟨starts_vredm o, starts_vredm_none o, starts_vredm_invalid o⟩, starts_pref⟩

/-! ## Scale accesses (05 R176) -/

/-- An access of the SX slot inside Mere is checked as a read. -/
theorem kmCheck_mere {s : State} {x : Ctx} {a : Nat} {w : Bool} (h : inMere a = true)
    (hacc : ∃ p, (ctxAccess s x a 32 accRead).2 = .ok p) :
    kmCheck s x a w = (accessed s x a 32 accRead, .ok (accessPlace s x a 32 accRead)) := by
  rw [kmCheck, if_pos h, accessed_ok hacc]

theorem starts_kld (o : KM) : Starts (.kld o)
    (fun is x s => kmAddr o x is.k < 2 ^ 56 ∧ kmAddr o x is.k % 32 = 0 ∧ inMere (kmAddr o x is.k) = true ∧
      ∃ p, (ctxAccess s x (kmAddr o x is.k) 32 accRead).2 = .ok p)
    (fun is x s => addLanding (startOp (accessed s x (kmAddr o x is.k) 32 accRead) x is o.ss.toNat o.pm 0
        (.kld o.d.toNat (kmAddr o x is.k))) x
      { landK x o.d.toNat 0 6 with wait := some (nextSeq (accessed s x (kmAddr o x is.k) 32 accRead) x.id), addr := kmAddr o x is.k }) := by
  refine yieldsIf_of (t := .sx) (fun _ => rfl) rfl rfl (by decide) (stream_lt _) ?_
  rintro is x s ⟨ha, hal, hm, hacc⟩
  change runKld o is x s = _
  simp only [runKld, alignBad_none ha hal, kmCheck_mere hm hacc]

theorem starts_kst (o : KM) : Starts (.kst o)
    (fun is x s => kmAddr o x is.k < 2 ^ 56 ∧ kmAddr o x is.k % 32 = 0 ∧ inMere (kmAddr o x is.k) = true ∧
      ∃ p, (ctxAccess s x (kmAddr o x is.k) 32 accRead).2 = .ok p)
    (fun is x s => startOp (accessed s x (kmAddr o x is.k) 32 accRead) x is o.ss.toNat o.pm 0
      (.store false [(kmAddr o x is.k, natLe 32 (rdK x o.d.toNat).toNat)])) := by
  refine yieldsIf_of (t := .sx) (fun _ => rfl) rfl rfl (by decide) (stream_lt _) ?_
  rintro is x s ⟨ha, hal, hm, hacc⟩
  change runKst o is x s = _
  simp only [runKst, alignBad_none ha hal, kmCheck_mere hm hacc]

/-- Settles O18. -/
theorem scaleLoadStoreIssue : Obligations.ScaleLoadStoreIssue := by
  unfold Obligations.ScaleLoadStoreIssue
  exact fun o => ⟨starts_kld o, starts_kst o⟩

end Sys2Proof.Machine
end

section
/-!
Alignment traps (07 R219, 04 R139) and the BR slot (04 R138 to R144).
-/
namespace Sys2Proof.Machine

/-! ## ALIGN of an access -/

/-- An operation that answers ALIGN for the address a. -/
def AlignTrap (i : Instr) (so : SlotOp) (is : Iss) (x : Ctx) (s : State) (a : Nat) : Prop :=
  slotOpOf i = some so ∧ so.run is x s = .trap (trapC 6 0 (a % 2 ^ 56))

/-- The trap of an operation that answers ALIGN. -/
theorem AlignTrap.exec {i : Instr} {so : SlotOp} {s s1 : State} {x x1 : Ctx} {a : Nat} {sl : Slot}
    (hr : AlignTrap i so (issAt i s) x1 (putCtx s1 x1) a) (hsl : slotOf i = some sl) (hst : ∀ j, so.stream = some j → j < 16)
    (h : Issues i s x s1 x1) (hearly : earlyOf i s x = s) (hu : unfinished x = false) :
    exec i s = .next (takeTrap s s.cur
      { cause := 6, info := infoB (issAt i s).slot 0 0, addr := BitVec.ofNat 64 (a % 2 ^ 56) } x.pc) :=
  exec_of_mem_trap hr.1 hsl hst h hearly hu hr.2

section
variable {is : Iss} {x : Ctx} {s : State} {a : Nat}

theorem alignTrap_ld {o : LM} (h : alignBad (lmSize o) (lmAddr o x is.k (lmSize o)) = some (trapC 6 0 (a % 2 ^ 56))) :
    AlignTrap (.ld o) (opLd o) is x s a := by
  refine ⟨rfl, ?_⟩
  change runLd o is x s = _
  rw [runLd, h]

theorem alignTrap_st {o : LM} (h : alignBad (lmSize o) (lmAddr o x is.k (lmSize o)) = some (trapC 6 0 (a % 2 ^ 56))) :
    AlignTrap (.st o) (opSt o) is x s a := by
  refine ⟨rfl, ?_⟩
  change runSt o is x s = _
  rw [runSt, h]

theorem alignTrap_vld {o : LM} (h : alignBad 128 (lmAddr o x is.k 128) = some (trapC 6 0 (a % 2 ^ 56))) :
    AlignTrap (.vld o) (opVld o) is x s a := by
  refine ⟨rfl, ?_⟩
  change runVld o is x s = _
  rw [runVld, h]

theorem alignTrap_vst {o : LM} (h : alignBad 128 (lmAddr o x is.k 128) = some (trapC 6 0 (a % 2 ^ 56))) :
    AlignTrap (.vst o) (opVst o) is x s a := by
  refine ⟨rfl, ?_⟩
  change runVst o is x s = _
  rw [runVst, h]

theorem alignTrap_vlds {o : LM} (h : alignAll (lmSize o) (vldsAddrs o x is.k) = some (trapC 6 0 (a % 2 ^ 56))) :
    AlignTrap (.vlds o) (opVlds o) is x s a := by
  refine ⟨rfl, ?_⟩
  change runVlds o is x s = _
  rw [runVlds, h]

/-- Of a gather or a scatter the base is looked at before the lanes. -/
theorem indexed_align {o : LG} (h : (((rdS x o.a.toNat).toNat % 2 ^ 56) :: (gatherLanes o x).map (·.2)).find?
      (fun b => decide (2 ^ 56 ≤ b) || b % lgSize o != 0) = some a) :
    AlignTrap (.vgth o) (opVgth o) is x s a ∧ AlignTrap (.vsct o) (opVsct o) is x s a := by
  have hall := alignAll_some h
  rw [alignAll, firstSome] at hall
  have hg : runVgth o is x s = .trap (trapC 6 0 (a % 2 ^ 56)) ∧ runVsct o is x s = .trap (trapC 6 0 (a % 2 ^ 56)) := by
    simp only [runVgth, runVsct, alignAll]
    cases hb : alignBad (lgSize o) ((rdS x o.a.toNat).toNat % 2 ^ 56) with
    | some t =>
      rw [hb] at hall
      cases hall
      exact ⟨rfl, rfl⟩
    | none =>
      rw [hb] at hall
      simp only [hall, and_self]
  exact ⟨⟨rfl, hg.1⟩, ⟨rfl, hg.2⟩⟩

theorem alignTrap_amo {o : LA} (h : alignBad (laSize o) (rdS x o.a.toNat).toNat = some (trapC 6 0 (a % 2 ^ 56))) :
    AlignTrap (.amo o) (opAmo o) is x s a := by
  refine ⟨rfl, ?_⟩
  change runAmo o is x s = _
  rw [runAmo, h]

theorem alignTrap_cas {o : LA} (h : alignBad (laSize o) (rdS x o.a.toNat).toNat = some (trapC 6 0 (a % 2 ^ 56))) :
    AlignTrap (.cas o) (opCas o) is x s a := by
  refine ⟨rfl, ?_⟩
  change runCas o is x s = _
  rw [runCas, h]

theorem alignTrap_red {o : LA} (h : alignBad (laSize o) (rdS x o.a.toNat).toNat = some (trapC 6 0 (a % 2 ^ 56))) :
    AlignTrap (.red o) (opRed o) is x s a := by
  refine ⟨rfl, ?_⟩
  change runRed o is x s = _
  rw [runRed, h]

theorem alignTrap_vredm {o : LG} (h : alignBad 128 (rdS x o.a.toNat).toNat = some (trapC 6 0 (a % 2 ^ 56))) :
    AlignTrap (.vredm o) (opVredm o) is x s a := by
  refine ⟨rfl, ?_⟩
  change runVredm o is x s = _
  rw [runVredm, h]

theorem alignTrap_kld {o : KM} (h : alignBad 32 (kmAddr o x is.k) = some (trapC 6 0 (a % 2 ^ 56))) :
    AlignTrap (.kld o) (opKld o) is x s a := by
  refine ⟨rfl, ?_⟩
  change runKld o is x s = _
  rw [runKld, h]

theorem alignTrap_kst {o : KM} (h : alignBad 32 (kmAddr o x is.k) = some (trapC 6 0 (a % 2 ^ 56))) :
    AlignTrap (.kst o) (opKst o) is x s a := by
  refine ⟨rfl, ?_⟩
  change runKst o is x s = _
  rw [runKst, h]
end

/-! ## ALIGN of a register target (04 R139) -/

theorem badTarget_some {w : Word} (h : w.extractLsb' 0 3 ≠ 0 ∨ w.extractLsb' 48 16 ≠ 0) :
    badTarget w = some (trapC 6 1 (w.toNat % 2 ^ 56)) := by
  rw [badTarget, if_pos (by simpa using h)]
  rfl

theorem badTarget_none {w : Word} (h1 : w.extractLsb' 0 3 = 0) (h2 : w.extractLsb' 48 16 = 0) : badTarget w = none := by
  rw [badTarget, if_neg (by simp [h1, h2])]

theorem exec_jumpReg_trap {i : Instr} {r : Nat} {link : Bool} (hso : slotOpOf i = some (jumpReg r link)) (hsl : slotOf i = some .br)
    (hearly : ∀ s x, earlyOf i s x = s) {s s1 : State} {x x1 : Ctx} (h : Issues i s x s1 x1) (hu : unfinished x = false)
    (hbad : (rdS x1 r).extractLsb' 0 3 ≠ 0 ∨ (rdS x1 r).extractLsb' 48 16 ≠ 0) :
    exec i s = .next (takeTrap s s.cur
      { cause := 6, info := infoB 0 1 0, addr := BitVec.ofNat 64 ((rdS x1 r).toNat % 2 ^ 56) } x.pc) := by
  have hrun : (jumpReg r link).run (issAt i s) x1 (putCtx s1 x1) = .trap (trapC 6 1 ((rdS x1 r).toNat % 2 ^ 56)) := by
    change (match badTarget (rdS x1 r) with
      | some t => OpRes.trap t
      | none => _) = _
    rw [badTarget_some hbad]
  have hex := exec_of_mem_trap hso hsl (fun _ hj => nomatch hj) h (hearly s x) hu hrun
  rwa [show (issAt i s).slot = 0 from slotFor_br hsl _] at hex

/-- Settles O19: by instruction, from the alignment check that each makes first. -/
theorem alignmentTraps : Obligations.AlignmentTraps := by
  unfold Obligations.AlignmentTraps
  refine ⟨?_, ?_⟩
  · rintro i n addrs (⟨o, hi, rfl, rfl⟩ | ⟨o, hi, rfl, rfl⟩ | ⟨o, rfl, rfl, rfl⟩ | ⟨o, hi, rfl, rfl⟩ | ⟨o, hi, rfl, rfl⟩ |
      ⟨o, rfl, rfl, rfl⟩ | ⟨o, hi, rfl, rfl⟩) s x s1 x1 a h hu ha
    · rcases hi with rfl | rfl
      · exact (alignTrap_ld (alignBad_of_find ha)).exec (sl := .ls) rfl (stream_lt _) h rfl hu
      · exact (alignTrap_st (alignBad_of_find ha)).exec (sl := .ls) rfl (stream_lt _) h rfl hu
    · rcases hi with rfl | rfl
      · exact (alignTrap_vld (alignBad_of_find ha)).exec (sl := .ls) rfl (stream_lt _) h rfl hu
      · exact (alignTrap_vst (alignBad_of_find ha)).exec (sl := .ls) rfl (stream_lt _) h rfl hu
    · exact (alignTrap_vlds (alignAll_some ha)).exec (sl := .ls) rfl (stream_lt _) h rfl hu
    · rcases hi with rfl | rfl
      · exact (indexed_align ha).1.exec (sl := .ls) rfl (stream_lt _) h rfl hu
      · exact (indexed_align ha).2.exec (sl := .ls) rfl (stream_lt _) h rfl hu
    · rcases hi with rfl | rfl | rfl
      · exact (alignTrap_amo (alignBad_of_find ha)).exec (sl := .ls) rfl (stream_lt _) h rfl hu
      · exact (alignTrap_cas (alignBad_of_find ha)).exec (sl := .ls) rfl (stream_lt _) h rfl hu
      · exact (alignTrap_red (alignBad_of_find ha)).exec (sl := .ls) rfl (stream_lt _) h rfl hu
    · exact (alignTrap_vredm (alignBad_of_find ha)).exec (sl := .ls) rfl (stream_lt _) h rfl hu
    · rcases hi with rfl | rfl
      · exact (alignTrap_kld (alignBad_of_find ha)).exec (sl := .sx) rfl (stream_lt _) h rfl hu
      · exact (alignTrap_kst (alignBad_of_find ha)).exec (sl := .sx) rfl (stream_lt _) h rfl hu
  · rintro i r (⟨o, rfl, rfl⟩ | ⟨o, rfl, rfl⟩ | ⟨rfl, rfl⟩) s x s1 x1 h hu hbad
    · exact exec_jumpReg_trap (link := false) rfl rfl (fun _ _ => rfl) h hu hbad
    · exact exec_jumpReg_trap (link := true) rfl rfl (fun _ _ => rfl) h hu hbad
    · exact exec_jumpReg_trap (link := false) rfl rfl (fun _ _ => rfl) h hu hbad

/-! ## The BR slot (04 R138 to R144) -/

/-- A BR operation that acts on the state its bundle leaves by `act`, which is the same as `post` there. -/
theorem yieldsBr_of {i : Instr} {so : SlotOp} {ok : Ctx → Prop} {ws : Nat → Ctx → List (RegId × Nat)} {post : Nat → Ctx → State → State}
    (hexec : ∀ s, exec i s = issueAlone i so s) (hso : slotOpOf i = some so) (hsl : slotOf i = some .br) (hst : so.stream = none)
    (hg : ∀ n x, groupsOf ((ws n x).map (·.1)) = [])
    (hrun : ∀ is x s, ok x → so.run is x s = .ok s (ws is.len x) 0)
    (hpost : ∀ is x s, so.post is x s = .ok (post is.len x s)) : YieldsBr i ok ws post := fun s _ _ _ h hok =>
  completes_br _ (hexec s) hso (slotFor_br hsl _) hst (hg _ _) h (hrun _ _ _ hok) (hpost _ _ _) rfl

/-- The two spellings of a target by an offset in units of eight bytes. -/
theorem offTarget_eq (o : BJ) (x : Ctx) : offTarget o x = x.pc + (o.off.signExtend 48 <<< 3) := by
  have h : BitVec.ofInt 48 (8 * o.off.toInt) = o.off.signExtend 48 <<< 3 := by
    rw [BitVec.signExtend, BitVec.shiftLeft_eq_mul_twoPow, BitVec.ofInt_mul, BitVec.mul_comm]
    rfl
  rw [offTarget, h]

theorem yieldsBr_offset {i : Instr} {o : BJ} {so : SlotOp} {ws : Nat → Ctx → List (RegId × Nat)}
    (hexec : ∀ s, exec i s = issueAlone i so s) (hso : slotOpOf i = some so) (hsl : slotOf i = some .br) (hst : so.stream = none)
    (hg : ∀ n x, groupsOf ((ws n x).map (·.1)) = [])
    (hrun : ∀ is x s, so.run is x s = .ok s (ws is.len x) 0) (hpost : ∀ is x s, so.post is x s = .ok (setPc s x (offTarget o x))) :
    YieldsBr i (fun _ => True) ws (fun _ x t => setPc t x (x.pc + (o.off.signExtend 48 <<< 3))) :=
  yieldsBr_of hexec hso hsl hst hg (fun is x s _ => hrun is x s) fun is x s => by rw [hpost, offTarget_eq]

theorem yieldsBr_jumpReg {i : Instr} {r : Nat} {link : Bool} (hexec : ∀ s, exec i s = issueAlone i (jumpReg r link) s)
    (hso : slotOpOf i = some (jumpReg r link)) (hsl : slotOf i = some .br) :
    YieldsBr i (fun x => (rdS x r).extractLsb' 0 3 = 0 ∧ (rdS x r).extractLsb' 48 16 = 0)
      (fun len x => if link then [(RegId.s 63, (x.pc + BitVec.ofNat 48 len).toNat)] else [])
      (fun _ x t => setPc t x ((rdS x r).extractLsb' 0 48)) := by
  refine yieldsBr_of hexec hso hsl rfl (fun n x => by cases link <;> rfl) ?_ (fun _ _ _ => rfl)
  rintro is x s ⟨h1, h2⟩
  change (match badTarget (rdS x r) with
    | some t => OpRes.trap t
    | none => _) = _
  rw [badTarget_none h1 h2]
  rfl

/-- SOFTWARE is taken at once where no result is still to come. -/
theorem softTrap_finished {s : State} {x y : Ctx} {imm : Nat} {pc : BitVec 48} (hy : getCtx s x.id = some y) (hu : unfinished y = false) :
    softTrap s x imm pc = takeTrap s x.id { cause := 20, info := BitVec.ofNat 64 imm, addr := 0 } pc := by
  rw [softTrap, hy]
  simp only [hu, Bool.and_false, Bool.false_eq_true, if_false]

theorem yieldsBr_trap (o : BI) : YieldsBr (.trap o) (fun x => unfinished x = false) (fun _ _ => []) (fun len x t =>
    takeTrap t x.id { cause := 20, info := o.imm.setWidth 64, addr := 0 } (x.pc + BitVec.ofNat 48 len)) := by
  intro s x s1 x1 h hu
  have hid : x1.id = s.cur := (settle_id h.settles).trans h.itsId
  have hpost := fun t (ht : getCtx t x1.id = some (afterIssue x1 (issueOf (.trap o) (opTrap o) s x false) 0)) =>
    softTrap_finished (imm := o.imm.toNat) (pc := nextPc x1 s.iss.len) ht hu
  have himm : o.imm.setWidth 64 = BitVec.ofNat 64 o.imm.toNat := BitVec.eq_of_toNat_eq (by simp)
  refine completes_br (so := opTrap o) _ rfl rfl (slotFor_br rfl _) rfl rfl h rfl rfl ?_
  simp only
  rw [himm]
  exact hpost _ (by rw [committed, noteWeight_ctx]; exact getCtx_putCtx_self _ _)

/-! ### A retired context -/

/-- The position of a context that retires is free. -/
theorem getCtx_retire {s : State} {c : CtxId} {x : Ctx} (h : getCtx s c = some x) : getCtx (retire s c) c = none := by
  have hdrop : getCtx (phDropAll (dropCtx s c) c x.env.iter (phBusy x)) c = none := by
    rw [phDropAll, getCtx_modPkg, getCtx_dropCtx, if_pos rfl]
  rw [retire, h]
  simp only [giveUp, getCtx_modCore]
  split
  · exact hdrop
  · exact hdrop

/-- Settles O20: each operation's effect after its bundle, from its definition. -/
theorem branchSlotCompletes : Obligations.BranchSlotCompletes := by
  unfold Obligations.BranchSlotCompletes
  refine ⟨⟨?_, fun j hj => ?_⟩, ⟨fun o => ?_, fun o => ⟨?_, ?_⟩, fun o => ⟨?_, ?_⟩, ?_, ?_⟩, yieldsBr_trap, ?_, ?_⟩
  · exact yieldsBr_of (so := opNop) (fun _ => rfl) rfl rfl rfl (fun _ _ => rfl) (fun _ _ _ _ => rfl) fun _ _ _ => rfl
  · exact yields_of (so := opNop) (fun _ => rfl) rfl rfl hj (fun _ h => nomatch h) fun _ _ _ => rfl
  · refine yieldsBr_of (so := opTree o) (fun _ => rfl) rfl rfl rfl (fun _ _ => rfl) (fun _ _ _ _ => rfl) fun is x s => ?_
    change PostRes.ok (setPc (if freshLeaf o (leafOf o x) then _ else s) x (leafTarget o (leafOf o x) x is.len)) =
      PostRes.ok (if freshLeaf o (leafOf o x) then _ else _)
    split <;> rfl
  · exact yieldsBr_offset (so := opJmp o) (fun _ => rfl) rfl rfl rfl (fun _ _ => rfl) (fun _ _ _ => rfl) fun _ _ _ => rfl
  · exact yieldsBr_offset (so := opCall o) (fun _ => rfl) rfl rfl rfl (fun _ _ => rfl) (fun _ _ _ => rfl) fun _ _ _ => rfl
  · exact yieldsBr_jumpReg (link := false) (fun _ => rfl) rfl rfl
  · exact yieldsBr_jumpReg (link := true) (fun _ => rfl) rfl rfl
  · exact yieldsBr_jumpReg (link := false) (fun _ => rfl) rfl rfl
  · exact yieldsBr_of (so := opYield) (fun _ => rfl) rfl rfl rfl (fun _ _ => rfl) (fun _ _ _ _ => rfl) fun _ _ _ => rfl
  · exact yieldsBr_of (so := opHalt) (fun _ => rfl) rfl rfl rfl (fun _ _ => rfl) (fun _ _ _ _ => rfl) fun _ _ _ => rfl
  · exact fun t c x hx _ => getCtx_retire hx

end Sys2Proof.Machine
end

section
/-!
Accesses to memory: what translating, checking, reading and writing change of the machine (07 R225, R233, 12 R383 to R386, R416).
-/
namespace Sys2Proof.Machine

/-- t is s after accesses to memory: of the machine only memory, the TLBs, the raw sectors, the containment tables and the host's
notices may differ, and memory stays in canonical form. -/
structure MemStep (s t : State) : Prop where
  rest : { t with mem := s.mem, pkg := s.pkg, dev := s.dev, clusters := s.clusters } = s
  pkg : { t.pkg with tlb := s.pkg.tlb, damage := s.pkg.damage, poisonRecs := s.pkg.poisonRecs, poisonOver := s.pkg.poisonOver } = s.pkg
  dev : { t.dev with fatal := s.dev.fatal, droppedN := s.dev.droppedN, ringTail := s.dev.ringTail, msix := s.dev.msix } = s.dev
  cluster : ∀ n, { getCl t n with tlb := [], sectors := [] } = { getCl s n with tlb := [], sectors := [] }
  wf : s.mem.wf = true → t.mem.wf = true

namespace MemStep

variable {s t u : State}

theorem refl (s : State) : MemStep s s := ⟨rfl, rfl, rfl, fun _ => rfl, id⟩

theorem trans (h1 : MemStep s t) (h2 : MemStep t u) : MemStep s u where
  rest := by
    have e1 := h1.rest
    have e2 := h2.rest
    calc { u with mem := s.mem, pkg := s.pkg, dev := s.dev, clusters := s.clusters }
        = { ({ u with mem := t.mem, pkg := t.pkg, dev := t.dev, clusters := t.clusters } : State) with
              mem := s.mem, pkg := s.pkg, dev := s.dev, clusters := s.clusters } := rfl
      _ = { t with mem := s.mem, pkg := s.pkg, dev := s.dev, clusters := s.clusters } := by rw [e2]
      _ = s := e1
  pkg := by
    have e1 := h1.pkg
    have e2 := h2.pkg
    calc ({ u.pkg with tlb := s.pkg.tlb, damage := s.pkg.damage, poisonRecs := s.pkg.poisonRecs, poisonOver := s.pkg.poisonOver } : Pkg)
        = { ({ u.pkg with tlb := t.pkg.tlb, damage := t.pkg.damage, poisonRecs := t.pkg.poisonRecs,
                          poisonOver := t.pkg.poisonOver } : Pkg) with
              tlb := s.pkg.tlb, damage := s.pkg.damage, poisonRecs := s.pkg.poisonRecs, poisonOver := s.pkg.poisonOver } := rfl
      _ = { t.pkg with tlb := s.pkg.tlb, damage := s.pkg.damage, poisonRecs := s.pkg.poisonRecs, poisonOver := s.pkg.poisonOver } := by
        rw [e2]
      _ = s.pkg := e1
  dev := by
    have e1 := h1.dev
    have e2 := h2.dev
    calc ({ u.dev with fatal := s.dev.fatal, droppedN := s.dev.droppedN, ringTail := s.dev.ringTail, msix := s.dev.msix } : Dev)
        = { ({ u.dev with fatal := t.dev.fatal, droppedN := t.dev.droppedN, ringTail := t.dev.ringTail, msix := t.dev.msix } : Dev) with
              fatal := s.dev.fatal, droppedN := s.dev.droppedN, ringTail := s.dev.ringTail, msix := s.dev.msix } := rfl
      _ = { t.dev with fatal := s.dev.fatal, droppedN := s.dev.droppedN, ringTail := s.dev.ringTail, msix := s.dev.msix } := by rw [e2]
      _ = s.dev := e1
  cluster n := (h2.cluster n).trans (h1.cluster n)
  wf h := h2.wf (h1.wf h)

/-! ### What stays -/

theorem ctxs (h : MemStep s t) : t.ctxs = s.ctxs := by
  have e := congrArg State.ctxs h.rest
  exact e
theorem cyc (h : MemStep s t) : t.cyc = s.cyc := by
  have e := congrArg State.cyc h.rest
  exact e
theorem net (h : MemStep s t) : t.net = s.net := by
  have e := congrArg State.net h.rest
  exact e
theorem cur (h : MemStep s t) : t.cur = s.cur := by
  have e := congrArg State.cur h.rest
  exact e
theorem getCtx (h : MemStep s t) (c : CtxId) : getCtx t c = Machine.getCtx s c := by rw [Machine.getCtx, h.ctxs]; rfl
theorem phasers (h : MemStep s t) : t.pkg.phasers = s.pkg.phasers := by
  have e := congrArg Pkg.phasers h.pkg
  exact e
theorem getPh (h : MemStep s t) (n : Nat) : getPh t n = Machine.getPh s n := by rw [Machine.getPh, h.phasers]; rfl

/-! ### The elementary steps -/

/-- An update of memory that keeps its form. -/
theorem modMem (s : State) (f : Mem → Mem) (h : s.mem.wf = true → (f s.mem).wf = true) : MemStep s (modMem s f) :=
  ⟨rfl, rfl, rfl, fun _ => rfl, h⟩

theorem modCl (s : State) (n : Nat) (f : Cluster → Cluster)
    (h : { f (getCl s n) with tlb := [], sectors := [] } = { getCl s n with tlb := [], sectors := [] }) : MemStep s (modCl s n f) := by
  refine ⟨rfl, rfl, rfl, fun k => ?_, id⟩
  rw [getCl_modCl]
  split
  · next e => rw [e]; exact h
  · rfl

theorem foldl {α : Type} (f : State → α → State) (hf : ∀ t a, MemStep t (f t a)) (l : List α) (s : State) : MemStep s (l.foldl f s) :=
  foldl_keeps (fun t => MemStep s t) f (fun t a h => h.trans (hf t a)) l s (.refl s)

theorem postNotice (s : State) (kind tag data : Nat) : MemStep s (postNotice s kind tag data) := by
  have hw := postNotice_wf s kind tag data
  unfold Machine.postNotice at hw ⊢
  revert hw
  split
  · exact fun hw => ⟨rfl, rfl, rfl, fun _ => rfl, hw⟩
  · split <;> exact fun hw => ⟨rfl, rfl, rfl, fun _ => rfl, hw⟩

theorem goFatal (s : State) (n : Nat) : MemStep s (goFatal s n) := by
  unfold Machine.goFatal
  split
  · exact .refl s
  · exact .trans (t := modDev s (fun d => { d with fatal := true })) ⟨rfl, rfl, rfl, fun _ => rfl, id⟩ (postNotice _ _ _ _)

theorem compared (s : State) (n : Nat) : MemStep s (compared s n) := by
  rcases compared_cases s n with e | ⟨-, e⟩ | ⟨-, e⟩ <;> rw [e]
  · exact .refl s
  · exact goFatal s n
  · exact ⟨rfl, rfl, rfl, fun _ => rfl, id⟩

theorem makeRecord (s : State) (p : Space) (u : Nat) : MemStep s (makeRecord s p u) := by
  unfold Machine.makeRecord
  refine (compared s 1).trans ?_
  dsimp only
  split
  · exact .refl _
  · split
    · exact .trans (t := modPkg _ (fun g => { g with poisonOver := true })) ⟨rfl, rfl, rfl, fun _ => rfl, id⟩ (postNotice _ _ _ _)
    · next e _ =>
      exact .trans (t := modPkg _ (fun g => { g with poisonRecs := smPut g.poisonRecs e _ })) ⟨rfl, rfl, rfl, fun _ => rfl, id⟩
        (postNotice _ _ _ _)

theorem setPoisonList (s : State) (p : Space) (l : List Nat) : MemStep s (setPoisonList s p l) := by
  cases p
  · exact ⟨rfl, rfl, rfl, fun _ => rfl, id⟩
  · exact ⟨rfl, rfl, rfl, fun _ => rfl, id⟩
  · exact ⟨rfl, rfl, rfl, fun _ => rfl, id⟩
  · exact .refl s
  · exact .refl s

theorem poisonUnit (s : State) (p : Space) (u : Nat) : MemStep s (poisonUnit s p u) := by
  unfold Machine.poisonUnit
  refine .trans ?_ (makeRecord _ p u)
  split
  · exact .refl s
  · exact setPoisonList s p _

theorem clearFlips (s : State) (p : Space) (u : Nat) : MemStep s (clearFlips s p u) := modMem s _ id

theorem probeUnit (s : State) (p : Space) (u : Nat) : MemStep s (probeUnit s p u) := by
  unfold Machine.probeUnit
  split
  · exact .refl s
  · exact modMem s _ id
  · exact (clearFlips s p u).trans (poisonUnit _ p u)

theorem probeRange (s : State) (pl : Place) (n : Nat) : MemStep s (probeRange s pl n) :=
  foldl _ (fun t u => probeUnit t pl.space u) _ s

theorem writeUnit (s : State) (pl : Place) (n u : Nat) : MemStep s (writeUnit s pl n u) := by
  unfold Machine.writeUnit
  dsimp only
  split
  · exact (clearFlips s _ u).trans (setPoisonList _ _ _)
  · exact (probeUnit s _ u).trans (clearFlips _ _ u)

theorem setSpaceCells (s : State) (p : Space) (m : List Host.Cell) (hm : s.mem.wf = true → cellsWf m = true) :
    MemStep s (setSpaceCells s p m) := by
  have hwf := fun h => setSpaceCells_wf s p m h (hm h)
  cases p
  · exact ⟨rfl, rfl, rfl, fun _ => rfl, hwf⟩
  · exact ⟨rfl, rfl, rfl, fun _ => rfl, hwf⟩
  · exact ⟨rfl, rfl, rfl, fun _ => rfl, hwf⟩
  · exact .refl s
  · exact ⟨rfl, rfl, rfl, fun _ => rfl, hwf⟩

theorem rawSectors (s : State) (pl : Place) (n : Nat) : MemStep s (rawSectors s pl n) := by
  unfold Machine.rawSectors
  split
  · exact modCl s _ _ rfl
  · exact .refl s

theorem markDirty (s : State) (pl : Place) (n : Nat) : MemStep s (markDirty s pl n) := by
  obtain ⟨l, e⟩ := markDirty_cases s pl n
  rw [e]
  exact ⟨rfl, rfl, rfl, fun _ => rfl, id⟩

/-- A write of bytes with its error rules. -/
theorem writePlace (s : State) (pl : Place) (bs : List Byte) : MemStep s (writePlace s pl bs) := by
  unfold Machine.writePlace
  have h1 := foldl (fun t u => Machine.writeUnit t pl bs.length u) (fun t u => writeUnit t pl bs.length u)
    (unitsOf pl.space pl.addr bs.length) s
  refine (h1.trans ((rawSectors _ pl bs.length).trans (setSpaceCells _ _ _ fun h => ?_))).trans (markDirty _ _ _)
  rw [rawSectors_mem] at h
  exact cellsWf_put _ _ (spaceCells_wf _ _ h)

/-! ### Translation -/

theorem readPte (s : State) (pa : Nat) : MemStep s (readPte s pa).1 := by
  unfold Machine.readPte
  dsimp only
  split
  · exact .refl s
  · split
    · next u _ => exact (probeRange s { space := .hbm, addr := pa, node := 0 } 8).trans (makeRecord _ .hbm u)
    · exact probeRange s { space := .hbm, addr := pa, node := 0 } 8

theorem leafAt (s : State) (va t l e : Nat) : MemStep s (walkFrom.leafAt s va t l e).1 := by
  unfold walkFrom.leafAt
  dsimp only
  split
  · exact .refl s
  · split <;> exact readPte s _

theorem walkFrom (s : State) (va t l : Nat) : MemStep s (walkFrom s va t l).1 := by
  induction l generalizing s t with
  | zero =>
    unfold Machine.walkFrom
    dsimp only
    split
    · exact readPte s _
    · exact (readPte s _).trans (leafAt _ _ _ _ _)
  | succ l ih =>
    unfold Machine.walkFrom
    dsimp only
    split
    · exact readPte s _
    · split
      · exact (readPte s _).trans (ih _ _)
      · exact (readPte s _).trans (leafAt _ _ _ _ _)

theorem walk (s : State) (va root : Nat) : MemStep s (walk s va root).1 := walkFrom s va root 4

theorem modPkg_tlb (s : State) (l : List TlbEntry) : MemStep s (modPkg s (fun g => { g with tlb := l })) :=
  ⟨rfl, rfl, rfl, fun _ => rfl, id⟩

theorem lookupLeaf (s : State) (cl asn root va : Nat) : MemStep s (lookupLeaf s cl asn root va).1 := by
  unfold Machine.lookupLeaf
  split
  · exact .refl s
  · split
    · next e _ => exact modCl s cl (fun x => { x with tlb := tlbAdd x.tlb e 1024 }) rfl
    · have hw := walk s va root
      split
      · next s1 e => rw [e] at hw; exact hw
      · next s1 f e =>
        rw [e] at hw
        exact hw.trans ((modCl s1 cl _ rfl).trans (modPkg_tlb _ _))

theorem lookupShared (s : State) (asn root va : Nat) : MemStep s (lookupShared s asn root va).1 := by
  unfold Machine.lookupShared
  split
  · exact .refl s
  · have hw := walk s va root
    split
    · next s1 e => rw [e] at hw; exact hw
    · next s1 f e =>
      rw [e] at hw
      exact hw.trans (modPkg_tlb _ _)

theorem translate (s : State) (cl asn root lvl va : Nat) (r : AccReq) : MemStep s (translate s cl asn root lvl va r).1 := by
  unfold Machine.translate
  have hl := lookupLeaf s cl asn root va
  split
  · next s1 e => rw [e] at hl; exact hl
  · next s1 f e => rw [e] at hl; exact hl

theorem translateShared (s : State) (asn root va : Nat) (r : AccReq) : MemStep s (translateShared s asn root va r).1 := by
  unfold Machine.translateShared
  have hl := lookupShared s asn root va
  split
  · next s1 e => rw [e] at hl; exact hl
  · next s1 f e => rw [e] at hl; exact hl

theorem objAccess (s : State) (cl iter gang asn root lvl va : Nat) (r : AccReq) :
    MemStep s (objAccess s cl iter gang asn root lvl va r).1 := by
  unfold Machine.objAccess
  split
  · split <;> exact .refl s
  · split
    · exact .refl s
    · split
      · exact .refl s
      · exact translate s _ _ _ _ _ _

theorem ctxAccess (s : State) (x : Ctx) (va n : Nat) (r : AccReq) : MemStep s (ctxAccess s x va n r).1 := by
  unfold Machine.ctxAccess
  split
  · split
    · exact .refl s
    · split <;> exact .refl s
  · split
    · exact .refl s
    · split
      · exact .refl s
      · refine .trans ?_ (translate _ _ _ _ _ _ _)
        split
        · exact compared s 3
        · exact .refl s

theorem checkAll (s : State) (x : Ctx) (n : Nat) (r : AccReq) (l : List Nat) : MemStep s (checkAll s x n r l).1 := by
  induction l generalizing s with
  | nil => exact .refl s
  | cons a rest ih =>
    have ha := ctxAccess s x a n r
    unfold Machine.checkAll
    split
    · next s1 p e => rw [e] at ha; exact ha.trans (ih s1)
    · next s1 t e => rw [e] at ha; exact ha.trans (ih s1)

/-! ### The save area -/

theorem areaWrite {x : Ctx} {va : Nat} {bs : List Byte} {fuel : Nat} (h : areaWrite s x va bs fuel = some t) : MemStep s t := by
  induction fuel generalizing s va bs with
  | zero =>
    unfold Machine.areaWrite at h
    split at h
    · cases h; exact .refl _
    · exact absurd h (by simp)
  | succ n ih =>
    unfold Machine.areaWrite at h
    split at h
    · cases h; exact .refl _
    · have ha := objAccess s x.id.cl x.env.iter x.env.gang x.env.asn x.env.root 2 va { accWrite with frozen := false }
      split at h
      · exact absurd h (by simp)
      · next s1 p e =>
        rw [e] at ha
        exact ha.trans ((writePlace s1 p _).trans (ih h))

theorem areaRead (s : State) (x : Ctx) (lvl va n fuel : Nat) : MemStep s (areaRead s x lvl va n fuel).1 := by
  induction fuel generalizing s va n with
  | zero => exact .refl s
  | succ m ih =>
    unfold Machine.areaRead
    split
    · exact .refl s
    · have ha := objAccess s x.id.cl x.env.iter x.env.gang x.env.asn x.env.root lvl va { accRead with frozen := false }
      split
      · next s1 b e => rw [e] at ha; exact ha
      · next s1 p e =>
        rw [e] at ha
        have hr := ih s1 (va + min n (pageEnd va - va)) (n - min n (pageEnd va - va))
        dsimp only
        split
        · next s2 b e2 => rw [e2] at hr; exact ha.trans hr
        · next s2 b e2 => rw [e2] at hr; exact ha.trans hr

theorem saveGroup {x x1 : Ctx} {g : Nat} (h : saveGroup s x g = some (t, x1)) : MemStep s t := by
  unfold Machine.saveGroup at h
  split at h
  · cases h; exact .refl _
  · simp only at h
    split at h
    · exact absurd h (by simp)
    · next s1 h1 =>
      split at h
      · exact absurd h (by simp)
      · next s2 h2 =>
        cases h
        exact (areaWrite h1).trans (areaWrite h2)

theorem saveGroups {x x1 : Ctx} {l : List Nat} (h : saveGroups s x l = some (t, x1)) : MemStep s t := by
  induction l generalizing s x with
  | nil => cases h; exact .refl _
  | cons g rest ih =>
    unfold Machine.saveGroups at h
    split at h
    · exact absurd h (by simp)
    · next s2 x2 hs => exact (saveGroup hs).trans (ih h)

/-- Results that are written before an issue change nothing of the machine but memory. -/
theorem settle {x x1 : Ctx} (h : settle s x = some (t, x1)) : MemStep s t := by
  unfold Machine.settle at h
  split at h
  · exact absurd h (by simp)
  · next s1 x2 hs => cases h; exact saveGroups hs

end MemStep

end Sys2Proof.Machine
end

section
/-!
Owner bits, stream waits and phasers (07 R239, R240; 13 R427, R436 to R444).
-/
namespace Sys2Proof.Machine

/-! ## Register fields -/

/-- A field of a register value, by its bit numbers. -/
theorem bits_toNat {n : Nat} (w : BitVec n) (hi lo : Nat) : bits w.toNat hi lo = (w.extractLsb' lo (hi + 1 - lo)).toNat :=
  (BitVec.extractLsb'_toNat lo (hi + 1 - lo) w).symm

/-! ## What an operation follows (08 R258) -/

theorem settled_ops (x : Ctx) : (settled x).ops = x.ops := by
  have e := congrArg Ctx.ops (exceptFlight_settled x)
  exact e

theorem settle_ops {s s1 : State} {x x1 : Ctx} (h : settle s x = some (s1, x1)) : x1.ops = x.ops := by
  have e := congrArg Ctx.ops (settle_ctx h)
  exact e

/-- The operations that an operation of the SY slot waits for by its mask are those not performed at package scope. -/
theorem predsDone_iff (o : YF) (x : Ctx) : predsDone x o.pm pkgScope = true ↔ x.ops.any (maskWaits o) = false := by
  rw [predsDone, Bool.not_eq_true']
  rfl

theorem predsDone_congr {x y : Ctx} (h : x.ops = y.ops) (pm : BitVec 16) (scope : Nat) : predsDone x pm scope = predsDone y pm scope := by
  rw [predsDone, h, predsDone]

/-- Where no operation of the selection is under way nothing is waited for. -/
theorem lowerDone_none {s : State} {c : CtxId} {x : Ctx} {sel : MemOp → Bool} (hx : getCtx s c = some x) (h : x.ops.any sel = false) :
    lowerDone s c sel = some s := by
  have hf : x.ops.find? (fun o => sel o && o.awaiting.isEmpty && !o.started) = none := by
    rw [List.find?_eq_none]
    intro o ho
    have := List.any_eq_false.mp h o ho
    simp [this]
  have hforce : forceOps s c sel 16 = s := by rw [forceOps, hx]; simp only [hf]
  have hhas : hasOp s c sel = false := by rw [hasOp, hx]; exact h
  rw [lowerDone, hforce]
  simp only [hhas, Bool.false_eq_true, if_false]

/-- An operation of the SY slot that issues with what it follows performed waits for nothing in its issue. -/
theorem lowerDone_issues {i : Instr} {o : YF} {s s1 : State} {x x1 : Ctx} (h : Issues i s x s1 x1) (hearly : earlyOf i s x = s)
    (hp : predsDone (settled x) o.pm pkgScope = true) : lowerDone (putCtx s1 x1) x1.id (maskWaits o) = some (putCtx s1 x1) := by
  have hset := h.settles
  rw [hearly] at hset
  rw [predsDone_congr ((settled_ops x).trans (settle_ops hset).symm)] at hp
  exact lowerDone_none (getCtx_putCtx_self _ _) ((predsDone_iff o x1).mp hp)

/-! ## `give`, `take` and `waits` (07 R239, R240; 13 R427) -/

/-- The checks of `give` and `take` that find nothing. -/
theorem gvTrap_none {o : YF} {e : Bool} {s : State} {x : Ctx} (ha : (rdS x o.a.toNat).toNat < 2 ^ 56)
    (hal : (rdS x o.a.toNat).toNat % 4096 = 0) (hin : mereInside s x (sa o x) (gvN o * 4096) = none)
    (hown : ownedAt s x (gvFirst o x) (gvN o) e = none) : gvTrap o e s x = none := by
  rw [gvTrap, show alignBad 4096 (sa o x) = none from alignBad_none ha hal]
  simp only [hin, hown, Option.map_none]

/-- Settles O21: `take` waits for nothing in its issue, since its bundle was not blocked. -/
theorem ownersAndWaits : Obligations.OwnersAndWaits := by
  unfold Obligations.OwnersAndWaits
  intro o
  refine ⟨?_, ?_, ?_⟩
  · refine yieldsIf_of (so := opGive o) (t := .sy) (fun _ => rfl) rfl rfl (by decide) (stream_lt _) ?_
    rintro is x s ⟨ha, hal, hin, hown⟩
    change (match gvTrap o true s x with
      | some t => OpRes.trap t
      | none => _) = _
    rw [gvTrap_none ha hal hin hown]
    rfl
  · rintro s x s1 x1 h ⟨⟨ha, hal, hin, hown⟩, hcmd⟩
    refine completes (so := opTake o) rfl rfl (slotFor_lt (t := .sy) rfl _) (slotFor_ne (t := .sy) rfl (by decide) _) (stream_lt _) h ?_
    have hblock : (if gangCommands (earlyOf (.take o) s x) (settled x) (sa o (settled x), gvN o * 4096) ||
      !predsDone (settled x) o.pm pkgScope then some BlockWhy.take else none) = none := h.noBlock
    have hp : predsDone (settled x) o.pm pkgScope = true := by
      by_contra hne
      simp [hne] at hblock
    change (match gvTrap o false (putCtx s1 x1) x1 with
      | some t => OpRes.trap t
      | none => match lowerDone (putCtx s1 x1) x1.id (maskWaits o) with
        | none => _
        | some s1 => _) = _
    rw [gvTrap_none ha hal hin hown]
    simp only
    rw [lowerDone_issues h rfl hp]
    simp only [hcmd, Bool.false_eq_true, if_false]
    rfl
  · exact yields_of (so := opWaits o) (t := .sy) (fun _ => rfl) rfl rfl (by decide) (fun _ hj => nomatch hj) fun _ _ _ => rfl

/-! ## The members of a phaser (13 R436) -/

theorem getPh_putPh_same (s : State) (n : Nat) (p : Phaser) : getPh (putPh s n p) n = p := by
  rw [getPh, putPh, modPkg]
  exact (smGet_set _ _ _ _ _).trans (if_pos rfl)

theorem getPh_putPh_other (s : State) {n m : Nat} (p : Phaser) (h : m ≠ n) : getPh (putPh s n p) m = getPh s m := by
  rw [getPh, putPh, modPkg, getPh]
  exact (smGet_set _ _ _ _ _).trans (if_neg h)

/-- The member found is the context's own. -/
theorem phMember_key {p : Phaser} {c : CtxId} {iter : Nat} {m : Member} (h : phMember p c iter = some m) : m.ctx = c ∧ m.iter = iter := by
  have := List.find?_some h
  simpa [isMember] using this

theorem phMember_mem {p : Phaser} {c : CtxId} {iter : Nat} {m : Member} (h : phMember p c iter = some m) : m ∈ p.members :=
  List.mem_of_find?_eq_some h

/-- An entry that is set is found. -/
theorem phMember_phSet {p : Phaser} {c : CtxId} {iter : Nat} {m w : Member} (h : phMember p c iter = some m) (hc : w.ctx = c)
    (hi : w.iter = iter) : phMember (phSet p w) c iter = some w := by
  have hw : isMember c iter w = true := by simp [isMember, hc, hi]
  unfold phMember at h ⊢
  simp only [phSet, hc, hi]
  generalize p.members = l at h
  induction l with
  | nil => exact absurd h (by simp)
  | cons a rest ih =>
    by_cases ha : isMember c iter a = true
    · simp [ha, hw]
    · rw [List.find?_cons] at h
      simp only [ha] at h
      simp [ha, ih h]

/-- A phase change keeps a member that does not leave, with its arrival taken back. -/
theorem phMember_phDue {p : Phaser} {c : CtxId} {iter : Nat} {w : Member} (h : ∀ m ∈ p.members, isMember c iter m = true → m = w)
    (hw : w ∈ p.members) (hc : isMember c iter w = true) (hl : w.leaving = false) (hp : p.pend = 0) :
    phMember (phDue p) c iter = some { w with arrived := false, joining := false } := by
  have hmem : ({ w with arrived := false, joining := false } : Member) ∈ (phDue p).members := by
    rw [phDue, if_pos hp]
    exact List.mem_map.mpr ⟨w, List.mem_filter.mpr ⟨hw, by simp [hl]⟩, rfl⟩
  cases hf : phMember (phDue p) c iter with
  | none =>
    have hno := List.find?_eq_none.mp hf _ hmem
    exact absurd hc hno
  | some v =>
    have hv := List.mem_of_find?_eq_some hf
    have hk := List.find?_some hf
    rw [phDue, if_pos hp] at hv
    obtain ⟨m, hm, rfl⟩ := List.mem_map.mp hv
    rw [h m (List.mem_filter.mp hm).1 hk]

/-- Every entry of the context is the one that was set. -/
theorem phSet_only {p : Phaser} {c : CtxId} {iter : Nat} {w : Member} (hc : w.ctx = c) (hi : w.iter = iter) :
    ∀ m ∈ (phSet p w).members, isMember c iter m = true → m = w := by
  intro m hm hk
  simp only [phSet, hc, hi, List.mem_map] at hm
  obtain ⟨a, -, rfl⟩ := hm
  split
  · rfl
  · next ha => rw [if_neg ha] at hk; exact absurd hk ha

/-! ## Publishing leaves the phasers (13 R429) -/

theorem publish_keeps (s : State) (c : CtxId) (iter : Nat) (pm : BitVec 16) :
    (publish s c iter pm).pkg = s.pkg ∧ (publish s c iter pm).mem = s.mem ∧ (publish s c iter pm).clusters = s.clusters := by
  have h1 : ∀ f, (if s.net.hostq.isEmpty then s else modNet s f).pkg = s.pkg ∧ (if s.net.hostq.isEmpty then s else modNet s f).mem = s.mem ∧
      (if s.net.hostq.isEmpty then s else modNet s f).clusters = s.clusters := by
    intro f
    split <;> exact ⟨rfl, rfl, rfl⟩
  unfold publish
  dsimp only
  split
  · exact h1 _
  · split
    · simpa only [putOwner_pkg, putOwner_mem, putOwner_clusters] using h1 _
    · exact h1 _

theorem getPh_publish (s : State) (c : CtxId) (iter : Nat) (pm : BitVec 16) (n : Nat) : getPh (publish s c iter pm) n = getPh s n := by
  rw [getPh, (publish_keeps s c iter pm).1, getPh]

end Sys2Proof.Machine
end

section
/-!
Phasers and transaction barriers (13 R430 to R444): arriving, waiting, joining and leaving.
-/
namespace Sys2Proof.Machine

theorem phN_eq (o : YF) (x : Ctx) : phN o x = ((rdS x o.a.toNat).extractLsb' 0 12).toNat := bits_toNat _ 11 0

/-! ## The arrive part of `phaw` (13 R444) -/

/-- The entry of a member that arrives and waits. -/
def waitingMember (p : Phaser) (m : Member) : Member := { m with arrived := true, waiting := true, waitPhase := p.phase.toNat }

/-- The phaser after the arrival of a member that then waits. -/
def arrivedPhaser (p : Phaser) (m : Member) : Phaser := phDue { phSet p (waitingMember p m) with pend := p.pend - 1 }

/-- A SIGWAIT member that takes part and has not arrived passes the check of 13 R442. -/
theorem phArrCheck_both {p : Phaser} {m : Member} (h2 : m.mode = 2) (hj : m.joining = false) (ha : m.arrived = false) :
    phArrCheck p (some m) true = none := by
  simp [phArrCheck, h2, phTakesPart, hj, ha]

theorem phArrCheck_both_iff (p : Phaser) (m : Member) :
    (phArrCheck p (some m) true).isSome = true ↔ m.mode ≠ 2 ∨ m.joining = true ∨ m.arrived = true := by
  unfold phArrCheck phTakesPart
  by_cases h2 : m.mode = 2 <;> cases hj : m.joining <;> cases ha : m.arrived <;> simp [h2, hj, ha]

section
variable {o : YF} {s : State} {x : Ctx} {m : Member}

theorem phawArrive_waits (h : phawMay o x = false) : phawArrive o s x = s := by
  unfold phawArrive
  dsimp only
  split
  · rfl
  · simp [h]

theorem phawArrive_arrives (hm : phMember (getPh s (phN o x)) x.id x.env.iter = some m) (hw : m.waiting = false) (h2 : m.mode = 2)
    (hj : m.joining = false) (ha : m.arrived = false) (hmay : phawMay o x = true) :
    phawArrive o s x = putPh (publish s x.id x.env.iter o.pm) (phN o x) (arrivedPhaser (getPh s (phN o x)) m) := by
  unfold phawArrive
  simp only [hm, hw, phArrCheck_both h2 hj ha, hmay, Option.isSome_none, Bool.not_true, Bool.or_self, Bool.false_eq_true, if_false]
  rfl

/-- Where the arrival is not the last one pending the phase goes on. -/
theorem arrivedPhaser_pending {p : Phaser} (h1 : 1 ≤ p.pend) (hp : p.pend ≠ 1) :
    arrivedPhaser p m = { phSet p (waitingMember p m) with pend := p.pend - 1 } := by
  rw [arrivedPhaser, phDue, if_neg]
  change p.pend - 1 ≠ 0
  omega

theorem phMember_arrived_pending {p : Phaser} {c : CtxId} {iter : Nat} (hm : phMember p c iter = some m) (h1 : 1 ≤ p.pend)
    (hp : p.pend ≠ 1) : phMember (arrivedPhaser p m) c iter = some (waitingMember p m) := by
  obtain ⟨hc, hi⟩ := phMember_key hm
  rw [arrivedPhaser_pending h1 hp]
  exact phMember_phSet hm hc hi

/-- The last arrival pending ends the phase, and the member's arrival is taken back with all others. -/
theorem phMember_arrived_last {p : Phaser} {c : CtxId} {iter : Nat} (hm : phMember p c iter = some m) (hl : m.leaving = false)
    (hp : p.pend = 1) :
    phMember (arrivedPhaser p m) c iter = some { waitingMember p m with arrived := false, joining := false } := by
  obtain ⟨hc, hi⟩ := phMember_key hm
  have hw : phMember (phSet p (waitingMember p m)) c iter = some (waitingMember p m) := phMember_phSet hm hc hi
  refine phMember_phDue (p := { phSet p (waitingMember p m) with pend := p.pend - 1 }) (phSet_only hc hi) (phMember_mem hw)
    (List.find?_some hw) hl ?_
  simp [hp]
end

/-- A phase is not the next one. -/
theorem phase_succ_ne (b : BitVec 32) : (b + 1).toNat ≠ b.toNat := by
  rw [BitVec.toNat_add]
  have := b.isLt
  change (b.toNat + 1) % 2 ^ 32 ≠ b.toNat
  omega

/-- What a phase change leaves. -/
theorem phDue_change {p : Phaser} (h : p.pend = 0) :
    (phDue p).phase = p.phase + 1 ∧ (phDue p).nsig = (p.nsig + p.join - p.leave) % 2 ^ 20 ∧ (phDue p).pend = (phDue p).nsig ∧
      (phDue p).join = 0 ∧ (phDue p).leave = 0 ∧ ∀ m ∈ (phDue p).members, m.arrived = false := by
  rw [phDue, if_pos h]
  refine ⟨rfl, rfl, rfl, rfl, rfl, fun m hm => ?_⟩
  obtain ⟨w, -, rfl⟩ := List.mem_map.mp hm
  rfl

/-- The last arrival pending ends the phase. -/
theorem arrivedPhaser_last {p : Phaser} {m : Member} (h : p.pend = 1) : (arrivedPhaser p m).phase = p.phase + 1 ∧
    (arrivedPhaser p m).nsig = (p.nsig + p.join - p.leave) % 2 ^ 20 ∧ (arrivedPhaser p m).pend = (arrivedPhaser p m).nsig ∧
    (arrivedPhaser p m).join = 0 ∧ (arrivedPhaser p m).leave = 0 ∧ ∀ n ∈ (arrivedPhaser p m).members, n.arrived = false := by
  have h0 : ({ phSet p (waitingMember p m) with pend := p.pend - 1 } : Phaser).pend = 0 := by
    change p.pend - 1 = 0
    omega
  exact phDue_change h0

/-! ## When `waits`, `phwait` and `phaw` block (13 R428, R443, R444) -/

theorem waits_block_iff (o : YF) (s : State) (x : Ctx) (is : Iss) :
    (opOf (.waits o)).block is s x = some .waits ↔
      ∃ j < 16, (o.a ++ o.b ++ o.x.extractLsb' 10 4 : BitVec 16).getLsbD j = true ∧ (o.x.extractLsb' 0 6).toNat < smGet x.cnt j 0 := by
  have hany : ((List.range 16).any (fun j => (wtMask o).getLsbD j && decide (wtN o < smGet x.cnt j 0))) = true ↔
      ∃ j < 16, (wtMask o).getLsbD j = true ∧ wtN o < smGet x.cnt j 0 := by
    simp only [List.any_eq_true, List.mem_range, Bool.and_eq_true, decide_eq_true_eq]
  refine Iff.trans ?_ hany
  change (if _ then some BlockWhy.waits else none) = _ ↔ _
  split <;> simp_all

theorem waits_block_cases (o : YF) (s : State) (x : Ctx) (is : Iss) :
    (opOf (.waits o)).block is s x = none ∨ (opOf (.waits o)).block is s x = some .waits := by
  change (if _ then some BlockWhy.waits else none) = none ∨ (if _ then some BlockWhy.waits else none) = _
  split
  · exact .inr rfl
  · exact .inl rfl

/-- What a wait at a phaser follows is performed: the operations of its mask, and its own arrivals there. -/
theorem predsDone_and_not_phBusy (o : YF) (x : Ctx) (n : Nat) :
    (predsDone x o.pm pkgScope && !phBusy x n) = true ↔
      (∀ e ∈ x.ops, o.pm.getLsbD e.ss = true → ∃ d, e.done = some d ∧ 3 ≤ d) ∧ ∀ e ∈ x.ops, ∀ d q, e.kind ≠ .pharr d n q := by
  have h1 : predsDone x o.pm pkgScope = true ↔ ∀ e ∈ x.ops, o.pm.getLsbD e.ss = true → ∃ d, e.done = some d ∧ 3 ≤ d := by
    simp only [predsDone, Bool.not_eq_true', List.any_eq_false, Bool.and_eq_true, Bool.not_eq_true', not_and, Bool.not_eq_false]
    refine forall₂_congr fun e _ => imp_congr_right fun _ => ?_
    unfold doneAt pkgScope
    cases e.done <;> simp
  have h2 : (!phBusy x n) = true ↔ ∀ e ∈ x.ops, ∀ d q, e.kind ≠ .pharr d n q := by
    simp only [phBusy, Bool.not_eq_true', List.any_eq_false]
    refine forall₂_congr fun e _ => ?_
    cases e.kind with
    | pharr d k q => simp
    | _ => simp
  rw [Bool.and_eq_true, h1, h2]

section
variable {o : YF} {s : State} {x : Ctx} {m : Member} (is : Iss)
  (hm : phMember (getPh s ((rdS x o.a.toNat).extractLsb' 0 12).toNat) x.id x.env.iter = some m)
include hm

theorem phwait_block_member (h0 : m.mode ≠ 0) : (opOf (.phwait o)).block is s x =
    if phPassed (getPh s ((rdS x o.a.toNat).extractLsb' 0 12).toNat).phase (BitVec.ofNat 32 (sb o x)) &&
      (predsDone x o.pm pkgScope && !phBusy x ((rdS x o.a.toNat).extractLsb' 0 12).toNat) then none else some .phaser := by
  change (match phWaiter (getPh s (phN o x)) x with
    | none => none
    | some _ => if _ then none else some BlockWhy.phaser) = _
  rw [phN_eq, phWaiter, hm]
  simp only [h0, if_false, Bool.and_assoc]

theorem phwait_block_signaller (h0 : m.mode = 0) : (opOf (.phwait o)).block is s x = none := by
  change (match phWaiter (getPh s (phN o x)) x with
    | none => none
    | some _ => if _ then none else some BlockWhy.phaser) = _
  rw [phN_eq, phWaiter, hm]
  simp only [h0, if_true]

theorem phaw_block_member : (opOf (.phaw o)).block is s x =
    if m.waiting then (if (getPh s ((rdS x o.a.toNat).extractLsb' 0 12).toNat).phase.toNat = m.waitPhase then some .phaser else none)
    else if m.mode ≠ 2 ∨ m.joining = true ∨ m.arrived = true then none else some .phaser := by
  change (match phMember (getPh s (phN o x)) x.id x.env.iter with
    | none => none
    | some m => if m.waiting then (if (getPh s (phN o x)).phase.toNat = m.waitPhase then some BlockWhy.phaser else none)
      else if (phArrCheck (getPh s (phN o x)) (some m) true).isSome then none else some .phaser) = _
  rw [phN_eq, hm]
  simp only [phArrCheck_both_iff]
end

theorem phPassed_iff (a b : BitVec 32) : phPassed a b = true ↔ 1 ≤ (a - b).toNat ∧ (a - b).toNat ≤ 2 ^ 31 - 1 := by
  simp only [phPassed, Bool.and_eq_true, decide_eq_true_eq]

/-- After its own arrival a `phaw` goes on exactly where that ended the phase. -/
theorem phaw_block_arrived {o : YF} {s : State} {x : Ctx} {m : Member} (is : Iss)
    (hm : phMember (getPh s ((rdS x o.a.toNat).extractLsb' 0 12).toNat) x.id x.env.iter = some m) (hw : m.waiting = false) (h2 : m.mode = 2)
    (hj : m.joining = false) (ha : m.arrived = false) (hl : m.leaving = false) (hmay : phawMay o x = true)
    (h1 : 1 ≤ (getPh s ((rdS x o.a.toNat).extractLsb' 0 12).toNat).pend) :
    (opOf (.phaw o)).block is ((opOf (.phaw o)).early is s x) x = none ↔
      (getPh s ((rdS x o.a.toNat).extractLsb' 0 12).toNat).pend = 1 := by
  have he : (opOf (.phaw o)).early is s x = phawArrive o s x := rfl
  rw [he, phawArrive_arrives (by rwa [phN_eq]) hw h2 hj ha hmay, phN_eq]
  by_cases hp : (getPh s ((rdS x o.a.toNat).extractLsb' 0 12).toNat).pend = 1
  · have hv := phMember_arrived_last hm hl hp
    rw [← getPh_putPh_same (publish s x.id x.env.iter o.pm) ((rdS x o.a.toNat).extractLsb' 0 12).toNat (arrivedPhaser _ m)] at hv
    rw [phaw_block_member is hv, getPh_putPh_same]
    simp only [waitingMember, if_true, hp, iff_true, (arrivedPhaser_last hp).1]
    exact if_neg (phase_succ_ne _)
  · have hv := phMember_arrived_pending hm h1 hp
    rw [← getPh_putPh_same (publish s x.id x.env.iter o.pm) ((rdS x o.a.toNat).extractLsb' 0 12).toNat (arrivedPhaser _ m)] at hv
    rw [phaw_block_member is hv, getPh_putPh_same, arrivedPhaser_pending h1 hp]
    simp only [waitingMember, phSet, if_true, reduceCtorEq, false_iff]
    exact hp

/-- Settles O22: each block is a test of the member's state and of the phase. -/
theorem waitsAndBlocks : Obligations.WaitsAndBlocks := by
  unfold Obligations.WaitsAndBlocks
  refine ⟨fun o s x is => ⟨waits_block_iff o s x is, waits_block_cases o s x is⟩, ?_⟩
  intro o s x is m num p ago wait both hm
  refine ⟨phwait_block_signaller is hm, fun h0 => ?_, ?_, fun hw => ?_, fun hw => ?_,
    fun hw h2 hj ha hl hmay h1 => phaw_block_arrived is hm hw h2 hj ha hl hmay h1⟩
  · have hb := phwait_block_member is hm h0
    refine ⟨?_, ?_⟩
    · change (opOf (.phwait o)).block is s x = none ∨ (opOf (.phwait o)).block is s x = some .phaser
      rw [hb]
      split
      · exact .inl rfl
      · exact .inr rfl
    · change (opOf (.phwait o)).block is s x = none ↔ _
      have hago : BitVec.ofNat 32 (sb o x) = (rdS x o.b.toNat).extractLsb' 0 32 := by
        apply BitVec.eq_of_toNat_eq
        simp [sb]
      rw [hb, hago]
      rw [ite_eq_left_iff, Bool.not_eq_true]
      rw [show (∀ c : Bool, (c = false → some BlockWhy.phaser = none) ↔ c = true) from fun c => by cases c <;> simp]
      rw [Bool.and_eq_true, phPassed_iff, predsDone_and_not_phBusy]
      exact and_assoc
  · change (opOf (.phaw o)).block is s x = none ∨ (opOf (.phaw o)).block is s x = some .phaser
    rw [phaw_block_member is hm]
    repeat' split
    all_goals simp
  · change (opOf (.phaw o)).block is s x = none ↔ _
    rw [phaw_block_member is hm, hw]
    simp [p, num]
  · change (opOf (.phaw o)).block is s x = none ↔ _
    rw [phaw_block_member is hm, hw]
    simp only [Bool.false_eq_true, if_false, ite_eq_left_iff, reduceCtorEq, imp_false, not_not]

end Sys2Proof.Machine
end

section
/-!
Joining, leaving and arriving at a phaser (13 R436 to R444), and the rules of phasers and transaction barriers (13 R432 to R434).
-/
namespace Sys2Proof.Machine

/-! ## Joining a phaser (13 R438, R439) -/

/-- A phaser that n signallers join: at once where no signaller is there, else with the next phase. -/
def phJoin (q : Phaser) (n : Nat) : Phaser :=
  if q.nsig = 0 then { q with nsig := n, pend := q.pend + n, err := false } else { q with join := q.join + n, err := false }

theorem phRegister_wait (p : Phaser) (c : Nat) : phRegister p 1 c = ({ p with err := false }, p.phase.toNat) := by simp [phRegister]

theorem phRegister_signal {p : Phaser} {mode : Nat} (h1 : mode ≠ 1) (h3 : mode ≠ 3) (c : Nat) :
    phRegister p mode c = (phJoin p c, (if p.nsig = 0 then p.phase else p.phase + 1).toNat) := by
  by_cases h : p.nsig = 0 <;> simp [phRegister, phJoin, h1, h3, h]

theorem phRegister_anon (p : Phaser) (c : Nat) :
    phRegister p 3 c = ({ phJoin p c with nanon := p.nanon + c }, (if p.nsig = 0 then p.phase else p.phase + 1).toNat) := by
  by_cases h : p.nsig = 0 <;> simp [phRegister, phJoin, h]

theorem phJoin_members (p : Phaser) (n : Nat) : (phJoin p n).members = p.members := by
  unfold phJoin; split <;> rfl

/-- A phaser after a member of a mode has joined, before its entry is added. -/
def phJoined (p : Phaser) (mode : Nat) : Phaser := if mode = 1 then { p with err := false } else phJoin p 1

/-- The first phase of a member that joins. -/
def phFirst (p : Phaser) (mode : Nat) : BitVec 32 := if mode = 1 ∨ p.nsig = 0 then p.phase else p.phase + 1

theorem phRegister_member {p : Phaser} {mode : Nat} (h : mode < 3) :
    phRegister p mode 1 = (phJoined p mode, (phFirst p mode).toNat) ∧ (phJoined p mode).members = p.members := by
  by_cases h1 : mode = 1
  · subst h1
    exact ⟨by simp [phRegister_wait, phJoined, phFirst], rfl⟩
  · refine ⟨?_, ?_⟩
    · rw [phRegister_signal h1 (by omega)]
      simp [phJoined, phFirst, h1]
    · rw [phJoined, if_neg h1, phJoin_members]

section
variable (o : YF)

theorem yieldsIf_phreg_member {mode : Nat} (h : mode < 3) (hmode : phMode o = mode) : YieldsIf (.phreg o)
    (fun _ x s => phMember (getPh s (phN o x)) x.id x.env.iter = none ∧ nodeMembers s (phN o x / 256) < 4096 ∧
      phFull (phJoined (getPh s (phN o x)) mode) = false)
    (fun _ x s => putPh s (phN o x) { phJoined (getPh s (phN o x)) mode with members := (getPh s (phN o x)).members ++
      [newMember x mode (phFirst (getPh s (phN o x)) mode) (decide (mode ≠ 1 ∧ (getPh s (phN o x)).nsig ≠ 0))] })
    (fun x s => [(.s o.d.toNat, (phFirst (getPh s (phN o x)) mode).toNat)]) := by
  refine yieldsIf_of (so := opPhreg o) (t := .sy) (fun _ => rfl) rfl rfl (by decide) (fun _ hj => nomatch hj) ?_
  rintro is x s ⟨hm, hn, hf⟩
  have h3 : phMode o ≠ 3 := by omega
  obtain ⟨hr, hmem⟩ := phRegister_member (p := getPh s (phN o x)) h
  have hcount : phCount o x = 1 := by simp [phCount, h3]
  simp only [opPhreg, syOp, plainOp, hcount, hmode ▸ h3, hmode, hm, hr, hmem, hf, Nat.not_le.mpr hn, if_false, Option.isSome_none,
    Bool.false_eq_true, Bool.or_false, decide_false]
  have hjoin : (decide (mode ≠ 1) && (getPh s (phN o x)).nsig != 0) = decide (mode ≠ 1 ∧ (getPh s (phN o x)).nsig ≠ 0) := by
    by_cases h0 : (getPh s (phN o x)).nsig = 0 <;> simp [h0]
  rw [hjoin]
  rfl

theorem yieldsIf_phreg_anon (hmode : phMode o = 3) : YieldsIf (.phreg o)
    (fun _ x s => phFull { phJoin (getPh s (phN o x)) (bits (sb o x) 19 0) with
      nanon := (getPh s (phN o x)).nanon + bits (sb o x) 19 0 } = false)
    (fun _ x s => putPh s (phN o x) { phJoin (getPh s (phN o x)) (bits (sb o x) 19 0) with
      nanon := (getPh s (phN o x)).nanon + bits (sb o x) 19 0 })
    (fun x s => [(.s o.d.toNat, (phFirst (getPh s (phN o x)) 3).toNat)]) := by
  refine yieldsIf_of (so := opPhreg o) (t := .sy) (fun _ => rfl) rfl rfl (by decide) (fun _ hj => nomatch hj) ?_
  intro is x s hf
  have hcount : phCount o x = bits (sb o x) 19 0 := by simp [phCount, hmode]
  have hfirst : phFirst (getPh s (phN o x)) 3 = if (getPh s (phN o x)).nsig = 0 then (getPh s (phN o x)).phase
      else (getPh s (phN o x)).phase + 1 := by simp [phFirst]
  simp only [opPhreg, syOp, plainOp, hcount, hmode, phRegister_anon, hf, if_true, Bool.false_eq_true, if_false, hfirst]
  rfl

/-! ## Leaving a phaser (13 R440) -/

theorem yieldsIf_phdrop_anon (hanon : o.x.getLsbD 0 = true) : YieldsIf (.phdrop o)
    (fun _ x s => bits (sb o x) 19 0 ≤ (getPh s (phN o x)).nanon ∧ phFull { getPh s (phN o x) with
      nanon := (getPh s (phN o x)).nanon - bits (sb o x) 19 0, leave := (getPh s (phN o x)).leave + bits (sb o x) 19 0 } = false)
    (fun _ x s => putPh s (phN o x) { getPh s (phN o x) with
      nanon := (getPh s (phN o x)).nanon - bits (sb o x) 19 0, leave := (getPh s (phN o x)).leave + bits (sb o x) 19 0 })
    (fun x s => [(.s o.d.toNat, (getPh s (phN o x)).phase.toNat)]) := by
  refine yieldsIf_of (so := opPhdrop o) (t := .sy) (fun _ => rfl) rfl rfl (by decide) (fun _ hj => nomatch hj) ?_
  rintro is x s ⟨hc, hf⟩
  simp only [opPhdrop, syOp, plainOp, phAnonOpt, hanon, Nat.not_lt.mpr hc, hf, if_true, if_false, Bool.false_eq_true]
  rfl

theorem yieldsIf_phdrop_member (hanon : o.x.getLsbD 0 = false) : YieldsIf (.phdrop o)
    (fun _ x s => ∃ m, phMember (getPh s (phN o x)) x.id x.env.iter = some m ∧ m.leaving = false ∧
      phFull (phDropMember (getPh s (phN o x)) m) = false)
    (fun _ x s => match phMember (getPh s (phN o x)) x.id x.env.iter with
      | none => s
      | some m => putPh s (phN o x) (phDropMember (getPh s (phN o x)) m))
    (fun x s => [(.s o.d.toNat, (getPh s (phN o x)).phase.toNat)]) := by
  refine yieldsIf_of (so := opPhdrop o) (t := .sy) (fun _ => rfl) rfl rfl (by decide) (fun _ hj => nomatch hj) ?_
  rintro is x s ⟨m, hm, hl, hf⟩
  simp only [opPhdrop, syOp, plainOp, phAnonOpt, hanon, hm, hl, hf, if_false, Bool.false_eq_true]
  rfl
end

/-- Settles O23: by mode of joining, and by what leaves. -/
theorem phaserMembership : Obligations.PhaserMembership := by
  unfold Obligations.PhaserMembership
  intro o
  have hn : (fun x => ((rdS x o.a.toNat).extractLsb' 0 12).toNat) = phN o := funext fun x => (phN_eq o x).symm
  have hc : (fun x => ((rdS x o.b.toNat).extractLsb' 0 20).toNat) = fun x => bits (sb o x) 19 0 :=
    funext fun x => (bits_toNat _ 19 0).symm
  rw [hn, hc]
  refine ⟨fun mode hlt hmode => yieldsIf_phreg_member o hlt hmode, yieldsIf_phreg_anon o, yieldsIf_phdrop_anon o,
    yieldsIf_phdrop_member o⟩

/-! ## The rules of phasers and barriers (13 R432 to R441) -/

theorem phDropMember_wait {p : Phaser} {m : Member} (h : m.mode = 1) : phDropMember p m = phRemove p m.ctx m.iter := by
  rw [phDropMember, if_pos h]

theorem phDropMember_arrived {p : Phaser} {m : Member} (h : m.mode ≠ 1) (ha : m.arrived = true) :
    phDropMember p m = phSet { p with leave := p.leave + 1 } { m with leaving := true, waiting := false } := by
  rw [phDropMember, if_neg h, if_pos ha]

theorem phDropMember_joining {p : Phaser} {m : Member} (h : m.mode ≠ 1) (ha : m.arrived = false) (ht : phTakesPart m = false) :
    phDropMember p m = phRemove { p with join := p.join - 1 } m.ctx m.iter := by
  rw [phDropMember, if_neg h, if_neg (by simp [ha]), if_pos (by simp [ht])]

theorem phDropMember_pending {p : Phaser} {m : Member} (h : m.mode ≠ 1) (ha : m.arrived = false) (ht : phTakesPart m = true) :
    phDropMember p m = phDue (phRemove { p with pend := p.pend - 1, nsig := p.nsig - 1 } m.ctx m.iter) := by
  rw [phDropMember, if_neg h, if_neg (by simp [ha]), if_neg (by simp [ht])]

theorem phDue_pending {p : Phaser} (h : p.pend ≠ 0) : phDue p = p := by rw [phDue, if_neg h]

section
variable {b : Barrier}

theorem tbDue_counting (h : b.sec ≠ 0) : tbDue b = b := by simp [tbDue, h]

theorem tbDue_arrivals (h : b.sec = 0) (hp : b.pld = 0) (ha : b.arr ≠ 0) : tbDue b = b := by simp [tbDue, h, hp, ha]

theorem tbDue_phase (h : b.sec = 0) (hp : b.pld = 0) (ha : b.arr = 0) : tbDue b = { b with phase := (b.phase + 1) % 16, arr := b.reload } := by
  simp [tbDue, h, hp, ha]

/-- Arrivals that `tbexp.pay` has paid are taken at once where the bytes have come. -/
theorem tbDue_paid (h : b.sec = 0) (hp : b.pld ≠ 0) (ha : b.pld < b.arr) : tbDue b = { b with arr := b.arr - b.pld, pld := 0 } := by
  have h1 : ¬ b.arr < b.pld := by omega
  have h2 : b.arr - b.pld ≠ 0 := by omega
  simp [tbDue, h, hp, h1, h2]

theorem tbDue_overpaid (h : b.sec = 0) (hp : b.pld ≠ 0) (ha : b.arr < b.pld) :
    tbDue b = { b with err := true, pld := 0, phase := (b.phase + 1) % 16, arr := b.reload } := by
  simp [tbDue, h, hp, ha]

theorem tbDue_paid_last (h : b.sec = 0) (hp : b.pld ≠ 0) (ha : b.arr = b.pld) :
    tbDue b = { b with pld := 0, phase := (b.phase + 1) % 16, arr := b.reload } := by
  simp [tbDue, h, hp, ha]

theorem tbExpect_eq_none_iff (n : Nat) (pay : Bool) :
    tbExpect b n pay = none ↔ 2 ^ 32 - 1 < b.sec + n ∨ (pay = true ∧ b.pld = 2 ^ 20 - 1) := by
  unfold tbExpect
  simp only [ite_eq_left_iff, reduceCtorEq, imp_false, not_not, Bool.or_eq_true, decide_eq_true_eq, Bool.and_eq_true, beq_iff_eq]
end

/-- Settles O24. -/
theorem phaserAndBarrierRules : Obligations.PhaserAndBarrierRules := by
  unfold Obligations.PhaserAndBarrierRules
  refine ⟨fun p m => ⟨phDropMember_wait, fun h ha => ?_, phDropMember_joining, fun h ha ht hp => ?_, fun h ha ht hp => ?_⟩,
    fun p => ⟨phDue_pending, phDue_change⟩, fun b => ⟨tbDue_counting, tbDue_arrivals, tbDue_phase, tbDue_paid, tbDue_overpaid,
      tbDue_paid_last, rfl, tbExpect_eq_none_iff, fun n => ⟨rfl, rfl, rfl, rfl, rfl, rfl⟩⟩⟩
  · rw [phDropMember_arrived h ha]
    exact ⟨rfl, rfl, rfl, rfl⟩
  · have hne : (phRemove { p with pend := p.pend - 1, nsig := p.nsig - 1 } m.ctx m.iter).pend ≠ 0 := by
      change p.pend - 1 ≠ 0
      omega
    rw [phDropMember_pending h ha ht, phDue_pending hne]
    exact ⟨rfl, rfl, rfl⟩
  · have h0 : (phRemove { p with pend := p.pend - 1, nsig := p.nsig - 1 } m.ctx m.iter).pend = 0 := by
      change p.pend - 1 = 0
      omega
    obtain ⟨hphase, hnsig, hpend, hjoin, hleave, -⟩ := phDue_change h0
    rw [phDropMember_pending h ha ht]
    exact ⟨hphase, hpend.trans hnsig, hnsig, hjoin, hleave⟩

/-! ## Arriving and waiting (13 R442 to R444) -/

section
variable (o : YF)

theorem starts_pharr : Starts (.pharr o)
    (fun _ x s => ∃ m, phMember (getPh s (phN o x)) x.id x.env.iter = some m ∧ m.mode ≠ 1 ∧ phTakesPart m = true ∧ m.arrived = false)
    (fun is x s => startLoad (putPh s (phN o x) (phSet (getPh s (phN o x))
        { (phMember (getPh s (phN o x)) x.id x.env.iter).getD default with arrived := true })) x is o.ss.toNat o.pm 3
      (.pharr o.d.toNat (phN o x) (getPh s (phN o x)).phase.toNat) (.s o.d.toNat)) := by
  refine yieldsIf_of (so := opPharr o) (t := .sy) (fun _ => rfl) rfl rfl (by decide) (stream_lt _) ?_
  rintro is x s ⟨m, hm, h1, ht, ha⟩
  have hc : phArrCheck (getPh s (phN o x)) (some m) false = none := by simp [phArrCheck, h1, ht, ha]
  simp only [opPharr, syMem, memOp, plainOp, hm, hc]
  rfl

/-- A member that may wait, in the state that the issue finds. -/
theorem phWaiter_eq_some {p : Phaser} {x : Ctx} {m : Member} (hm : phMember p x.id x.env.iter = some m) (h0 : m.mode ≠ 0) :
    phWaiter p x = some m := by
  simp [phWaiter, hm, h0]

/-- Results that are written before an issue leave the phasers and what a phaser's number is read from. -/
theorem phWaiter_settle {s s1 : State} {x x1 : Ctx} (h : settle s x = some (s1, x1)) (n : Nat) :
    phWaiter (getPh (putCtx s1 x1) n) x1 = phWaiter (getPh s n) (settled x) := by
  have hid : x1.id = (settled x).id := (settle_id h).trans (settled_id x).symm
  have henv : x1.env = (settled x).env := by
    have e1 := congrArg Ctx.env (settle_ctx h)
    have e2 := congrArg Ctx.env (exceptFlight_settled x)
    exact Eq.trans e1 (Eq.symm e2)
  have hph : getPh (putCtx s1 x1) n = getPh s n := (MemStep.settle h).getPh n
  rw [phWaiter, hph, hid, henv, phWaiter]

/-! ### VSAVED plays no part in settling -/

/-- A context with another VSAVED. -/
def withSaved (v : BitVec 16) (x : Ctx) : Ctx := { x with vsaved := v }

theorem wrReg_withSaved (v : BitVec 16) (x : Ctx) (r : RegId) (n : Nat) : wrReg (withSaved v x) r n = withSaved v (wrReg x r n) := by
  cases r with
  | s k => cases k <;> rfl
  | c k => cases k <;> rfl
  | m k => cases k <;> rfl
  | h k => rfl
  | k k => rfl
  | v k => rfl

theorem flushPend_withSaved (v : BitVec 16) (x : Ctx) : flushPend (withSaved v x) = withSaved v (flushPend x) :=
  List.foldl_hom (withSaved v) (g₁ := writePend) (g₂ := writePend) (init := { x with pend := waitingPend [] x.pend })
    fun y p => wrReg_withSaved v { y with land := (supersede { y with pend := [] } p.reg p.vis).land } p.reg (p.val.getD 0)

theorem landOne_withSaved (v : BitVec 16) (x : Ctx) (l : Landing) : landOne (withSaved v x) l = withSaved v (landOne x l) := by
  unfold landOne
  cases l.vreg <;> cases l.kreg <;> rfl

theorem landDue_withSaved (v : BitVec 16) (x : Ctx) : landDue (withSaved v x) = withSaved v (landDue x) :=
  List.foldl_hom (withSaved v) (g₁ := landOne) (g₂ := landOne) (init := { x with land := x.land.filter (fun l => !landsAt x.pos l) })
    fun y l => landOne_withSaved v y l

/-- Results that are written before an issue: the context settles, and the groups saved are noted. -/
theorem settle_eq_withSaved {s s1 : State} {x x1 : Ctx} (h : settle s x = some (s1, x1)) : x1 = withSaved x1.vsaved (settled x) := by
  unfold settle at h
  split at h
  · exact absurd h (by simp)
  · next s2 x2 hs =>
    cases h
    have hx2 : x2 = withSaved x2.vsaved x := by
      have e := saveGroups_ctx hs
      calc x2 = withSaved x2.vsaved { x2 with vsaved := x.vsaved } := rfl
        _ = withSaved x2.vsaved x := by rw [e]
    have hs2 : settled x2 = withSaved x2.vsaved (settled x) := by
      rw [hx2, settled, flushPend_withSaved, landDue_withSaved]
      rfl
    rw [hs2]
    rfl

/-- The registers that an issue reads are those of the settled context. -/
theorem settle_rdS {s s1 : State} {x x1 : Ctx} (h : settle s x = some (s1, x1)) (n : Nat) : rdS x1 n = rdS (settled x) n := by
  rw [settle_eq_withSaved h]
  rfl

theorem yieldsIf_phwait : YieldsIf (.phwait o)
    (fun _ x s => ∃ m, phMember (getPh s (phN o x)) x.id x.env.iter = some m ∧ m.mode ≠ 0)
    (fun _ x s => passOp s x o.ss.toNat) (fun x s => [(.s o.d.toNat, (getPh s (phN o x)).phase.toNat)]) := by
  rintro s x s1 x1 h ⟨m, hm, h0⟩
  refine completes (so := opPhwait o) rfl rfl (slotFor_lt (t := .sy) rfl _) (slotFor_ne (t := .sy) rfl (by decide) _) (stream_lt _) h ?_
  have hw : phWaiter (getPh (putCtx s1 x1) (phN o x1)) x1 = some m := phWaiter_eq_some hm h0
  have hset : settle s x = some (s1, x1) := h.settles
  have hn : phN o (settled x) = phN o x1 := by rw [phN_eq, phN_eq, settle_rdS hset]
  have hw' := hw
  rw [phWaiter_settle hset] at hw'
  have hblock : (match phWaiter (getPh s (phN o (settled x))) (settled x) with
    | none => none
    | some _ => if phPassed (getPh s (phN o (settled x))).phase (BitVec.ofNat 32 (sb o (settled x))) &&
        predsDone (settled x) o.pm pkgScope && !phBusy (settled x) (phN o (settled x)) then none else some BlockWhy.phaser) = none :=
    h.noBlock
  rw [hn, hw'] at hblock
  have hp : predsDone (settled x) o.pm pkgScope = true := by
    by_contra hne
    simp [hne] at hblock
  change (match phWaiter (getPh (putCtx s1 x1) (phN o x1)) x1 with
    | none => phTrap 1
    | some _ => match lowerDone (putCtx s1 x1) x1.id (maskWaits o) with
      | none => OpRes.wait (some .phaser)
      | some s1 => _) = _
  rw [hw]
  simp only
  rw [lowerDone_issues h rfl hp]
  rfl

theorem yieldsIf_phaw : YieldsIf (.phaw o)
    (fun _ x s => ∃ m, phMember (getPh s (phN o x)) x.id x.env.iter = some m ∧ m.waiting = true)
    (fun _ x s => passOp (putPh s (phN o x) (phSet (getPh s (phN o x))
      { (phMember (getPh s (phN o x)) x.id x.env.iter).getD default with waiting := false })) x o.ss.toNat)
    (fun x s => [(.s o.d.toNat, (getPh s (phN o x)).phase.toNat)]) := by
  refine yieldsIf_of (so := opPhaw o) (t := .sy) (fun _ => rfl) rfl rfl (by decide) (stream_lt _) ?_
  rintro is x s ⟨m, hm, hw⟩
  simp only [opPhaw, syMem, memOp, plainOp, hm, hw, if_true]
  rfl

/-- What the arrive part of a `phaw` leaves, of the member and of the phaser. -/
theorem phaw_early {s : State} {x : Ctx} {m : Member} (is : Iss) (hm : phMember (getPh s (phN o x)) x.id x.env.iter = some m)
    (hw : m.waiting = false) (h2 : m.mode = 2) (hj : m.joining = false) (ha : m.arrived = false) (hl : m.leaving = false)
    (h1 : 1 ≤ (getPh s (phN o x)).pend) (hmay : phawMay o x = true) :
    let t := (opOf (.phaw o)).early is s x
    let p := getPh s (phN o x)
    let q := getPh t (phN o x)
    (∃ w, phMember q x.id x.env.iter = some w ∧ w.waiting = true ∧ w.waitPhase = p.phase.toNat ∧ w.mode = 2 ∧
      (w.arrived = true ↔ p.pend ≠ 1)) ∧
    (p.pend ≠ 1 → q.phase = p.phase ∧ q.pend = p.pend - 1 ∧ q.nsig = p.nsig ∧ q.join = p.join ∧ q.leave = p.leave) ∧
    (p.pend = 1 → q.phase = p.phase + 1 ∧ q.nsig = (p.nsig + p.join - p.leave) % 2 ^ 20 ∧ q.pend = q.nsig ∧ q.join = 0 ∧ q.leave = 0 ∧
      ∀ n ∈ q.members, n.arrived = false) ∧
    (∀ n, n ≠ phN o x → getPh t n = getPh s n) ∧ t.mem = s.mem ∧ t.clusters = s.clusters := by
  intro t p q
  have ht : t = putPh (publish s x.id x.env.iter o.pm) (phN o x) (arrivedPhaser p m) := phawArrive_arrives hm hw h2 hj ha hmay
  have hq : q = arrivedPhaser p m := by
    change getPh t (phN o x) = _
    rw [ht, getPh_putPh_same]
  obtain ⟨-, hmem, hcl⟩ := publish_keeps s x.id x.env.iter o.pm
  rw [hq]
  refine ⟨?_, fun hp => ?_, arrivedPhaser_last, fun n hn => ?_, ?_, ?_⟩
  · by_cases hp : p.pend = 1
    · exact ⟨_, phMember_arrived_last hm hl hp, rfl, rfl, h2, by simp [hp]⟩
    · exact ⟨_, phMember_arrived_pending hm h1 hp, rfl, rfl, h2, by simp [hp, waitingMember]⟩
  · rw [arrivedPhaser_pending h1 hp]
    exact ⟨rfl, rfl, rfl, rfl, rfl⟩
  · rw [ht, getPh_putPh_other _ _ hn, getPh_publish]
  · rw [ht]
    exact hmem
  · rw [ht]
    exact hcl
end

/-- Settles O25. -/
theorem phaserArriveWait : Obligations.PhaserArriveWait := by
  unfold Obligations.PhaserArriveWait
  intro o
  have hn : (fun x => ((rdS x o.a.toNat).extractLsb' 0 12).toNat) = phN o := funext fun x => (phN_eq o x).symm
  rw [hn]
  refine ⟨starts_pharr o, yieldsIf_phwait o, yieldsIf_phaw o, fun s x is m hm hw h2 hj ha hl h1 => ⟨phawArrive_waits, fun hmay => ?_⟩⟩
  exact phaw_early o is hm hw h2 hj ha hl h1 hmay

end Sys2Proof.Machine
end

section
/-!
Jobs, launches, event records and time (13 R447 to R455, 12 R408, 10 R339), and handles, purges and queue flushes (12 R394 to R396,
R421; 10 R342).
-/
namespace Sys2Proof.Machine

theorem bits_low (n hi : Nat) : bits n hi 0 = n % 2 ^ (hi + 1) := by simp [bits]

/-! ## Jobs and launches (13 R447, R448; 12 R408) -/

section
variable (o : YF)

theorem starts_done_posted : Starts (.done o) (fun _ x s => hasPosted s x.env.iter = true) (fun _ _ s => s) := by
  refine yieldsIf_of (so := opDone o) (t := .sy) (fun _ => rfl) rfl rfl (by decide) (fun _ hj => nomatch hj) ?_
  intro is x s hp
  simp only [opDone, syOp, plainOp, hp, if_true]

theorem starts_done_home : Starts (.done o) (fun _ x s => hasPosted s x.env.iter = false ∧ opsHome s x = true)
    (fun _ x s => postJob (publishIter (markPosted s x.env.iter) x.env.iter) (jobOfCtx x (findIter s x.env.iter))) := by
  refine yieldsIf_of (so := opDone o) (t := .sy) (fun _ => rfl) rfl rfl (by decide) (fun _ hj => nomatch hj) ?_
  rintro is x s ⟨hp, hh⟩
  simp only [opDone, syOp, plainOp, hp, hh, if_true, Bool.false_eq_true, if_false]

theorem starts_done_later : Starts (.done o) (fun _ x s => hasPosted s x.env.iter = false ∧ opsHome s x = false)
    (fun _ x s => markDue s x.env.iter x.id (nextSeq s x.id)) := by
  refine yieldsIf_of (so := opDone o) (t := .sy) (fun _ => rfl) rfl rfl (by decide) (fun _ hj => nomatch hj) ?_
  rintro is x s ⟨hp, hh⟩
  simp only [opDone, syOp, plainOp, hp, hh, Bool.false_eq_true, if_false]

theorem starts_jraise : Starts (.jraise o) (fun _ x s => hasPosted s x.env.iter = false)
    (fun is x s => startOp s x is o.ss.toNat o.pm 3 (.jraise x.env.jcb ((rdS x o.a.toNat).toNat % 2 ^ 32))) := by
  refine yieldsIf_of (so := opJraise o) (t := .sy) (fun _ => rfl) rfl rfl (by decide) (stream_lt _) ?_
  intro is x s hp
  simp only [opJraise, syMem, memOp, plainOp, hp, Bool.false_eq_true, if_false, bits_low]
  rfl

theorem starts_launchOn : Starts (.launchOn o) (fun _ _ _ => True)
    (fun is x s => startLoad s x is o.ss.toNat o.pm 3 (.launch o.d.toNat ((rdS x o.a.toNat).toNat % 2 ^ 8) true) (.s o.d.toNat)) := by
  refine yieldsIf_of (so := launchOp o true) (t := .sy) (fun _ => rfl) rfl rfl (by decide) (stream_lt _) ?_
  intro is x s _
  simp only [launchOp, syMem, memOp, plainOp, startSy, bits_low]
  rfl

theorem starts_launchOff : Starts (.launchOff o) (fun _ _ _ => True)
    (fun is x s => startLoad s x is o.ss.toNat o.pm 3 (.launch o.d.toNat ((rdS x o.a.toNat).toNat % 2 ^ 8) false) (.s o.d.toNat)) := by
  refine yieldsIf_of (so := launchOp o false) (t := .sy) (fun _ => rfl) rfl rfl (by decide) (stream_lt _) ?_
  intro is x s _
  simp only [launchOp, syMem, memOp, plainOp, startSy, bits_low]
  rfl

/-- `evrd` gives the oldest record, or zeros where there is none. -/
theorem yieldsIf_evrd : YieldsIf (.evrd o) (fun _ _ _ => True)
    (fun _ x s => if o.x.getLsbD 0 || x.events.isEmpty then s else modCtx s x.id (fun y => { y with events := y.events.drop 1 }))
    (fun x _ => [(.s o.d.toNat, ((x.events.headD 0).extractLsb' 0 64).toNat),
      (.s o.b.toNat, ((x.events.headD 0).extractLsb' 64 64).toNat)]) := by
  refine yieldsIf_of (so := opEvrd o) (t := .sy) (fun _ => rfl) rfl rfl (by decide) (fun _ hj => nomatch hj) ?_
  intro is x s _
  cases he : x.events with
  | nil => simp only [opEvrd, syOp, plainOp, he, List.isEmpty_nil, Bool.or_true, if_true, List.headD_nil]; rfl
  | cons r rest =>
    simp only [opEvrd, syOp, plainOp, he, List.isEmpty_cons, Bool.or_false, List.headD_cons]
    rfl

/-! ## Time (13 R454, R455) -/

/-- A `sleep` blocks until its target has come. -/
theorem sleep_block (is : Iss) (s : State) (x : Ctx) : (opOf (.sleep o)).block is s x =
    if devNs s < sleepTarget o s x then some .sleep else none := by
  change (if sleepTarget o s x ≤ devNs s then none else some BlockWhy.sleep) = _
  by_cases h : sleepTarget o s x ≤ devNs s
  · rw [if_pos h, if_neg (by omega)]
  · rw [if_neg h, if_pos (by omega)]

/-- The time of a bundle's first presentation. -/
def seenAt (s : State) (x : Ctx) : Ctx := { x with sleepAt := some (devNs s) }

theorem presented_seenAt (s : State) (x : Ctx) (p : Present) : presented (seenAt s x) p = presented x p := by cases p <;> rfl

/-- The first presentation of a relative `sleep` notes its time: a second one, with the time noted, goes on the same way. -/
theorem exec_sleep_seen {s : State} {x : Ctx} (hx : getCtx s s.cur = some x) (hid : x.id = s.cur) (hrel : o.x.getLsbD 0 = true)
    (hnew : x.sleepAt = none) :
    exec (.sleep o) s = exec (.sleep o) (modCtx s s.cur (fun y => { y with sleepAt := some (devNs s) })) := by
  have hget : getCtx (modCtx s s.cur (fun y => { y with sleepAt := some (devNs s) })) s.cur = some (seenAt s x) :=
    getCtx_modCtx s (fun y => { y with sleepAt := some (devNs s) }) hx hid
  have hfirst : firstSeen s x (issueOf (.sleep o) (opSleep o) s x false) =
      (modCtx s s.cur (fun y => { y with sleepAt := some (devNs s) }), seenAt s x) := by
    have hseen : ((issueOf (.sleep o) (opSleep o) s x false).named.any (fun p => p.so.timed) && x.sleepAt.isNone) = true := by
      rw [hnew]
      simp only [issueOf, List.any_cons, List.any_nil, Bool.or_false, opSleep, hrel, Option.isNone_none, Bool.and_self]
    rw [firstSeen, if_pos hseen, ← hid]
    rfl
  have hsecond : ∀ t b, firstSeen t (seenAt s x) b = (t, seenAt s x) := by
    intro t b
    rw [firstSeen, if_neg (by simp [seenAt])]
  have hiss : (modCtx s s.cur (fun y => { y with sleepAt := some (devNs s) })).iss = s.iss := modCtx_iss _ _ _
  have hissue : issueOf (.sleep o) (opSleep o) (modCtx s s.cur (fun y => { y with sleepAt := some (devNs s) })) (seenAt s x) false =
      issueOf (.sleep o) (opSleep o) s x false := by
    unfold issueOf
    rw [hiss]
    rfl
  have hcur : (modCtx s s.cur (fun y => { y with sleepAt := some (devNs s) })).cur = s.cur := modCtx_cur _ _ _
  rw [exec_slot _ _ rfl, exec_slot _ _ rfl]
  change issueAlone (.sleep o) (opSleep o) s = issueAlone (.sleep o) (opSleep o) _
  unfold issueAlone
  rw [hcur, hget, hx]
  simp only
  rw [hissue]
  unfold present
  rw [hfirst, hsecond, presented_seenAt]
end

/-- Settles O27. -/
theorem jobsLaunchesTime : Obligations.JobsLaunchesTime := by
  unfold Obligations.JobsLaunchesTime
  intro o
  refine ⟨starts_done_posted o, starts_done_home o, starts_done_later o, starts_jraise o, starts_launchOn o, starts_launchOff o,
    yieldsIf_evrd o, ?_, ?_, sleep_block o, fun s x hx hid hrel hnew => exec_sleep_seen o hx hid hrel hnew⟩
  · exact yieldsIf_of (so := opRdtime o) (t := .sy) (fun _ => rfl) rfl rfl (by decide) (fun _ hj => nomatch hj) fun _ _ _ _ => rfl
  · exact yields_of (so := opSleep o) (t := .sy) (fun _ => rfl) rfl rfl (by decide) (fun _ hj => nomatch hj) fun _ _ _ => rfl

/-! ## Handles and purges (12 R394 to R396, R421) -/

/-- A handle instruction with a valid register and no trap of its own. -/
theorem starts_handle {i : Instr} {o : YF} {so : SlotOp} {code : Nat} {reads : List RegId} {op1 op2 : Ctx → Word}
    {extra : State → Ctx → Option TrapC} {ok : Ctx → State → Prop} (hexec : ∀ s, exec i s = issueAlone i so s)
    (hso : slotOpOf i = some so) (hsl : slotOf i = some .sy) (hrun : so.run = (handleOp o code reads op1 op2 extra).run)
    (hst : so.stream = some o.ss.toNat) (hok : ∀ x s, ok x s → extra s x = none) :
    Starts i (fun _ x s => (rdH x (o.a.extractLsb' 0 5).toNat).getLsbD 63 = true ∧ ok x s)
      (fun is x s => startLoad s x is o.ss.toNat o.pm 3 (.handle o.d.toNat code (o.x.extractLsb' 0 1).toNat
        ((rdH x (o.a.extractLsb' 0 5).toNat).extractLsb' 0 12).toNat (op1 x) (op2 x)) (.s o.d.toNat)) := by
  refine yieldsIf_of hexec hso hsl (by decide) (fun j hj => stream_lt o.ss j (hst ▸ hj)) ?_
  rintro is x s ⟨hv, h⟩
  have hh : handleTrap x (hReg o) = none := handleTrap_valid hv
  rw [hrun]
  simp only [handleOp, syMem, memOp, plainOp, hok x s h, hh, startSy, hIdx, bits_toNat]
  rfl

theorem starts_purge (o : YF) : Starts (.purge o) (fun _ _ _ => True)
    (fun is x s => startLoad s x is o.ss.toNat o.pm 3 (.purge o.d.toNat ((rdS x o.a.toNat).extractLsb' 0 16).toNat) (.s o.d.toNat)) := by
  refine yieldsIf_of (so := opPurge o) (t := .sy) (fun _ => rfl) rfl rfl (by decide) (stream_lt _) ?_
  intro is x s _
  simp only [opPurge, syMem, memOp, plainOp, startSy, sa, bits_toNat]
  rfl

/-! ## Queue flushes (10 R342) -/

/-- A `qflush` that is no longer held ends what it has begun. -/
theorem yieldsIf_qflush {i : Instr} {o : YF} {mx : Bool} (hexec : ∀ s, exec i s = issueAlone i (qflushOp o mx) s)
    (hso : slotOpOf i = some (qflushOp o mx)) (hsl : slotOf i = some .sy) : YieldsIf i (fun _ _ _ => True)
    (fun _ x s => match flushOf (getCore s x.id.cl ((rdS x o.a.toNat).extractLsb' 0 3).toNat) mx x with
      | none => s
      | some f => endFlush x.id.cl ((rdS x o.a.toNat).extractLsb' 0 3).toNat s f)
    (fun x s => [(.s o.d.toNat, match flushOf (getCore s x.id.cl ((rdS x o.a.toNat).extractLsb' 0 3).toNat) mx x with
      | none => 0
      | some f => f.left.length)]) := by
  refine yieldsIf_of hexec hso hsl (by decide) (fun _ hj => nomatch hj) ?_
  intro is x s _
  have hcore : flushCore o x = ((rdS x o.a.toNat).extractLsb' 0 3).toNat := bits_toNat _ 2 0
  simp only [qflushOp, syOp, plainOp, flushEnd, hcore]
  cases flushOf (getCore s x.id.cl ((rdS x o.a.toNat).extractLsb' 0 3).toNat) mx x <;> rfl

theorem getCore_of_clusters {s t : State} (h : t.clusters = s.clusters) (n k : Nat) : getCore t n k = getCore s n k := by
  rw [getCore, getCl, h, getCore, getCl]

theorem refOut_clusters (s : State) (r : CmdRef) : (refOut s r).clusters = s.clusters := by
  unfold refOut
  split
  · rfl
  · split
    · rfl
    · exact putOwner_clusters _ _

theorem postRec_clusters (s : State) (c : Cmd) (e k d : Nat) : (postRec s c e k d).clusters = s.clusters := modCtx_clusters _ _ _

/-- A command that leaves by a flush leaves its core's queues. -/
theorem dropCmd_queues (s : State) (c : Cmd) :
    (getCore (dropCmd s c) c.ctx.cl c.ctx.core).mxq = (getCore s c.ctx.cl c.ctx.core).mxq.filter (fun d => !isRef (refOf c) d) ∧
    (getCore (dropCmd s c) c.ctx.cl c.ctx.core).cpq = (getCore s c.ctx.cl c.ctx.core).cpq.filter (fun d => !isRef (refOf c) d) := by
  have hfm : ∀ l : List Cmd, (l.filterMap fun d => if isRef (refOf c) d then none else some d) = l.filter (fun d => !isRef (refOf c) d) := by
    intro l
    rw [← List.filterMap_eq_filter]
    refine List.filterMap_congr fun d _ => ?_
    cases h : isRef (refOf c) d <;> simp [h, Option.guard]
  unfold dropCmd mapCmd
  rw [show (refOf c).ctx = c.ctx from rfl, getCore_modCore_self]
  exact ⟨hfm _, hfm _⟩

theorem flushLeave_queues (s : State) (c : Cmd) :
    (getCore (flushLeave s c) c.ctx.cl c.ctx.core).mxq = (getCore s c.ctx.cl c.ctx.core).mxq.filter (fun d => !isRef (refOf c) d) ∧
    (getCore (flushLeave s c) c.ctx.cl c.ctx.core).cpq = (getCore s c.ctx.cl c.ctx.core).cpq.filter (fun d => !isRef (refOf c) d) := by
  have hdrop := dropCmd_queues (postRec s c 0 9 c.word.toNat) c
  rw [getCore_of_clusters (postRec_clusters s c 0 9 c.word.toNat)] at hdrop
  have harr : ∀ (t : State) (f : Cluster → List CmdRef), getCore (modCl t c.ctx.cl (fun z => { z with arrq := f z })) c.ctx.cl c.ctx.core =
      getCore t c.ctx.cl c.ctx.core := by
    intro t f
    rw [getCore, getCl_modCl_self]
    rfl
  unfold flushLeave
  dsimp only
  split
  · rw [getCore_modCore_self, harr]
    exact hdrop
  · rw [getCore_of_clusters (refOut_clusters _ _), harr]
    exact hdrop

/-- The commands that leave one after another. -/
theorem foldl_flushLeave_queues {cl core : Nat} (w : CtxId) (l : List Cmd) (hl : ∀ c ∈ l, c.ctx.cl = cl ∧ c.ctx.core = core) (s : State) :
    (getCore (l.foldl (fun u c => flushLeave u { c with flush := some w }) s) cl core).mxq =
      (getCore s cl core).mxq.filter (fun d => l.all (fun c => !isRef (refOf c) d)) ∧
    (getCore (l.foldl (fun u c => flushLeave u { c with flush := some w }) s) cl core).cpq =
      (getCore s cl core).cpq.filter (fun d => l.all (fun c => !isRef (refOf c) d)) := by
  induction l generalizing s with
  | nil => simp
  | cons c rest ih =>
    obtain ⟨h1, h2⟩ := hl c (by simp)
    have hq := flushLeave_queues s { c with flush := some w }
    simp only [h1, h2] at hq
    have hr := ih (fun d hd => hl d (by simp [hd])) (flushLeave s { c with flush := some w })
    simp only [List.foldl_cons, hr, hq, List.filter_filter, List.all_cons]
    constructor <;>
      · refine List.filter_congr fun d _ => ?_
        rw [Bool.and_comm]
        rfl

theorem isRef_iff (b c : Cmd) : isRef (refOf b) c = true ↔ refOf b = refOf c := by
  simp only [isRef, refOf, Bool.and_eq_true, beq_iff_eq, CmdRef.mk.injEq]
  tauto

/-- Of commands with distinct numbers, those that are none of a part of them. -/
theorem filter_none_of {q l : List Cmd} (p : Cmd → Bool) (hl : ∀ c, c ∈ l ↔ c ∈ q ∧ p c = false)
    (hd : ∀ b ∈ q, ∀ c ∈ q, refOf b = refOf c → b = c) : q.filter (fun d => l.all (fun c => !isRef (refOf c) d)) = q.filter p := by
  refine List.filter_congr fun d hq => ?_
  rw [Bool.eq_iff_iff, List.all_eq_true]
  constructor
  · intro h
    by_contra hp
    have := h d ((hl d).mpr ⟨hq, by simpa using hp⟩)
    rw [(isRef_iff d d).mpr rfl] at this
    exact absurd this (by simp)
  · intro hp c hc
    obtain ⟨hcq, hcp⟩ := (hl c).mp hc
    rw [Bool.not_eq_true', ← Bool.not_eq_true, isRef_iff]
    intro e
    rw [hd c hcq d hq e] at hcp
    exact absurd hp (by simp [hcp])

/-- The begin of a flush (10 R342): what has not started leaves its queue, what has started is to stop at its next boundary. -/
theorem flushBegin_queues {s : State} {x : Ctx} {core : Nat} {mx : Bool} {y : Core} (hy : getCore s x.id.cl core = y)
    (hq : ∀ c ∈ y.mxq ++ y.cpq, c.ctx.cl = x.id.cl ∧ c.ctx.core = core ∧ (c.flush.isSome = true → c.started = true))
    (hd : (y.mxq ++ y.cpq).Pairwise (fun b c => refOf b ≠ refOf c)) (hf : flushOf y mx x = none) :
    (getCore (flushBegin s x core mx) x.id.cl core).mxq = (if mx then y.mxq.filter (fun c => c.started) else y.mxq) ∧
    (getCore (flushBegin s x core mx) x.id.cl core).cpq = (if mx then y.cpq else (y.cpq.filter (fun c => c.started)).map (fun c =>
      if c.flush.isNone then { c with flush := some x.id } else c)) := by
  have hnodup := List.pairwise_append.mp hd
  obtain ⟨hmx, hcp, hcross⟩ := hnodup
  have hinj : ∀ {l : List Cmd}, l.Pairwise (fun b c => refOf b ≠ refOf c) → ∀ b ∈ l, ∀ c ∈ l, refOf b = refOf c → b = c :=
    fun hl b hb c hc e => List.inj_on_of_nodup_map (List.pairwise_map.mpr hl) hb hc e
  have hmem : ∀ c ∈ (flushSet y mx).filter (fun c => !c.started), c ∈ y.mxq ++ y.cpq := by
    intro c hc
    have hc := (List.mem_filter.mp hc).1
    cases mx with
    | true => exact List.mem_append.mpr (.inl (List.mem_filter.mp hc).1)
    | false => exact List.mem_append.mpr (.inr (List.mem_filter.mp hc).1)
  unfold flushBegin
  simp only [hy, hf, Option.isSome_none, Bool.false_eq_true, if_false]
  obtain ⟨h1, h2⟩ := foldl_flushLeave_queues x.id ((flushSet y mx).filter (fun c => !c.started))
    (fun c hc => ⟨(hq c (hmem c hc)).1, (hq c (hmem c hc)).2.1⟩) (modCore s x.id.cl core (fun z => { z with
      flushes := z.flushes ++ [{ mx := mx, ctx := x.id, iter := x.env.iter, pos := x.pos, left := [] }]
      cpq := if mx then z.cpq else z.cpq.map (fun c => if c.started && c.flush.isNone then { c with flush := some x.id } else c) }))
  rw [h1, h2, getCore_modCore_self, hy]
  cases mx with
  | true =>
    simp only [if_true, flushSet, List.filter_filter, Bool.and_self]
    refine ⟨filter_none_of _ (by simp) (hinj hmx), ?_⟩
    refine List.filter_eq_self.mpr fun d hdq => List.all_eq_true.mpr fun c hc => ?_
    have hne := hcross c (List.mem_filter.mp hc).1 d hdq
    rw [Bool.not_eq_true', ← Bool.not_eq_true, isRef_iff]
    exact hne
  | false =>
    simp only [Bool.false_eq_true, if_false, flushSet, List.filter_filter]
    refine ⟨?_, ?_⟩
    · refine List.filter_eq_self.mpr fun d hdq => List.all_eq_true.mpr fun c hc => ?_
      have hne := hcross d hdq c (List.mem_filter.mp hc).1
      rw [Bool.not_eq_true', ← Bool.not_eq_true, isRef_iff]
      exact hne.symm
    · rw [List.filter_map]
      have hg : ∀ d : Cmd, refOf (if d.started && d.flush.isNone then { d with flush := some x.id } else d) = refOf d := by
        intro d
        split <;> rfl
      have hfilter : y.cpq.filter ((fun d => (y.cpq.filter (fun c => !c.started && c.flush.isNone)).all (fun c => !isRef (refOf c) d)) ∘
          fun c => if c.started && c.flush.isNone then { c with flush := some x.id } else c) = y.cpq.filter (fun c => c.started) := by
        have hsame : ∀ (r : CmdRef) (c : Cmd), isRef r (if c.started && c.flush.isNone then { c with flush := some x.id } else c) = isRef r c :=
          fun r c => by split <;> rfl
        simp only [Function.comp_def, hsame]
        refine filter_none_of _ (fun c => ?_) (hinj hcp)
        rw [List.mem_filter, Bool.and_eq_true, Bool.not_eq_true']
        refine and_congr_right fun hc => ⟨And.left, fun hs => ⟨hs, ?_⟩⟩
        have hflush := (hq c (List.mem_append.mpr (.inr hc))).2.2
        cases hfl : c.flush with
        | none => rfl
        | some v => rw [hfl] at hflush; rw [hflush rfl] at hs; exact absurd hs (by simp)
      rw [hfilter]
      refine List.map_congr_left fun c hc => ?_
      rw [(List.mem_filter.mp hc).2, Bool.true_and]

/-- Settles O29. -/
theorem handlesPurgesFlushes : Obligations.HandlesPurgesFlushes := by
  unfold Obligations.HandlesPurgesFlushes
  intro o
  refine ⟨?_, ?_, ?_, ?_, ?_, ?_, starts_purge o, ?_, ?_, ?_⟩
  · exact starts_handle (so := opHpinOn o) (extra := noTrap) (fun _ => rfl) rfl rfl rfl rfl fun _ _ _ => rfl
  · exact starts_handle (so := opHpinOff o) (extra := noTrap) (fun _ => rfl) rfl rfl rfl rfl fun _ _ _ => rfl
  · exact starts_handle (so := opHdem o) (extra := noTrap) (fun _ => rfl) rfl rfl rfl rfl fun _ _ _ => rfl
  · exact starts_handle (so := opHevict o) (extra := noTrap) (fun _ => rfl) rfl rfl rfl rfl fun _ _ _ => rfl
  · exact starts_handle (so := opHpri o) (reads := [.s o.b.toNat]) (extra := noTrap) (fun _ => rfl) rfl rfl rfl rfl fun _ _ _ => rfl
  · exact starts_handle (so := opHmov o) (extra := hmovAlign o) (fun _ => rfl) rfl rfl rfl rfl fun _ _ h => h
  · exact yieldsIf_qflush (fun _ => rfl) rfl rfl
  · exact yieldsIf_qflush (fun _ => rfl) rfl rfl
  · intro s x core mx y z hq hd hf
    exact flushBegin_queues rfl hq hd hf

end Sys2Proof.Machine
end

section
/-!
The commands of the MX and CP slots at issue (09 R280 to R298, 10 R309 to R333, 11 R368 to R370).
-/
namespace Sys2Proof.Machine

/-! ## Array commands (09 R280 to R298) -/

/-- A command of the MX slot that finds no operand trap enters its queue. -/
theorem starts_mxOp {i : Instr} {so : SlotOp} {ss : BitVec 4} {pm : BitVec 16} {acc : Nat} {sg : BitVec 6} {reads ill entries traps cap}
    {ok : Iss → Ctx → State → Prop} {eff : Iss → Ctx → State → State} (hexec : ∀ s, exec i s = issueAlone i so s)
    (hso : slotOpOf i = some so) (hsl : slotOf i = some .mx) (he : so = mxOp (encodeWord i) ss pm acc sg reads ill entries traps cap)
    (hok : ∀ is x s, ok is x s → traps s x = [])
    (heff : ∀ is x s, eff is x s = mxEnter ss pm acc is x s (cap s x (baseCmd x is (encodeWord i) sg entries)).1
      (cap s x (baseCmd x is (encodeWord i) sg entries)).2.2 (cap s x (baseCmd x is (encodeWord i) sg entries)).2.1) :
    Starts i ok eff := by
  refine yieldsIf_of hexec hso hsl (by decide) (fun j hj => stream_lt ss j (by subst he; exact hj)) ?_
  intro is x s h
  subst he
  simp only [mxOp, plainOp, hok is x s h, heff]
  rfl

/-- Settles the products of O30: each operand's checks, then the list's alignment. -/
theorem starts_mm (o : MM) (i : Instr) (list : Bool) (hi : (i = .mma o ∧ list = false) ∨ (i = .mmao o ∧ list = true)) :
    let ha := fun x => if o.ka = 0 then 0 else hIdx (rdH x o.ha.toNat)
    let hb := fun x => if o.kb = 0 then 0 else hIdx (rdH x o.hb.toNat)
    let la := fun x => if list then rdS x (o.ra.toNat + 1) else 0
    Starts i (fun _ x s => operandTraps s x o.ka o.ra o.ha = [] ∧ operandTraps s x o.kb o.rb o.hb = [] ∧ (la x).toNat % 8 = 0)
      (fun is x s =>
        let s1 := if o.ka = 0 then s else fillEntry s x (ha x)
        mxEnter o.ss o.pm o.acc.toNat is x s (if o.kb = 0 then s1 else fillEntry s1 x (hb x))
          (operandRange s x o.ka o.ra o.ha ++ operandRange s x o.kb o.rb o.hb ++ (if list then [((la x).toNat, listBytes)] else []))
          { baseCmd x is (encodeWord i) o.sg 1 with hidx := ha x, hidxB := hb x, ops := [rdS x o.ra.toNat, rdS x o.rb.toNat, BitVec.ofNat 64 (ha x + hb x * 2 ^ 16), la x] }) := by
  intro ha hb la
  rcases hi with ⟨rfl, rfl⟩ | ⟨rfl, rfl⟩
  · refine starts_mxOp (so := opMma o) (fun _ => rfl) rfl rfl (by rw [opMma, mmOp]) ?_ ?_
    swap
    · exact fun _ _ _ => rfl
    rintro is x s ⟨h1, h2, -⟩
    simp only [h1, h2, List.append_nil, Bool.false_and, Bool.false_eq_true, if_false]
  · refine starts_mxOp (so := opMmao o) (fun _ => rfl) rfl rfl (by rw [opMmao, mmOp]) ?_ ?_
    swap
    · exact fun _ _ _ => rfl
    rintro is x s ⟨h1, h2, h3⟩
    have h3 : (rdS x (o.ra.toNat + 1)).toNat % 8 = 0 := h3
    simp only [h1, h2, h3, List.append_nil, bne_self_eq_false, Bool.and_false, Bool.false_eq_true, if_false]

/-- An `mrel` ends the lease of a holding core, which keeps it under a fresh count where no other core waits. -/
theorem leaseGive_eq (s : State) (cl core : Nat) : leaseGive s cl core =
    if (getCl s cl).lease.holder == some core then
      modCl s cl (fun c => { c with lease := if leaseWaiters s cl core none then
        { c.lease with holder := none, last := core } else { c.lease with used := 0, since := s.ran } }) else s := by
  unfold leaseGive leaseFresh
  by_cases h : (getCl s cl).lease.holder = some core
  · simp only [h, bne_self_eq_false, beq_self_eq_true, Bool.false_eq_true, if_false, if_true]
    split <;> rfl
  · simp [h]

theorem starts_mrel (o : MC) : Starts (.mrel o) (fun _ _ _ => True) (fun is x s =>
      let s1 := if o.x.getLsbD 0 && (getCl s x.id.cl).lease.holder == some x.id.core then
        modCl s x.id.cl (fun c => { c with lease := if leaseWaiters s x.id.cl x.id.core none then
          { c.lease with holder := none, last := x.id.core } else { c.lease with used := 0, since := s.ran } }) else s
      enqueue s1 x is o.ss o.pm 3 [] false (baseCmd x is (encodeWord (.mrel o)) o.sg 1)) := by
  refine yieldsIf_of (so := opMrel o) (t := .mx) (fun _ => rfl) rfl rfl (by decide) (stream_lt _) ?_
  intro is x s _
  simp only [opMrel, plainOp, leaseGive_eq]
  cases o.x.getLsbD 0 <;> rfl

/-- Settles O30. -/
theorem arrayCommandsAccepted : Obligations.ArrayCommandsAccepted := by
  unfold Obligations.ArrayCommandsAccepted
  refine ⟨starts_mm, fun o => ⟨?_, ?_, ?_, ?_, starts_mrel o⟩⟩
  · refine starts_mxOp (so := opMzero o) (fun _ => rfl) rfl rfl (by rw [opMzero, mcOp]) ?_ ?_
    · exact fun _ _ _ _ => rfl
    · exact fun _ _ _ => rfl
  · refine starts_mxOp (so := opMchk o) (fun _ => rfl) rfl rfl (by rw [opMchk, mcOp]) ?_ ?_
    · exact fun _ _ _ _ => rfl
    · exact fun _ _ _ => rfl
  · refine starts_mxOp (so := opMload o) (fun _ => rfl) rfl rfl (by rw [opMload]) ?_ ?_
    · exact fun _ _ _ h => h
    · exact fun _ _ _ => rfl
  · refine starts_mxOp (so := opMdrain o) (fun _ => rfl) rfl rfl (by rw [opMdrain]) ?_ ?_
    swap
    · exact fun _ _ _ => rfl
    rintro is x s ⟨hdest, hbias⟩
    cases hb : mdBias o with
    | false => simp only [hdest, Bool.false_eq_true, if_false, List.append_nil]
    | true =>
      obtain ⟨h1, h2⟩ := hbias hb
      simp only [hdest, h1, h2, if_true, bne_self_eq_false, Bool.false_eq_true, if_false, Option.toList_none, List.append_nil]

/-! ## Copy and fill commands (10 R318 to R330) -/

/-- No stride leaves the element's alignment. -/
theorem any_mod_eq_false {l : List Int} {e : Int} (h : ∀ v ∈ l, v % e = 0) : l.any (fun v => v % e != 0) = false := by
  simpa using h

theorem accepts_cpy (o : CD) : Accepts (.cpy o) o 2 (cpyDesc o)
    (fun s x d => bits d 55 0 % cpyEs d = 0 ∧ bits d 119 64 % cpyEs d = 0 ∧ (∀ v ∈ strides d 256, v % (cpyEs d : Int) = 0) ∧
      (∀ v ∈ strides d 448, v % (cpyEs d : Int) = 0) ∧ cpySide s x d 0 256 = [] ∧ cpySide s x d 64 448 = [])
    (fun _ s x d => cpyRanges s x d) (fun s x d => max (roleScope s x (bits d 63 0)) (roleScope s x (bits d 127 64))) (fun _ => 0) := by
  refine accepts_of (so := opCpy o) (t := .cp) (fun _ => rfl) rfl rfl (by decide) rfl rfl (fun _ _ _ _ => rfl) rfl rfl ?_
  rintro s x d ⟨h1, h2, h3, h4, h5, h6⟩
  simp only [h1, h2, any_mod_eq_false h3, any_mod_eq_false h4, h5, h6, bne_self_eq_false, Bool.or_self, Bool.false_eq_true, if_false,
    List.append_nil]

theorem accepts_cpyt (o : CD) (hm : ctMere o = false) : AcceptsHandle (.cpyt o) o (cpytDesc o)
    (fun s x d => bits d 55 0 % 4096 = 0 ∧ wordTraps s x (bits d 63 0) (cpyWhole d) = [])
    (fun _ s x d => wordRange s x (bits d 63 0) (cpyWhole d) ++ entryTile s x (cdHandle o) (bits d 95 64))
    (fun s x d => max (roleScope s x (bits d 63 0)) (roleScope s x (bits d 191 128))) (fun _ => 0) := by
  refine acceptsHandle_of (so := opCpyt o) (t := .cp) (fun _ => rfl) rfl rfl (by decide)
    (by simp only [opCpyt, hm, Bool.false_eq_true, if_false]; rfl) rfl (fun _ _ _ _ => rfl) rfl rfl ?_
  rintro s x d ⟨h1, h2⟩
  have h2 : wordTraps s x (bits d 63 0) (ceilDiv (tileBytes (fmtOfCode (BitVec.ofNat 4 (bits d 99 96)))) 4096 * 4096) = [] := h2
  simp only [h1, h2, bne_self_eq_false, Bool.false_eq_true, if_false, List.append_nil]

theorem accepts_cpyt_mere (o : CD) (hm : ctMere o = true) : Accepts (.cpyt o) o 1 (cpytDesc o)
    (fun s x d => bits d 55 0 % 4096 = 0 ∧ wordTraps s x (bits d 63 0) (cpyWhole d) = [] ∧ bits d 183 128 % 4096 = 0 ∧
      wordTraps s x (bits d 191 128) 4096 = [])
    (fun _ s x d => wordRange s x (bits d 63 0) (cpyWhole d) ++ wordRange s x (bits d 191 128) maxTile)
    (fun s x d => max (roleScope s x (bits d 63 0)) (roleScope s x (bits d 191 128))) (fun _ => 0) := by
  refine accepts_of (so := opCpyt o) (t := .cp) (fun _ => rfl) rfl rfl (by decide)
    (by simp only [opCpyt, hm, if_true]; rfl) rfl (fun _ _ _ _ => rfl) rfl rfl ?_
  rintro s x d ⟨h1, h2, h3, h4⟩
  have h2 : wordTraps s x (bits d 63 0) (ceilDiv (tileBytes (fmtOfCode (BitVec.ofNat 4 (bits d 99 96)))) 4096 * 4096) = [] := h2
  simp only [h1, h2, h3, h4, bne_self_eq_false, Bool.false_eq_true, if_false, List.append_nil]

theorem accepts_cpst (o : CD) : AcceptsHandle (.cpst o) o (cpstDesc o)
    (fun s x d => bits d 55 0 % 4096 = 0 ∧ wordTraps s x (bits d 63 0) 4096 = [] ∧ bits d 183 128 % 4 = 0)
    (fun k s x d => wordRange s x (bits d 63 0) maxTile ++ steppedTiles (bits d 55 0) (k * o.st.toInt) ++ entryTile s x (cdHandle o) (bits d 95 64)
      ++ (if bits d 183 128 = 0 then [] else [(bits d 183 128, 4)])) (fun _ _ _ => 3) (fun k => BitVec.ofInt 64 (k * o.st.toInt)) := by
  refine acceptsHandle_of (so := opCpst o) (t := .cp) (fun _ => rfl) rfl rfl (by decide) rfl rfl (fun _ _ _ _ => rfl) rfl rfl ?_
  rintro s x d ⟨h1, h2, h3⟩
  simp only [h1, h2, h3, bne_self_eq_false, Bool.false_eq_true, if_false, List.append_nil]

theorem accepts_cpz (o : CD) : Accepts (.cpz o) o 1 (cpzDesc o)
    (fun s x d => bits d 55 0 % 8 = 0 ∧ wordTraps s x (bits d 63 0) (bits d 104 64) = [])
    (fun _ s x d => wordRange s x (bits d 63 0) (bits d 104 64)) (fun s x d => roleScope s x (bits d 63 0)) (fun _ => 0) := by
  refine accepts_of (so := opCpz o) (t := .cp) (fun _ => rfl) rfl rfl (by decide) rfl rfl (fun _ _ _ _ => rfl) rfl rfl ?_
  rintro s x d ⟨h1, h2⟩
  simp only [h1, h2, bne_self_eq_false, Bool.false_eq_true, if_false, List.append_nil]

theorem accepts_cpzTile (o : CD) : Accepts (.cpzTile o) o 1 (cpzTileDesc o)
    (fun s x d => bits d 55 0 % 4096 = 0 ∧ wordTraps s x (bits d 63 0) (tileGranules (czFmt o) * 4096) = [])
    (fun _ s x d => wordRange s x (bits d 63 0) (tileGranules (czFmt o) * 4096)) (fun s x d => roleScope s x (bits d 63 0)) (fun _ => 0) := by
  refine accepts_of (so := opCpzTile o) (t := .cp) (fun _ => rfl) rfl rfl (by decide) rfl rfl (fun _ _ _ _ => rfl) rfl rfl ?_
  rintro s x d ⟨h1, h2⟩
  simp only [h1, h2, bne_self_eq_false, Bool.false_eq_true, if_false, List.append_nil]

/-- Settles O31. -/
theorem copyCommandsAccepted : Obligations.CopyCommandsAccepted := by
  unfold Obligations.CopyCommandsAccepted
  exact fun o => ⟨accepts_cpy o, accepts_cpyt o, accepts_cpyt_mere o, accepts_cpst o, accepts_cpz o, accepts_cpzTile o⟩

/-! ## Metadata, scale-out and collective commands (10 R331 to R333, 11 R368 to R370) -/

theorem accepts_cpx (o : CD) (i : Instr) (hi : i = .cpxOut o ∨ i = .cpxIn o) : AcceptsHandle i o (cpxDesc o)
    (fun s x d => bits d 55 0 % 128 = 0 ∧ wordTraps s x (bits d 63 0) (bits d 175 128 / 2) = [])
    (fun _ s x d => wordRange s x (bits d 63 0) (bits d 175 128 / 2) ++ (match entryOf s x (cdHandle o) with
      | some e => if e.comp then [(e.metaB + bits d 111 64 / 2, bits d 175 128 / 2)] else []
      | none => [])) (fun s x d => roleScope s x (bits d 63 0)) (fun _ => 0) := by
  have hok : ∀ s x d, bits d 55 0 % 128 = 0 ∧ wordTraps s x (bits d 63 0) (bits d 175 128 / 2) = [] →
      (if bits d 55 0 % 128 != 0 then [trapC 6 0 (bits d 55 0)] else []) ++ wordTraps s x (bits d 63 0) (bits d 175 128 / 2) = [] := by
    rintro s x d ⟨h1, h2⟩
    simp only [h1, h2, bne_self_eq_false, Bool.false_eq_true, if_false, List.append_nil]
  rcases hi with rfl | rfl
  · refine acceptsHandle_of (so := opCpxOut o) (t := .cp) (fun _ => rfl) rfl rfl (by decide) (by rw [opCpxOut, cpxOp]; rfl) rfl (fun _ _ _ _ => rfl) rfl rfl ?_
    exact hok
  · refine acceptsHandle_of (so := opCpxIn o) (t := .cp) (fun _ => rfl) rfl rfl (by decide) (by rw [opCpxIn, cpxOp]; rfl) rfl (fun _ _ _ _ => rfl) rfl rfl ?_
    exact hok

theorem accepts_cpn (o : CD) (i : Instr) (hi : i = .cpnWr o ∨ i = .cpnRd o) : Accepts i o 1 (cpnDesc o)
    (fun s x d => wordTraps s x (bits d 63 0) (bits d 191 160) = []) (fun _ s x d => wordRange s x (bits d 63 0) (bits d 191 160))
    (fun _ _ _ => 5) (fun _ => 0) := by
  rcases hi with rfl | rfl
  · refine accepts_of (so := opCpnWr o) (t := .cp) (fun _ => rfl) rfl rfl (by decide) (by rw [opCpnWr, cpnOp]; rfl) rfl (fun _ _ _ _ => rfl) rfl rfl ?_
    exact fun _ _ _ h => h
  · refine accepts_of (so := opCpnRd o) (t := .cp) (fun _ => rfl) rfl rfl (by decide) (by rw [opCpnRd, cpnOp]; rfl) rfl (fun _ _ _ _ => rfl) rfl rfl ?_
    exact fun _ _ _ h => h

theorem accepts_coll (o : CD) : Accepts (.coll o) o 2 (collDesc o)
    (fun s x d => bits d 55 0 % 256 = 0 ∧ bits d 119 64 % 256 = 0 ∧ bits d 183 128 % 4 = 0 ∧ bits d 247 192 % 4 = 0 ∧
      wordTraps s x (bits d 63 0) (collNb d * 256) = [] ∧
      (bits d 191 128 ≠ 0 → wordTraps s x (bits d 191 128) (collNb d * 4) = []))
    (fun _ s x d => wordRange s x (bits d 63 0) (collNb d * 256)
      ++ (if bits d 191 128 = 0 then [] else wordRange s x (bits d 191 128) (collNb d * 4))
      ++ wordRange s x (bits d 127 64) (collNb d * 256)
      ++ (if bits d 255 192 = 0 then [] else wordRange s x (bits d 255 192) (collNb d * 4)))
    (fun s x d => roleScope s x (bits d 127 64)) (fun _ => 0) := by
  refine accepts_of (so := opColl o) (t := .cp) (fun _ => rfl) rfl rfl (by decide) rfl rfl (fun _ _ _ _ => rfl) rfl rfl ?_
  rintro s x d ⟨h1, h2, h3, h4, h5, h6⟩
  simp only [h1, h2, h3, h4, h5, bne_self_eq_false, Bool.false_eq_true, if_false, List.append_nil, Nat.zero_add, Nat.reduceAdd,
    List.nil_append, ite_eq_left_iff]
  exact h6

/-- Settles O32. -/
theorem metadataAndFabricCommandsAccepted : Obligations.MetadataAndFabricCommandsAccepted := by
  unfold Obligations.MetadataAndFabricCommandsAccepted
  exact fun o => ⟨accepts_cpx o, accepts_cpn o, accepts_coll o⟩

end Sys2Proof.Machine
end

section
/-!
The trap of an illegal operation at decode (06 R202): a relative `sleep` notes the time of its first presentation even where it is
illegal, so its trap is not held in the state as it stood.
-/
namespace Sys2Proof.Machine

/-- A relative `sleep` with a reserved field that is not 0. -/
def illegalSleep : YF := { d := 1, a := 0, b := 0, ss := 0, pm := 0, x := 1 }

/-- A context at U with a result of s5 still to come. -/
def awaitingCtx : Ctx := { (default : Ctx) with pend := [{ reg := .s 5, val := none, vis := 0, seq := none }] }

def awaitingState : State := putCtx State.reset awaitingCtx

/-- The held presentation leaves the noted time in the context. -/
theorem exec_illegalSleep :
    exec (.sleep illegalSleep) awaitingState = .next (putCtx awaitingState { awaitingCtx with sleepAt := some 0 }) := by
  rw [exec_slot _ _ rfl]
  rfl

/-- Refutes O36: an illegal relative `sleep` whose trap waits for a result to come is held, but its first presentation has noted
the time in the context, where the statement has the state unchanged. -/
theorem not_decodeTraps : ¬ Obligations.DecodeTraps := by
  intro h
  have hstay := (h (.sleep illegalSleep) awaitingState awaitingCtx rfl rfl rfl).1 1 (by decide)
  rw [exec_illegalSleep, if_pos ⟨by decide, by decide⟩] at hstay
  injection hstay with hsame
  have hnoted := congrArg (fun s => (getCtx s s.cur).map Ctx.sleepAt) hsame
  revert hnoted
  decide

end Sys2Proof.Machine
end

section
/-!
Taking an exception (06 R208, R213): the context that enters the handler, and when the work is purged instead.
-/
namespace Sys2Proof.Machine

/-- A context without what a trap's saved groups and completed results change: VSAVED, the registers and what is in flight. -/
def exceptSaved (x : Ctx) : Ctx := { exceptFlight x with vsaved := 0 }

theorem exceptSaved_saveGroups {s s1 : State} {x x1 : Ctx} {l : List Nat} (h : saveGroups s x l = some (s1, x1)) :
    exceptSaved x1 = exceptSaved x := by
  have e := saveGroups_ctx h
  calc exceptSaved x1 = exceptSaved { x1 with vsaved := x.vsaved } := rfl
    _ = exceptSaved x := by rw [e]

theorem exceptSaved_flushPend (x : Ctx) : exceptSaved (flushPend x) = exceptSaved x := by
  unfold exceptSaved; rw [exceptFlight_flushPend]

/-- The context with its ready results written after its groups are saved keeps every control and trap register. -/
theorem exceptSaved_flushSaved {s s0 : State} {x x0 : Ctx} {l : List Nat} (h : saveGroups s x l = some (s0, x0)) :
    exceptSaved (flushPend x0) = exceptSaved x := by
  rw [exceptSaved_flushPend, exceptSaved_saveGroups h]

theorem flushSaved_eq {s s0 : State} {x x0 : Ctx} (h : saveGroups s x (groupsOf ((readyPend [] x.pend).map (·.reg))) = some (s0, x0)) :
    flushSaved s x = some (s0, flushPend x0) := by
  unfold flushSaved; rw [h]; rfl

theorem flushSaved_none {s : State} {x : Ctx} (h : saveGroups s x (groupsOf ((readyPend [] x.pend).map (·.reg))) = none) :
    flushSaved s x = none := by
  unfold flushSaved; rw [h]; rfl

/-- The bytes of the frame that a trap of the context f writes (06 R209), and where. -/
def trapFrame (f : Ctx) (t : TrapT) (pc : BitVec 48) : List Byte :=
  frameImage f pc (issueWord f false) (BitVec.ofNat 64 t.cause) t.info t.addr 0 [] 0 false

def trapFrameSlot (f : Ctx) : Nat := if f.lvl = 0 then 0 else 1

theorem takeTrap_unsaved {s : State} {c : CtxId} {x : Ctx} {t : TrapT} {pc : BitVec 48} (hx : getCtx s c = some x) (hl : x.lvl ≠ 2)
    (hf : flushSaved s x = none) : takeTrap s c t pc = stopAndPurge s x := by
  unfold takeTrap
  rw [hx]
  simp only [if_neg hl, hf]

theorem takeTrap_unframed {s s0 : State} {c : CtxId} {x f : Ctx} {t : TrapT} {pc : BitVec 48} (hx : getCtx s c = some x)
    (hl : x.lvl ≠ 2) (hf : flushSaved s x = some (s0, f))
    (hw : areaWrite s0 f (frameAddr f (trapFrameSlot f)) (trapFrame f t pc) areaPages = none) :
    takeTrap s c t pc = stopAndPurge s x := by
  unfold takeTrap
  rw [hx]
  simp only [if_neg hl, hf]
  rw [trapFrame, trapFrameSlot] at hw
  rw [hw]

theorem takeTrap_framed {s s0 s1 : State} {c : CtxId} {x f : Ctx} {t : TrapT} {pc : BitVec 48} (hx : getCtx s c = some x)
    (hl : x.lvl ≠ 2) (hf : flushSaved s x = some (s0, f))
    (hw : areaWrite s0 f (frameAddr f (trapFrameSlot f)) (trapFrame f t pc) areaPages = some s1) :
    takeTrap s c t pc = putCtx s1 (enterHandler s1 (keepUnits (trapFrameSlot f) f) t) := by
  unfold takeTrap
  rw [hx]
  simp only [if_neg hl, hf]
  rw [trapFrame, trapFrameSlot] at hw
  rw [hw]
  rfl

theorem rdReg_enterHandler (s : State) (x : Ctx) (t : TrapT) (j : Nat) (r : RegId) :
    rdReg (enterHandler s (keepUnits j x) t) r = rdReg x r := by
  cases r <;> rfl

/-- The level and the address that a trap at U with a routed cause enters (06 R197, R208). -/
theorem enterHandler_user {s : State} {x : Ctx} {t : TrapT} (hl : x.lvl = 0)
    (hroute : (getCore s x.id.cl x.id.core).trapRoute.getLsbD t.cause = true) (hvec : x.uvec ≠ 0) :
    (enterHandler s x t).lvl = 1 ∧ (enterHandler s x t).pc = x.uvec.extractLsb' 0 48 := by
  have hlevel : trapLevel s x t.cause = 1 := if_pos (by simpa [routed, hl, hroute] using hvec)
  exact ⟨hlevel, by simp [enterHandler, hlevel, handlerPc]⟩

/-- The level and the address that every other trap enters. -/
theorem enterHandler_supervisor {s : State} {x : Ctx} {t : TrapT}
    (h : ¬ (x.lvl = 0 ∧ (getCore s x.id.cl x.id.core).trapRoute.getLsbD t.cause = true ∧ x.uvec ≠ 0)) :
    (enterHandler s x t).lvl = 2 ∧ (enterHandler s x t).pc = (getCore s x.id.cl x.id.core).svec.extractLsb' 0 48 := by
  have hlevel : trapLevel s x t.cause = 2 := if_neg (by simpa [routed] using h)
  exact ⟨hlevel, by simp [enterHandler, hlevel, handlerPc]⟩

/-- What contexts that differ in registers and results in flight alone agree on. -/
theorem fields_of_exceptSaved {x y : Ctx} (h : exceptSaved y = exceptSaved x) :
    y.id = x.id ∧ y.lvl = x.lvl ∧ y.use0 = x.use0 ∧ y.use1 = x.use1 ∧ y.uvec = x.uvec ∧ y.fpctl = x.fpctl ∧
      y.fpflags = x.fpflags ∧ y.streamCfg = x.streamCfg ∧ y.ctxsave = x.ctxsave ∧ y.ops = x.ops := by
  have e := congrArg (fun z : Ctx => (z.id, z.lvl, z.use0, z.use1, z.uvec, z.fpctl, z.fpflags, z.streamCfg, z.ctxsave, z.ops)) h
  simp only [Prod.mk.injEq] at e
  exact e

/-- Settles O33: below SH with the groups saved and the frame written the handler is entered, else the work is purged. -/
theorem exceptionEntry : Obligations.ExceptionEntry := by
  refine ⟨fun s s0 s1 c x x0 t pc => ?_, fun s c x t pc hx => ⟨fun hl => ?_, fun hl hg => ?_, fun s0 x0 => ?_⟩⟩
  · intro f toUser hx hl hg hw
    obtain ⟨hid, hlvl, huse0, huse1, huvec, hrest⟩ := fields_of_exceptSaved (exceptSaved_flushSaved hg)
    obtain ⟨hctl, hflags, hcfg, hsave, hops⟩ := hrest
    let h := keepUnits (trapFrameSlot f) f
    have htake : takeTrap s c t pc = putCtx s1 (enterHandler s1 h t) := takeTrap_framed hx hl (flushSaved_eq hg) hw
    refine ⟨enterHandler s1 h t, htake, hid, fun hu => ?_, fun hu => ?_, ?_, ?_, rfl, rfl, rfl, rfl, rfl, rfl, rfl,
      rdReg_enterHandler s1 f t _, hctl, hflags, hcfg, huvec, hsave, hops⟩
    · obtain ⟨hzero, hroute, hvec⟩ := hu
      rw [← huvec]
      exact enterHandler_user (x := h) (hlvl.trans hzero) (by rw [show h.id = x.id from hid]; exact hroute)
        (by rw [show h.uvec = x.uvec from huvec]; exact hvec)
    · rw [← hid]
      refine enterHandler_supervisor (x := h) fun he => hu ?_
      rw [show h.lvl = x.lvl from hlvl, show h.id = x.id from hid, show h.uvec = x.uvec from huvec] at he
      exact he
    · rw [← huse0, ← hlvl]; rfl
    · rw [← huse1, ← hlvl]; rfl
  · unfold takeTrap
    rw [hx]
    simp only [if_pos hl, stopAndPurge]
  · exact takeTrap_unsaved hx hl (flushSaved_none hg)
  · exact fun hl hg hw => takeTrap_unframed hx hl (flushSaved_eq hg) hw

end Sys2Proof.Machine
end

section
/-!
The layout of an exception frame (06 R209, R210): a frame is its parts in a row, and a field is read from the part it lies in.
-/
namespace Sys2Proof.Machine

/-! ## Numbers in a row of parts -/

theorem imgNat_append_left {a b : List Byte} {off n : Nat} (h : off + n ≤ a.length) : imgNat (a ++ b) off n = imgNat a off n := by
  unfold imgNat
  rw [List.drop_append_of_le_length (by omega), List.take_append_of_le_length (by rw [List.length_drop]; omega)]

theorem imgNat_append_right {a b : List Byte} {p : Nat} (h : a.length = p) (j n : Nat) :
    imgNat (a ++ b) (p + j) n = imgNat b j n := by
  unfold imgNat
  rw [List.drop_append, List.drop_of_length_le (by omega), List.nil_append, show p + j - a.length = j by omega]

/-- A number in part k of a row of parts. -/
theorem imgNat_part {ps : List (List Byte)} {part : List Byte} {p j n : Nat} (k : Nat) (hk : ps[k]? = some part)
    (hp : ((ps.take k).map List.length).sum = p) (hj : j + n ≤ part.length) :
    imgNat ps.flatten (p + j) n = imgNat part j n := by
  obtain ⟨hlt, rfl⟩ := List.getElem?_eq_some_iff.mp hk
  have hcut : ps.flatten = (ps.take k).flatten ++ (ps[k] ++ (ps.drop (k + 1)).flatten) := by
    rw [← List.flatten_cons, ← List.drop_eq_getElem_cons hlt, ← List.flatten_append, List.take_append_drop]
  rw [hcut, imgNat_append_right (by rw [List.length_flatten]; exact hp), imgNat_append_left hj]

/-- A number in the image of entry i, where every entry has an image of w bytes. -/
theorem imgNat_flatMap {α : Type} {f : α → List Byte} {w : Nat} (hf : ∀ a, (f a).length = w) {l : List α} {i : Nat} {a : α}
    (hi : l[i]? = some a) {j n : Nat} (hj : j + n ≤ w) : imgNat (l.flatMap f) (w * i + j) n = imgNat (f a) j n := by
  have hmap : ((l.map f).take i).map List.length = List.replicate i w := by
    obtain ⟨hlt, -⟩ := List.getElem?_eq_some_iff.mp hi
    rw [List.eq_replicate_iff]
    refine ⟨by simp; omega, fun b hb => ?_⟩
    obtain ⟨c, hc, rfl⟩ := List.mem_map.mp hb
    obtain ⟨d, -, rfl⟩ := List.mem_map.mp (List.mem_of_mem_take hc)
    exact hf d
  exact imgNat_part (ps := l.map f) i (by rw [List.getElem?_map, hi]; rfl) (by rw [hmap]; simp [Nat.mul_comm])
    (by rw [hf]; exact hj)

theorem imgNat_range {f : Nat → List Byte} {w k i : Nat} (hf : ∀ a, (f a).length = w) (hi : i < k) {j n : Nat} (hj : j + n ≤ w) :
    imgNat ((List.range k).flatMap f) (w * i + j) n = imgNat (f i) j n :=
  imgNat_flatMap hf (by simp [hi]) hj

theorem imgNat_natLe (n v : Nat) : imgNat (natLe n v) 0 n = v % 256 ^ n := by
  unfold imgNat
  rw [List.drop_zero, List.take_of_length_le (natLe_length n v).le, leNat_natLe]

theorem imgNat_natLe_of_lt {n v : Nat} (h : v < 256 ^ n) : imgNat (natLe n v) 0 n = v := by
  rw [imgNat_natLe, Nat.mod_eq_of_lt h]

/-- A number of a register of 8 n bits. -/
theorem imgNat_bits {w : Nat} (n : Nat) (v : BitVec w) (h : w ≤ 8 * n) : imgNat (natLe n v.toNat) 0 n = v.toNat := by
  refine imgNat_natLe_of_lt (v.isLt.trans_le ?_)
  rw [show 256 = 2 ^ 8 from rfl, ← Nat.pow_mul]
  exact Nat.pow_le_pow_right (by decide) h

theorem length_range_flatMap {f : Nat → List Byte} {w : Nat} (hf : ∀ a, (f a).length = w) (k : Nat) :
    ((List.range k).flatMap f).length = k * w := by
  simp [List.length_flatMap, hf]

/-! ## The parts of a frame -/

theorem stickyRec_length (x : Ctx) (slot : Nat) : (stickyRec x slot).length = 16 := by
  unfold stickyRec
  split <;> simp [natLe_length]

theorem landRec_length (x : Ctx) (l : Landing) : (landRec x l).length = 192 := by simp [landRec, natLe_length]

theorem padTo_length {n : Nat} {bs : List Byte} (h : bs.length ≤ n) : (padTo n bs).length = n := by simp [padTo]; omega

theorem landRecs_length (x : Ctx) : (x.land.flatMap (landRec x)).length = 192 * x.land.length := by
  simp [List.length_flatMap, landRec_length, Nat.mul_comm]

/-- The fields of a frame of a trap before its registers. -/
def frameFields (x : Ctx) (pc : BitVec 48) (issue : Nat) (cause info addr : Word) (vsaved : Nat) : List Nat :=
  [pc.toNat, issue, cause.toNat, info.toNat, addr.toNat, (rdCC x).toNat, x.fpctl.toNat, x.fpflags.toNat, vwinOf x, vsaved,
    x.land.length, x.issueSeq.toNat]

/-- The parts of a frame of a trap in a row. -/
def frameParts (x : Ctx) (fields : List Nat) : List (List Byte) :=
  [fields.flatMap (natLe 8), natLe 32 0,
    (List.range 64).flatMap (fun i => natLe 8 (rdS x i).toNat),
    (List.range 16).flatMap (fun i => natLe 16 (rdM x i).toNat),
    (List.range 32).flatMap (fun i => natLe 8 (rdH x i).toNat),
    (List.range 16).flatMap (fun i => natLe 8 (smGet x.cnt i 0 + smGet x.lastSeq i 0 * 2 ^ 16)),
    (List.range 7).flatMap (fun i => stickyRec x (i + 3)), natLe 16 0,
    (List.range 64).flatMap (fun i => natLe 32 (rdK x i).toNat),
    padTo 3072 (x.land.flatMap (landRec x)), padTo 3072 [], padTo 256 [], List.replicate 384 0]

theorem frameImage_eq_parts (x : Ctx) (pc : BitVec 48) (issue : Nat) (cause info addr : Word) (vsaved : Nat) :
    frameImage x pc issue cause info addr vsaved [] 0 false
      = (frameParts x (frameFields x pc issue cause info addr vsaved)).flatten := by
  unfold frameImage frameParts frameFields
  simp only [List.flatMap_cons, List.flatMap_nil, List.flatten_cons, List.flatten_nil,
    List.append_nil, List.append_assoc, Bool.false_eq_true, if_false, Bool.false_and, Bool.toNat_false, Nat.zero_mul, Nat.add_zero]

/-- The lengths of the parts of a frame with room for its landings. -/
theorem frameParts_lengths {x : Ctx} {fields : List Nat} (hf : fields.length = 12) (hl : x.land.length ≤ 16) :
    (frameParts x fields).map List.length = [96, 32, 512, 256, 256, 128, 112, 16, 2048, 3072, 3072, 256, 384] := by
  have hland := landRecs_length x
  have hpad : (padTo 3072 (x.land.flatMap (landRec x))).length = 3072 := padTo_length (by omega)
  have hfields : (fields.flatMap (natLe 8)).length = 96 := by simp [List.length_flatMap, natLe_length, hf]
  have hempty : ∀ n, (padTo n []).length = n := fun n => padTo_length (Nat.zero_le n)
  simp only [frameParts, List.map_cons, List.map_nil, length_range_flatMap fun _ => natLe_length _ _, hfields, hpad, hempty,
    natLe_length, length_range_flatMap fun i => stickyRec_length x (i + 3), List.length_replicate]

/-- A number in part k of such a frame. -/
theorem imgNat_framePart {x : Ctx} {fields : List Nat} (hf : fields.length = 12) (hl : x.land.length ≤ 16) {part : List Byte}
    {j n len : Nat} (k p : Nat) (hk : (frameParts x fields)[k]? = some part)
    (hp : ([96, 32, 512, 256, 256, 128, 112, 16, 2048, 3072, 3072, 256, 384].take k).sum = p)
    (hlen : [96, 32, 512, 256, 256, 128, 112, 16, 2048, 3072, 3072, 256, 384][k]? = some len) (hj : j + n ≤ len) :
    imgNat (frameParts x fields).flatten (p + j) n = imgNat part j n := by
  have hlens := frameParts_lengths hf hl
  have hpart : part.length = len := by
    rw [← hlens, List.getElem?_map, hk] at hlen
    exact Option.some.inj hlen
  exact imgNat_part k hk (by rw [List.map_take, hlens, hp]) (by rw [hpart]; exact hj)

/-- Field i of a frame before its registers. -/
theorem imgNat_frameField {x : Ctx} {fields : List Nat} (hf : fields.length = 12) (hl : x.land.length ≤ 16) {i v : Nat}
    (hi : fields[i]? = some v) : imgNat (frameParts x fields).flatten (8 * i) 8 = v % 256 ^ 8 := by
  obtain ⟨hlt, -⟩ := List.getElem?_eq_some_iff.mp hi
  have h := imgNat_framePart hf hl (j := 8 * i + 0) (n := 8) 0 0 rfl rfl rfl (by omega)
  rw [Nat.zero_add, Nat.add_zero] at h
  rw [h, ← imgNat_natLe]
  exact imgNat_flatMap (fun _ => natLe_length _ _) hi (j := 0) (n := 8) (by omega)

/-- A number of a landing record stands at its place in the landings' part. -/
theorem imgNat_frameLand {x : Ctx} {fields : List Nat} (hf : fields.length = 12) (hl : x.land.length ≤ 16) {i j n : Nat} {l : Landing}
    (hi : x.land[i]? = some l) (hj : j + n ≤ 192) :
    imgNat (frameParts x fields).flatten (0xD80 + (192 * i + j)) n = imgNat (landRec x l) j n := by
  obtain ⟨hlt, -⟩ := List.getElem?_eq_some_iff.mp hi
  rw [imgNat_framePart hf hl 9 0xD80 rfl rfl rfl (by omega)]
  unfold padTo
  rw [imgNat_append_left (by rw [landRecs_length]; omega), imgNat_flatMap (landRec_length x) hi hj]

/-- The parts of a landing record (06 R210). -/
theorem landRec_eq (x : Ctx) (l : Landing) : landRec x l = [natLe 8 (1 + l.poison.toNat * 2
      + (if l.kreg.isSome then (if l.vreg.isSome then 2 else 1) else 0) * 4 + (l.vreg.getD 0) * 16 + (l.kreg.getD 0) * 2 ^ 14
      + landR x l * 2 ^ 20), natLe 8 0, natLe 128 l.vval.toNat, natLe 32 l.kval.toNat, natLe 16 0].flatten := by
  simp only [landRec, List.flatten_cons, List.flatten_nil, List.append_nil, List.append_assoc]

theorem stickyRec_none {x : Ctx} {slot : Nat} (h : smFind x.sticky slot = none) : stickyRec x slot = natLe 16 0 := by
  unfold stickyRec; rw [h]

theorem stickyRec_some {x : Ctx} {slot : Nat} {t : Sticky} (h : smFind x.sticky slot = some t) :
    stickyRec x slot = [natLe 8 t.word.toNat, natLe 8 ((t.k % (2 ^ 32 : Nat)).toNat + 2 ^ 32)].flatten := by
  unfold stickyRec
  rw [h]
  simp only [List.flatten_cons, List.flatten_nil, List.append_nil]

theorem stickyCount_lt (k : Int) : (k % (2 ^ 32 : Nat)).toNat + 2 ^ 32 < 256 ^ 8 := by
  have := Int.emod_lt_of_pos k (show (0 : Int) < (2 ^ 32 : Nat) by decide)
  have := Int.emod_nonneg k (show ((2 ^ 32 : Nat) : Int) ≠ 0 by decide)
  omega

/-- Settles O34, part by part. -/
theorem exceptionFrame : Obligations.ExceptionFrame := by
  intro x pc issue cause info addr vsaved img kind hl
  have hf : (frameFields x pc issue cause info addr vsaved).length = 12 := rfl
  have himg : img = (frameParts x (frameFields x pc issue cause info addr vsaved)).flatten := frameImage_eq_parts ..
  have hbits : ∀ {w : Nat} (v : BitVec w), w ≤ 64 → v.toNat % 256 ^ 8 = v.toNat := fun v hw =>
    Nat.mod_eq_of_lt (v.isLt.trans_le (Nat.pow_le_pow_right (by decide) hw))
  rw [himg]
  refine ⟨?_, ?_, ?_, ?_, ?_, ?_, ?_, ?_, ?_, ?_, ?_, ?_, ?_, ?_, ?_, ?_, ?_, ?_, ?_, ?_, ?_⟩
  · rw [List.length_flatten, frameParts_lengths hf hl]; rfl
  · exact (imgNat_frameField hf hl (i := 0) rfl).trans (hbits pc (by decide))
  · exact imgNat_frameField hf hl (i := 1) rfl
  · exact (imgNat_frameField hf hl (i := 2) rfl).trans (hbits cause (by decide))
  · exact (imgNat_frameField hf hl (i := 3) rfl).trans (hbits info (by decide))
  · exact (imgNat_frameField hf hl (i := 4) rfl).trans (hbits addr (by decide))
  · exact (imgNat_frameField hf hl (i := 5) rfl).trans (hbits (rdCC x) (by decide))
  · exact (imgNat_frameField hf hl (i := 6) rfl).trans (hbits x.fpctl (by decide))
  · exact (imgNat_frameField hf hl (i := 7) rfl).trans (hbits x.fpflags (by decide))
  · exact imgNat_frameField hf hl (i := 8) rfl
  · exact imgNat_frameField hf hl (i := 9) rfl
  · exact (imgNat_frameField hf hl (i := 10) rfl).trans (Nat.mod_eq_of_lt (by omega))
  · intro i hi
    rw [imgNat_framePart hf hl 2 0x80 rfl rfl rfl (by omega)]
    exact (imgNat_range (fun _ => natLe_length _ _) hi (j := 0) (by decide)).trans (imgNat_bits 8 _ (by decide))
  · intro i hi
    rw [imgNat_framePart hf hl 3 0x280 rfl rfl rfl (by omega)]
    exact (imgNat_range (fun _ => natLe_length _ _) hi (j := 0) (by decide)).trans (imgNat_bits 16 _ (by decide))
  · intro i hi
    rw [imgNat_framePart hf hl 4 0x380 rfl rfl rfl (by omega)]
    exact (imgNat_range (fun _ => natLe_length _ _) hi (j := 0) (by decide)).trans (imgNat_bits 8 _ (by decide))
  · intro i hi
    rw [imgNat_framePart hf hl 8 0x580 rfl rfl rfl (by omega)]
    exact (imgNat_range (fun _ => natLe_length _ _) hi (j := 0) (by decide)).trans (imgNat_bits 32 _ (by decide))
  · exact (imgNat_frameField hf hl (i := 11) rfl).trans (hbits x.issueSeq (by decide))
  · intro i hi
    rw [imgNat_framePart hf hl 5 0x480 rfl rfl rfl (by omega)]
    exact (imgNat_range (fun _ => natLe_length _ _) hi (j := 0) (by decide)).trans (imgNat_natLe 8 _)
  · intro i hi hnone
    rw [imgNat_framePart hf hl 6 0x500 rfl rfl rfl (by omega)]
    refine (imgNat_range (fun i => stickyRec_length x (i + 3)) hi (j := 0) (by decide)).trans ?_
    rw [stickyRec_none hnone, imgNat_natLe]
    rfl
  · intro i t hi hsome
    have hpart : ∀ j, j + 8 ≤ 16 → imgNat (frameParts x (frameFields x pc issue cause info addr vsaved)).flatten
        (0x500 + (16 * i + j)) 8 = imgNat (stickyRec x (i + 3)) j 8 := fun j hj => by
      rw [imgNat_framePart hf hl 6 0x500 rfl rfl rfl (by omega)]
      exact imgNat_range (fun i => stickyRec_length x (i + 3)) hi hj
    refine ⟨(hpart 0 (by decide)).trans ?_, ?_⟩
    · rw [stickyRec_some hsome]
      exact (imgNat_part (j := 0) 0 rfl rfl (by simp [natLe_length])).trans (imgNat_bits 8 _ (by decide))
    · rw [show 0x508 + 16 * i = 0x500 + (16 * i + 8) by omega, hpart 8 (by decide), stickyRec_some hsome]
      exact (imgNat_part (p := 8) (j := 0) 1 rfl (by simp [natLe_length]) (by simp [natLe_length])).trans
        (imgNat_natLe_of_lt (stickyCount_lt t.k))
  · intro i l hi
    refine ⟨(imgNat_frameLand hf hl (j := 0) hi (by decide)).trans ?_, ?_, ?_⟩
    · rw [landRec_eq]
      exact (imgNat_part (j := 0) 0 rfl rfl (by simp [natLe_length])).trans (imgNat_natLe 8 _)
    · rw [show 0xD90 + 192 * i = 0xD80 + (192 * i + 16) by omega, imgNat_frameLand hf hl hi (by decide), landRec_eq]
      exact (imgNat_part (p := 16) (j := 0) 2 rfl (by simp [natLe_length]) (by simp [natLe_length])).trans
        (imgNat_bits 128 _ (by decide))
    · rw [show 0xE10 + 192 * i = 0xD80 + (192 * i + 144) by omega, imgNat_frameLand hf hl hi (by decide), landRec_eq]
      exact (imgNat_part (p := 144) (j := 0) 3 rfl (by simp [natLe_length]) (by simp [natLe_length])).trans
        (imgNat_bits 32 _ (by decide))

end Sys2Proof.Machine
end

section
/-!
The presentation of a bundle (03 R83, 04 R116, 06 R205): how a whole bundle of one operation issues it.
-/
namespace Sys2Proof.Machine

theorem exec_slot_presented {i : Instr} {s : State} {x : Ctx} (hi : (slotOpOf i).isSome = true) (hx : getCtx s s.cur = some x) :
    exec i s = .next (presented x (present s x (issueOf i (opOf i) s x false))) := by
  rw [exec_slot i s hi, issueAlone, hx]

theorem decodeWhole_ok {h : Word} {ws : List Word} {b : Bundle} (hb : decodeBundle h ws = .inl b) :
    decodeWhole h ws = { bundle := b, bad := none } := by
  unfold decodeWhole
  rw [hb]

/-- The presentation of a context with nothing to take first, at a bundle that decodes (06 R205). -/
theorem presentation_decoded {s s1 : State} {x : Ctx} {h : Word} {ws : List Word} {b : Bundle} (htrap : x.trapWait = none)
    (heret : x.eretWait = false) (hf : fetchBundle s x = (s1, .inl (h, ws))) (hb : decodeBundle h ws = .inl b)
    (ht : treeHeld x b = false) : presentation s x = present s1 x (bundleIssue x { bundle := b, bad := none }) := by
  unfold presentation
  rw [htrap]
  simp only [heret, Bool.false_eq_true, if_false, hf, decodeWhole_ok hb, ht, Bool.and_false]

theorem treeIn_singleton {b : Bundle} {d : SlotDec} (hb : b.ops = [d]) (ht : ∀ o, d.op ≠ .tree o) : treeIn b = none := by
  unfold treeIn
  rw [hb, List.findSome?_cons]
  split
  · next o h =>
    split at h
    · next t e => exact absurd e (ht t)
    · exact absurd h (by simp)
  · rfl

theorem opAt_of_ne_tree {i : Instr} (ht : ∀ o, i ≠ .tree o) (leaf : Nat) : opAt leaf i = opOf i := by
  unfold opAt
  split
  · next o => exact absurd rfl (ht o)
  · rfl

/-- The first and only issue of a bundle of one operation outside BR, with no sticky state before it. -/
theorem bundleIssue_singleton {x : Ctx} {b : Bundle} {d : SlotDec} (hrep : x.rep = none) (hst : x.sticky = []) (hb : b.ops = [d])
    (hb0 : b.rep = 0) (hp : b.pres.getLsbD 0 = false) (hs : d.slot ≠ 0) (htag : d.tag = 0) (ht : ∀ o, d.op ≠ .tree o) :
    bundleIssue x { bundle := b, bad := none } =
      let o : IssOp := { slot := d.slot, k := 0, word := d.word, so := opOf d.op }
      { bad := none, named := [o], exec := [o], len := 8 * b.words, sticky := stickyAfter [] d.slot d.word 0, rep := none,
        last := true, advance := true } := by
  have hfirst : firstIssue x = true := by simp [firstIssue, hrep]
  have htree := treeIn_singleton hb ht
  have hleaf : leafNow x b = 0 := by simp only [leafNow, hrep, htree]
  have hnow : stickyNow x b 0 = [] := by simp [stickyNow, hfirst, htree, hst]
  have hleft : issuesLeft x b = 1 := by simp only [issuesLeft, hrep, hb0]
  have hnamed : namedOp x b 0 d = { slot := d.slot, k := 0, word := d.word, so := opOf d.op } := by
    simp [namedOp, namedK, hfirst, opAt_of_ne_tree ht]
  have hexec : executes 0 true d = true := by simp [executes, hs, htag]
  unfold bundleIssue
  simp only [hleaf, hnow, hleft, hb, hp]
  simp [hnamed, hexec, reissues, inOrder, bySlot, firstError]

/-- Settles O37. -/
theorem presentationRunsOperations : Obligations.PresentationRunsOperations := by
  refine ⟨fun i s x hi hx => exec_slot_presented hi hx, ?_, ?_⟩
  · intro cl core s s1 x h ws b hpick hjoin htrap heret hf hb ht
    show execPresentBundle cl core s = _
    unfold execPresentBundle
    rw [hpick]
    simp only [hjoin, Bool.false_and, Bool.false_eq_true, if_false, pairPresented]
    rw [presentation_decoded htrap heret hf hb ht]
  · intro x b d hrep hst hb hb0 hp hs htag ht o
    rw [bundleIssue_singleton hrep hst hb hb0 hp hs htag ht]

end Sys2Proof.Machine
end

section
/-!
Blocks that clear, results that come and landings (01 R30, 03 R93, R94, 06 R211): what each leaves of the context.
-/
namespace Sys2Proof.Machine

/-! ## Writes in a row -/

theorem regAfter_congr {x y : Ctx} {r : RegId} (ws : List (RegId × Nat)) (h : rdReg x r = rdReg y r) :
    regAfter ws x r = regAfter ws y r := by
  unfold regAfter; rw [h]

/-- What a register holds after the writes ws, where folding them over a step f writes one after another. -/
theorem rdReg_foldl_writes {α : Type} {f : Ctx → α → Ctx} {ws : α → List (RegId × Nat)}
    (hf : ∀ y a r, rdReg (f y a) r = regAfter (ws a) y r) (l : List α) (x : Ctx) (r : RegId) :
    rdReg (l.foldl f x) r = regAfter (l.flatMap ws) x r := by
  induction l generalizing x with
  | nil => rfl
  | cons a rest ih =>
    rw [List.foldl_cons, ih, List.flatMap_cons]
    unfold regAfter
    rw [List.reverse_append, List.find?_append]
    cases (rest.flatMap ws).reverse.find? (fun w => w.1 == r) with
    | some w => rfl
    | none => exact hf x a r

theorem regAfter_singleton (w : RegId × Nat) (x : Ctx) (r : RegId) : regAfter [w] x r = rdReg (wrReg x w.1 w.2) r := by
  unfold regAfter
  rw [rdReg_wrReg]
  by_cases h : w.1 = r
  · subst h; simp [rdReg_wrReg]
  · have hne : (w.1 == r) = false := by simpa using h
    simp [hne, Ne.symm h]

theorem rdReg_land (x : Ctx) (l : List Landing) (r : RegId) : rdReg { x with land := l } r = rdReg x r := by cases r <;> rfl
theorem rdReg_pend (x : Ctx) (l : List Pend) (r : RegId) : rdReg { x with pend := l } r = rdReg x r := by cases r <;> rfl
theorem rdReg_withSaved (v : BitVec 16) (x : Ctx) (r : RegId) : rdReg { x with vsaved := v } r = rdReg x r := by cases r <;> rfl

/-! ## Results that come -/

theorem rdReg_writePend (y : Ctx) (p : Pend) (r : RegId) :
    rdReg (writePend y p) r = regAfter [(p.reg, p.val.getD 0)] y r := by
  rw [regAfter_singleton]
  unfold writePend
  rw [rdReg_wrReg, rdReg_wrReg, rdReg_land]

/-- The registers once the results that are there are written. -/
theorem rdReg_flushPend (x : Ctx) (r : RegId) :
    rdReg (flushPend x) r = regAfter ((readyPend [] x.pend).map (fun p => (p.reg, p.val.getD 0))) x r := by
  unfold flushPend
  rw [rdReg_foldl_writes rdReg_writePend, regAfter_congr _ (rdReg_pend x _ r), ← List.map_eq_flatMap]

theorem pend_wrReg (x : Ctx) (r : RegId) (v : Nat) : (wrReg x r v).pend = x.pend := by
  have e := congrArg Ctx.pend (exceptRegs_wrReg x r v)
  exact e

theorem flushPend_pend (x : Ctx) : (flushPend x).pend = waitingPend [] x.pend := by
  unfold flushPend
  refine foldl_inv (fun y : Ctx => y.pend = waitingPend [] x.pend) _ (fun y p h => ?_) _ _ rfl
  unfold writePend
  rw [pend_wrReg]
  exact h

/-! ## Landings -/

/-- The writes of a landing (06 R210). -/
def landWrites (l : Landing) : List (RegId × Nat) :=
  (l.vreg.map (fun n => (RegId.v n, l.vval.toNat))).toList ++ (l.kreg.map (fun n => (RegId.k n, l.kval.toNat))).toList

theorem wrV_eq_wrReg (x : Ctx) (n : Nat) (v : Vec) : wrV x n v = wrReg x (.v n) v.toNat := by simp [wrReg]
theorem wrK_eq_wrReg (x : Ctx) (n : Nat) (v : Scale) : wrK x n v = wrReg x (.k n) v.toNat := by simp [wrReg]

theorem rdReg_landOne (y : Ctx) (l : Landing) (r : RegId) : rdReg (landOne y l) r = regAfter (landWrites l) y r := by
  unfold landOne landWrites
  have hpair : ∀ a b : RegId × Nat, regAfter [a, b] y r = rdReg (wrReg (wrReg y a.1 a.2) b.1 b.2) r := fun a b => by
    have h := rdReg_foldl_writes (f := fun y w => wrReg y w.1 w.2) (ws := fun w => [w])
      (fun y w r => (regAfter_singleton w y r).symm) [a, b] y r
    exact h.symm
  cases l.vreg with
  | none =>
    cases l.kreg with
    | none => rfl
    | some n =>
      show rdReg (wrK { y with pend := _ } n l.kval) r = regAfter [(RegId.k n, l.kval.toNat)] y r
      rw [regAfter_singleton, wrK_eq_wrReg, rdReg_wrReg, rdReg_wrReg, rdReg_pend]
  | some m =>
    cases l.kreg with
    | none =>
      show rdReg (wrV { y with pend := _ } m l.vval) r = regAfter [(RegId.v m, l.vval.toNat)] y r
      rw [regAfter_singleton, wrV_eq_wrReg, rdReg_wrReg, rdReg_wrReg, rdReg_pend]
    | some n =>
      show rdReg (wrK { wrV { y with pend := _ } m l.vval with pend := _ } n l.kval) r
        = regAfter [(RegId.v m, l.vval.toNat), (RegId.k n, l.kval.toNat)] y r
      rw [hpair, wrK_eq_wrReg, wrV_eq_wrReg, rdReg_wrReg, rdReg_wrReg, rdReg_pend, rdReg_wrReg, rdReg_wrReg, rdReg_pend]

/-- The registers once the due landings have landed. -/
theorem rdReg_landDue (x : Ctx) (r : RegId) :
    rdReg (landDue x) r = regAfter ((x.land.filter (landsAt x.pos)).flatMap landWrites) x r := by
  unfold landDue
  rw [rdReg_foldl_writes rdReg_landOne, regAfter_congr _ (rdReg_land x _ r)]

theorem landOne_land (y : Ctx) (l : Landing) : (landOne y l).land = y.land := by
  unfold landOne
  cases l.kreg <;> cases l.vreg <;> rfl

theorem landDue_land (x : Ctx) : (landDue x).land = x.land.filter (fun l => !landsAt x.pos l) := by
  unfold landDue
  exact foldl_inv (fun y : Ctx => y.land = x.land.filter (fun l => !landsAt x.pos l)) _
    (fun y l h => (landOne_land y l).trans h) _ { x with land := x.land.filter (fun l => !landsAt x.pos l) } rfl

/-- What contexts that differ in registers and results in flight alone agree on. -/
theorem fields_of_exceptFlight {x y : Ctx} (h : exceptFlight y = exceptFlight x) :
    y.id = x.id ∧ y.ops = x.ops ∧ y.pc = x.pc ∧ y.fpflags = x.fpflags ∧ y.vsaved = x.vsaved := by
  have e := congrArg (fun z : Ctx => (z.id, z.ops, z.pc, z.fpflags, z.vsaved)) h
  simp only [Prod.mk.injEq] at e
  exact e

/-! ## Groups that are saved (06 R211) -/

theorem saveGroups_of_saved {s : State} {x : Ctx} {gs : List Nat} (h : x.lvl = 0 ∨ ∀ g ∈ gs, x.vsaved.getLsbD g = true) :
    saveGroups s x gs = some (s, x) := by
  induction gs with
  | nil => rfl
  | cons g rest ih =>
    have hg : saveGroup s x g = some (s, x) := by
      unfold saveGroup
      refine if_pos ?_
      rcases h with h | h
      · simp [h]
      · simp only [h g (List.mem_cons_self ..), Bool.or_true]
    have hrest := ih (h.imp_right fun h k hk => h k (List.mem_cons_of_mem g hk))
    simp only [saveGroups, hg, hrest]

theorem saveGroups_singleton {s s1 s2 : State} {x : Ctx} {g : Nat} (hl : x.lvl ≠ 0) (hg : x.vsaved.getLsbD g = false)
    (h1 : areaWrite s x (frameAddr x (liveSlot x) + 0x2800 + 8192 * g)
      ((List.range 64).flatMap (fun i => natLe 128 (rdV x (64 * g + i)).toNat)) areaPages = some s1)
    (h2 : areaWrite s1 x (frameAddr x (liveSlot x) + 0x48) (natLe 8 (x.vsaved ||| (1#16 <<< g)).toNat) areaPages = some s2) :
    saveGroups s x [g] = some (s2, { x with vsaved := x.vsaved ||| (1#16 <<< g) }) := by
  have hone : saveGroup s x g = some (s2, { x with vsaved := x.vsaved ||| (1#16 <<< g) }) := by
    unfold saveGroup
    rw [if_neg (by simp [hl, hg])]
    simp only [h1, h2]
  simp only [saveGroups, hone]

theorem liveSlot_eq (x : Ctx) : liveSlot x = if x.lvl = 2 ∧ x.use1 = true then 1 else 0 := by
  unfold liveSlot
  simp only [Bool.and_eq_true, decide_eq_true_eq]

/-- What saving vector groups leaves of a context (06 R211). -/
theorem saveGroups_fields {s s1 : State} {x x1 : Ctx} {gs : List Nat} (h : saveGroups s x gs = some (s1, x1)) :
    x1.pend = x.pend ∧ x1.land = x.land ∧ x1.pos = x.pos ∧ x1.ops = x.ops ∧ x1.pc = x.pc ∧ x1.fpflags = x.fpflags ∧
      ∀ r, rdReg x1 r = rdReg x r := by
  have hsaved := saveGroups_ctx h
  have e := congrArg (fun z : Ctx => (z.pend, z.land, z.pos, z.ops, z.pc, z.fpflags)) hsaved
  simp only [Prod.mk.injEq] at e
  obtain ⟨hpend, hland, hpos, hops, hpc, hflags⟩ := e
  refine ⟨hpend, hland, hpos, hops, hpc, hflags, fun r => ?_⟩
  rw [← rdReg_withSaved x.vsaved x1 r, hsaved]

/-! ## The steps -/

theorem exec_blockClears {c : CtxId} {s : State} {x : Ctx} (hx : getCtx s c = some x) (hb : blockedOn x ≠ []) (hs : sleeping x = false)
    (hm : awaitsMatch s c.cl c.core = false) (hu : unblocked s x = true) :
    exec (.blockClears c) s = .next (putCtx s { x with status := .ready }) := by
  have hb' : (blockedOn x).isEmpty = false := by simpa using hb
  show execBlockClears c s = _
  unfold execBlockClears
  rw [hx]
  simp only [hb', hs, hm, hu, Bool.not_true, Bool.or_false, Bool.false_eq_true, if_false]
  rfl

theorem exec_sleepWake {c : CtxId} {s : State} {x : Ctx} (hx : getCtx s c = some x) (hs : sleeping x = true)
    (hm : awaitsMatch s c.cl c.core = false) (hu : unblocked s x = true) :
    exec (.sleepWake c) s = .next (putCtx s { x with status := .ready }) := by
  show execSleepWake c s = _
  unfold execSleepWake
  rw [hx]
  simp only [hs, hm, hu, Bool.not_false, Bool.and_true, if_true]
  rfl

theorem exec_interlockedWrite {c : CtxId} {s s1 : State} {x x1 : Ctx} (hx : getCtx s c = some x) (hr : readyPend [] x.pend ≠ [])
    (hf : flushSaved s x = some (s1, x1)) : exec (.interlockedWrite c) s = .next (putCtx s1 x1) := by
  have hr' : (readyPend [] x.pend).isEmpty = false := by simpa using hr
  show execInterlockedWrite c s = _
  unfold execInterlockedWrite
  rw [hx]
  simp only [hr', Bool.false_eq_true, if_false, hf]

theorem exec_interlockedWrite_unsaved {c : CtxId} {s : State} {x : Ctx} (hx : getCtx s c = some x) (hr : readyPend [] x.pend ≠ [])
    (hf : flushSaved s x = none) : exec (.interlockedWrite c) s = .next (stopAndPurge s x) := by
  have hr' : (readyPend [] x.pend).isEmpty = false := by simpa using hr
  show execInterlockedWrite c s = _
  unfold execInterlockedWrite
  rw [hx]
  simp only [hr', Bool.false_eq_true, if_false, hf]

/-- Whether a landing is due and none that is due waits for its data. -/
theorem landing_due {x : Ctx} (hd : ∃ l ∈ x.land, landsAt x.pos l = true) (hw : ∀ l ∈ x.land, l.vis ≤ x.pos → l.wait = none) :
    (x.land.any (landsAt x.pos) && !lateDue x) = true := by
  have hlate : lateDue x = false := by
    unfold lateDue
    rw [List.any_eq_false]
    intro l hl
    by_cases hv : l.vis ≤ x.pos
    · simp [hw l hl hv]
    · simp [hv]
  rw [List.any_eq_true.mpr hd, hlate]
  rfl

theorem exec_landing {c : CtxId} {s s1 : State} {x x1 : Ctx} (hx : getCtx s c = some x) (hd : (x.land.any (landsAt x.pos) && !lateDue x) = true)
    (hg : saveGroups s x (dueGroups x) = some (s1, x1)) : exec (.landing c) s = .next (putCtx s1 (landDue x1)) := by
  show execLanding c s = _
  unfold execLanding
  rw [hx]
  simp only [hd, if_true, hg]

theorem exec_landing_unsaved {c : CtxId} {s : State} {x : Ctx} (hx : getCtx s c = some x)
    (hd : (x.land.any (landsAt x.pos) && !lateDue x) = true) (hg : saveGroups s x (dueGroups x) = none) :
    exec (.landing c) s = .next (stopAndPurge s x) := by
  show execLanding c s = _
  unfold execLanding
  rw [hx]
  simp only [hd, if_true, hg]

/-- INTERLOCKED_WRITE: the groups are saved and the results that are there are written, or the work is purged (06 R213). -/
theorem interlockedWrite_results {c : CtxId} {s : State} {x : Ctx} (hx : getCtx s c = some x) (hr : readyPend [] x.pend ≠ []) :
    (saveGroups s x (groupsOf ((readyPend [] x.pend).map (·.reg))) = none →
      exec (.interlockedWrite c) s = .next (purgeWork s x.env.tag x.env.iter 5)) ∧
    (∀ s1 x1, saveGroups s x (groupsOf ((readyPend [] x.pend).map (·.reg))) = some (s1, x1) →
      ∃ y, exec (.interlockedWrite c) s = .next (putCtx s1 y) ∧ y.id = x.id ∧ y.pend = waitingPend [] x.pend ∧
        (∀ r, rdReg y r = regAfter ((readyPend [] x.pend).map (fun p => (p.reg, p.val.getD 0))) x r) ∧
        y.ops = x.ops ∧ y.pc = x.pc ∧ y.fpflags = x.fpflags ∧ y.vsaved = x1.vsaved) := by
  refine ⟨fun hg => ?_, fun s1 x1 hg => ?_⟩
  · exact exec_interlockedWrite_unsaved hx hr (flushSaved_none hg)
  · obtain ⟨hpend, -, -, hops1, hpc1, hflags1, hregs⟩ := saveGroups_fields hg
    obtain ⟨hid, hops, hpc, hflags, hvs⟩ := fields_of_exceptFlight (exceptFlight_flushPend x1)
    refine ⟨flushPend x1, exec_interlockedWrite hx hr (flushSaved_eq hg), hid.trans (saveGroups_id hg), ?_, fun r => ?_,
      hops.trans hops1, hpc.trans hpc1, hflags.trans hflags1, hvs⟩
    · rw [flushPend_pend, hpend]
    · rw [rdReg_flushPend, hpend, regAfter_congr _ (hregs r)]

/-- LANDING: the groups are saved and the due results land, or the work is purged. -/
theorem landing_results {c : CtxId} {s : State} {x : Ctx} (hx : getCtx s c = some x) (hd : ∃ l ∈ x.land, landsAt x.pos l = true)
    (hw : ∀ l ∈ x.land, l.vis ≤ x.pos → l.wait = none) :
    (saveGroups s x (dueGroups x) = none → exec (.landing c) s = .next (purgeWork s x.env.tag x.env.iter 5)) ∧
    (∀ s1 x1, saveGroups s x (dueGroups x) = some (s1, x1) →
      ∃ y, exec (.landing c) s = .next (putCtx s1 y) ∧ y.id = x.id ∧ y.land = x.land.filter (fun l => !landsAt x.pos l) ∧
        (∀ r, rdReg y r = regAfter ((x.land.filter (landsAt x.pos)).flatMap landWrites) x r) ∧
        y.ops = x.ops ∧ y.pc = x.pc ∧ y.fpflags = x.fpflags ∧ y.vsaved = x1.vsaved) := by
  refine ⟨fun hg => ?_, fun s1 x1 hg => ?_⟩
  · exact exec_landing_unsaved hx (landing_due hd hw) hg
  · obtain ⟨-, hland, hpos, hops1, hpc1, hflags1, hregs⟩ := saveGroups_fields hg
    obtain ⟨hid, hops, hpc, hflags, hvs⟩ := fields_of_exceptFlight (exceptFlight_landDue x1)
    refine ⟨landDue x1, exec_landing hx (landing_due hd hw) hg, hid.trans (saveGroups_id hg), ?_, fun r => ?_,
      hops.trans hops1, hpc.trans hpc1, hflags.trans hflags1, hvs⟩
    · rw [landDue_land, hland, hpos]
    · rw [rdReg_landDue, hland, hpos, regAfter_congr _ (hregs r)]

/-- Settles O38. -/
theorem wakesAndResults : Obligations.WakesAndResults := by
  refine ⟨fun c s x hx => ⟨exec_blockClears hx, exec_sleepWake hx, fun hr => interlockedWrite_results hx hr,
    fun hd hw => landing_results hx hd hw, fun gs => saveGroups_of_saved, fun g s1 s2 hl hg => ?_⟩,
    fun x r p q hpend hp hq hr => ⟨fun hnone => ?_, fun v w hv hw => ?_⟩⟩
  · intro fa vs h1 h2
    exact saveGroups_singleton hl hg (by rw [liveSlot_eq]; exact h1) (by rw [liveSlot_eq]; exact h2)
  · have hready : readyPend [] [p, q] = [] := by simp [readyPend, hnone, hp, hq]
    have hwait : waitingPend [] [p, q] = [p, q] := by simp [waitingPend, hnone, hp, hq]
    have hflush : flushPend x = { x with pend := [p, q] } := by simp only [flushPend, hpend, hready, hwait, List.foldl_nil]
    rw [hflush]
    exact ⟨rfl, by simp [heldOn, hnone, hp]⟩
  · have hready : readyPend [] x.pend = [p, q] := by simp [hpend, readyPend, hv, hw]
    have hwait : waitingPend [] x.pend = [] := by simp [hpend, waitingPend, hv, hw]
    refine ⟨by rw [flushPend_pend, hwait], ?_⟩
    rw [rdReg_flushPend, hready, rdReg_wrReg, if_pos rfl]
    simp [regAfter, hq, hw, rdReg_wrReg]

end Sys2Proof.Machine
end

section
/-!
The limit traps of a blocked context (06 R200, R205; 09 R284) and the match of a joined pair's signatures (06 R215, R216).
-/
namespace Sys2Proof.Machine

/-! ## Limits -/

theorem blocksNow_eq {s u : State} {x : Ctx} {w : List (Nat × BlockWhy)} (hb : blockedOn x ≠ []) (hp : presentation s x = .blocked u w) :
    blocksNow s x = some { x with status := .blocked w } := by
  have hb' : (blockedOn x).isEmpty = false := by simpa using hb
  unfold blocksNow
  rw [if_neg (by simp [hb']), hp]

theorem dueLimit_eq {s u : State} {x : Ctx} {w : List (Nat × BlockWhy)} (hb : blockedOn x ≠ []) (hp : presentation s x = .blocked u w) :
    dueLimit s x = limitFor s { x with status := .blocked w } := by
  unfold dueLimit
  rw [blocksNow_eq hb hp]
  rfl

theorem pastLimit_iff {n limit : Nat} : pastLimit n limit = true ↔ limit ≠ 0 ∧ limit < n := by simp [pastLimit]

theorem leaseDue_iff {s : State} {z : Ctx} : leaseDue s z = true ↔
    ∃ p, onLease z = some p ∧ (getCl s z.id.cl).leaseMax.toNat % 2 ^ 32 ≠ 0 ∧ (getCl s z.id.cl).leaseMax.toNat % 2 ^ 32 < z.leaseFor := by
  unfold leaseDue
  rw [Bool.and_eq_true, pastLimit_iff, Option.isSome_iff_exists]
  exact exists_and_right.symm

theorem fifoDue_iff {s : State} {z : Ctx} : fifoDue s z = true ↔ ∃ p, onFifo z = some p ∧
    (getCore s z.id.cl z.id.core).fifoMax.toNat % 2 ^ 32 ≠ 0 ∧ (getCore s z.id.cl z.id.core).fifoMax.toNat % 2 ^ 32 < z.fifoFor := by
  unfold fifoDue
  rw [Bool.and_eq_true, pastLimit_iff, Option.isSome_iff_exists]
  exact exists_and_right.symm

theorem blockedOn_of_onLease {z : Ctx} {p : Nat × Option Nat} (h : onLease z = some p) : blockedOn z ≠ [] := by
  intro he; simp [onLease, he] at h

theorem blockedOn_of_onFifo {z : Ctx} {p : Nat × Nat} (h : onFifo z = some p) : blockedOn z ≠ [] := by
  intro he; simp [onFifo, he] at h

theorem mayTimeOut_of {z : Ctx} (hl : z.lvl < 2) (hu : unfinished z = false) (hb : blockedOn z ≠ []) : mayTimeOut z = true := by
  simp [mayTimeOut, hl, hu, hb]

/-- LEASE_TIMEOUT comes first. -/
theorem limitFor_lease {s : State} {z : Ctx} {p : Nat × Option Nat} (hm : mayTimeOut z = true) (hp : onLease z = some p)
    (hd : leaseDue s z = true) : limitFor s z = some (16, p.1, 0) := by
  unfold limitFor
  rw [if_neg (by simp [hm]), if_pos hd, hp]
  rfl

theorem limitFor_fifo {s : State} {z : Ctx} {p : Nat × Nat} (hm : mayTimeOut z = true) (hl : leaseDue s z = false)
    (hs : sleeping z = false) (hp : onFifo z = some p) (hd : fifoDue s z = true) : limitFor s z = some (18, p.1, p.2) := by
  unfold limitFor
  rw [if_neg (by simp [hm]), if_neg (by simp [hl]), if_neg (by simp [hs]), if_pos hd, hp]
  rfl

/-- WATCHDOG comes last. -/
theorem limitFor_watchdog {s : State} {z : Ctx} {p : Nat × BlockWhy} {rest : List (Nat × BlockWhy)} (hm : mayTimeOut z = true)
    (hl : leaseDue s z = false) (hs : sleeping z = false) (hf : fifoDue s z = false) (hw : wdogDue s z = true)
    (hb : blockedOn z = p :: rest) : limitFor s z = some (19, p.1, 0) := by
  unfold limitFor
  rw [if_neg (by simp [hm]), if_neg (by simp [hl]), if_neg (by simp [hs]), if_neg (by simp [hf]), if_pos hw, hb]
  rfl

/-- The causes of the limit traps. -/
theorem limitFor_cause {s : State} {z : Ctx} {t : Nat × Nat × Nat} (h : limitFor s z = some t) : t.1 = 16 ∨ t.1 = 18 ∨ t.1 = 19 := by
  unfold limitFor at h
  split at h
  · exact absurd h (by simp)
  · split at h
    · exact .inl (by rw [← Option.some.inj h])
    · split at h
      · exact absurd h (by simp)
      · split at h
        · obtain ⟨f, -, rfl⟩ := Option.map_eq_some_iff.mp h
          exact .inr (.inl rfl)
        · split at h
          · exact .inr (.inr (by rw [← Option.some.inj h]))
          · exact absurd h (by simp)

/-- The steps of the limit traps by their causes. -/
def limitEvent (cause : Nat) (c : CtxId) : Instr :=
  if cause = 16 then .leaseTimeout c else if cause = 18 then .fifoTimeout c else .watchdog c

theorem exec_limitEvent {cause : Nat} (h : cause = 16 ∨ cause = 18 ∨ cause = 19) (c : CtxId) (s : State) :
    ∃ row, exec (limitEvent cause c) s = limitTrap cause row c s := by
  rcases h with rfl | rfl | rfl
  · exact ⟨_, rfl⟩
  · exact ⟨_, rfl⟩
  · exact ⟨_, rfl⟩

/-- A due limit trap of a context that stands alone. -/
theorem exec_limit_alone {c : CtxId} {s : State} {x : Ctx} {t : Nat × Nat × Nat} (hx : getCtx s c = some x) (hid : x.id = c)
    (hd : dueLimit s x = some t) (hc : t.1 = 16 ∨ t.1 = 18 ∨ t.1 = 19) (hj : x.joined = false) :
    exec (limitEvent t.1 c) s = .next (takeTrap s c { cause := t.1, info := infoB t.2.1 0 t.2.2, addr := 0 } x.pc) := by
  obtain ⟨row, hrow⟩ := exec_limitEvent hc c s
  rw [hrow, limitTrap, hx]
  simp [hd, hj, timeOut, hid]

/-- A due limit trap of a joined pair waits for the match of the signatures (06 R207). -/
theorem exec_limit_joined {c : CtxId} {s : State} {x : Ctx} {t : Nat × Nat × Nat} (hx : getCtx s c = some x)
    (hd : dueLimit s x = some t) (hc : t.1 = 16 ∨ t.1 = 18 ∨ t.1 = 19) (hj : x.joined = true)
    (hm : awaitsMatch s c.cl c.core = false) : exec (limitEvent t.1 c) s = .next (awaitMatch s x) := by
  obtain ⟨row, hrow⟩ := exec_limitEvent hc c s
  rw [hrow, limitTrap, hx]
  simp [hd, hj, hm]

theorem limitEvent_mem (cause : Nat) (c : CtxId) : limitEvent cause c ∈ [Instr.leaseTimeout c, .fifoTimeout c, .watchdog c] := by
  unfold limitEvent
  split
  · simp
  · split <;> simp

/-- LEASE_WAIT_EVENT of a bundle that still waits. -/
theorem exec_leaseWaitEvent {c : CtxId} {s : State} {x : Ctx} {slot : Nat} {bank : Option Nat} (hx : getCtx s c = some x)
    (hw : (blocksNow s x).bind onLease = some (slot, bank)) (hf : 16384 < x.leaseFor) (hn : x.leaseNoted = false) :
    exec (.leaseWaitEvent c) s = .next (putCtx s (queueEvent { x with leaseNoted := true } (leaseRec s x slot bank))) := by
  show execLeaseWaitEvent c s = _
  unfold execLeaseWaitEvent
  rw [hx]
  simp only [hw, hf, hn, decide_true, Bool.not_false, Bool.and_true, if_true]

/-- Settles O39: the presentation finds the reasons, of which the first limit that has passed gives the trap. -/
theorem limitTraps : Obligations.LimitTraps := by
  intro c s u x w hx hid hb hp y z traps past lease fifo
  have hdue : dueLimit s x = limitFor s z := dueLimit_eq hb hp
  refine ⟨fun hl hu hj hm t ht => ?_, fun hl hu hj => ?_, fun slot bank hon hfor hnoted => ?_⟩
  · exact ⟨limitEvent t.1 c, limitEvent_mem t.1 c,
      exec_limit_joined hx (hdue.trans ht) (limitFor_cause ht) hj hm⟩
  · have hnot : ¬ lease → leaseDue s z = false := fun hn => by
      rw [← Bool.not_eq_true]
      exact fun hd => hn (leaseDue_iff.mp hd)
    have hnof : ¬ fifo → fifoDue s z = false := fun hn => by
      rw [← Bool.not_eq_true]
      exact fun hd => hn (fifoDue_iff.mp hd)
    have hmay : blockedOn z ≠ [] → mayTimeOut z = true := mayTimeOut_of hl hu
    refine ⟨fun p hon hpast => ?_, fun p hon hs hpast hnl => ?_, fun p rest hw hs hpast hnf hnl => ?_⟩
    · have hlim := limitFor_lease (s := s) (hmay (blockedOn_of_onLease hon)) hon (leaseDue_iff.mpr ⟨p, hon, hpast⟩)
      exact exec_limit_alone hx hid (hdue.trans hlim) (limitFor_cause hlim) hj
    · have hlim := limitFor_fifo (s := s) (hmay (blockedOn_of_onFifo hon)) (hnot hnl) hs hon (fifoDue_iff.mpr ⟨p, hon, hpast⟩)
      exact exec_limit_alone hx hid (hdue.trans hlim) (limitFor_cause hlim) hj
    · have hz : blockedOn z = p :: rest := hw
      have hlim := limitFor_watchdog (s := s) (hmay (by simp [hz])) (hnot hnl) hs (hnof hnf) (pastLimit_iff.mpr hpast) hz
      exact exec_limit_alone hx hid (hdue.trans hlim) (limitFor_cause hlim) hj
  · have hwait : (blocksNow s x).bind onLease = some (slot, bank) := by
      rw [blocksNow_eq hb hp]
      exact hon
    exact exec_leaseWaitEvent hx hwait hfor hnoted

/-! ## Joined pairs -/

/-- The match of the signatures: the issue that waits takes effect, or is discarded (06 R215, R216). -/
theorem exec_signatureMatch {s : State} {cl pair n : Nat} {x : Ctx} (hq : (getPair s cl pair).unmatched = some n)
    (hx : getCtx s { cl := cl, core := 2 * pair, ctx := n } = some x) (equal : Bool) :
    exec (.signatureMatch cl pair equal) s = .next (if equal then
      matched (modPair s cl pair (fun q => { q with unmatched := none, mismatches := 0, missAt := none })) x
      else mismatch s cl pair x) := by
  show execSignatureMatch cl pair equal s = _
  unfold execSignatureMatch
  rw [hq]
  simp only [hx]
  cases equal <;> rfl

theorem stayStopped_of_ne {x : Ctx} (h : x.status ≠ .stopped) (s : State) : stayStopped x s = s := if_neg h

theorem exec_pairModeChange {s : State} {cl pair : Nat} (hp : (getPair s cl pair).pend = true)
    (hi : ∀ p ∈ s.ctxs, ¬ (p.2.id.cl = cl ∧ p.2.id.core / 2 = pair)) :
    exec (.pairModeChange cl pair) s = .next (recheckTasks (modPair s cl pair (fun r => { r with cur := r.req, pend := false }))) := by
  have hidle : pairIdle s cl pair = true := by
    simpa [pairIdle, imp_iff_not_or] using hi
  show execPairModeChange cl pair s = _
  unfold execPairModeChange
  rw [hp, hidle]
  rfl

/-- Settles O40. -/
theorem pairSteps : Obligations.PairSteps := by
  intro s cl pair q
  refine ⟨fun n x hq hx => ?_, exec_pairModeChange⟩
  intro u k
  refine ⟨fun hnone hst => ?_, fun t ht => ?_, fun hn hk hst => ?_, fun hn hk => ?_⟩
  · rw [exec_signatureMatch hq hx, if_pos rfl, matched, hnone]
    exact congrArg Host.Outcome.next (stayStopped_of_ne hst _)
  · rw [exec_signatureMatch hq hx, if_pos rfl, matched, ht]
    rfl
  all_goals
    have hkey : issueKey x = (n, x.env.iter, x.pos) := by rw [issueKey, hn]
    rw [exec_signatureMatch hq hx, if_neg (by decide), mismatch, hkey]
  · simp only [if_neg hst]
    exact congrArg Host.Outcome.next (if_pos hk)
  · exact congrArg Host.Outcome.next (if_neg (by simpa using hk))

end Sys2Proof.Machine
end

section
/-!
Launch runs (12 R402 to R404, R409): the bits of a control word, the checks of a start, the capture of the tasks and which run ends.
-/
namespace Sys2Proof.Machine

/-! ## A bit of a control word -/

/-- Adding a power of two whose bit is clear sets that bit alone. -/
theorem testBit_add_two_pow {d b : Nat} (h : d.testBit b = false) (j : Nat) :
    (d + 2 ^ b).testBit j = if j = b then true else d.testBit j := by
  rw [Nat.add_comm]
  rcases lt_trichotomy j b with hj | rfl | hj
  · rw [if_neg hj.ne, Nat.testBit_two_pow_add_gt hj]
  · rw [if_pos rfl, Nat.testBit_two_pow_add_eq, h]; rfl
  · rw [if_neg hj.ne']
    have heven : d / 2 ^ b % 2 = 0 := by
      rw [Nat.testBit_eq_decide_div_mod_eq] at h
      have := of_decide_eq_false h
      omega
    have hhigh : (2 ^ b + d) / 2 ^ (b + 1) = d / 2 ^ (b + 1) := by
      rw [Nat.pow_succ, ← Nat.div_div_eq_div_mul, ← Nat.div_div_eq_div_mul, Nat.add_div_left _ (Nat.two_pow_pos b)]
      omega
    obtain ⟨k, rfl⟩ := Nat.exists_eq_add_of_lt hj
    rw [show b + k + 1 = k + (b + 1) by omega, Nat.testBit_add, Nat.testBit_add, hhigh]

/-- Taking away a power of two whose bit is set clears that bit alone. -/
theorem testBit_sub_two_pow {c b : Nat} (h : c.testBit b = true) (j : Nat) :
    (c - 2 ^ b).testBit j = if j = b then false else c.testBit j := by
  have hle : 2 ^ b ≤ c := Nat.ge_two_pow_of_testBit h
  have hclear : (c - 2 ^ b).testBit b = false := by
    have hsum := Nat.testBit_two_pow_add_eq (c - 2 ^ b) b
    rw [Nat.add_sub_cancel' hle, h] at hsum
    simpa using hsum.symm
  have hback := testBit_add_two_pow hclear j
  rw [Nat.sub_add_cancel hle] at hback
  by_cases hj : j = b
  · rw [if_pos hj, hj, hclear]
  · rw [if_neg hj] at hback ⊢
    exact hback.symm

/-- A number with bit b set to v. -/
def withBit (c b : Nat) (v : Bool) : Nat :=
  let cleared := if bit c b then c - 2 ^ b else c
  if v then cleared + 2 ^ b else cleared

theorem testBit_withBit (c b : Nat) (v : Bool) (j : Nat) : (withBit c b v).testBit j = if j = b then v else c.testBit j := by
  have hcleared : ∀ j, (if bit c b then c - 2 ^ b else c).testBit j = if j = b then false else c.testBit j := by
    intro j
    by_cases hb : c.testBit b = true
    · rw [if_pos (show bit c b = true from hb), testBit_sub_two_pow hb]
    · rw [if_neg (show ¬ bit c b = true from hb)]
      by_cases hj : j = b
      · rw [if_pos hj, hj]; simpa using hb
      · rw [if_neg hj]
  unfold withBit
  cases v with
  | false => exact hcleared j
  | true =>
    simp only [if_true]
    rw [testBit_add_two_pow (by rw [hcleared, if_pos rfl]), hcleared]
    by_cases hj : j = b
    · rw [if_pos hj, if_pos hj]
    · rw [if_neg hj, if_neg hj, if_neg hj]

/-- The launch table stands in memory of the part. -/
theorem launchPlace_space (s : State) (e w : Nat) : (launchPlace s e w).space ≠ .host ∧ (launchPlace s e w).space ≠ .peer := by
  unfold launchPlace tablePlace
  dsimp only
  split <;> decide

/-- A write to memory moves no table. -/
theorem launchPlace_write (s : State) (pl : Place) (bs : List Byte) (e w : Nat) :
    launchPlace (writePlace s pl bs) e w = launchPlace s e w := by
  have hbase := congrArg Pkg.lBase (MemStep.writePlace s pl bs).pkg
  exact congrArg (fun base : Word => tablePlace base (128 * e + 8 * w)) hbase

theorem launchWord_set_same (s : State) (e w v : Nat) : launchWord (setLaunchWord s e w v) e w = v % 2 ^ 64 := by
  obtain ⟨hhost, hpeer⟩ := launchPlace_space s e w
  have hread := readPlace_write_same s (launchPlace s e w) (natLe 8 v) hhost hpeer
  rw [natLe_length] at hread
  unfold launchWord setLaunchWord
  rw [launchPlace_write, hread, leNat_natLe]
  rfl

theorem setCtl_eq (s : State) (e b : Nat) (v : Bool) : setCtl s e b v = setLaunchWord s e 0 (withBit (launchWord s e 0) b v) := rfl

theorem testBit_setCtl (s : State) (e b j : Nat) (v : Bool) (hj : j < 64) :
    (launchWord (setCtl s e b v) e 0).testBit j = if j = b then v else (launchWord s e 0).testBit j := by
  rw [setCtl_eq, launchWord_set_same, Nat.testBit_mod_two_pow, testBit_withBit]
  simp [hj]

/-! ## The choice of a step -/

theorem choose_mem {s : State} {l : List Nat} {e : Nat} (h : choose s l = some e) : e ∈ l := by
  unfold choose at h
  split at h
  · next hc => rw [← Option.some.inj h]; simpa using hc
  · exact List.mem_of_mem_head? h

theorem choose_some {s : State} {l : List Nat} {e : Nat} (h : e ∈ l) : ∃ a ∈ l, choose s l = some a ∧ (s.which ∈ l → a = s.which) := by
  by_cases hw : s.which ∈ l
  · exact ⟨s.which, hw, by simp [choose, hw], fun _ => rfl⟩
  · cases l with
    | nil => exact absurd h (by simp)
    | cons a rest =>
      have hc : (a :: rest).contains s.which = false := by simpa using hw
      exact ⟨a, List.mem_cons_self .., by simp only [choose, hc, Bool.false_eq_true, if_false, List.head?_cons], fun hc => absurd hc hw⟩

theorem exec_launchStart {s : State} (h : ∃ e < 256, startDue s e = true) :
    ∃ e < 256, startDue s e = true ∧ (startDue s s.which = true → s.which < 256 → e = s.which) ∧
      exec .launchStart s = .next (compared (startEntry (modSpring s (fun p => { p with
        deferred := p.deferred.filter (fun x => x != e) })) e) 2) := by
  obtain ⟨d, hd, hdue⟩ := h
  have hmem : ∀ e, e ∈ (List.range 256).filter (startDue s) ↔ e < 256 ∧ startDue s e = true := fun e => by simp
  obtain ⟨e, he, hchoice, hwhich⟩ := choose_some (s := s) ((hmem d).mpr ⟨hd, hdue⟩)
  obtain ⟨hlt, hstart⟩ := (hmem e).mp he
  refine ⟨e, hlt, hstart, fun hw hl => hwhich ((hmem _).mpr ⟨hl, hw⟩), ?_⟩
  show execLaunchStart s = _
  unfold execLaunchStart
  rw [hchoice]

theorem exec_timeSlot {s : State} (h : ∃ e < 256, (slotPassed s e).isSome = true) :
    ∃ e k m, e < 256 ∧ slotPassed s e = some (k, m) ∧ exec .timeSlot s = .next (fireSlot (compared s 2) e k m) := by
  obtain ⟨d, hd, hdue⟩ := h
  have hmem : ∀ e, e ∈ (List.range 256).filter (fun e => (slotPassed s e).isSome) ↔ e < 256 ∧ (slotPassed s e).isSome = true :=
    fun e => by simp
  obtain ⟨e, he, hchoice, -⟩ := choose_some (s := s) ((hmem d).mpr ⟨hd, hdue⟩)
  obtain ⟨hlt, hslot⟩ := (hmem e).mp he
  obtain ⟨⟨k, m⟩, hkm⟩ := Option.isSome_iff_exists.mp hslot
  refine ⟨e, k, m, hlt, hkm, ?_⟩
  show execTimeSlot s = _
  unfold execTimeSlot
  rw [hchoice]
  simp only [hkm]

theorem exec_instanceComplete {s : State} (h : ∃ i ∈ s.spring.insts, instEnded s i = true) :
    ∃ e i, findInst s e = some i ∧ (∃ j ∈ s.spring.insts, instEnded s j = true ∧ j.entry = e) ∧
      exec .instanceComplete s = .next (endInst s i) := by
  obtain ⟨d, hd, hend⟩ := h
  have hd' : d.entry ∈ (s.spring.insts.filter (instEnded s)).map (·.entry) :=
    List.mem_map_of_mem (List.mem_filter.mpr ⟨hd, hend⟩)
  obtain ⟨e, he, hchoice, -⟩ := choose_some (s := s) hd'
  obtain ⟨j, hj, hje⟩ := List.mem_map.mp he
  obtain ⟨hjm, hjend⟩ := List.mem_filter.mp hj
  have hsome : (findInst s e).isSome = true := by
    unfold findInst
    rw [List.find?_isSome]
    exact ⟨j, hjm, by simpa using hje⟩
  obtain ⟨i, hi⟩ := Option.isSome_iff_exists.mp hsome
  refine ⟨e, i, hi, ⟨j, hjm, hjend, hje⟩, ?_⟩
  show execInstanceComplete s = _
  unfold execInstanceComplete
  rw [hchoice]
  simp only [hi]

/-! ## The start of a launch run -/

theorem startEntry_poisoned {s s1 : State} {e : Nat} (h : readEntry s e = (s1, none)) : startEntry s e = rejectLaunch s1 e 0 := by
  unfold startEntry; rw [h]

/-- A trigger or an overrun policy that has no meaning, or a misaligned base. -/
def badEntry (ws : List Word) : Bool := bits (wordN ws 0) 4 3 = 3 || bits (wordN ws 0) 6 5 = 3 || badBases ws

theorem startEntry_bad {s s1 : State} {e : Nat} {ws : List Word} (h : readEntry s e = (s1, some ws)) (hb : badEntry ws = true) :
    startEntry s e = rejectLaunch s1 e (entryTag ws) := by
  unfold startEntry
  rw [h]
  exact if_pos hb

theorem startEntry_unread {s s1 s2 : State} {e : Nat} {ws : List Word} (h : readEntry s e = (s1, some ws)) (hb : badEntry ws = false)
    (ht : readTasks s1 ws 0 (entryTasks ws) = (s2, none)) : startEntry s e = rejectLaunch s2 e (entryTag ws) := by
  unfold startEntry
  rw [h]
  refine (if_neg (by simp only [badEntry] at hb; simp [hb])).trans ?_
  rw [ht]

theorem startEntry_badMasks {s s1 s2 : State} {e : Nat} {ws : List Word} {recs : List (List Word)}
    (h : readEntry s e = (s1, some ws)) (hb : badEntry ws = false) (ht : readTasks s1 ws 0 (entryTasks ws) = (s2, some recs))
    (hm : badMasks (recs.map depMask) = true) : startEntry s e = rejectLaunch s2 e (entryTag ws) := by
  unfold startEntry
  rw [h]
  refine (if_neg (by simp only [badEntry] at hb; simp [hb])).trans ?_
  rw [ht]
  exact if_pos hm

/-! ## The tasks captured at a start -/

theorem captureTasks_task (s : State) (ws : List Word) (t : Nat) (recs : List (List Word)) (n : Nat) (r : List Word)
    (h : recs[n]? = some r) : ∃ k, (captureTasks s ws t recs).2[n]? = some (t + n, k) ∧ k.words = r ∧ k.state = .idle ∧
      k.bindOk = k.roles.isSome ∧ k.next = 0 ∧ k.jcb = bits (wordN ws 9) 55 6 * 64 + 64 * (t + n) := by
  induction recs generalizing s t n with
  | nil => exact absurd h (by simp)
  | cons q rest ih =>
    cases n with
    | zero =>
      rw [List.getElem?_cons_zero, Option.some.injEq] at h
      exact ⟨_, rfl, h, rfl, rfl, rfl, rfl⟩
    | succ n =>
      rw [List.getElem?_cons_succ] at h
      obtain ⟨k, hk, hrest⟩ := ih (readBinding s ws q).1 (t + 1) n h
      have ht : t + (n + 1) = t + 1 + n := by omega
      rw [ht]
      exact ⟨k, hk, hrest⟩

theorem captureTasks_length (s : State) (ws : List Word) (t : Nat) (recs : List (List Word)) :
    (captureTasks s ws t recs).2.length = recs.length := by
  induction recs generalizing s t with
  | nil => rfl
  | cons q rest ih => exact congrArg (· + 1) (ih _ _)

/-- Settles O41. -/
theorem launchRuns : Obligations.LaunchRuns := by
  refine ⟨fun s => ⟨exec_launchStart, exec_timeSlot⟩, fun s s1 e ws => ⟨?_, fun h hb => ?_, fun s2 h ht => ?_, fun s2 recs h ht hm => ?_,
    fun s2 recs h htrig hover hb ht hm => ?_⟩, fun s ws t recs => ⟨captureTasks_length s ws t recs, captureTasks_task s ws t recs⟩,
    fun s e b j v _ _ _ hj => testBit_setCtl s e b j v hj, fun s i t n st k => rfl, fun s => exec_instanceComplete⟩
  · exact startEntry_poisoned
  · exact startEntry_bad h (by simp [badEntry, hb])
  · cases hb : badEntry ws with
    | true => exact ⟨s1, startEntry_bad h hb, .inl rfl⟩
    | false => exact ⟨s2, startEntry_unread h hb ht, .inr rfl⟩
  · cases hb : badEntry ws with
    | true => exact ⟨s1, startEntry_bad h hb, .inl rfl⟩
    | false => exact ⟨s2, startEntry_badMasks h hb ht hm, .inr rfl⟩
  · intro trig c i s3 s4 s5 s6
    unfold startEntry
    rw [h]
    refine (if_neg (by simp [htrig, hover, hb])).trans ?_
    rw [ht]
    refine (if_neg (by simp [hm])).trans ?_
    simp only [Bool.and_eq_true, decide_eq_true_eq, bne_iff_ne]
    rfl

end Sys2Proof.Machine
end

section
/-!
Releases, iterations and pre-emption (01 R19 to R28, R35, R36, R41 to R45): the conditions of each step and the state it leaves.
-/
namespace Sys2Proof.Machine

/-! ## Releases -/

theorem releasable_eq (i : Inst) (k : Task) : releasable i k = (decide (k.state = .idle) && depsDone i (depMask k.words)) := by
  unfold releasable
  congr 1

theorem exec_releaseTask {e t : Nat} {s : State} {i : Inst} {k : Task} (hk : getTask s e t = some (i, k)) (hs : k.state = .idle)
    (hr : i.rejected = false) (hd : depsDone i (depMask k.words) = true) : exec (.releaseTask e t) s = .next (releaseAll s i) := by
  have hrel : releasable i k = true := by rw [releasable_eq, hd]; simp [hs]
  show execReleaseTask e t s = _
  unfold execReleaseTask
  rw [hk]
  simp only [hr, hrel, Bool.not_true, Bool.or_false, Bool.false_eq_true, if_false]

theorem badRelease_iff {s : State} {i : Inst} {t : Nat} {k : Task} : badRelease s i t k = true ↔
    k.bindOk = false ∨ badRecord i k.words = true ∨ badBinding s (k.roles.getD []) = true ∨ couldHold s i t k = false := by
  simp only [badRelease, Bool.or_eq_true, Bool.not_eq_true', or_assoc]

/-- Settles O42. -/
theorem taskReleased : Obligations.TaskReleased := by
  refine ⟨fun e t s i k hk hs hr hd => ?_, fun t s i k => ?_⟩
  · rw [exec_releaseTask hk hs hr hd, releaseAll, List.filter_congr fun p _ => releasable_eq i p.2]
  · intro bad
    refine ⟨fun h => if_pos (badRelease_iff.mpr h), fun h => if_neg (mt badRelease_iff.mp h)⟩

/-! ## Iterations -/

theorem exec_placeIteration {s : State} {e t : Nat} {i : Inst} {k : Task} (hk : getTask s e t = some (i, k))
    (hc : walkerChoice s k.walker = some (e, t)) (hp : ∀ v ∈ preemptedOf s e t, resumable s v = false) :
    exec (.placeIteration e t) s = .next (placeNext s i t k) := by
  have hnone : (preemptedOf s e t).any (resumable s) = false := by
    rw [List.any_eq_false]
    exact fun v hv => by simp [hp v hv]
  show execPlaceIteration e t s = _
  unfold execPlaceIteration
  rw [hk]
  simp only [hc, hnone, bne_self_eq_false, Bool.or_false, Bool.false_eq_true, if_false]

/-- What zeroing a granule leaves: every context, the package, Spring, the host interface and the memories beside Mere. -/
structure ZeroStep (s t : State) : Prop where
  ctxs : t.ctxs = s.ctxs
  pkg : t.pkg = s.pkg
  dev : t.dev = s.dev
  spring : t.spring = s.spring
  hbm : t.mem.hbm = s.mem.hbm
  carved : t.mem.carved = s.mem.carved

theorem ZeroStep.refl (s : State) : ZeroStep s s := ⟨rfl, rfl, rfl, rfl, rfl, rfl⟩

theorem ZeroStep.trans {s t u : State} (h1 : ZeroStep s t) (h2 : ZeroStep t u) : ZeroStep s u :=
  ⟨h2.ctxs.trans h1.ctxs, h2.pkg.trans h1.pkg, h2.dev.trans h1.dev, h2.spring.trans h1.spring, h2.hbm.trans h1.hbm,
    h2.carved.trans h1.carved⟩

theorem zeroGranule_step (s : State) (cl p : Nat) : ZeroStep s (zeroGranule s cl p) := ⟨rfl, rfl, rfl, rfl, rfl, rfl⟩

/-- Filling an iteration's granules with zeros (01 R27). -/
def zeroGangs (s : State) (i : Iter) : State := i.gangs.foldl (fun u g => g.grans.foldl (fun v p => zeroGranule v g.cl p) u) s

theorem zeroGangs_step (s : State) (i : Iter) : ZeroStep s (zeroGangs s i) :=
  foldl_keeps (ZeroStep s) _ (fun u g hu => foldl_keeps (ZeroStep s) _ (fun v p hv => hv.trans (zeroGranule_step v g.cl p)) _ u hu) _ s
    (.refl s)

theorem exec_placementComplete {s : State} {id : IterId} {i : Iter} (hi : findIterId s id = some i) (hs : i.state = .filling)
    (ht : i.placedAt + i.fillLeft ≤ s.ran) : exec (.placementComplete id) s =
      .next (modIter (startCtxs (zeroGangs s i) i.uid) i.uid (fun j => { j with state := .running })) := by
  show execPlacementComplete id s = _
  unfold execPlacementComplete
  rw [hi]
  refine if_neg ?_
  simp [hs, ht]

theorem exec_completionPost_due {s : State} {id : IterId} {i : Iter} {c : CtxId} {q : Nat} (hi : findIterId s id = some i)
    (hd : i.postDue = some (c, q)) (hs : i.state ≠ .preempted) (ho : ∀ x, getOwner s c i.uid = some x → ∀ o ∈ x.ops, q ≤ o.seq) :
    exec (.completionPost id) s
      = .next (postJob (publishIter (modIter s i.uid (fun j => { j with postDue := none })) i.uid) (jobOfIter s i)) := by
  have hready : postReady s i c q = true := by
    unfold postReady
    rw [Bool.and_eq_true]
    refine ⟨by simpa using hs, ?_⟩
    split
    · rfl
    · next x hx => exact List.all_eq_true.mpr fun o h => decide_eq_true (ho x hx o h)
  show execCompletionPost id s = _
  unfold execCompletionPost
  rw [hi]
  simp only [hd, hready, if_true]

/-- The end of an iteration: its post, unless `done` made it, its granules and banks, the contexts that had retired, the iteration. -/
def endedIter (s : State) (i : Iter) : State :=
  modSpring { freeIter (if i.posted then s else postJob (publishIter s i.uid) (jobOfIter s i)) i.uid with
    ghosts := s.ghosts.filter (fun x => x.env.iter != i.uid) } (fun p => { p with iters := p.iters.filter (fun j => j.uid != i.uid) })

theorem exec_completionPost_end {s : State} {id : IterId} {i : Iter} (hi : findIterId s id = some i) (hd : i.postDue = none)
    (hs : i.state = .running) (hc : ∀ x ∈ allCtxs s, x.env.iter ≠ i.uid) (hg : ∀ x ∈ s.ghosts, x.env.iter = i.uid → drained x = true) :
    exec (.completionPost id) s = .next (endedIter s i) := by
  have hnone : (ctxsOf s i.uid).isEmpty = true := by
    rw [List.isEmpty_iff]
    exact List.filter_eq_nil_iff.mpr fun x hx => by simpa using hc x hx
  have hdrained : (ghostsOf s i.uid).all drained = true := by
    rw [List.all_eq_true]
    intro x hx
    obtain ⟨hmem, hiter⟩ := List.mem_filter.mp hx
    exact hg x hmem (by simpa using hiter)
  show execCompletionPost id s = _
  unfold execCompletionPost
  rw [hi]
  simp only [hd]
  refine if_neg ?_
  simp [hs, hnone, hdrained]

/-- Settles O43. -/
theorem iterationLife : Obligations.IterationLife := by
  intro s
  refine ⟨fun e t i k s1 gs hk hc hp hgs => ?_, fun id i hi hs ht => ?_, fun id i c q => exec_completionPost_due,
    fun id i hi hd hs hc hg => ⟨_, exec_completionPost_end hi hd hs hc hg, ?_, ?_, fun hposted => ?_⟩⟩
  · intro w u
    rw [exec_placeIteration hk hc hp]
    unfold placeNext placementFull
    rw [hgs]
    simp only [beq_iff_eq]
    rfl
  · have hzero := zeroGangs_step s i
    refine ⟨_, exec_placementComplete hi hs ht, ?_, ?_, hzero.hbm, hzero.carved, hzero.pkg, hzero.dev⟩
    · simp only [modIter, modSpring, startCtxs, hzero.ctxs]
    · simp only [modIter, modSpring, startCtxs, hzero.spring]
  · intro j hj
    have hmem := (List.mem_filter.mp hj).2
    simpa using hmem
  · intro x hx
    have hmem := (List.mem_filter.mp hx).2
    simpa using hmem
  · simp [endedIter, hposted, freeIter, modSpring]

/-! ## Pre-emption -/

theorem exec_preempt_close {s : State} {e t : Nat} {i : Iter} (h : s.spring.iters.find? (mayClose s) = some i) :
    exec (.preempt e t) s = .next (closeIter s i) := by
  show execPreempt e t s = _
  unfold execPreempt
  rw [h]

theorem exec_preempt_stop {s : State} {e t : Nat} {i : Inst} {k : Task} {v : Iter} (hnone : ∀ j ∈ s.spring.iters, mayClose s j = false)
    (hk : getTask s e t = some (i, k)) (hw : wantsRoom s i t k = true) (hv : victimOf s i k = some v) :
    exec (.preempt e t) s = .next (stopIter s v) := by
  have hfind : s.spring.iters.find? (mayClose s) = none := List.find?_eq_none.mpr fun j hj => by simp [hnone j hj]
  show execPreempt e t s = _
  unfold execPreempt
  rw [hfind]
  simp only [hk, hw, if_true, hv]

theorem exec_preemptDrainTimeout {s : State} {id : IterId} {i : Iter} (hi : findIterId s id = some i) (hs : i.state = .stopping)
    (hl : i.lost = true) : exec (.preemptDrainTimeout id) s = .next (purgeWork s i.tag i.uid 4) := by
  show execPreemptDrainTimeout id s = _
  unfold execPreemptDrainTimeout
  rw [hi]
  exact if_pos (by simp [hs, hl])

theorem exec_resumeIteration {s : State} {id : IterId} {i : Iter} {n : Inst} {k : Task} (hi : findIterId s id = some i)
    (hk : getTask s i.id.entry i.id.task = some (n, k)) (hf : (preemptedOf s i.id.entry i.id.task).find? (resumable s) = some i)
    (ht : k.state ≠ .released ∨ walkerChoice s k.walker = some (i.id.entry, i.id.task)) :
    exec (.resumeIteration id) s = .next (resumeIter s i n) := by
  show execResumeIteration id s = _
  unfold execResumeIteration
  rw [hi]
  simp only [hk, hf]
  exact if_pos (by simpa using ht)

/-- Of two victims the better one has no higher priority. -/
theorem prio_le_of_worse {a b : Iter} (h : worse a b = true) : a.prio ≤ b.prio := by
  unfold worse at h
  split at h
  · exact (of_decide_eq_true h).le
  · next he => exact (by simpa using he : a.prio = b.prio).le

theorem prio_le_of_not_worse {a b : Iter} (h : worse a b = false) : b.prio ≤ a.prio := by
  unfold worse at h
  split at h
  · exact Nat.le_of_not_lt (of_decide_eq_false h)
  · next he => exact (by simpa using he : a.prio = b.prio).ge

/-- The next victim among those seen so far. -/
def pickVictim (b : Option Iter) (v : Iter) : Option Iter :=
  match b with
  | none => some v
  | some u => if worse v u then some v else some u

/-- The victim picked is one of the candidates, and none of them has a lower priority. -/
theorem foldl_pickVictim (l : List Iter) (v : Iter) :
    ∃ u, l.foldl pickVictim (some v) = some u ∧ u ∈ v :: l ∧ ∀ w ∈ v :: l, u.prio ≤ w.prio := by
  induction l generalizing v with
  | nil => exact ⟨v, rfl, List.mem_cons_self .., by simp⟩
  | cons a rest ih =>
    by_cases h : worse a v = true
    · obtain ⟨u, hfold, hmem, hmin⟩ := ih a
      refine ⟨u, by rw [List.foldl_cons, pickVictim, if_pos h, hfold], List.mem_cons_of_mem v hmem, fun w hw => ?_⟩
      rcases List.mem_cons.mp hw with rfl | hw
      · exact (hmin a (List.mem_cons_self ..)).trans (prio_le_of_worse h)
      · exact hmin w hw
    · obtain ⟨u, hfold, hmem, hmin⟩ := ih v
      refine ⟨u, by rw [List.foldl_cons, pickVictim, if_neg h, hfold], ?_, fun w hw => ?_⟩
      · rcases List.mem_cons.mp hmem with rfl | hmem
        · exact List.mem_cons_self ..
        · exact List.mem_cons_of_mem v (List.mem_cons_of_mem a hmem)
      · rcases List.mem_cons.mp hw with rfl | hw
        · exact hmin w (List.mem_cons_self ..)
        · rcases List.mem_cons.mp hw with rfl | hw
          · exact (hmin v (List.mem_cons_self ..)).trans (prio_le_of_not_worse (by simpa using h))
          · exact hmin w (List.mem_cons_of_mem v hw)

/-- Whether a running iteration could be a victim of a task (01 R41). -/
def mayYield (i : Inst) (k : Task) (v : Iter) : Bool :=
  v.state == .running && decide (v.prio < i.prio) && v.gangs.any (fun g => (eligible (k.roles.getD [])).contains g.cl)

theorem mayYield_iff {i : Inst} {k : Task} {v : Iter} : mayYield i k v = true ↔
    v.state = .running ∧ v.prio < i.prio ∧ ∃ g ∈ v.gangs, g.cl ∈ eligible (k.roles.getD []) := by
  simp [mayYield, and_assoc]

theorem victimOf_best {s : State} {i : Inst} {k : Task} {v : Iter} (h : victimOf s i k = some v) :
    v ∈ s.spring.iters ∧ mayYield i k v = true ∧ ∀ u ∈ s.spring.iters, mayYield i k u = true → v.prio ≤ u.prio := by
  have hfold : (s.spring.iters.filter (mayYield i k)).foldl pickVictim none = some v := h
  cases hl : s.spring.iters.filter (mayYield i k) with
  | nil => rw [hl] at hfold; exact absurd hfold (by simp)
  | cons a rest =>
    obtain ⟨u, hpick, hmem, hmin⟩ := foldl_pickVictim rest a
    rw [hl, List.foldl_cons, pickVictim, hpick] at hfold
    have huv : u = v := Option.some.inj hfold
    subst huv
    rw [← hl] at hmem hmin
    obtain ⟨hin, hmay⟩ := List.mem_filter.mp hmem
    exact ⟨hin, hmay, fun w hw hwm => hmin w (List.mem_filter.mpr ⟨hw, hwm⟩)⟩

/-- Settles O44. -/
theorem preemptionSteps : Obligations.PreemptionSteps := by
  refine ⟨fun s e t => ⟨fun i => exec_preempt_close, fun i k v => exec_preempt_stop, fun id i => exec_preemptDrainTimeout,
    fun id i n k => exec_resumeIteration⟩, fun s i k v hv => ?_⟩
  intro could
  obtain ⟨hin, hmay, hmin⟩ := victimOf_best hv
  exact ⟨hin, mayYield_iff.mp hmay, fun u hu hc => hmin u hu (mayYield_iff.mpr hc)⟩

end Sys2Proof.Machine
end

section
/-!
The lease, the array queue and the start of array commands (09 R282, R283, R285; 10 R311).
-/
namespace Sys2Proof.Machine

theorem exec_leaseGrant {cl k c : Nat} {s : State} (hh : (getCl s cl).lease.holder = none) (hc : leaseChoice s cl = some (k, c)) :
    exec (.leaseGrant cl) s = .next (modCl s cl (fun x => { x with
      lease := { holder := some k, used := 0, since := s.ran, last := x.lease.last, cls := c } })) := by
  show execLeaseGrant cl s = _
  unfold execLeaseGrant
  rw [hh, hc]

theorem exec_leaseEnd {cl k : Nat} {s : State} (hh : (getCl s cl).lease.holder = some k) (ho : leaseOver s cl = true)
    (hw : leaseWaiters s cl k none = true) :
    exec (.leaseEnd cl) s = .next (modCl s cl (fun x => { x with lease := { x.lease with holder := none, last := k } })) := by
  show execLeaseEnd cl s = _
  unfold execLeaseEnd
  rw [hh]
  exact if_pos (by rw [ho, hw]; rfl)

theorem exec_mxQueueTransfer {cl : Nat} {s : State} {c : Cmd} (hc : oldestCmd (mxHeads s cl) = some c)
    (hr : arrEntries s cl + c.entries ≤ 64) : exec (.mxQueueTransfer cl) s =
      .next (modCl (putCmd s { c with inArr := true }) cl (fun x => { x with arrq := x.arrq ++ [refOf c] })) := by
  show execMxQueueTransfer cl s = _
  unfold execMxQueueTransfer
  rw [hc]
  exact if_neg (Nat.not_lt.mpr hr)

theorem exec_arrayCommandStart {cl : Nat} {s : State} {r : CmdRef} {rest : List CmdRef} {c : Cmd} {x : Ctx}
    (hrun : (getCl s cl).running = none) (hret : retiresNow s cl = false) (hq : (getCl s cl).arrq = r :: rest)
    (hc : findCmd s r = some c) (hx : cmdOwner s c = some x) (hs : iterStopping s c.iter = false)
    (hf : arrayHold s (listNarrowed s x c) c = .free) : exec (.arrayCommandStart cl) s =
      .next (compared (compared (modCl (putCmd (narrowList s x c) { c with started := true, waitOk := true }) cl (fun z =>
        { z with arrq := rest, running := some r })) 0) 3) := by
  show execArrayCommandStart cl s = _
  unfold execArrayCommandStart
  simp only [hrun, hret, hq, hc, hx, hs, hf, Bool.false_eq_true, if_false]

/-- Of the array's commands an `mmao` alone is narrowed once its list is read (log 39). -/
theorem not_narrowed {s : State} {x : Ctx} {c : Cmd} (h : ∀ o, cmdInstr c ≠ some (.mmao o)) :
    listNarrowed s x c = x ∧ narrowList s x c = s := by
  constructor
  · unfold listNarrowed
    split
    · next o _ _ hi _ _ => exact absurd hi (h o)
    · rfl
  · unfold narrowList
    split
    · next o hi => exact absurd hi (h o)
    · rfl

/-- Settles O45. -/
theorem leaseAndArrayStart : Obligations.LeaseAndArrayStart := by
  intro cl s y
  exact ⟨fun k c => exec_leaseGrant, fun k => exec_leaseEnd, fun c => exec_mxQueueTransfer,
    fun r rest c x hrun hret hq hc hx hs hf => ⟨exec_arrayCommandStart hrun hret hq hc hx hs hf, not_narrowed⟩⟩

end Sys2Proof.Machine
end

section
/-!
Products over the elements of a bank (09 R291, R292): an element's value after the K steps depends on itself alone.
-/
namespace Sys2Proof.Machine

/-! ## Numbered lists -/

theorem zipIdx_length {α : Type} (l : List α) : (zipIdx l).length = l.length := by simp [zipIdx]

theorem zipIdx_getElem? {α : Type} (l : List α) (i : Nat) : (zipIdx l)[i]? = l[i]?.map (fun a => (i, a)) := by
  unfold zipIdx
  by_cases h : i < l.length
  · rw [List.getElem?_zip_eq_some (z := (i, l[i])).mpr ⟨by simp [h], List.getElem?_eq_getElem h⟩, List.getElem?_eq_getElem h]
    rfl
  · rw [List.getElem?_eq_none (by simpa using h), List.getElem?_eq_none (by simpa using h)]
    rfl

/-- Entry i of a list mapped by place. -/
theorem getD_map_zipIdx {α β : Type} {l : List α} {f : Nat × α → β} {i : Nat} (d : β) (a : α) (h : i < l.length) :
    ((zipIdx l).map f).getD i d = f (i, l.getD i a) := by
  rw [List.getD_eq_getElem?_getD, List.getElem?_map, zipIdx_getElem?, List.getD_eq_getElem _ _ h, List.getElem?_eq_getElem h]
  rfl

/-! ## The elements of a bank's values -/

/-- 256 rows of 256 elements. -/
def Square (v : Acc32) : Prop := v.el.length = 256 ∧ ∀ r ∈ v.el, r.length = 256

def elemAt (v : Acc32) (i j : Nat) : Val := (v.el.getD i []).getD j .nan

theorem Square.row {v : Acc32} (h : Square v) {i : Nat} (hi : i < 256) : (v.el.getD i []).length = 256 := by
  have hlt : i < v.el.length := by rw [h.1]; exact hi
  rw [List.getD_eq_getElem _ _ hlt]
  exact h.2 _ (List.getElem_mem hlt)

theorem Square.stepDense {v : Acc32} (h : Square v) (a b : Opnd) (s : Nat) : Square (stepDense a b s v) := by
  have hlen : (zipIdx v.el).length = 256 := (zipIdx_length v.el).trans h.1
  refine ⟨(List.length_map _).trans hlen, fun r hr => ?_⟩
  obtain ⟨⟨i, row⟩, hp, rfl⟩ := List.mem_map.mp hr
  rw [List.length_map, zipIdx_length]
  obtain ⟨k, hk⟩ := List.getElem?_of_mem hp
  rw [zipIdx_getElem?] at hk
  obtain ⟨row', hrow, he⟩ := Option.map_eq_some_iff.mp hk
  injection he with _ he
  subst he
  exact h.2 row' (List.mem_of_getElem? hrow)

theorem elemAt_stepDense {v : Acc32} (h : Square v) (a b : Opnd) (s : Nat) {i j : Nat} (hi : i < 256) (hj : j < 256) :
    elemAt (stepDense a b s v) i j = stepElem a b s i j (elemAt v i j) := by
  unfold elemAt Machine.stepDense
  dsimp only
  rw [getD_map_zipIdx [] [] (by rw [h.1]; exact hi), getD_map_zipIdx Val.nan Val.nan (by rw [h.row hi]; exact hj)]

theorem Square.stepOut {v : Acc32} (h : Square v) (b : Opnd) (o : Outlier) : Square (stepOut b v o) := by
  refine ⟨(List.length_modify ..).trans h.1, fun r hr => ?_⟩
  obtain ⟨k, hk⟩ := List.getElem?_of_mem hr
  rw [show (Machine.stepOut b v o).el = v.el.modify o.i _ from rfl, List.getElem?_modify] at hk
  obtain ⟨row, hrow, he⟩ := Option.map_eq_some_iff.mp hk
  have hlen := h.2 row (List.mem_of_getElem? hrow)
  rw [← he]
  split
  · rw [List.length_map, zipIdx_length, hlen]
  · exact hlen

theorem elemAt_stepOut {v : Acc32} (h : Square v) (b : Opnd) (o : Outlier) {i j : Nat} (hi : i < 256) (hj : j < 256) :
    elemAt (stepOut b v o) i j =
      if o.i = i then outElem b o ((b.vals.getD j []).getD o.k .nan) (elemAt v i j) else elemAt v i j := by
  have hlt : i < v.el.length := by rw [h.1]; exact hi
  have hrow : (stepOut b v o).el.getD i [] =
      if o.i = i then (zipIdx (v.el.getD i [])).map (fun c => outElem b o ((b.vals.getD c.1 []).getD o.k .nan) c.2) else v.el.getD i [] := by
    show (v.el.modify o.i _).getD i [] = _
    simp only [List.getD, List.getElem?_modify, List.getElem?_eq_getElem hlt, Option.getD_some]
    split <;> rfl
  unfold elemAt
  rw [hrow]
  split
  · rw [getD_map_zipIdx Val.nan Val.nan (by rw [h.row hi]; exact hj)]
  · rfl

/-- The outliers of one step on one element: those of its row. -/
theorem elemAt_foldl_stepOut (b : Opnd) {i j : Nat} (hi : i < 256) (hj : j < 256) (os : List Outlier) {v : Acc32} (h : Square v) :
    Square (os.foldl (stepOut b) v) ∧ elemAt (os.foldl (stepOut b) v) i j =
      (os.filter (fun o => o.i == i)).foldl (fun w o => outElem b o ((b.vals.getD j []).getD o.k .nan) w) (elemAt v i j) := by
  induction os generalizing v with
  | nil => exact ⟨h, rfl⟩
  | cons o rest ih =>
    obtain ⟨hsq, hel⟩ := ih (h.stepOut b o)
    refine ⟨hsq, ?_⟩
    rw [List.foldl_cons, hel, elemAt_stepOut h b o hi hj]
    by_cases ho : o.i = i
    · simp [ho]
    · simp [ho]

/-- The K steps of one element: each adds its block and then the outliers of its row, in their order. -/
def elemSteps (a b : Opnd) (os : List Outlier) (i j : Nat) (l : List Nat) (y : Val) : Val :=
  l.foldl (fun y n => (os.filter (fun o => o.k / 32 == n && o.i == i)).foldl
    (fun w o => outElem b o ((b.vals.getD j []).getD o.k .nan) w) (stepElem a b n i j y)) y

theorem elemAt_steps (a b : Opnd) (os : List Outlier) {i j : Nat} (hi : i < 256) (hj : j < 256) (l : List Nat) {v : Acc32} (h : Square v) :
    elemAt (l.foldl (fun u s => (os.filter (fun o => o.k / 32 == s)).foldl (stepOut b) (stepDense a b s u)) v) i j
      = elemSteps a b os i j l (elemAt v i j) := by
  induction l generalizing v with
  | nil => rfl
  | cons n rest ih =>
    obtain ⟨hsq, hel⟩ := elemAt_foldl_stepOut b hi hj (os.filter (fun o => o.k / 32 == n)) (h.stepDense a b n)
    rw [List.foldl_cons, ih hsq, hel, elemAt_stepDense h a b n hi hj, List.filter_filter]
    simp only [elemSteps, List.foldl_cons]
    congr 3
    funext o
    exact Bool.and_comm _ _

/-! ## Images of a bank (09 R294) -/

theorem smGet_numbered (l : List Nat) (n k : Nat) :
    smGet (((List.range' n l.length).zip l).filter (fun p => p.2 != 0)) k 0 = if n ≤ k then l.getD (k - n) 0 else 0 := by
  induction l generalizing n with
  | nil => simp
  | cons v rest ih =>
    have hstep : ((List.range' n (v :: rest).length).zip (v :: rest)).filter (fun p => p.2 != 0)
        = (if v = 0 then [] else [(n, v)]) ++ ((List.range' (n + 1) rest.length).zip rest).filter (fun p => p.2 != 0) := by
      rw [List.length_cons, List.range'_succ, List.zip_cons_cons, List.filter_cons]
      by_cases hv : v = 0 <;> simp [hv]
    have htail : smGet (((List.range' (n + 1) rest.length).zip rest).filter (fun p => p.2 != 0)) k 0
        = if n + 1 ≤ k then (v :: rest).getD (k - n) 0 else 0 := by
      rw [ih]
      by_cases hk : n + 1 ≤ k
      · rw [if_pos hk, if_pos hk, show k - n = k - (n + 1) + 1 by omega, List.getD_cons_succ]
      · rw [if_neg hk, if_neg hk]
    rw [hstep]
    by_cases hv : v = 0
    · rw [if_pos hv, List.nil_append, htail]
      by_cases hk : n = k
      · subst hk; simp [hv]
      · by_cases hle : n ≤ k
        · rw [if_pos (by omega), if_pos hle]
        · rw [if_neg (by omega), if_neg hle]
    · rw [if_neg hv]
      by_cases hk : n = k
      · subst hk; simp [smGet, smFind]
      · have hskip : smGet ([(n, v)] ++ ((List.range' (n + 1) rest.length).zip rest).filter (fun p => p.2 != 0)) k 0
            = smGet (((List.range' (n + 1) rest.length).zip rest).filter (fun p => p.2 != 0)) k 0 := by
          simp only [smGet, List.singleton_append, smFind, if_neg hk]
        rw [hskip, htail]
        by_cases hle : n ≤ k
        · rw [if_pos (by omega), if_pos hle]
        · rw [if_neg (by omega), if_neg hle]

/-- What a list of numbers reads as a sparse map. -/
theorem smGet_sparse (l : List Nat) (k : Nat) : smGet (sparse l) k 0 = l.getD k 0 := by
  have h := smGet_numbered l 0 k
  rw [← List.range_eq_range', if_pos (Nat.zero_le k)] at h
  exact h

/-- A word of an image, read into a bank. -/
theorem smGet_words (f : Nat → Nat) {k n : Nat} (h : k < n) : smGet (sparse ((List.range n).map f)) k 0 = f k := by
  rw [smGet_sparse, List.getD_eq_getElem _ _ (by simpa using h)]
  simp

/-! ## The ends of array commands (09 R285, R286) -/

section
variable {cl : Nat} {s : State} {r : CmdRef} {c : Cmd} {x : Ctx}

/-- The command that the array runs has come to its effects. -/
structure AtArray (cl : Nat) (s : State) (r : CmdRef) (c : Cmd) (x : Ctx) : Prop where
  running : (getCl s cl).running = some r
  found : findCmd s r = some c
  owner : cmdOwner s c = some x
  answered : c.awaiting = []

/-- The array is free. -/
def arrayIdle (t : State) (cl : Nat) : State := modCl t cl (fun y => { y with running := none })

theorem exec_array_ok (h : AtArray cl s r c x) {t : State} (hg : goArray s x c = .ok t) :
    exec (.arrayCommandComplete cl) s = .next (arrayIdle (finishCmd t c none) cl) := by
  obtain ⟨hrun, hc, hx, ha⟩ := h
  have ha' : c.awaiting.isEmpty = true := by rw [ha]; rfl
  show execArrayCommandComplete cl s = _
  unfold execArrayCommandComplete
  rw [hrun]
  simp only [hc, hx, ha', Bool.not_true, Bool.false_eq_true, if_false, hg]
  rfl

theorem exec_array_fail (h : AtArray cl s r c x) {t : State} {k a : Nat} (hg : goArray s x c = .fail t k a) :
    exec (.arrayCommandComplete cl) s = .next (arrayIdle (finishCmd t c (some (k, a))) cl) := by
  obtain ⟨hrun, hc, hx, ha⟩ := h
  have ha' : c.awaiting.isEmpty = true := by rw [ha]; rfl
  show execArrayCommandComplete cl s = _
  unfold execArrayCommandComplete
  rw [hrun]
  simp only [hc, hx, ha', Bool.not_true, Bool.false_eq_true, if_false, hg]
  rfl

theorem exec_array_pend (h : AtArray cl s r c x) {t : State} {rids : List Nat} (hg : goArray s x c = .pend t rids) :
    exec (.arrayCommandComplete cl) s = .next (putCmd t { c with awaiting := rids, phase := 1 }) := by
  obtain ⟨hrun, hc, hx, ha⟩ := h
  have ha' : c.awaiting.isEmpty = true := by rw [ha]; rfl
  show execArrayCommandComplete cl s = _
  unfold execArrayCommandComplete
  rw [hrun]
  simp only [hc, hx, ha', Bool.not_true, Bool.false_eq_true, if_false, hg]

theorem goArray_failed {k : Nat} {a : Word} (hf : c.failed = some (k, a)) : goArray s x c = .fail s k a.toNat := by
  unfold goArray; rw [hf]

theorem goArray_of_run (hf : c.failed = none) : goArray s x c = runArray s x c := by
  unfold goArray; rw [hf]

/-! ### Each command's effects -/

theorem runArray_mma {o : MM} (hi : cmdInstr c = some (.mma o)) : runArray s x c = runMma s x c o false := by
  unfold runArray; rw [hi]

theorem runArray_mmao {o : MM} (hi : cmdInstr c = some (.mmao o)) : runArray s x c = runMma s x c o true := by
  unfold runArray; rw [hi]

theorem runArray_mzero {o : MC} (hi : cmdInstr c = some (.mzero o)) : runArray s x c = runMzero s x o.acc.toNat := by
  unfold runArray; rw [hi]

theorem runArray_mload {o : MC} (hi : cmdInstr c = some (.mload o)) : runArray s x c = runMload s x c o.acc.toNat := by
  unfold runArray; rw [hi]

theorem runArray_mchk {o : MC} (hi : cmdInstr c = some (.mchk o)) : runArray s x c = runMchk s x c o.acc.toNat := by
  unfold runArray; rw [hi]

theorem runArray_mdrain {o : MC} (hi : cmdInstr c = some (.mdrain o)) : runArray s x c = runMdrain s x c o := by
  unfold runArray; rw [hi]

theorem runArray_mrel {o : MC} (hi : cmdInstr c = some (.mrel o)) : runArray s x c = runMrel s x c o := by
  unfold runArray; rw [hi]

/-- A poisoned bank is neither checked, drained nor added to (09 R299; log 45). -/
theorem runArray_poison {o : MC} (hi : cmdInstr c = some (.mchk o) ∨ cmdInstr c = some (.mdrain o))
    (hp : (getBank s x.id.cl o.acc.toNat).poison = true) : runArray s x c = .fail s 10 0 := by
  rcases hi with hi | hi
  · rw [runArray_mchk hi, runMchk, if_pos hp]
  · rw [runArray_mdrain hi]
    exact if_pos hp

theorem runMma_poison {o : MM} (list : Bool) (hp : (getBank s x.id.cl o.acc.toNat).poison = true) :
    runMma s x c o list = .fail s 10 0 := if_pos hp

/-- A product whose operands, and list, were read. -/
theorem runMma_read {o : MM} {a b : Opnd} {pa pb : List (Option Nat × Nat)} {l : List Outlier} {s1 s2 s3 : State}
    (hp : (getBank s x.id.cl o.acc.toNat).poison = false)
    (ha : readOpnd s x c o.ka (c.ops.getD 0 0).toNat c.hidx = (s1, .ok a pa))
    (hb : readOpnd s1 x c o.kb (c.ops.getD 1 0).toNat c.hidxB = (s2, .ok b pb))
    (hl : (cmdInstr c = some (.mma o) ∧ l = [] ∧ s3 = s2) ∨
      (cmdInstr c = some (.mmao o) ∧ readList s2 x c (c.ops.getD 3 0).toNat = (s3, .ok l))) :
    runArray s x c = mmaProduct s3 x c o.acc.toNat (.ok a pa) (.ok b pb) l := by
  have hp' : ¬ (getBank s x.id.cl o.acc.toNat).poison = true := by simp [hp]
  rcases hl with ⟨hi, rfl, rfl⟩ | ⟨hi, hlist⟩
  · rw [runArray_mma hi]
    unfold runMma
    simp only [if_neg hp', ha, hb, Bool.false_eq_true, if_false]
  · rw [runArray_mmao hi]
    unfold runMma
    simp only [if_neg hp', ha, hb, if_true, hlist]

/-- A bank after the first n K steps of a product. -/
def afterSteps (a b : Opnd) (l : List Outlier) (bk : Bank) (n : Nat) : Bank :=
  { bankPut bk (runSteps a b l n (bankVals bk)) with ksteps := bk.ksteps + BitVec.ofNat 48 n }

theorem mmaProduct_whole {a b : Opnd} {l : List Outlier} {bn : Nat} : mmaProduct s x c bn (.ok a []) (.ok b []) l =
    .ok (putBank s x.id.cl bn (afterSteps a b l (getBank s x.id.cl bn) 8)) := rfl

theorem mmaProduct_stopped {a b : Opnd} {pa pb : List (Option Nat × Nat)} {l : List Outlier} {bn n t : Nat}
    (h : stopStep (pa ++ pb) = some (n, t)) : mmaProduct s x c bn (.ok a pa) (.ok b pb) l =
      .fail (putBank s x.id.cl bn { (if n = 0 then getBank s x.id.cl bn else afterSteps a b l (getBank s x.id.cl bn) n) with
        poison := true }) 10 t := by
  unfold mmaProduct
  simp only [h]
  rfl

theorem bad_of_nil {g : Got} (h : g.bads = []) : g.bad = none := by rw [Got.bad, h]; rfl

theorem runMload_image {o : MC} {s1 : State} {g : Got} (hr : readRange s x c 0 (bits (c.ops.getD 0 0).toNat 55 0) 0x42000 = (s1, g))
    (hw : g.wait = none) (hb : g.bads = []) (hk : imgNat g.bs 0x41008 1 = 0xA6) : runMload s x c o.acc.toNat =
      .ok (putBank s1 x.id.cl o.acc.toNat (bankOfImage (getBank s1 x.id.cl o.acc.toNat) g.bs)) := by
  unfold runMload
  rw [show imageBytes = 0x42000 from rfl]
  simp only [hr, hw, bad_of_nil hb, hk, if_true]

end

end Sys2Proof.Machine
end

section
/-!
The effects and ends of array commands (09 R286 to R298) and the retirement of rows (09 R306 to R308).
-/
namespace Sys2Proof.Machine

section
variable {s : State} {c : Cmd} {x : Ctx}

/-- A bank that passes its check (09 R300 to R305). -/
theorem runMchk_passed {bn : Nat} {s1 : State} (hp : (getBank s x.id.cl bn).poison = false) (h : checkBank s x c bn = (s1, none)) :
    runMchk s x c bn = .ok s1 := by
  unfold runMchk
  rw [if_neg (by simp [hp]), h]

/-- A bank that fails it, with the failure's data. -/
theorem runMchk_failed {bn v : Nat} {s1 : State} (hp : (getBank s x.id.cl bn).poison = false)
    (h : checkBank s x c bn = (s1, some v)) : runMchk s x c bn = .fail s1 15 v := by
  unfold runMchk
  rw [if_neg (by simp [hp]), h]

/-- The bias that a drain reads (09 R297). -/
def readBias (x : Ctx) (c : Cmd) (o : MC) (t : State) : State × Got :=
  if mdBias o then readRange t x c 0 (mereBase + bits (c.ops.getD 2 0).toNat 23 0) 1024 else (t, Got.none)

/-- The values that a drain writes: those of the bank, each through the epilogue. -/
def drained32 (o : MC) (c : Cmd) (b : Bank) (g : Got) : List (List Val) :=
  (bankVals b).el.map (fun row => (zipIdx row).map (fun p => drainElem o (decodeVal .fp32 (bits (c.ops.getD 1 0).toNat 31 0))
    (if mdBias o then decodeVal .fp32 (imgNat g.bs (4 * p.1) 4) else .zero false) p.2))

/-- A drain whose bank passes its check, whose bias is read and whose image is written. -/
theorem runMdrain_written {o : MC} {s0 s1 s2 : State} {g : Got} (hp : (getBank s x.id.cl o.acc.toNat).poison = false)
    (hw : (readBias x c o s).2.wait = none) (hd : writeWait s x c 0 (bits (c.ops.getD 0 0).toNat 55 0) (mdBytes o) = none)
    (hc : checkBank s x c o.acc.toNat = (s0, none)) (hb : readBias x c o s0 = (s1, g)) (hg : g.bads = [])
    (h2 : (writeRange s1 x c 0 (bits (c.ops.getD 0 0).toNat 55 0)
      (drainImage o c (getBank s1 x.id.cl o.acc.toNat) (drained32 o c (getBank s1 x.id.cl o.acc.toNat) g)).1).1 = s2)
    (hn : (writeRange s1 x c 0 (bits (c.ops.getD 0 0).toNat 55 0)
      (drainImage o c (getBank s1 x.id.cl o.acc.toNat) (drained32 o c (getBank s1 x.id.cl o.acc.toNat) g)).1).2.bad = none) :
    runMdrain s x c o = .ok (postRecs (if mdComp o then setSectors s2 x (bits (c.ops.getD 0 0).toNat 55 0)
        (drainImage o c (getBank s1 x.id.cl o.acc.toNat) (drained32 o c (getBank s1 x.id.cl o.acc.toNat) g)).1 66 else s2) c 1
      (drainImage o c (getBank s1 x.id.cl o.acc.toNat) (drained32 o c (getBank s1 x.id.cl o.acc.toNat) g)).2) := by
  have hwait : ((readBias x c o s).2.wait.or (writeWait s x c 0 (bits (c.ops.getD 0 0).toNat 55 0) (mdBytes o))) = none := by
    rw [hw, hd]; rfl
  unfold drained32 at h2 hn ⊢
  unfold readBias at hwait hb
  unfold runMdrain
  dsimp only
  rw [if_neg (by simp [hp]), hwait]
  simp only [hc, hb, bad_of_nil hg]
  revert h2 hn
  generalize writeRange s1 x c 0 _ _ = w
  obtain ⟨t, sent, bad⟩ := w
  intro h2 hn
  subst h2
  simp only at hn
  subst hn
  rfl

end

/-! ## The retirement of rows -/

/-- Every byte of the part's memories and every map of an array's rows reads the same in t as in s. -/
structure SameRows (s t : State) : Prop where
  bytes : SameBytes s t
  rows : ∀ n, (getCl t n).rowMap = (getCl s n).rowMap

theorem SameRows.trans {s t u : State} (h1 : SameRows s t) (h2 : SameRows t u) : SameRows s u :=
  ⟨h1.bytes.trans h2.bytes, fun n => (h2.rows n).trans (h1.rows n)⟩

theorem rowMap_of_memStep {s t : State} (h : MemStep s t) (n : Nat) : (getCl t n).rowMap = (getCl s n).rowMap := by
  have e := congrArg Cluster.rowMap (h.cluster n)
  exact e

theorem sameRows_postNotice (s : State) (kind tag data : Nat) : SameRows s (postNotice s kind tag data) :=
  ⟨postNotice_bytes s kind tag data, rowMap_of_memStep (MemStep.postNotice s kind tag data)⟩

theorem sameRows_compared (s : State) (t : Nat) : SameRows s (compared s t) :=
  ⟨compared_bytes s t, rowMap_of_memStep (MemStep.compared s t)⟩

theorem sameRows_modPkg (s : State) (f : Pkg → Pkg) : SameRows s (modPkg s f) := ⟨modPkg_bytes s f, fun _ => rfl⟩

theorem modCtx_bytes (s : State) (c : CtxId) (f : Ctx → Ctx) : SameBytes s (modCtx s c f) := by
  unfold modCtx
  split
  · exact .refl s
  · intro p _; cases p <;> rfl

theorem sameRows_rowRecord (s : State) (r : CmdRef) (data : Nat) : SameRows s (rowRecord s r data) :=
  ⟨modCtx_bytes _ _ _, fun n => by
    unfold rowRecord postEvent modCtx
    split <;> rfl⟩

/-- A row's retirement: the map marks it, and no byte of the part changes. -/
structure Retired (s : State) (cl p : Nat) (u : State) : Prop where
  marked : (getCl u cl).rowMap.retired = (getCl s cl).rowMap.retired ||| (1#320 <<< p)
  bytes : SameBytes s u

theorem Retired.of_sameRows {s t u : State} {cl p : Nat} (h : Retired s cl p t) (h2 : SameRows t u) : Retired s cl p u :=
  ⟨by rw [h2.rows, h.marked], h.bytes.trans h2.bytes⟩

theorem retired_modCl {s : State} {cl p : Nat} {f : Cluster → Cluster}
    (h : (f (getCl s cl)).rowMap.retired = (getCl s cl).rowMap.retired ||| (1#320 <<< p)) : Retired s cl p (modCl s cl f) :=
  ⟨by rw [getCl_modCl_self, h], fun q _ => by cases q <;> rfl⟩

theorem retireRow_retired {s : State} {cl p : Nat} {r : CmdRef}
    (h : (getCl s cl).rowMap.mode = 0 ∧ (freeSpare (getCl s cl).rowMap).isSome = true ∨ banksFree s cl = true) :
    ∃ u, retireRow s cl p r = some u ∧ Retired s cl p u := by
  have htold : ∀ t, Retired s cl p t → Retired s cl p (tellMap t cl) := fun t ht => ht.of_sameRows (sameRows_postNotice t 6 0 cl)
  have hcount : ∀ t, Retired s cl p t → Retired s cl p (incRowret t) := fun t ht => ht.of_sameRows (sameRows_modPkg t _)
  have hrecord : ∀ (b : Bool) data t, Retired s cl p t → Retired s cl p (if b then rowRecord t r data else t) := fun b data t ht => by
    cases b
    · exact ht
    · exact ht.of_sameRows (sameRows_rowRecord t r data)
  unfold retireRow
  dsimp only
  split
  · next sp hsp =>
    exact ⟨_, rfl, htold _ ((hcount _ (retired_modCl rfl)).of_sameRows (sameRows_rowRecord _ _ _))⟩
  · next hnone =>
    have hfree : banksFree s cl = true := by
      rcases h with ⟨hmode, hspare⟩ | hfree
      · rw [if_pos hmode] at hnone
        rw [hnone] at hspare
        exact absurd hspare (by decide)
      · exact hfree
    rw [if_neg (by simp [hfree])]
    exact ⟨_, rfl, htold _ (hrecord _ _ _ (hcount _ (retired_modCl rfl)))⟩

theorem exec_rowRetire {cl p : Nat} {w : CmdRef} {rest : List (Nat × CmdRef)} {s : State} (hrun : (getCl s cl).running = none)
    (hq : (getCl s cl).retire = (p, w) :: rest)
    (h : (getCl s cl).rowMap.mode = 0 ∧ (freeSpare (getCl s cl).rowMap).isSome = true ∨ banksFree s cl = true) :
    ∃ u, exec (.rowRetire cl) s = .next u ∧ Retired s cl p u := by
  obtain ⟨t, ht, hret⟩ := retireRow_retired (p := p) (r := w) h
  refine ⟨compared t 0, ?_, hret.of_sameRows (sameRows_compared t 0)⟩
  show execRowRetire cl s = _
  unfold execRowRetire
  simp only [hrun, hq, ht]

theorem bankOfImage_bound (b : Bank) (img : List Byte) : (bankOfImage b img).bound = b.bound := by
  unfold bankOfImage
  dsimp only

/-- An element of the bank that an image holds (09 R294). -/
theorem smGet_bankOfImage_el (b : Bank) (img : List Byte) {k : Nat} (hk : k < 65536) :
    smGet (bankOfImage b img).el k 0 = imgNat img (4 * k) 4 := by
  unfold bankOfImage
  dsimp only
  rw [smGet_words _ hk, Nat.zero_add]

/-- Settles O46. -/
theorem arrayCommandEnds : Obligations.ArrayCommandEnds := by
  refine ⟨?_, ?_, ?_, ?_⟩
  · intro cl s r c x hrun hc hx ha ends op bank
    have h : AtArray cl s r c x := ⟨hrun, hc, hx, ha⟩
    refine ⟨fun k a hf => exec_array_fail h (goArray_failed hf), fun hf => ?_⟩
    have hok : ∀ t, runArray s x c = .ok t → ends t none := fun t hr => exec_array_ok h ((goArray_of_run hf).trans hr)
    have hfail : ∀ t k a, runArray s x c = .fail t k a → ends t (some (k, a)) := fun t k a hr =>
      exec_array_fail h ((goArray_of_run hf).trans hr)
    refine ⟨fun o hi => hok _ (runArray_mzero hi), fun o hi => hok _ (runArray_mrel hi),
      fun o hi hp => hfail _ _ _ (runArray_poison hi hp), fun o hi hp s1 d hd => ?_, fun o hi hp => ?_,
      fun o a b pa pb l s1 s2 s3 hp hra hrb hl => ?_, fun o s1 g hi hr hw hb hk => ?_, fun o s0 s1 s2 g hi hp => ?_,
      hok, hfail, fun t rids hr => exec_array_pend h ((goArray_of_run hf).trans hr)⟩
    · cases d with
      | none => exact hok _ ((runArray_mchk hi).trans (runMchk_passed hp hd))
      | some v => exact hfail _ _ _ ((runArray_mchk hi).trans (runMchk_failed hp hd))
    · rcases hi with hi | hi
      · exact hfail _ _ _ ((runArray_mma hi).trans (runMma_poison false hp))
      · exact hfail _ _ _ ((runArray_mmao hi).trans (runMma_poison true hp))
    · intro bk after
      have hread := runMma_read hp hra hrb hl
      refine ⟨fun hpa hpb => ?_, fun n t hst => hfail _ _ _ (hread.trans (mmaProduct_stopped hst))⟩
      subst hpa hpb
      exact hok _ hread
    · exact hok _ ((runArray_mload hi).trans (runMload_image hr hw hb hk))
    · intro n ba ask hw hd hck hb hg scale bias z img h2 hn
      exact hok _ ((runArray_mdrain hi).trans (runMdrain_written hp hw hd hck hb hg h2 hn))
  · intro a b os v i j hrows hcols hi hj
    exact elemAt_steps a b os hi hj (List.range 8) ⟨hrows, hcols⟩
  · intro b img k t
    refine ⟨bankOfImage_bound b img, rfl, rfl, fun hk => ?_, fun hk => ⟨?_, ?_, ?_, ?_⟩⟩
    · exact smGet_bankOfImage_el b img hk
    · exact smGet_words (fun i => imgNat img (0x40000 + 8 * i) 4) hk
    · exact smGet_words (fun i => imgNat img (0x40004 + 8 * i) 4) hk
    · exact smGet_words (fun i => imgNat img (0x40800 + 8 * i) 4) hk
    · exact smGet_words (fun i => imgNat img (0x40804 + 8 * i) 4) hk
  · intro cl p w rest s hrun hq h
    obtain ⟨u, hu, hret⟩ := exec_rowRetire hrun hq h
    exact ⟨u, hu, hret.marked, hret.bytes .hbm (by decide), hret.bytes .mere (by decide), hret.bytes .carved (by decide)⟩

end Sys2Proof.Machine
end

section
/-!
The SMBus target and the test port (17 R501), the words of the manual's examples, what reset leaves, and the host port (17 R479 to
R485, R494).
-/
namespace Sys2Proof.Machine

/-- Settles O54: every access of the two ports is one arm of `exec`. -/
theorem managementPorts : Obligations.ManagementPorts := by
  unfold Obligations.ManagementPorts
  intro s
  exact ⟨rfl, fun _ => ⟨_, rfl, rfl, rfl, rfl⟩, ⟨_, rfl, rfl, rfl, rfl⟩, rfl, rfl, ⟨_, rfl, rfl, rfl⟩,
    fun _ => ⟨_, rfl, rfl, rfl, rfl⟩, ⟨_, rfl, rfl, rfl, rfl⟩⟩

/-- Settles O57: each word evaluates to its operation. -/
theorem exampleWordsDecode : Obligations.ExampleWordsDecode := by
  unfold Obligations.ExampleWordsDecode
  refine ⟨?_, ?_, ?_, ?_, ?_, ?_, ?_, ?_, ?_, ?_, ?_, ?_, ?_, ?_⟩ <;> rfl

/-! ## Reset -/

/-- The predicates that read true whatever was written to predicate 0 (04 R114). -/
theorem rdCC_zero (x : Ctx) : (rdCC x).getLsbD 0 = true := by simp [rdCC]

/-- The bits of a range register that are not kept (04 R117). -/
theorem rdH_wrH_middle (x : Ctx) (n : Nat) (w : Word) {k : Nat} (h1 : 12 ≤ k) (h2 : k ≤ 62) : (rdH (wrH x n w) n).getLsbD k = false := by
  have hm : (0x8000_0000_0000_0FFF : Word).getLsbD k = false := by
    have : ∀ j : Fin 63, 12 ≤ j.1 → (0x8000_0000_0000_0FFF : Word).getLsbD j.1 = false := by decide
    exact this ⟨k, by omega⟩ h1
  rw [rdH, wrH, smGet_set, if_pos rfl, BitVec.getLsbD_and, hm, Bool.and_false]

/-- Settles O58: nothing is listed at reset, so every part reads as its reset record. -/
theorem resetAndFixedRegisters : Obligations.ResetAndFixedRegisters := by
  unfold Obligations.ResetAndFixedRegisters
  refine ⟨fun _ _ => ⟨rfl, rfl, rfl, rfl⟩, fun _ _ => ⟨rfl, rfl⟩, rfl, rfl, rfl, rfl, rfl, rfl, rfl, rfl, rfl, rfl,
    fun x w m b => ⟨rfl, rfl, rdCC_zero _, rfl, rfl, rfl, rfl⟩, fun x n w k h1 h2 => rdH_wrH_middle x n w h1 h2⟩

/-! ## The host port -/

section
variable {s : State}

/-- The value of a doorbell's write decides it, once the device takes any (17 R484). -/
theorem doorbell_arm (e : Nat) (hb : s.dev.boot = 0) (hf : s.dev.fatal = false) : doorbell s e 1 = setArm s e true := by
  simp [doorbell, hb, hf]

theorem doorbell_disarm (e : Nat) (hb : s.dev.boot = 0) (hf : s.dev.fatal = false) : doorbell s e 0 = setArm s e false := by
  simp [doorbell, hb, hf]

theorem doorbell_other (e : Nat) {v : Word} (h1 : v ≠ 1) (h0 : v ≠ 0) : doorbell s e v = s := by
  unfold doorbell
  rw [beq_eq_false_iff_ne.2 h1, beq_eq_false_iff_ne.2 h0]
  exact ite_self s

theorem doorbell_fatal (e : Nat) (v : Word) (h : s.dev.fatal = true) : doorbell s e v = s := by
  simp [doorbell, h]

/-- A word with bit 0 set is not 0, one with bit 0 clear is not 1. -/
theorem ne_zero_of_bit {v : Word} (h : v.getLsbD 0 = true) : v ≠ 0 := by rintro rfl; simp at h
theorem ne_one_of_bit {v : Word} (h : v.getLsbD 0 = false) : v ≠ 1 := by rintro rfl; simp at h

theorem exec_doorbellArm {e : Nat} {v : Word} (he : e < 256) (hv : v.getLsbD 0 = true) :
    exec (.doorbellArm e v) s = .next (doorbell s e v) := by
  show execDoorbellArm e v s = _
  unfold execDoorbellArm
  rw [if_pos (by simp [he, hv])]

theorem exec_doorbellDisarm {e : Nat} {v : Word} (he : e < 256) (hv : v.getLsbD 0 = false) :
    exec (.doorbellDisarm e v) s = .next (doorbell s e v) := by
  show execDoorbellDisarm e v s = _
  unfold execDoorbellDisarm
  rw [hv, if_pos (by simp [he])]

theorem hostPurge_eq (w : Word) : hostPurge s w = if w.extractLsb' 0 16 = 0 ∨ s.dev.fatal = true then s
    else startPurge s (w.extractLsb' 0 16) (purgeCode .host) := by
  unfold hostPurge
  simp

/-- A write of MGMTCFG (17 R483). -/
theorem setMgmtcfg_expanded (w : Nat) : (setMgmtcfg s w).dev.expanded = bit w 32 := by
  unfold setMgmtcfg
  dsimp only
  split <;> rfl

theorem setMgmtcfg_launched (w : Nat) (h : s.dev.launched = true) :
    setMgmtcfg s w = modDev s (fun d => { d with expanded := bit w 32 }) := by
  simp [setMgmtcfg, h]

theorem setMgmtcfg_torus (w : Nat) (h : s.dev.launched = false) (ht : torusOk s w = true) :
    setMgmtcfg s w = modDev (modDev s (fun d => { d with expanded := bit w 32 })) (fun d => { d with
      tx := bits w 15 12, ty := bits w 19 16, tz := bits w 23 20, txn := bits w 3 0, tyn := bits w 7 4, tzn := bits w 11 8 }) := by
  simp [setMgmtcfg, h, ht]

/-- The operations of the boot flash (17 R481). -/
theorem flashErase_starts {w : Word} (hw : w.getLsbD 0 = true) (h : s.dev.flashBusy = none) :
    flashErase s w = modDev s (fun d => { d with flashBusy := some (bits w.toNat 25 12 * 4096, []) }) := by
  rw [flashErase, hw, h]
  rfl

theorem flashErase_ignored {w : Word} (h : w.getLsbD 0 = false ∨ s.dev.flashBusy.isSome = true) : flashErase s w = s := by
  unfold flashErase
  obtain h | h := h
  · rw [h]; rfl
  · rw [if_neg]
    intro h'
    obtain ⟨a, ha⟩ := Option.isSome_iff_exists.1 h
    rw [ha] at h'
    simp at h'

theorem exec_bootFlashProgram {off : Nat} {w : Word} (ho : off < 2 ^ 21) (hb : s.dev.flashBusy = none)
    (he : ∀ b ∈ flashGet s (s.dev.flashWin.toNat * 2 ^ 21 + off / 8 * 8) 8, b = 0xFF) : exec (.bootFlashProgram off w) s =
      .next (modDev s (fun d => { d with flashBusy := some (s.dev.flashWin.toNat * 2 ^ 21 + off / 8 * 8, natLe 8 w.toNat) })) := by
  show execBootFlashProgram off w s = _
  unfold execBootFlashProgram flashProgram
  rw [if_pos ho]
  dsimp only
  rw [if_neg (by simp [hb]), if_pos (List.all_eq_true.2 (fun b hb => by simp [he b hb]))]

theorem flashGet_flashPut (a : Nat) (bs : List Byte) : flashGet (flashPut s a bs) a bs.length = bs := by
  have h := cellsGet_put_same s.dev.flash a (bs.map (fun b => ~~~b))
  rw [List.length_map] at h
  unfold flashGet flashPut modDev
  dsimp only
  rw [h, List.map_map]
  exact (List.map_congr_left (fun b _ => BitVec.not_not)).trans (List.map_id bs)

/-- The end of an erase or a program: its bytes stand in flash. -/
theorem flashDone_some {a : Nat} {bs : List Byte} (h : s.dev.flashBusy = some (a, bs)) : flashDone s =
    modDev (flashPut s a (if bs = [] then List.replicate 4096 0xFF else bs)) (fun d => { d with flashBusy := none }) := by
  rw [flashDone, h]

theorem flashGet_flashDone {a : Nat} {bs : List Byte} (h : s.dev.flashBusy = some (a, bs)) :
    flashGet (flashDone s) a (if bs = [] then 4096 else bs.length) = if bs = [] then List.replicate 4096 0xFF else bs := by
  have hl : (if bs = [] then 4096 else bs.length) = (if bs = [] then List.replicate 4096 (0xFF : Byte) else bs).length := by
    split
    · rw [List.length_replicate]
    · rfl
  rw [flashDone_some h, hl]
  exact flashGet_flashPut a _

theorem exec_bootFlashOperationComplete (h : s.dev.flashBusy.isSome = true) :
    ∃ t, exec .bootFlashOperationComplete s = .next t ∧ t.dev.flashBusy = none ∧
      ∀ a bs, s.dev.flashBusy = some (a, bs) → flashGet t a (if bs = [] then 4096 else bs.length) =
        if bs = [] then List.replicate 4096 0xFF else bs := by
  obtain ⟨⟨a, bs⟩, hab⟩ := Option.isSome_iff_exists.1 h
  refine ⟨flashDone s, ?_, by rw [flashDone_some hab]; rfl, fun _ _ => flashGet_flashDone⟩
  show execBootFlashOperationComplete s = _
  unfold execBootFlashOperationComplete
  rw [if_neg (by simp [hab])]

/-- Byte k of a number is byte k of its bytes. -/
theorem natLe_eq_map (n x : Nat) : natLe n x = (List.range n).map (fun i => BitVec.ofNat 8 (x / 2 ^ (8 * i))) := by
  induction n generalizing x with
  | zero => rfl
  | succ n ih =>
    rw [natLe, ih, List.range_succ_eq_map, List.map_cons, List.map_map]
    congr 1
    · simp
    · apply List.map_congr_left
      intro i _
      have : 8 * (i + 1) = 8 + 8 * i := by omega
      simp only [Function.comp_apply, Nat.succ_eq_add_one, this, Nat.pow_add, Nat.div_div_eq_div_mul, Nat.reducePow]

/-- A whole aligned word of BAR0. -/
theorem bar0Bytes_word (o : Nat) (ho : o % 8 = 0) : bar0Bytes s o 8 = natLe 8 (bar0Word s o) := by
  rw [natLe_eq_map, bar0Bytes]
  apply List.map_congr_left
  intro i hi
  have hi := List.mem_range.1 hi
  rw [show (o + i) / 8 * 8 = o by omega, show (o + i) % 8 = i by omega]

theorem droppedCount_read : bar0Read s 0x2_0020 8 = clearDropped (hostReturns s (natLe 8 s.dev.droppedN.toNat)) := by
  unfold bar0Read
  dsimp only
  rw [bar0Bytes_word _ rfl]
  rfl

theorem exec_attestationReady (h : s.dev.attBusy = true) : exec .attestationReady s = .next (modDev s (fun d => { d with
    attBusy := false
    attReport := reportBody s ++ (natLe 96 (Config.identitySignature (reportBody s)).toNat).reverse })) := by
  show execAttestationReady s = _
  unfold execAttestationReady
  rw [if_pos h]

theorem exec_hostBar0 {o n : Nat} (ho : o + n ≤ 2 ^ 22) (hn : n ≤ 4096) :
    exec (.hostMemoryAccess (.bar0 o n)) s = .next (bar0Read s o n) := by
  show execHostMemoryAccess (.bar0 o n) s = _
  unfold execHostMemoryAccess
  rw [if_neg (by simpa [hostShape, hn] using ho)]
  rfl

theorem exec_hostFails {a : HostAccess} {pa n : Nat} (h1 : hostShape a = true) (h2 : hostSpan s a = some (pa, n))
    (h : s.dev.fatal = true ∨ s.dev.boot ≠ 0 ∨ hbmBytes < pa + n) : exec (.hostMemoryAccess a) s = .next (hostFails s) := by
  show execHostMemoryAccess a s = _
  unfold execHostMemoryAccess
  rw [if_neg (by simp [h1]), h2]
  exact if_pos (by simpa [or_assoc] using h)

theorem exec_hostAccess {a : HostAccess} {pa n : Nat} (h1 : hostShape a = true) (h2 : hostSpan s a = some (pa, n))
    (hf : s.dev.fatal = false) (hb : s.dev.boot = 0) (hn : pa + n ≤ hbmBytes) (hh : s.dev.hold = false)
    (hz : frozenPhys s pa n = false) : exec (.hostMemoryAccess a) s = .next (hostDoes (compared s 3) a) := by
  show execHostMemoryAccess a s = _
  unfold execHostMemoryAccess
  rw [if_neg (by simp [h1]), h2]
  dsimp only
  rw [if_neg (by simp [hf, hb, hn]), if_neg (by simp [hh, hz])]

theorem exec_registerWrite {o : Nat} {w : Word} (h8 : o % 8 = 0) (ho : o < 2 ^ 22) :
    exec (.registerWrite o w) s = .next (bar0Write s o w) := by
  show execRegisterWrite o w s = _
  unfold execRegisterWrite
  rw [if_pos (by simp [h8]; omega)]

end

/-- Settles O53: one rule per access of the host. -/
theorem hostSteps : Obligations.HostSteps := by
  unfold Obligations.HostSteps
  intro s
  refine ⟨?_, ?_, fun _ => rfl, fun w => congrArg _ (hostPurge_eq w), ?_, ?_, fun w => ?_, fun w h1 h2 => congrArg _ (flashErase_starts h1 h2),
    fun w h => congrArg _ (flashErase_ignored h), fun off w => exec_bootFlashProgram, exec_bootFlashOperationComplete,
    ⟨_, congrArg Host.Outcome.next droppedCount_read, rfl, rfl, rfl⟩, rfl, fun h => ⟨_, exec_attestationReady h, rfl, rfl, rfl⟩,
    fun o n => exec_hostBar0, fun a pa n h1 h2 => ⟨exec_hostFails h1 h2, exec_hostAccess h1 h2⟩, fun o w => exec_registerWrite⟩
  · intro e v he hv
    exact ⟨_, exec_doorbellArm he hv, fun hb hf h => h ▸ doorbell_arm e hb hf, fun h => doorbell_other e h (ne_zero_of_bit hv),
      doorbell_fatal e v⟩
  · intro e v he hv
    exact ⟨_, exec_doorbellDisarm he hv, fun hb hf h => h ▸ doorbell_disarm e hb hf, fun h => doorbell_other e (ne_one_of_bit hv) h,
      doorbell_fatal e v⟩
  · intro w
    refine ⟨_, rfl, (setMgmtcfg_expanded _).trans rfl, setMgmtcfg_launched _, fun h1 h2 => ?_⟩
    rw [setMgmtcfg_torus _ h1 h2]
    exact ⟨rfl, rfl, rfl, rfl, rfl, rfl⟩
  · intro cl w h
    show execPairmodeWrite cl w s = _
    unfold execPairmodeWrite
    rw [if_pos h]
  · show Host.Outcome.next (stepTime s w.toNat) = _
    rw [stepTime, BitVec.ofNat_toNat, BitVec.setWidth_eq]

end Sys2Proof.Machine
end

section
/-!
Purges, the scrub, soft errors, invalidations and migrations (12 R388, R396, R419 to R422).
-/
namespace Sys2Proof.Machine

section
variable {s : State}

/-! ## Purges as steps -/

theorem exec_purgeStart {tag : Nat} {c : PurgeCause} (h0 : 0 < tag) (h1 : tag < 65536) (h : purgeCaused s tag c = true) :
    exec (.purgeStart tag c) s = .next (startPurge s (BitVec.ofNat 16 tag) (purgeCode c)) := by
  show execPurgeStart tag c s = _
  unfold execPurgeStart
  rw [h, if_neg (by simp; omega)]

theorem badHeader_of_ok {p : Packet} (h : p.ok = true) (hk : p.kind ≠ .unsent) : badHeader p = false := by
  simp [badHeader, h, hk]

theorem exec_purgePacketReceive {p : Packet} (hok : p.ok = true) (hk : p.kind = .purge) (hd : p.dst = nodeNo s)
    (hf : s.dev.fatal = false) (ht : p.tag ≠ 0) : exec (.purgePacketReceive p) s = .next (purgeFor s p) := by
  show execPurgePacketReceive p s = _
  unfold execPurgePacketReceive
  rw [badHeader_of_ok hok (by simp [hk]), if_neg Bool.false_ne_true, if_neg (by simp [hk]), if_neg (by simp [hd]),
    if_neg (by simp [hf]), if_neg ht]

theorem exec_purgeAckReceive {p : Packet} {q : Purge} (hok : p.ok = true) (hk : p.kind = .purgeAck) (hd : p.dst = nodeNo s)
    (hq : q ∈ s.pkg.purges) (ht : q.tag.toNat = p.tag) (hs : p.src ∈ q.awaiting) :
    exec (.purgeAckReceive p) s = .next (modPkg (compared s 2) (fun g => ackPurge g (BitVec.ofNat 16 p.tag) p.src)) := by
  show execPurgeAckReceive p s = _
  unfold execPurgeAckReceive
  rw [badHeader_of_ok hok (by simp [hk]), if_neg Bool.false_ne_true, if_neg (by simp [hk]), if_neg (by simp [hd]), if_pos]
  exact List.any_eq_true.2 ⟨q, hq, by simp [ht, hs]⟩

/-- A node that has acknowledged a purge is awaited no more. -/
theorem ackPurge_awaiting {g : Pkg} {tag : BitVec 16} {node : Nat} {r : Purge} (hr : r ∈ (ackPurge g tag node).purges) (ht : r.tag = tag) :
    node ∉ r.awaiting := by
  unfold ackPurge at hr
  obtain ⟨hm, -⟩ := List.mem_filter.1 hr
  obtain ⟨q, -, rfl⟩ := List.mem_map.1 hm
  by_cases hc : q.tag = tag
  · simp [hc]
  · rw [if_neg (by simpa using hc)] at ht
    exact absurd ht hc

/-- Other purges stay as they are. -/
theorem ackPurge_other {g : Pkg} {tag : BitVec 16} {node : Nat} {r : Purge} (hr : r ∈ g.purges) (ht : r.tag ≠ tag)
    (ha : r.awaiting ≠ []) : r ∈ (ackPurge g tag node).purges := by
  unfold ackPurge
  refine List.mem_filter.2 ⟨List.mem_map.2 ⟨r, hr, if_neg (by simpa using ht)⟩, by simpa using ha⟩

/-! ## The scrub -/

/-- The flips that a scrub leaves of a list: those of other tables. -/
def otherTables (t : Nat) (d : List Flip) : List Flip := d.filter (fun f => f.place != t)

/-- Whether two flips stand in one word of a table. -/
def damageBad (d : List Flip) (t : Nat) : Bool := d.any (fun f => f.place == t && d.any (fun g => g != f && g.place == t && g.addr == f.addr))

theorem tableBad_eq (s : State) (t : Nat) : tableBad s t = damageBad s.pkg.damage t := rfl

theorem damageBad_otherTables {d : List Flip} {t u : Nat} (h : u ≠ t) : damageBad (otherTables t d) u = damageBad d u := by
  have hp : ∀ f : Flip, (f.place != t && (f.place == u)) = (f.place == u) := fun f => by
    by_cases e : f.place = u <;> simp [e, h]
  unfold damageBad otherTables
  rw [List.any_filter]
  congr 1; funext f
  rw [List.any_filter, ← Bool.and_assoc, hp f]
  congr 2; funext g
  calc (g.place != t && (g != f && g.place == u && g.addr == f.addr))
      = (g != f && (g.place != t && g.place == u) && g.addr == f.addr) := by ac_rfl
    _ = _ := by rw [hp g]

theorem damageBad_otherTables_self (d : List Flip) (t : Nat) : damageBad (otherTables t d) t = false := by
  unfold damageBad otherTables
  rw [List.any_eq_false]
  intro f hf
  have := (List.mem_filter.1 hf).2
  simp_all

/-- The machine with other flips in its tables. -/
def withDamage (s : State) (d : List Flip) : State := modPkg s (fun g => { g with damage := d })

/-- A comparison of sound copies corrects their flips. -/
theorem compared_withDamage {d : List Flip} {t : Nat} (h : damageBad d t = false) :
    compared (withDamage s d) t = withDamage s (otherTables t d) := by
  unfold compared
  split
  · next he =>
    have : d = [] := List.isEmpty_iff.1 he
    rw [this]; rfl
  · exact if_neg (by rw [tableBad_eq]; simpa [withDamage, modPkg] using h)

theorem postNotice_withDamage (d : List Flip) (k tag v : Nat) : postNotice (withDamage s d) k tag v = withDamage (postNotice s k tag v) d := by
  have hr : ringRecords (withDamage s d) = ringRecords s := rfl
  have hd : (withDamage s d).dev = s.dev := rfl
  unfold postNotice
  rw [hr, hd]
  cases ringRecords s with
  | none => rfl
  | some n =>
    dsimp only
    by_cases hn : n ≤ (s.dev.ringTail - s.dev.ringHead).toNat
    · rw [if_pos hn, if_pos hn]; rfl
    · rw [if_neg hn, if_neg hn]; rfl

theorem goFatal_withDamage (d : List Flip) (t : Nat) : goFatal (withDamage s d) t = withDamage (goFatal s t) d := by
  unfold goFatal
  by_cases hf : s.dev.fatal = true
  · rw [if_pos hf]; exact if_pos hf
  · rw [if_neg hf]
    exact (if_neg hf).trans (postNotice_withDamage (s := modDev s (fun d => { d with fatal := true })) d 5 0 t)

/-- One of a table whose copies differ in a word makes the device FATAL, and leaves the flips. -/
theorem compared_withDamage_bad {d : List Flip} {t : Nat} (h : damageBad d t = true) :
    compared (withDamage s d) t = withDamage (goFatal s t) d := by
  unfold compared
  rw [if_neg, if_pos (by rw [tableBad_eq]; exact h), goFatal_withDamage]
  intro he
  have : d = [] := List.isEmpty_iff.1 he
  rw [this] at h
  exact absurd h Bool.false_ne_true

theorem withDamage_self (s : State) : withDamage s s.pkg.damage = s := rfl

theorem exec_scrub : exec .scrub s = .next (compared (compared (compared (compared s 0) 1) 2) 3) := rfl

theorem exec_scrub_clean (h : s.pkg.damage = []) : exec .scrub s = .next s := by
  have hc : ∀ t, compared s t = s := fun t => by rw [compared, h]; rfl
  rw [exec_scrub, hc, hc, hc, hc]

/-- Sound copies of all four tables: every flip is corrected. -/
theorem exec_scrub_sound (h : ∀ t ∈ [0, 1, 2, 3], tableBad s t = false) (hp : ∀ f ∈ s.pkg.damage, f.place < 4) :
    exec .scrub s = .next (withDamage s []) := by
  have h0 := h 0 (by simp)
  have h1 := h 1 (by simp)
  have h2 := h 2 (by simp)
  have h3 := h 3 (by simp)
  rw [tableBad_eq] at h0 h1 h2 h3
  have hn : otherTables 3 (otherTables 2 (otherTables 1 (otherTables 0 s.pkg.damage))) = [] := by
    unfold otherTables
    rw [List.filter_filter, List.filter_filter, List.filter_filter, List.filter_eq_nil_iff]
    intro f hf
    have := hp f hf
    simp
    omega
  have e0 := compared_withDamage (s := s) h0
  rw [withDamage_self] at e0
  rw [exec_scrub, e0, compared_withDamage (by rw [damageBad_otherTables (by decide)]; exact h1),
    compared_withDamage (by rw [damageBad_otherTables (by decide), damageBad_otherTables (by decide)]; exact h2),
    compared_withDamage (by rw [damageBad_otherTables (by decide), damageBad_otherTables (by decide), damageBad_otherTables (by decide)]
                            exact h3), hn]

/-- Comparing tables none of which is the bad one. -/
theorem compared_others {t : Nat} (l : List Nat) (hl : t ∉ l) (d : List Flip) (hd : ∀ u, u < 4 → u ≠ t → damageBad d u = false)
    (h4 : ∀ u ∈ l, u < 4) : ∃ d', l.foldl compared (withDamage s d) = withDamage s d' ∧ damageBad d' t = damageBad d t ∧
      ∀ u, u < 4 → u ≠ t → damageBad d' u = false := by
  induction l generalizing d with
  | nil => exact ⟨d, rfl, rfl, hd⟩
  | cons u l ih =>
    obtain ⟨hu, hl⟩ := not_or.1 (mt List.mem_cons.2 hl)
    have hbad : ∀ v, v < 4 → v ≠ t → damageBad (otherTables u d) v = false := fun v hv hvt => by
      by_cases e : v = u
      · rw [e]; exact damageBad_otherTables_self d u
      · rw [damageBad_otherTables e]; exact hd v hv hvt
    obtain ⟨d', e, ht, ho⟩ := ih hl (otherTables u d) hbad (fun v hv => h4 v (List.mem_cons_of_mem _ hv))
    refine ⟨d', ?_, ht.trans (damageBad_otherTables hu), ho⟩
    rw [List.foldl_cons, compared_withDamage (hd u (h4 u (List.mem_cons_self ..)) (Ne.symm hu)), e]

/-- One bad table: the others are corrected and the device is FATAL once. -/
theorem exec_scrub_bad {t : Nat} (ht : t < 4) (hb : tableBad s t = true) (ho : ∀ u ∈ [0, 1, 2, 3], u ≠ t → tableBad s u = false) :
    ∃ d, exec .scrub s = .next (withDamage (goFatal s t) d) := by
  obtain ⟨l1, l2, hl, h1, h2⟩ : ∃ l1 l2 : List Nat, [0, 1, 2, 3] = l1 ++ t :: l2 ∧ t ∉ l1 ∧ t ∉ l2 := by
    obtain rfl | rfl | rfl | rfl : t = 0 ∨ t = 1 ∨ t = 2 ∨ t = 3 := by omega
    · exact ⟨[], [1, 2, 3], rfl, by decide, by decide⟩
    · exact ⟨[0], [2, 3], rfl, by decide, by decide⟩
    · exact ⟨[0, 1], [3], rfl, by decide, by decide⟩
    · exact ⟨[0, 1, 2], [], rfl, by decide, by decide⟩
  have hm : ∀ u ∈ l1 ++ t :: l2, u < 4 := by rw [← hl]; decide
  have ho' : ∀ u, u < 4 → u ≠ t → damageBad s.pkg.damage u = false := fun u hu => ho u (by simp; omega)
  obtain ⟨d1, e1, b1, o1⟩ := compared_others (s := s) l1 h1 s.pkg.damage ho' (fun u hu => hm u (by simp [hu]))
  obtain ⟨d2, e2, -, -⟩ := compared_others (s := goFatal s t) l2 h2 d1 o1 (fun u hu => hm u (by simp [hu]))
  refine ⟨d2, ?_⟩
  show Host.Outcome.next (([0, 1, 2, 3] : List Nat).foldl compared s) = _
  rw [withDamage_self] at e1
  rw [hl, List.foldl_append, e1, List.foldl_cons, compared_withDamage_bad (b1.trans hb), e2]

theorem postNotice_kept (s : State) (k tag v : Nat) : (postNotice s k tag v).dev.fatal = s.dev.fatal ∧ (postNotice s k tag v).ctxs = s.ctxs ∧
    (postNotice s k tag v).clusters = s.clusters := by
  unfold postNotice
  split
  · exact ⟨rfl, rfl, rfl⟩
  · split <;> exact ⟨rfl, rfl, rfl⟩

/-! ## Invalidations and migrations -/

/-- Whether nothing holds an accepted invalidation back (12 R388). -/
def invalReady (s : State) (n : Nat) : Bool := s.pkg.invals[n]?.any (fun i => !invalHeld s (invalKind i.word.toNat))

theorem exec_invalidation_of {m : Nat} {j : Inval} (hc : choose s ((List.range s.pkg.invals.length).filter (invalReady s)) = some m)
    (hj : s.pkg.invals[m]? = some j) : exec .invalidationPerformed s =
      .next (invalDone (dropMatches (modPkg s (fun g => { g with invals := g.invals.eraseIdx m })) (invalKind j.word.toNat)) j) := by
  have key : ∀ f, (∀ n, f n = invalReady s n) → choose s ((List.range s.pkg.invals.length).filter f) = some m :=
    fun f hf => by rw [funext hf]; exact hc
  show execInvalidationPerformed s = _
  unfold execInvalidationPerformed
  dsimp only
  rw [key]
  · dsimp only
    rw [hj]
  · intro n
    unfold invalReady
    cases s.pkg.invals[n]? <;> rfl

theorem exec_invalidationPerformed {n : Nat} {i : Inval} (hi : s.pkg.invals[n]? = some i) (hh : invalHeld s (invalKind i.word.toNat) = false) :
    ∃ m j, s.pkg.invals[m]? = some j ∧ invalHeld s (invalKind j.word.toNat) = false ∧ (s.which = n → m = n) ∧
      exec .invalidationPerformed s = .next (invalDone (dropMatches (modPkg s (fun g => { g with invals := g.invals.eraseIdx m }))
        (invalKind j.word.toNat)) j) := by
  have hn : n < s.pkg.invals.length := (List.getElem?_eq_some_iff.1 hi).1
  have hmem : n ∈ (List.range s.pkg.invals.length).filter (invalReady s) :=
    List.mem_filter.2 ⟨List.mem_range.2 hn, by rw [invalReady, hi]; simp [hh]⟩
  obtain ⟨m, hm, hc, hw⟩ := choose_some hmem
  obtain ⟨hr, hrdy⟩ := List.mem_filter.1 hm
  obtain ⟨j, hj⟩ : ∃ j, s.pkg.invals[m]? = some j := ⟨_, List.getElem?_eq_getElem (List.mem_range.1 hr)⟩
  rw [invalReady, hj] at hrdy
  exact ⟨m, j, hj, by simpa using hrdy, fun h => by rw [hw (h ▸ hmem), h], exec_invalidation_of hc hj⟩

theorem exec_hmovMigrate {m : Migration} (hm : m ∈ s.pkg.migrations) (hh : migrationHeld s m = false) :
    ∃ k ∈ s.pkg.migrations, exec .hmovMigrate s = .next (finishMigration s k) := by
  obtain ⟨i, hi, hc, -⟩ := choose_some (s := s) (l := (s.pkg.migrations.filter (fun m => !migrationHeld s m)).map (·.idx))
    (List.mem_map_of_mem (List.mem_filter.2 ⟨hm, by simp [hh]⟩))
  obtain ⟨k, hk, rfl⟩ := List.mem_map.1 hi
  obtain ⟨q, hq⟩ : ∃ q, s.pkg.migrations.find? (fun m => m.idx == k.idx) = some q :=
    Option.isSome_iff_exists.1 (List.find?_isSome.2 ⟨k, (List.mem_filter.1 hk).1, by simp⟩)
  refine ⟨q, List.mem_of_find?_eq_some hq, ?_⟩
  show execHmovMigrate s = _
  unfold execHmovMigrate
  rw [hc]
  dsimp only
  rw [hq]

end

/-- Settles O51: purges by their causes, the scrub table by table, and the ends of invalidations and migrations. -/
theorem containmentSteps : Obligations.ContainmentSteps := by
  unfold Obligations.ContainmentSteps
  intro s
  refine ⟨fun tag c h0 h1 => exec_purgeStart h0 h1, fun tag h0 h1 => exec_purgeStart h0 h1 rfl,
    fun p h1 h2 h3 h4 h5 => exec_purgePacketReceive h1 h2 h3 h4 h5, ?_, exec_scrub_clean, exec_scrub_sound, ?_, ?_, ?_, ?_,
    fun n i => exec_invalidationPerformed, fun m => exec_hmovMigrate⟩
  · intro p q hok hk hd hq ht hs
    have htag : BitVec.ofNat 16 p.tag = q.tag := by rw [← ht, BitVec.ofNat_toNat, BitVec.setWidth_eq]
    have hp : (compared s 2).pkg.purges = s.pkg.purges := by
      have e := congrArg Pkg.purges (MemStep.compared s 2).pkg
      exact e
    have hb := compared_bytes s 2
    refine ⟨_, exec_purgeAckReceive hok hk hd hq ht hs, fun r hr hrt => ?_, fun r hr hrt hra => ?_,
      hb .hbm (by decide), hb .mere (by decide), hb .carved (by decide)⟩
    · exact ackPurge_awaiting hr (BitVec.eq_of_toNat_eq (by rw [hrt, htag, ht]))
    · exact ackPurge_other (hp.symm ▸ hr) (fun e => hrt (by rw [e, htag, ht])) hra
  · intro t ht hb ho hf
    obtain ⟨d, he⟩ := exec_scrub_bad ht hb ho
    have hg : goFatal s t = postNotice (modDev s (fun d => { d with fatal := true })) 5 0 t := if_neg (by simp [hf])
    obtain ⟨k1, k2, k3⟩ := postNotice_kept (modDev s (fun d => { d with fatal := true })) 5 0 t
    rw [hg] at he
    exact ⟨_, he, k1, rfl, k2, k3⟩
  · intro cl off b h1 h2 h3
    refine ⟨flipUnit s { place := 0, addr := cl * 2 ^ 22 + off / 8 * 8, bit := off % 8 * 8 + b }, ?_, rfl, rfl, rfl, rfl, rfl⟩
    show execSoftError _ s = _
    unfold execSoftError flipped
    simp [h1, h3, show off < 3145728 from h2]
  · intro t w c b h1 h2 h3 hn
    show execSoftError _ s = _
    have hc : s.pkg.damage.contains { place := t, addr := 2 * w + c, bit := b } = false := by
      rw [List.contains_eq_any_beq, List.any_eq_false]
      intro f hf
      simpa using Ne.symm (hn f hf)
    unfold execSoftError flipped flipMark
    simp only [h1, h2, h3, decide_true, Bool.and_true, if_true]
    unfold modPkg
    dsimp only
    rw [hc]
    rfl
  · intro cl bn i j b h1 h2 h3 h4 h5
    show execSoftError _ s = _
    unfold execSoftError flipped flipBank
    simp only [h1, h2, h3, h4, h5, decide_true, Bool.and_true, if_true]
    rfl

end Sys2Proof.Machine
end

section
/-!
What a purge leaves of the device: its boot, the torus, the clock and the maps of the arrays (12 R419, R420).
-/
namespace Sys2Proof.Machine

/-- A sparse map whose values are mapped. -/
theorem smFind_map {α β : Type} (m : SMap α) (f : α → β) (k : Nat) : smFind (m.map (fun c => (c.1, f c.2))) k = (smFind m k).map f := by
  induction m with
  | nil => rfl
  | cons c m ih =>
    simp only [List.map_cons, smFind]
    split
    · rfl
    · exact ih

/-- t is s after the work of a running part: the device's registers but the notices' and the FATAL state, device time and the row maps
are those of s, and memory stays in canonical form. -/
structure PurgeStep (s t : State) : Prop where
  dev : { t.dev with fatal := s.dev.fatal, droppedN := s.dev.droppedN, ringTail := s.dev.ringTail, msix := s.dev.msix } = s.dev
  devtime : t.pkg.devtime = s.pkg.devtime
  rowMap : ∀ n, (getCl t n).rowMap = (getCl s n).rowMap
  wf : s.mem.wf = true → t.mem.wf = true

theorem MemStep.purgeStep {s t : State} (h : MemStep s t) : PurgeStep s t where
  dev := h.dev
  devtime := by
    have e := congrArg Pkg.devtime h.pkg
    exact e
  rowMap n := by
    have e := congrArg Cluster.rowMap (h.cluster n)
    exact e
  wf := h.wf

namespace PurgeStep
variable {s t u : State}

theorem refl (s : State) : PurgeStep s s := (MemStep.refl s).purgeStep

theorem trans (h1 : PurgeStep s t) (h2 : PurgeStep t u) : PurgeStep s u where
  dev := by
    have e1 := h1.dev
    have e2 := h2.dev
    calc ({ u.dev with fatal := s.dev.fatal, droppedN := s.dev.droppedN, ringTail := s.dev.ringTail, msix := s.dev.msix } : Dev)
        = { ({ u.dev with fatal := t.dev.fatal, droppedN := t.dev.droppedN, ringTail := t.dev.ringTail, msix := t.dev.msix } : Dev) with
              fatal := s.dev.fatal, droppedN := s.dev.droppedN, ringTail := s.dev.ringTail, msix := s.dev.msix } := rfl
      _ = { t.dev with fatal := s.dev.fatal, droppedN := s.dev.droppedN, ringTail := s.dev.ringTail, msix := s.dev.msix } := by rw [e2]
      _ = s.dev := e1
  devtime := h2.devtime.trans h1.devtime
  rowMap n := (h2.rowMap n).trans (h1.rowMap n)
  wf h := h2.wf (h1.wf h)

theorem foldl {α : Type} (f : State → α → State) (hf : ∀ t a, PurgeStep t (f t a)) (l : List α) (s : State) :
    PurgeStep s (l.foldl f s) :=
  foldl_keeps (fun t => PurgeStep s t) f (fun t a h => h.trans (hf t a)) l s (.refl s)

/-! ### The elementary steps -/

theorem modNet (s : State) (f : Net → Net) : PurgeStep s (modNet s f) := ⟨rfl, rfl, fun _ => rfl, id⟩
theorem modSpring (s : State) (f : Spring → Spring) : PurgeStep s (modSpring s f) := ⟨rfl, rfl, fun _ => rfl, id⟩
theorem modPkg (s : State) (f : Pkg → Pkg) (h : (f s.pkg).devtime = s.pkg.devtime) : PurgeStep s (modPkg s f) :=
  ⟨rfl, h, fun _ => rfl, id⟩

/-- An update of every cluster that leaves the row maps. -/
theorem mapClusters (s : State) (f : Cluster → Cluster) (h : ∀ x, (f x).rowMap = x.rowMap) :
    PurgeStep s { s with clusters := s.clusters.map (fun c => (c.1, f c.2)) } := by
  refine ⟨rfl, rfl, fun n => ?_, id⟩
  show (smGet (s.clusters.map (fun c => (c.1, f c.2))) n Cluster.atReset).rowMap = _
  rw [smGet, smFind_map]
  cases e : smFind s.clusters n with
  | none => rw [getCl, smGet, e]; rfl
  | some x => rw [getCl, smGet, e]; exact h x

theorem modCl (s : State) (n : Nat) (f : Cluster → Cluster) (h : (f (getCl s n)).rowMap = (getCl s n).rowMap) :
    PurgeStep s (modCl s n f) := by
  refine ⟨rfl, rfl, fun k => ?_, id⟩
  rw [getCl_modCl]
  split
  · next e => rw [e]; exact h
  · rfl

theorem modCore (s : State) (cl core : Nat) (f : Core → Core) : PurgeStep s (modCore s cl core f) :=
  modCl s cl (fun x => { x with cores := smPut x.cores core (f (getCore s cl core)) }) rfl

theorem putOwner (s : State) (x : Ctx) : PurgeStep s (putOwner s x) := by
  unfold Machine.putOwner
  split <;> exact ⟨rfl, rfl, fun _ => rfl, id⟩

theorem hostUpTo (s : State) (sel : Posted → Bool) : PurgeStep s (hostUpTo s sel) :=
  (modNet s _).trans (foldl hostTake (fun t w => ⟨rfl, rfl, fun _ => rfl, hostTake_wf t w⟩) _ _)

theorem hostSettled (s : State) (who : Option (CtxId × Nat)) (p : Place) (n : Nat) : PurgeStep s (hostSettled s who p n) := by
  unfold Machine.hostSettled
  split
  · exact hostUpTo s _
  · exact .refl s

theorem writePlace (s : State) (p : Place) (bs : List Byte) : PurgeStep s (writePlace s p bs) := (MemStep.writePlace s p bs).purgeStep
theorem postNotice (s : State) (k tag d : Nat) : PurgeStep s (postNotice s k tag d) := (MemStep.postNotice s k tag d).purgeStep
theorem compared (s : State) (t : Nat) : PurgeStep s (compared s t) := (MemStep.compared s t).purgeStep
theorem setRes (s : State) (i r : Nat) : PurgeStep s (setRes s i r) := writePlace s _ _
theorem setCtl (s : State) (e b : Nat) (v : Bool) : PurgeStep s (setCtl s e b v) := writePlace s _ _

/-! ### Writes at their home -/

theorem keepRes (old s : State) (i : Nat) : PurgeStep s (keepRes old s i) := by
  unfold Machine.keepRes
  dsimp only
  split
  · exact (setRes s i _).trans (modPkg _ _ rfl)
  · exact setRes s i _

theorem becomesDisarmed (s : State) (e : Nat) : PurgeStep s (becomesDisarmed s e) := (setCtl s e 2 false).trans (modSpring _ _)
theorem becomesArmed (s : State) (e : Nat) : PurgeStep s (becomesArmed s e) := writePlace s _ _

theorem keepCtl (old s : State) (e : Nat) : PurgeStep s (keepCtl old s e) := by
  unfold Machine.keepCtl
  dsimp only
  have h := (setCtl s e 1 (bit (launchWord old e 0) 1)).trans (setCtl _ e 2 (bit (launchWord old e 0) 2))
  split
  · exact h.trans (becomesDisarmed _ e)
  · split
    · exact h
    · exact h.trans (becomesArmed _ e)

theorem homeWrite (s : State) (p : Place) (bs : List Byte) : PurgeStep s (homeWrite s p bs) := by
  unfold Machine.homeWrite
  dsimp only
  exact (hostSettled s none p bs.length).trans ((writePlace _ p bs).trans ((foldl _ (fun t i => keepRes _ t i) _ _).trans
    (foldl _ (fun t e => keepCtl _ t e) _ _)))

/-! ### The parts of a purge -/

theorem drainWrites (s : State) (ws : List (Nat × List Byte)) : PurgeStep s (drainWrites s ws) :=
  foldl _ (fun t _ => homeWrite t _ _) ws s

theorem bufferHome (s : State) (b : Buffered) : PurgeStep s (bufferHome s b) := by
  unfold Machine.bufferHome
  dsimp only
  split
  · exact drainWrites s _
  · exact (drainWrites s _).trans (putOwner _ _)

theorem drainAccepted (s : State) (x : Ctx) : PurgeStep s (drainAccepted s x) := foldl _ bufferHome _ s

theorem phDropAll (s : State) (c : CtxId) (iter : Nat) (later : Nat → Bool) : PurgeStep s (phDropAll s c iter later) := modPkg s _ rfl

theorem purgeContexts (s : State) (t : Target) : PurgeStep s (purgeContexts s t) :=
  (foldl _ (fun u x => (drainAccepted u x).trans (phDropAll _ _ _ _)) _ s).trans ⟨rfl, rfl, fun _ => rfl, id⟩

theorem refOut (s : State) (r : CmdRef) : PurgeStep s (refOut s r) := by
  unfold Machine.refOut
  split
  · exact .refl s
  · split
    · exact .refl s
    · exact putOwner s _

theorem endFlush (cl core : Nat) (s : State) (f : Flush) : PurgeStep s (endFlush cl core s f) :=
  (modCore s cl core _).trans (foldl _ refOut _ _)

theorem endFlushes (s : State) : PurgeStep s (endFlushes s) :=
  foldl _ (fun _ _ => foldl _ (fun _ _ => foldl _ (fun u f => endFlush _ _ u f) _ _) _ _) _ s

theorem freeIter (s : State) (i : Nat) : PurgeStep s (freeIter s i) := mapClusters s (freeIterCl i) (fun _ => rfl)

/-- The frames of a purged iteration leave the phasers. -/
theorem dropFrames (u : State) (i : Iter) :
    PurgeStep u (i.frames.foldl (fun w x => Machine.phDropAll w x.id x.env.iter (fun _ => false)) (Machine.freeIter u i.uid)) :=
  (freeIter u i.uid).trans (foldl _ (fun w _ => phDropAll w _ _ _) _ _)

theorem purgeIters (s : State) (t : Target) : PurgeStep s (purgeIters s t) := by
  unfold Machine.purgeIters
  dsimp only
  exact (foldl _ dropFrames _ s).trans ((modSpring _ _).trans (endFlushes _))

theorem sharedRead (s : State) (asn root va n : Nat) : PurgeStep s (sharedRead s asn root va n).1 := by
  induction n generalizing s va with
  | zero => exact .refl s
  | succ n ih =>
    have ht := (MemStep.translateShared s asn root va { accRead with frozen := false }).purgeStep
    unfold Machine.sharedRead
    split
    · next s1 b e => rw [e] at ht; exact ht
    · next s1 p e =>
      rw [e] at ht
      have hp := ht.trans (MemStep.probeRange s1 p 8).purgeStep
      dsimp only
      split
      · next u _ => exact hp.trans (MemStep.makeRecord (Machine.probeRange s1 p 8) p.space u).purgeStep
      · have hr := ih (Machine.probeRange s1 p 8) (va + 8)
        split
        · next s3 e3 => rw [e3] at hr; exact hp.trans hr
        · next s3 bs e3 => rw [e3] at hr; exact hp.trans hr

theorem sharedWrite (s : State) (asn root va w : Nat) : PurgeStep s (sharedWrite s asn root va w) := by
  have ht := (MemStep.translateShared s asn root va { accWrite with frozen := false }).purgeStep
  unfold Machine.sharedWrite
  split
  · next s1 b e => rw [e] at ht; exact ht
  · next s1 p e => rw [e] at ht; exact ht.trans (writePlace s1 p _)

theorem setJcbState (s : State) (i : Inst) (jcb st : Nat) : PurgeStep s (setJcbState s i jcb st) := by
  have hr := sharedRead s (instAsn i) (instRoot i) (jcb + 16) 1
  unfold Machine.setJcbState
  split
  · next s1 bs e => rw [e] at hr; exact hr.trans (sharedWrite s1 _ _ _ _)
  · next s1 e => rw [e] at hr; exact hr

theorem purgeTasks (s : State) (i : Inst) (sel : Task → Bool) : PurgeStep s (purgeTasks s i sel) := by
  refine foldl _ (fun t k => ?_) _ s
  split
  · exact (setJcbState t i _ _).trans (postNotice _ _ _ _)
  · exact .refl t

theorem purgeInst (g : BitVec 16) (s : State) (i : Inst) : PurgeStep s (purgeInst g s i) := by
  unfold Machine.purgeInst
  split
  · exact (purgeTasks s i _).trans ((setCtl _ _ _ _).trans (modSpring _ _))
  · split
    · exact (purgeTasks s i _).trans (modSpring _ _)
    · exact .refl s

theorem probeEntry (s : State) (i : Nat) : PurgeStep s (probeEntry s i) := by
  have hp := (MemStep.probeRange s (entryPlace s i) 128).purgeStep
  unfold Machine.probeEntry
  dsimp only
  split
  · exact hp.trans (MemStep.makeRecord _ _ _).purgeStep
  · exact hp

theorem probeTable (s : State) : PurgeStep s (probeTable s) := by
  unfold Machine.probeTable
  split
  · exact .refl s
  · exact foldl _ probeEntry _ s

theorem giveUpMigration (s : State) (m : Migration) (f : Ctx → MemOp → Ctx) : PurgeStep s (giveUpMigration s m f) := by
  have h := (setRes s m.idx m.prev).trans ((writePlace _ (tablePlace (Machine.setRes s m.idx m.prev).pkg.hBase (128 * m.idx + 0x20))
    (natLe 16 0)).trans (modPkg _ (fun g => { g with migrations := g.migrations.filter (fun n => n.idx != m.idx),
                                                      frozen := g.frozen.filter (fun n => n != m.idx) }) rfl))
  unfold Machine.giveUpMigration
  dsimp only
  split
  · exact h
  · split
    · exact h
    · exact h.trans (putOwner _ _)

theorem purgeHandles (s : State) (g : BitVec 16) : PurgeStep s (purgeHandles s g) := by
  refine (probeTable s).trans (foldl _ (fun u i => ?_) _ _)
  dsimp only
  split
  · split
    · exact setRes u i 1
    · split
      · exact giveUpMigration u _ _
      · exact .refl u
  · exact .refl u

theorem purgeLog (s : State) (g : BitVec 16) : PurgeStep s (purgeLog s g) := by
  refine foldl _ (fun u e => ?_) _ s
  dsimp only
  split
  · exact (writePlace u _ _).trans (modNet _ _)
  · exact .refl u

theorem purgeLocal (s : State) (t : Target) : PurgeStep s (purgeLocal s t) := by
  have h := (mapClusters s (purgeCluster t) (fun _ => rfl)).trans ((purgeContexts _ t).trans (purgeIters _ t))
  unfold Machine.purgeLocal
  dsimp only
  split
  · exact h.trans (modNet _ _)
  · exact h.trans ((modNet _ _).trans ((foldl _ (fun u i => purgeInst _ u i) _ _).trans ((purgeHandles _ _).trans (purgeLog _ _))))

/-- PURGE_START of a tag. -/
theorem startPurge (s : State) (tag : BitVec 16) (cause : Nat) : PurgeStep s (startPurge s tag cause) := by
  have h1 := (compared s 2).trans (purgeLocal _ (.tag tag))
  unfold Machine.startPurge
  dsimp only
  have h2 := fun l => h1.trans (modNet _ (fun n => { n with out := n.out ++ l }))
  split
  · refine .trans ?_ (postNotice _ _ _ _)
    split
    · exact (h2 _).trans (modPkg _ _ rfl)
    · split
      · exact h2 _
      · exact (h2 _).trans (modPkg _ _ rfl)
  · refine .trans ?_ (postNotice _ _ _ _)
    refine .trans ?_ (postNotice _ _ _ _)
    split
    · exact (h2 _).trans (modPkg _ _ rfl)
    · split
      · exact h2 _
      · exact (h2 _).trans (modPkg _ _ rfl)

theorem purgeWork (s : State) (tag : BitVec 16) (iter cause : Nat) : PurgeStep s (purgeWork s tag iter cause) := by
  unfold Machine.purgeWork
  split
  · exact (purgeLocal s _).trans (postNotice _ _ _ _)
  · exact startPurge s tag cause

/-- The iterations of a launch without a tag are purged by themselves. -/
theorem purgeUntagged (u : State) (k : Iter) : PurgeStep u (if k.tag = 0 then Machine.purgeWork u 0 k.uid 7 else u) := by
  split
  · exact purgeWork u _ _ _
  · exact .refl u

/-- An active launch is ended by a function-level reset. -/
theorem hostEnd (s : State) (i : Inst) : PurgeStep s (hostEnd s i) := by
  have h := fun l m => (foldl _ purgeUntagged l s).trans (foldl (fun u t => Machine.startPurge u t 7) (fun u t => startPurge u t 7) m _)
  unfold Machine.hostEnd
  dsimp only
  split
  · exact (h _ _).trans ((purgeTasks _ _ _).trans ((setCtl _ _ _ _).trans (modSpring _ _)))
  · exact (h _ _).trans (modSpring _ _)

end PurgeStep
end Sys2Proof.Machine
end

section
/-!
Power, heat and resets (13 R450; 17 R476, R477, R491, R495 to R500).
-/
namespace Sys2Proof.Machine

section
variable {s : State}

/-! ## Droop, HOLD and throttling -/

theorem exec_droopAlarm {r : Nat} (hr : r < 8) (h : smFind s.dev.alarms r = none) : exec (.droopAlarm r) s = .next (modDev s (fun d =>
    { d with alarms := smPut d.alarms r s.cyc, freezeUntil := smSet d.freezeUntil r (s.cyc + 8) 0 })) := by
  show execDroopAlarm r s = _
  unfold execDroopAlarm
  rw [h, if_neg (by simp; omega)]

theorem exec_droopAlarmCleared {r a : Nat} (h : smFind s.dev.alarms r = some a) :
    exec (.droopAlarmCleared r) s = .next (modDev s (fun d => { d with alarms := smDel d.alarms r, okSince := s.cyc })) := by
  show execDroopAlarmCleared r s = _
  unfold execDroopAlarmCleared
  rw [h]
  rfl

theorem exec_holdEnter {a : Nat × Nat} (ha : a ∈ s.dev.alarms) (hc : a.2 + 120000 ≤ s.cyc) (hh : s.dev.hold = false) :
    exec .holdEnter s = .next (postNotice (modDev s (fun d => { d with hold := true, holdSince := s.cyc })) 11 0 0) := by
  show execHoldEnter s = _
  unfold execHoldEnter
  have hany : s.dev.alarms.any (fun a => decide (a.2 + holdAfter ≤ s.cyc)) = true :=
    List.any_eq_true.2 ⟨a, ha, decide_eq_true hc⟩
  rw [hany, hh]
  rfl

theorem exec_holdExit (hh : s.dev.hold = true) (ha : s.dev.alarms = []) (ho : s.dev.okSince + 24000 ≤ s.cyc) :
    exec .holdExit s = .next (postNotice (idleLinks (modDev s (fun d => { d with hold := false })) (s.cyc - s.dev.holdSince)) 12 0
      ((s.cyc - s.dev.holdSince) * 5 / 6)) := by
  show execHoldExit s = _
  unfold execHoldExit
  rw [hh, ha, decide_eq_true (show s.dev.okSince + holdSettle ≤ s.cyc from ho)]
  rfl

theorem getLink_setHealth (t : State) (l k : Nat) (h : LinkHealth) :
    getLink (setHealth t l h) k = if k = l then { health := h, since := t.cyc } else getLink t k :=
  smGet_put t.net.links l k _ _

/-- Links of a list that begin to retrain. -/
theorem getLink_retrain (L : List Nat) (t : State) (k : Nat) :
    getLink (L.foldl (fun t l => setHealth t l .retraining) t) k =
      if k ∈ L then { health := .retraining, since := t.cyc } else getLink t k := by
  induction L generalizing t with
  | nil => simp
  | cons l L ih =>
    have hc : (setHealth t l .retraining).cyc = t.cyc := rfl
    rw [List.foldl_cons, ih, getLink_setHealth, hc]
    by_cases h1 : k ∈ L
    · simp [h1]
    · by_cases h2 : k = l
      · simp [h2]
      · simp [h1, h2]

/-- The links of the torus that have been idle for more than 2 ms retrain (17 R498). -/
theorem getLink_idleLinks (n : Nat) {l : Nat} (hl : l < 6) : getLink (idleLinks s n) l =
    if 2400000 < n ∧ s.pkg.units.getLsbD l = true ∧ (getLink s l).health = .up
      then { health := .retraining, since := s.cyc } else getLink s l := by
  unfold idleLinks
  split
  · next h => rw [if_neg (fun hc => absurd hc.1 (Nat.not_lt.2 h))]
  · next h =>
    have hn : 2400000 < n := Nat.lt_of_not_le h
    rw [getLink_retrain]
    simp only [List.mem_filter, List.mem_range, hl, hn, Bool.and_eq_true, beq_iff_eq, true_and]

theorem exec_supplyRetentionLoss (h : s.dev.hold = true) : exec .supplyRetentionLoss s = .next (powerLost s) := by
  show execSupplyRetentionLoss s = _
  rw [execSupplyRetentionLoss, if_pos h]

theorem exec_throttleEnter (h : s.dev.throttle = false) :
    exec .throttleEnter s = .next (modDev s (fun d => { d with throttle := true })) := by
  show execThrottleEnter s = _
  rw [execThrottleEnter, h]
  rfl

theorem exec_throttleExit (h : s.dev.throttle = true) :
    exec .throttleExit s = .next (modDev s (fun d => { d with throttle := false })) := by
  show execThrottleExit s = _
  rw [execThrottleExit, if_pos h]

/-! ## Power loss and warm resets -/

/-- With nothing posted the host takes nothing. -/
theorem hostUpTo_none (sel : Posted → Bool) (h : s.net.hostq = []) : hostUpTo s sel = s := by
  unfold hostUpTo
  rw [h]
  rfl

/-- What the host takes changes its own memory alone. -/
theorem hostUpTo_kept (sel : Posted → Bool) : (hostUpTo s sel).dev = s.dev ∧ (hostUpTo s sel).pkg = s.pkg ∧
    (hostUpTo s sel).cyc = s.cyc ∧ { (hostUpTo s sel).mem with host := s.mem.host } = s.mem :=
  foldl_keeps (fun t : State => t.dev = s.dev ∧ t.pkg = s.pkg ∧ t.cyc = s.cyc ∧ { t.mem with host := s.mem.host } = s.mem)
    hostTake (fun _ _ h => h) _ _ ⟨rfl, rfl, rfl, rfl⟩

theorem flashCut_idle (h : s.dev.flashBusy = none) : flashCut s = s := by rw [flashCut, h]

theorem flashCut_mem (s : State) : (flashCut s).mem = s.mem := by
  unfold flashCut
  split <;> rfl

/-- The host's memory after a power loss, where nothing was posted. -/
theorem powerLost_host (h : s.net.hostq = []) : (powerLost s).mem.host = s.mem.host := by
  show (flashCut (hostUpTo s (fun _ => true))).mem.host = _
  rw [flashCut_mem, hostUpTo_none _ h]

/-- The boot flash after one, where no operation on it went on. -/
theorem powerLost_flash (h : s.dev.flashBusy = none) : (powerLost s).dev.flash = s.dev.flash := by
  show (flashCut (hostUpTo s (fun _ => true))).dev.flash = _
  have hd := (hostUpTo_kept (s := s) (fun _ => true)).1
  rw [flashCut_idle (by rw [hd]; exact h), hd]

theorem loseLines_pkg (s : State) : (loseLines s).pkg = s.pkg := by
  unfold loseLines
  refine foldl_keeps (fun t : State => t.pkg = s.pkg) _ (fun t l h => ?_) _ _ rfl
  exact h

/-- No line of Tarn is ahead of HBM4. -/
theorem loseLines_clean (h : s.mem.dirty = []) : loseLines s = s := by
  unfold loseLines
  rw [h, List.filter_eq_nil_iff.2 (by simp)]
  rfl

theorem flashDone_kept (s : State) : (flashDone s).pkg = s.pkg ∧ (flashDone s).mem = s.mem := by
  unfold flashDone
  split <;> exact ⟨rfl, rfl⟩

/-- Device time across a warm reset. -/
theorem warm_devtime (s : State) : (warm s).pkg.devtime = s.pkg.devtime := by
  show (flashDone (loseLines (hostUpTo s (fun _ => true)))).pkg.devtime = _
  rw [(flashDone_kept _).1, loseLines_pkg, (hostUpTo_kept _).2.1]

/-- HBM4 across one. -/
theorem warm_hbm (h : s.mem.dirty = []) : (warm s).mem.hbm = s.mem.hbm := by
  have hm := (hostUpTo_kept (s := s) (fun _ => true)).2.2.2
  have hd : (hostUpTo s (fun _ => true)).mem.dirty = s.mem.dirty := by
    have e := congrArg Mem.dirty hm
    exact e
  have hh : (hostUpTo s (fun _ => true)).mem.hbm = s.mem.hbm := by
    have e := congrArg Mem.hbm hm
    exact e
  show (flashDone (loseLines (hostUpTo s (fun _ => true)))).mem.hbm = _
  rw [(flashDone_kept _).2, loseLines_clean (hd.trans h), hh]

/-! ## The boot ROM -/

theorem boot_romUntil (s : State) (cold : Bool) : s.cyc < (boot s cold).dev.romUntil := by
  show s.cyc < s.cyc + 1 + Config.romTime s.draws % romBound
  omega

/-- The part as the boot ROM's steps find it, with the digests measured. -/
def measured (s : State) : State :=
  { measure { s with draws := s.draws + 1 } (Config.flashAnswers s.draws) with draws := s.draws + 4 }

/-- Measuring changes the digests alone. -/
theorem measured_dev (s : State) : { (measured s).dev with
    cfgDigest := s.dev.cfgDigest, imageDigest := s.dev.imageDigest, mapsDigest := s.dev.mapsDigest } = s.dev := by
  unfold measured measure modDev
  dsimp only
  split <;> rfl

theorem measured_flash (s : State) : (measured s).dev.flash = s.dev.flash := by
  have e := congrArg Dev.flash (measured_dev s)
  exact e

/-- What the boot ROM reads of flash. -/
theorem flashGet_congr {t u : State} (h : t.dev.flash = u.dev.flash) (a n : Nat) : flashGet t a n = flashGet u a n := by
  rw [flashGet, flashGet, h]

theorem configBlock_congr {t u : State} (h : t.dev.flash = u.dev.flash) : configBlock t = configBlock u := flashGet_congr h _ _

/-- A machine at reset with a boot flash: what is read of flash alone reads the same there. -/
def flashed (fl : List Host.Cell) : State := modDev State.reset (fun d => { d with flash := fl })

theorem imageOk_congr {t u : State} (h : t.dev.flash = u.dev.flash) (cfg : List Byte) : imageOk t cfg = imageOk u cfg :=
  calc imageOk t cfg = imageOk (flashed t.dev.flash) cfg := rfl
    _ = imageOk (flashed u.dev.flash) cfg := by rw [h]

theorem configOk_congr {t u : State} (hf : t.dev.form = u.dev.form) (hp : t.dev.part = u.dev.part) (cfg : List Byte) :
    configOk t cfg = configOk u cfg := by
  rw [configOk, configOk, hf, hp]

theorem statusWord_congr {t u : State} (h : t.dev.flash = u.dev.flash) (o : Nat) : statusWord t o = statusWord u o :=
  calc statusWord t o = statusWord (flashed t.dev.flash) o := rfl
    _ = statusWord (flashed u.dev.flash) o := by rw [h]

/-- Steps 1 to 3 of the boot, as a machine finds them (17 R482, R491). -/
theorem bootFailure_measured (s : State) (reads : Bool) : bootFailure (measured s) reads = bootFailure s reads := by
  have hd := measured_dev s
  have hf : (measured s).dev.form = s.dev.form := by
    have e := congrArg Dev.form hd
    exact e
  have hp : (measured s).dev.part = s.dev.part := by
    have e := congrArg Dev.part hd
    exact e
  rw [bootFailure, configBlock_congr (measured_flash s), configOk_congr hf hp, imageOk_congr (measured_flash s)]
  rfl

/-- The part with its configuration and its maps loaded (17 R491 steps 2 and 4). -/
def configured (s : State) : State := loadMaps (takeConfig (measured s) (configBlock (measured s)))

theorem romSteps_fails {from_ code : Nat} (h : bootFailure s (Config.flashAnswers s.draws) = some code) :
    romSteps s from_ = bootFails (measured s) code := by
  rw [← bootFailure_measured] at h
  unfold romSteps
  dsimp only
  split
  · next code' e =>
    rw [Option.some.inj (e.symm.trans h)]
    rfl
  · next e => exact absurd (e.symm.trans h) (by simp)

theorem romSteps_boots {from_ : Nat} (h : bootFailure s (Config.flashAnswers s.draws) = none) :
    romSteps s from_ = if testAsked (configured s) then romStage (configured s) 2 from_ else bootEnds (configured s) := by
  rw [← bootFailure_measured] at h
  unfold romSteps
  dsimp only
  split
  · next code e => exact absurd (e.symm.trans h) (by simp)
  · rfl

theorem testAsked_configured (s : State) : testAsked (configured s) = (s.dev.bootCold && statusWord s 0x10 % 4 != 0) := by
  have hb : (configured s).dev.bootCold = s.dev.bootCold := by
    have e := congrArg Dev.bootCold (measured_dev s)
    exact e
  rw [testAsked, hb, statusWord_congr (t := configured s) (u := s) (measured_flash s)]

/-- The code that a boot shows after steps 1 to 3, or 0 where they pass. -/
theorem bootFailure_eq (s : State) (reads : Bool) : bootFailure s reads =
    if reads = false then some 5
    else if configSigned (configBlock s) = false then some 3
    else if configOk s (configBlock s) = false then some 4
    else if imageOk s (configBlock s) = false then some 3
    else none := by
  unfold bootFailure
  simp only [Bool.not_eq_true']

theorem bootEnds_boot (s : State) : (bootEnds s).dev.boot = 0 ∧ (bootEnds s).dev.st = false := ⟨rfl, rfl⟩

/-- The stages of a boot after steps 1 to 3: its code, and whether the self-test runs. -/
theorem romSteps_boot (s : State) (from_ : Nat) : (romSteps s from_).dev.boot =
      (if Config.flashAnswers s.draws = false then 5
      else if configSigned (configBlock s) = false then 3
      else if configOk s (configBlock s) = false then 4
      else if imageOk s (configBlock s) = false then 3
      else if s.dev.bootCold = true ∧ statusWord s 0x10 % 4 ≠ 0 then 2
      else 0) ∧
    (romSteps s from_).dev.st = (if (romSteps s from_).dev.boot = 2 then true else if (romSteps s from_).dev.boot = 0 then false
      else s.dev.st) := by
  have hst : (measured s).dev.st = s.dev.st := by
    have e := congrArg Dev.st (measured_dev s)
    exact e
  have hfail : ∀ code : Nat, code = 3 ∨ code = 4 ∨ code = 5 → bootFailure s (Config.flashAnswers s.draws) = some code →
      (romSteps s from_).dev.boot = BitVec.ofNat 8 code ∧ (romSteps s from_).dev.st =
        (if (romSteps s from_).dev.boot = 2 then true else if (romSteps s from_).dev.boot = 0 then false else s.dev.st) := by
    intro code hc h
    have hb : (bootFails (measured s) code).dev.boot = BitVec.ofNat 8 code := rfl
    rw [romSteps_fails h, hb]
    refine ⟨rfl, ?_⟩
    obtain rfl | rfl | rfl := hc <;> exact hst
  have he := bootFailure_eq s (Config.flashAnswers s.draws)
  by_cases h1 : Config.flashAnswers s.draws = false
  · rw [if_pos h1] at he ⊢
    exact hfail 5 (by simp) he
  · rw [if_neg h1] at he ⊢
    by_cases h2 : configSigned (configBlock s) = false
    · rw [if_pos h2] at he ⊢
      exact hfail 3 (by simp) he
    · rw [if_neg h2] at he ⊢
      by_cases h3 : configOk s (configBlock s) = false
      · rw [if_pos h3] at he ⊢
        exact hfail 4 (by simp) he
      · rw [if_neg h3] at he ⊢
        by_cases h4 : imageOk s (configBlock s) = false
        · rw [if_pos h4] at he ⊢
          exact hfail 3 (by simp) he
        · rw [if_neg h4] at he ⊢
          rw [romSteps_boots he, testAsked_configured]
          by_cases h5 : s.dev.bootCold = true ∧ statusWord s 0x10 % 4 ≠ 0
          · rw [if_pos h5, if_pos (by simpa using h5)]
            exact ⟨rfl, rfl⟩
          · rw [if_neg h5, if_neg (by simpa using h5)]
            exact ⟨rfl, rfl⟩

theorem romGo_steps (h1 : s.dev.boot = 1) (h : s.dev.romUntil ≤ s.cyc) : romGo s = romSteps s s.dev.romUntil := by
  rw [romGo, if_pos h, if_pos h1]

theorem romGo_test (h2 : s.dev.boot = 2) (h : s.dev.romUntil ≤ s.cyc) : romGo s = bootEnds (selfTestRun s) := by
  rw [romGo, if_pos h, if_neg (by rw [h2]; decide), if_pos h2]

/-! ## A function-level reset -/

/-- The part with its launches ended, the host's registers not yet reset (17 R500). -/
def launchesEnded (s : State) : State := modSpring (s.spring.insts.foldl hostEnd s) (fun p => { p with deferred := [] })

theorem launchesEnded_step (s : State) : PurgeStep s (launchesEnded s) := (PurgeStep.foldl _ PurgeStep.hostEnd _ s).trans (.modSpring _ _)

theorem launchesEnded_none (h : s.spring.insts = []) : launchesEnded s = modSpring s (fun p => { p with deferred := [] }) := by
  rw [launchesEnded, h]
  rfl

theorem exec_functionLevelReset (h : s.dev.fatal = false) : exec .functionLevelReset s =
    .next (modDev (launchesEnded s) (fun d => { d with
      expanded := false, launched := false, qpBase := 0, mrBase := 0, bar2 := 0, flashWin := 0, ringBase := 0, ringSize := 0,
      ringHead := 0, ringTail := 0, droppedN := 0, msix := 0, nonce := [], attNonce := [], attBusy := false, attReport := [] })) := by
  show Host.Outcome.next (functionReset s) = _
  rw [functionReset, if_neg (by simp [h])]
  rfl

end

/-- Settles O52: the events of power and heat, the boot's stages, and what each reset keeps. -/
theorem powerAndResetSteps : Obligations.PowerAndResetSteps := by
  unfold Obligations.PowerAndResetSteps
  intro s
  refine ⟨fun r => exec_droopAlarm, fun r a => exec_droopAlarmCleared, fun a => exec_holdEnter, ?_, exec_supplyRetentionLoss, rfl,
    ⟨rfl, rfl, rfl, rfl, rfl, powerLost_host, powerLost_flash⟩, exec_throttleEnter, exec_throttleExit, rfl, ?_, ?_, ?_,
    ⟨_, rfl, rfl, rfl, warm_devtime s, rfl, rfl, rfl, rfl, rfl, warm_hbm⟩, ?_, ?_, ?_, ?_⟩
  · intro hh ha ho n idle
    exact ⟨exec_holdExit hh ha ho, fun l => getLink_idleLinks n⟩
  · intro cold t
    exact ⟨rfl, rfl, rfl, boot_romUntil s cold, rfl, rfl, rfl⟩
  · intro h1 h t cfg
    have e : t = romSteps s s.dev.romUntil := romGo_steps h1 h
    rw [e]
    exact romSteps_boot s _
  · intro h2 h
    rw [romGo_test h2 h]
    exact ⟨rfl, rfl, rfl⟩
  · intro h
    show Host.Outcome.next (functionReset s) = _
    rw [functionReset, if_pos h]
  · intro h
    have hk := launchesEnded_step s
    refine ⟨_, exec_functionLevelReset h, rfl, rfl, rfl, rfl, rfl, rfl, rfl, rfl, rfl, rfl, rfl, rfl, rfl, rfl, rfl, ?_, ?_, ?_, ?_,
      ?_, ?_, ?_, ?_, hk.devtime, hk.rowMap, fun hi => ?_⟩
    · have e := congrArg Dev.tx hk.dev
      exact e
    · have e := congrArg Dev.ty hk.dev
      exact e
    · have e := congrArg Dev.tz hk.dev
      exact e
    · have e := congrArg Dev.txn hk.dev
      exact e
    · have e := congrArg Dev.tyn hk.dev
      exact e
    · have e := congrArg Dev.tzn hk.dev
      exact e
    · have e := congrArg Dev.flash hk.dev
      exact e
    · have e := congrArg Dev.boot hk.dev
      exact e
    · rw [launchesEnded_none hi]
      exact ⟨rfl, rfl, rfl, rfl⟩
  · intro v n
    show execResetreqWrite v n s = _
    unfold execResetreqWrite
    by_cases hc : n = 8 ∧ v = 0x5EED
    · rw [if_pos (by simpa using hc), if_pos hc]
    · rw [if_neg (by simpa using hc), if_neg hc]
  · intro v
    show execSmbusWarmReset v s = _
    unfold execSmbusWarmReset
    by_cases hc : v = 0x5EED
    · rw [if_pos (by simpa using hc), if_pos hc]
    · rw [if_neg (by simpa using hc), if_neg hc]

end Sys2Proof.Machine
end

section
/-!
The cycles that pass before a step (log 2): what the clocks, the links, the waits and the posted writes change.
-/
namespace Sys2Proof.Machine

/-- t is s after steps that time alone takes: the clocks, the launches, the bytes of the part's memories and what the clusters' arrays
and granules hold are those of s, and memory stays in canonical form. -/
structure TimeStep (s t : State) : Prop where
  cyc : t.cyc = s.cyc
  ran : t.ran = s.ran
  insts : t.spring.insts = s.spring.insts
  devtime : t.pkg.devtime = s.pkg.devtime
  bytes : SameBytes s t
  cluster : ∀ n, (getCl t n).banks = (getCl s n).banks ∧ (getCl t n).grans = (getCl s n).grans ∧ (getCl t n).rowMap = (getCl s n).rowMap
  wf : s.mem.wf = true → t.mem.wf = true

namespace TimeStep
variable {s t u : State}

theorem refl (s : State) : TimeStep s s := ⟨rfl, rfl, rfl, rfl, .refl s, fun _ => ⟨rfl, rfl, rfl⟩, id⟩

theorem trans (h1 : TimeStep s t) (h2 : TimeStep t u) : TimeStep s u where
  cyc := h2.cyc.trans h1.cyc
  ran := h2.ran.trans h1.ran
  insts := h2.insts.trans h1.insts
  devtime := h2.devtime.trans h1.devtime
  bytes := h1.bytes.trans h2.bytes
  cluster n := by
    obtain ⟨b1, g1, r1⟩ := h1.cluster n
    obtain ⟨b2, g2, r2⟩ := h2.cluster n
    exact ⟨b2.trans b1, g2.trans g1, r2.trans r1⟩
  wf h := h2.wf (h1.wf h)

theorem foldl {α : Type} (f : State → α → State) (hf : ∀ t a, TimeStep t (f t a)) (l : List α) (s : State) : TimeStep s (l.foldl f s) :=
  foldl_keeps (fun t => TimeStep s t) f (fun t a h => h.trans (hf t a)) l s (.refl s)

/-! ### The elementary steps -/

theorem modNet (s : State) (f : Net → Net) : TimeStep s (modNet s f) :=
  ⟨rfl, rfl, rfl, rfl, modNet_bytes s f, fun _ => ⟨rfl, rfl, rfl⟩, id⟩

theorem modPkg (s : State) (f : Pkg → Pkg) (h : (f s.pkg).devtime = s.pkg.devtime) : TimeStep s (modPkg s f) :=
  ⟨rfl, rfl, rfl, h, modPkg_bytes s f, fun _ => ⟨rfl, rfl, rfl⟩, id⟩

theorem modSpring (s : State) (f : Spring → Spring) (h : (f s.spring).insts = s.spring.insts) : TimeStep s (modSpring s f) :=
  ⟨rfl, rfl, h, rfl, fun p _ => by cases p <;> rfl, fun _ => ⟨rfl, rfl, rfl⟩, id⟩

theorem putOwner (s : State) (x : Ctx) : TimeStep s (putOwner s x) := by
  unfold Machine.putOwner
  split
  · exact ⟨rfl, rfl, rfl, rfl, fun p _ => by cases p <;> rfl, fun _ => ⟨rfl, rfl, rfl⟩, id⟩
  · exact ⟨rfl, rfl, rfl, rfl, fun p _ => by cases p <;> rfl, fun _ => ⟨rfl, rfl, rfl⟩, id⟩

theorem modCore (s : State) (cl core : Nat) (f : Core → Core) : TimeStep s (modCore s cl core f) := by
  refine ⟨rfl, rfl, rfl, rfl, fun p _ => by cases p <;> rfl, fun n => ?_, id⟩
  rw [Machine.modCore, putCore, getCl_modCl]
  split
  · next e => rw [e]; exact ⟨rfl, rfl, rfl⟩
  · exact ⟨rfl, rfl, rfl⟩

theorem putCmd (s : State) (c : Cmd) : TimeStep s (putCmd s c) := by
  unfold Machine.putCmd mapCmd
  exact modCore s _ _ _

theorem postNotice (s : State) (k tag d : Nat) : TimeStep s (postNotice s k tag d) := by
  have h := MemStep.postNotice s k tag d
  refine ⟨h.cyc, ?_, ?_, (PurgeStep.postNotice s k tag d).devtime, postNotice_bytes s k tag d, fun n => ?_, h.wf⟩
  · have e := congrArg State.ran h.rest
    exact e
  · have e := congrArg (fun t => t.spring.insts) h.rest
    exact e
  · have e := congrArg (fun x => (x.banks, x.grans, x.rowMap)) (h.cluster n)
    simp only [Prod.mk.injEq] at e
    exact e

/-! ### Answers and packets that cannot be delivered -/

theorem again (s : State) (x : Ctx) (f : Ctx → Ctx) : TimeStep s (again s x f) := by
  unfold Machine.again
  split
  · exact .refl s
  · exact putOwner s _

theorem opBad (s : State) (x : Ctx) (o : MemOp) (c a : Nat) : TimeStep s (opBad s x o c a) := by
  unfold Machine.opBad
  split
  · exact .refl s
  · exact putOwner s _

theorem loadFails (s : State) (x : Ctx) (o : MemOp) (c a : Nat) : TimeStep s (loadFails s x o c a) := by
  unfold Machine.loadFails
  split
  · split <;> exact again s x _
  · exact opBad s x o c a

theorem answerOp (s : State) (r : Req) (p : Packet) : TimeStep s (answerOp s r p) := by
  unfold Machine.answerOp
  split
  · exact .refl s
  · split
    · exact .refl s
    · dsimp only
      split
      · exact loadFails s _ _ _ _
      · split <;> exact putOwner s _

theorem keepData (s : State) (r : Req) (bs : List Byte) : TimeStep s (keepData s r bs) := by
  unfold Machine.keepData
  split
  · exact .refl s
  · split
    · exact .refl s
    · exact putOwner s _

theorem answerCmd (s : State) (r : Req) (p : Packet) : TimeStep s (answerCmd s r p) := by
  unfold Machine.answerCmd
  split
  · exact .refl s
  · dsimp only
    split
    · exact (putCmd s _).trans (keepData _ _ _)
    · split
      · exact putCmd s _
      · split
        · exact putCmd s _
        · exact (putCmd s _).trans (keepData _ _ _)

theorem cutPurge (s : State) (p : Packet) : TimeStep s (cutPurge s p) := by
  unfold Machine.cutPurge
  split
  · exact (modPkg s (fun g => ackPurge g (BitVec.ofNat 16 p.tag) p.src) rfl).trans (postNotice _ _ _ _)
  · exact .refl s

theorem takeAnswer (s : State) (p : Packet) : TimeStep s (takeAnswer s p) := by
  unfold Machine.takeAnswer
  split
  · split
    · exact cutPurge s p
    · exact .refl s
  · next r _ =>
    dsimp only
    split
    · exact (modNet s _).trans (answerCmd (answered s p.rid) r p)
    · exact (modNet s _).trans (answerOp (answered s p.rid) r p)

theorem cutResponse (s : State) (p : Packet) : TimeStep s (cutResponse s p) := by
  unfold Machine.cutResponse
  split
  · exact .refl s
  · dsimp only
    split
    · exact takeAnswer s _
    · exact modNet s _

theorem failCut (s : State) : TimeStep s (failCut s) := by
  unfold Machine.failCut
  dsimp only
  exact (modNet s _).trans ((foldl _ cutResponse _ _).trans (foldl _ (fun t _ => takeAnswer t _) _ _))

/-! ### The links, the waits and the posted writes -/

theorem serveLink (s : State) (l : Nat) : TimeStep s (serveLink s l) := by
  unfold Machine.serveLink
  split
  · exact .refl s
  · split
    · exact .refl s
    · exact modNet s _

theorem serveTimes (l n : Nat) (s : State) : TimeStep s (serveTimes l n s) := by
  induction n generalizing s with
  | zero => exact .refl s
  | succ n ih => exact (serveLink s l).trans (ih _)

theorem ackLink (s : State) (l : Nat) : TimeStep s (ackLink s l) := by
  unfold Machine.ackLink
  split
  · exact modNet s _
  · exact .refl s

theorem serveLinks (n : Nat) (s : State) : TimeStep s (serveLinks n s) := by
  unfold Machine.serveLinks
  split
  · exact .refl s
  · dsimp only
    refine .trans ?_ ((foldl _ (fun t l => (serveTimes l _ t).trans (ackLink _ l)) _ _).trans (modNet _ _))
    split
    · exact failCut s
    · exact .refl s

theorem noteWait (s : State) (c : Cmd) : TimeStep s (noteWait s c) := by
  unfold Machine.noteWait
  split
  · exact .refl s
  · split
    · exact .refl s
    · split
      · exact putCmd s _
      · exact .refl s

theorem noteWaits (s : State) : TimeStep s (noteWaits s) := foldl _ noteWait _ s

theorem tell (s : State) (c : Cmd) (x y : Ctx) : TimeStep s (foreseen.tell s c x y) := by
  unfold foreseen.tell
  split
  · exact putOwner s _
  · exact .refl s

theorem foreseen (s : State) (c : Cmd) : TimeStep s (foreseen s c) := by
  unfold Machine.foreseen
  split
  · exact tell s c _ _
  · exact tell s c _ _
  · exact tell s c _ _
  · exact .refl s

theorem foresee (s : State) : TimeStep s (foresee s) := foldl _ foreseen _ s

theorem hostPasses (s : State) : TimeStep s (hostPasses s) := by
  have h : ∀ t : State × List Posted, ∀ w, (t.1.cyc = s.cyc ∧ t.1.ran = s.ran ∧ t.1.spring = s.spring ∧ t.1.pkg = s.pkg ∧
      t.1.clusters = s.clusters) → ((hostPass s.cyc t w).1.cyc = s.cyc ∧ (hostPass s.cyc t w).1.ran = s.ran ∧
      (hostPass s.cyc t w).1.spring = s.spring ∧ (hostPass s.cyc t w).1.pkg = s.pkg ∧ (hostPass s.cyc t w).1.clusters = s.clusters) :=
    fun t w ht => by
      unfold hostPass
      split <;> exact ht
  obtain ⟨h1, h2, h3, h4, h5⟩ := foldl_keeps (fun t : State × List Posted => t.1.cyc = s.cyc ∧ t.1.ran = s.ran ∧
    t.1.spring = s.spring ∧ t.1.pkg = s.pkg ∧ t.1.clusters = s.clusters) (hostPass s.cyc) h s.net.hostq.zipIdx (s, [])
    ⟨rfl, rfl, rfl, rfl, rfl⟩
  refine ⟨h1, h2, congrArg Spring.insts h3, congrArg Pkg.devtime h4, hostPasses_bytes s, fun n => ?_, hostPasses_wf s⟩
  have e : ∀ m, getCl (Machine.hostPasses s) m = getCl s m := fun m => congrArg (fun l => smGet l m Cluster.atReset) h5
  rw [e]
  exact ⟨rfl, rfl, rfl⟩

end TimeStep

/-! ## What is untouched where every packet can be delivered -/

/-- The device's registers, memory and the host's posted writes are those of s. -/
structure Quiet (s t : State) : Prop where
  dev : t.dev = s.dev
  mem : t.mem = s.mem
  hostq : t.net.hostq = s.net.hostq

namespace Quiet
variable {s t u : State}

theorem refl (s : State) : Quiet s s := ⟨rfl, rfl, rfl⟩

theorem trans (h1 : Quiet s t) (h2 : Quiet t u) : Quiet s u :=
  ⟨h2.dev.trans h1.dev, h2.mem.trans h1.mem, h2.hostq.trans h1.hostq⟩

theorem foldl {α : Type} (f : State → α → State) (hf : ∀ t a, Quiet t (f t a)) (l : List α) (s : State) : Quiet s (l.foldl f s) :=
  foldl_keeps (fun t => Quiet s t) f (fun t a h => h.trans (hf t a)) l s (.refl s)

theorem serveTimes (l n : Nat) (s : State) : Quiet s (serveTimes l n s) := by
  induction n generalizing s with
  | zero => exact .refl s
  | succ n ih =>
    refine .trans (t := serveLink s l) ?_ (ih _)
    unfold serveLink
    split
    · exact .refl s
    · split
      · exact .refl s
      · exact ⟨rfl, rfl, rfl⟩

theorem ackLink (s : State) (l : Nat) : Quiet s (ackLink s l) := by
  unfold Machine.ackLink
  split
  · exact ⟨rfl, rfl, rfl⟩
  · exact .refl s

/-- The links, where no packet waits for one that is down. -/
theorem serveLinks (n : Nat) {s : State} (h : ∀ o ∈ s.net.out, undeliverable s o = false) : Quiet s (serveLinks n s) := by
  unfold Machine.serveLinks
  split
  · exact .refl s
  · rw [if_neg (by simpa using h)]
    dsimp only
    exact (foldl _ (fun t l => (serveTimes l _ t).trans (ackLink _ l)) (List.range 6) s).trans ⟨rfl, rfl, rfl⟩

/-- With nothing posted the host takes nothing. -/
theorem hostPasses {s : State} (h : s.net.hostq = []) : Quiet s (hostPasses s) := by
  unfold Machine.hostPasses
  rw [h]
  exact ⟨rfl, rfl, h.symm⟩

end Quiet

/-- The posted writes change no register of the device. -/
theorem hostPasses_dev (s : State) : (hostPasses s).dev = s.dev := by
  refine foldl_keeps (fun t : State × List Posted => t.1.dev = s.dev) (hostPass s.cyc) (fun t w ht => ?_) s.net.hostq.zipIdx (s, []) rfl
  unfold hostPass
  split <;> exact ht

/-- What the waits leave of the machine: everything but the contexts and the queues. -/
structure WaitStep (s t : State) : Prop where
  dev : t.dev = s.dev
  mem : t.mem = s.mem
  net : t.net = s.net

namespace WaitStep
variable {s t u : State}

theorem refl (s : State) : WaitStep s s := ⟨rfl, rfl, rfl⟩

theorem trans (h1 : WaitStep s t) (h2 : WaitStep t u) : WaitStep s u := ⟨h2.dev.trans h1.dev, h2.mem.trans h1.mem, h2.net.trans h1.net⟩

theorem foldl {α : Type} (f : State → α → State) (hf : ∀ t a, WaitStep t (f t a)) (l : List α) (s : State) : WaitStep s (l.foldl f s) :=
  foldl_keeps (fun t => WaitStep s t) f (fun t a h => h.trans (hf t a)) l s (.refl s)

theorem noteWait (s : State) (c : Cmd) : WaitStep s (noteWait s c) := by
  unfold Machine.noteWait
  split
  · exact .refl s
  · split
    · exact .refl s
    · split
      · exact ⟨rfl, rfl, rfl⟩
      · exact .refl s

theorem tell (s : State) (c : Cmd) (x y : Ctx) : WaitStep s (foreseen.tell s c x y) := by
  unfold foreseen.tell
  split
  · unfold putOwner
    split <;> exact ⟨rfl, rfl, rfl⟩
  · exact .refl s

theorem foreseen (s : State) (c : Cmd) : WaitStep s (foreseen s c) := by
  unfold Machine.foreseen
  split
  · exact tell s c _ _
  · exact tell s c _ _
  · exact tell s c _ _
  · exact .refl s

/-- The wait objects and the commands that wait their turn. -/
theorem waits (s : State) : WaitStep s (foresee (noteWaits s)) := (foldl Machine.noteWait noteWait _ s).trans (foldl Machine.foreseen foreseen _ _)

end WaitStep

/-- A packet's next hop depends on the links and on the node's place alone. -/
theorem undeliverable_congr {s t : State} (hd : t.dev = s.dev) (hn : t.net = s.net) (o : OutPkt) : undeliverable t o = undeliverable s o :=
  calc undeliverable t o = undeliverable { State.reset with dev := t.dev, net := t.net } o := rfl
    _ = undeliverable { State.reset with dev := s.dev, net := s.net } o := by rw [hd, hn]

/-! ## The cycles of a step -/

/-- The clocks after n cycles. -/
def clocked (n : Nat) (s : State) : State :=
  modPkg { s with cyc := s.cyc + n, ran := if s.dev.hold then s.ran else s.ran + n } (advanceTime n)

/-- The contexts' counts, the freeze cycles and the leases after n cycles. -/
def cyclesCounted (n : Nat) (s : State) (s1 : State) : State := { s1 with
  ctxs := s1.ctxs.map (fun p => (p.1, countBlocked s1 n p.2))
  clusters := s1.clusters.map (fun c => (c.1,
    { c.2 with cores := c.2.cores.map (fun y => (y.1, addFreeze (alarmCycles s n c.1) y.2)), lease := leaseRenew s1.ran (leaseWaiters s1 c.1 (c.2.lease.holder.getD 8) none) c.2.lease })) }

theorem bootOn_running {s : State} (h : inRom s = false) : bootOn s = s := by rw [bootOn, h]; rfl

theorem passTime_hold {n : Nat} {s : State} (hr : inRom s = false) (h : s.dev.hold = true) : passTime n s = clocked n s := by
  unfold passTime
  rw [if_pos h]
  exact bootOn_running (s := clocked n s) hr

theorem passTime_runs {n : Nat} {s : State} (hr : inRom s = false) (h : s.dev.hold = false) : passTime n s =
    modSpring (hostPasses (serveLinks n (foresee (noteWaits (cyclesCounted n s (clocked n s))))))
      (fun p => { p with iters := p.iters.map (noteLost (cyclesCounted n s (clocked n s))) }) := by
  have hb : bootOn (modPkg { s with cyc := s.cyc + n, ran := if s.dev.hold then s.ran else s.ran + n } (advanceTime n)) = clocked n s :=
    bootOn_running (s := clocked n s) hr
  unfold passTime
  rw [hb, if_neg (by simp [h])]
  rfl

theorem smGet_map_key {α β γ : Type} (m : SMap α) (f : Nat × α → β) (d : α) (d' : β) (p : α → γ) (q : β → γ) (k : Nat)
    (hf : ∀ c, q (f c) = p c.2) (hd : q d' = p d) : q (smGet (m.map (fun c => (c.1, f c))) k d') = p (smGet m k d) := by
  induction m with
  | nil => exact hd
  | cons c m ih =>
    simp only [smGet, List.map_cons, smFind] at ih ⊢
    split
    · exact hf c
    · exact ih

/-- Counting changes neither the arrays nor the granules. -/
theorem cyclesCounted_step (n : Nat) (s s1 : State) : TimeStep s1 (cyclesCounted n s s1) := by
  refine ⟨rfl, rfl, rfl, rfl, fun p _ => by cases p <;> rfl, fun k => ?_, id⟩
  have e := smGet_map_key s1.clusters (fun c => { c.2 with
      cores := c.2.cores.map (fun y => (y.1, addFreeze (alarmCycles s n c.1) y.2))
      lease := leaseRenew s1.ran (leaseWaiters s1 c.1 (c.2.lease.holder.getD 8) none) c.2.lease }) Cluster.atReset Cluster.atReset
    (fun x => (x.banks, x.grans, x.rowMap)) (fun x => (x.banks, x.grans, x.rowMap)) k (fun _ => rfl) rfl
  simp only [Prod.mk.injEq] at e
  exact e

theorem passTime_step {n : Nat} {s : State} (hr : inRom s = false) : TimeStep (clocked n s) (passTime n s) := by
  by_cases h : s.dev.hold = true
  · rw [passTime_hold hr h]
    exact .refl _
  · rw [passTime_runs hr (by simpa using h)]
    exact (cyclesCounted_step n s _).trans ((TimeStep.foldl noteWait TimeStep.noteWait _ _).trans ((TimeStep.foresee _).trans
      ((TimeStep.serveLinks n _).trans ((TimeStep.hostPasses _).trans (TimeStep.modSpring _ _ rfl)))))

/-- With every packet deliverable, the registers of the device stand, and with nothing posted memory stands. -/
theorem passTime_quiet {n : Nat} {s : State} (hr : inRom s = false) (ho : ∀ o ∈ s.net.out, undeliverable s o = false) :
    (passTime n s).dev = s.dev ∧ (s.net.hostq = [] → (passTime n s).mem = s.mem) := by
  by_cases h : s.dev.hold = true
  · rw [passTime_hold hr h]
    exact ⟨rfl, fun _ => rfl⟩
  · rw [passTime_runs hr (by simpa using h)]
    have hw := WaitStep.waits (cyclesCounted n s (clocked n s))
    have hq := Quiet.serveLinks n (s := foresee (noteWaits (cyclesCounted n s (clocked n s)))) (fun o hm => by
      rw [hw.net] at hm
      rw [undeliverable_congr (s := s) hw.dev hw.net]
      exact ho o hm)
    rw [modSpring_dev, modSpring_mem]
    refine ⟨(hostPasses_dev _).trans (hq.dev.trans hw.dev), fun hn => ?_⟩
    have hh : (serveLinks n (foresee (noteWaits (cyclesCounted n s (clocked n s))))).net.hostq = [] :=
      hq.hostq.trans ((congrArg Net.hostq hw.net).trans hn)
    exact (Quiet.hostPasses hh).mem.trans (hq.mem.trans hw.mem)

theorem step_agenda {s : State} {n w : Nat} {i : Instr} {rest : List (Nat × Nat × Instr)} (h : s.agenda = (n, w, i) :: rest) :
    step s = runStep { s with agenda := rest } n w i := by rw [step, h]

theorem step_chosen {s : State} {i : Instr} (h : s.agenda = []) (hp : pick s = some i) : step s = runStep s 1 0 i := by rw [step, h, hp]

theorem step_idle {s : State} (h : s.agenda = []) (hp : pick s = none) : step s = awaitRom s := by rw [step, h, hp]

theorem runStep_runs {s : State} {n w : Nat} {i : Instr} (h : stopped i { passTime n s with which := w } = none) :
    runStep s n w i = exec i { passTime n s with which := w } := by
  unfold runStep
  dsimp only
  rw [h]

theorem runStep_fault {s : State} {n w : Nat} {i : Instr} {f : Fault} (h : stopped i { passTime n s with which := w } = some f) :
    runStep s n w i = .fault f := by
  unfold runStep
  dsimp only
  rw [h]

/-- Settles O56. -/
theorem stepRunsScheduled : Obligations.StepRunsScheduled := by
  unfold Obligations.StepRunsScheduled
  refine ⟨?_, ?_, ?_⟩
  · intro s n w i rest ha s1
    have hs := step_agenda ha
    refine ⟨fun h => hs.trans (runStep_runs h), fun f h => hs.trans (runStep_fault h), ?_⟩
    intro cl core s2 x h ws b hi hst hp hj ht he hf hb hh
    rw [hs, runStep_runs hst, hi]
    exact presentationRunsOperations.2.1 cl core s1 s2 x h ws b hp hj ht he hf hb hh
  · intro s ha
    refine ⟨fun i hi hst => (step_chosen ha hi).trans (runStep_runs hst), fun hp => ?_⟩
    rw [step_idle ha hp, awaitRom]
    exact ⟨fun h => by rw [if_pos h], fun h => by rw [if_neg (by simp [h])]⟩
  · intro s n hr t
    have h : TimeStep (clocked n s) t := passTime_step hr
    have hb := h.bytes
    exact ⟨h.cyc, h.ran, h.insts, passTime_quiet hr, hb .hbm (by decide), hb .mere (by decide), hb .carved (by decide), h.cluster,
      fun hh => by rw [show t = clocked n s from passTime_hold hr hh]; exact ⟨rfl, rfl, rfl, rfl⟩, h.devtime⟩

end Sys2Proof.Machine
end

section
/-!
The ports of the torus as targets and as originators (11 R353 to R361; 08 R266).
-/
namespace Sys2Proof.Machine

section
variable {s : State} {p : Packet}

theorem badHeader_iff : badHeader p = true ↔ p.kind = .unsent ∨ p.ok = false := by simp [badHeader]

theorem exec_packetReceive (p : Packet) (s : State) : exec (.packetReceive p) s = receiveRequest p (landed s p) := rfl
theorem exec_responseReceive (p : Packet) (s : State) : exec (.responseReceive p) s = receiveAnswer p (landed s p) := rfl

/-! ## Requests -/

theorem receiveRequest_bad (h : badHeader p = true) : receiveRequest p s = .next (incReplay s 1) := by
  rw [receiveRequest, if_pos h]

theorem receiveRequest_passes (h : badHeader p = false) (hd : p.dst ≠ nodeNo s) : receiveRequest p s = .next (sendPkts s [p]) := by
  rw [receiveRequest, if_neg (by simp [h]), if_pos (by simpa using hd)]

/-- A request for this node that no queue holds. -/
theorem receiveRequest_here (hok : p.ok = true) (hd : p.dst = nodeNo s) (hk : isRequest p.kind = true)
    (hq : ∀ w ∈ s.net.portq, w.pkt ≠ p) : receiveRequest p s =
      if s.dev.fatal then .next (errTo s p 17)
      else if portHeld s p then notNow "PACKET_RECEIVE"
      else .next (takeRequest (compared s 3) p) := by
  have hn : s.net.portq.find? (fun w => w.pkt == p) = none := List.find?_eq_none.2 (fun w hw => by simpa using hq w hw)
  have hu : p.kind ≠ .unsent := by rintro e; rw [e] at hk; exact absurd hk (by decide)
  rw [receiveRequest, badHeader_of_ok hok hu, if_neg Bool.false_ne_true, if_neg (by simp [hd]), if_neg (by simp [hk]), hn]

theorem receiveRequest_takes (hok : p.ok = true) (hd : p.dst = nodeNo s) (hk : isRequest p.kind = true)
    (hq : ∀ w ∈ s.net.portq, w.pkt ≠ p) (hf : s.dev.fatal = false) (hh : portHeld s p = false) :
    receiveRequest p s = .next (takeRequest (compared s 3) p) := by
  rw [receiveRequest_here hok hd hk hq, if_neg (by simp [hf]), if_neg (by simp [hh])]

theorem receiveRequest_fatal (hok : p.ok = true) (hd : p.dst = nodeNo s) (hk : isRequest p.kind = true)
    (hq : ∀ w ∈ s.net.portq, w.pkt ≠ p) (hf : s.dev.fatal = true) : receiveRequest p s = .next (errTo s p 17) := by
  rw [receiveRequest_here hok hd hk hq, if_pos hf]

theorem receiveRequest_queued {w : PortWrite} (hok : p.ok = true) (hd : p.dst = nodeNo s) (hk : p.kind = .write)
    (hq : s.net.portq.find? (fun w => w.pkt == p) = some w) (hw : queueWaits s w = false) :
    receiveRequest p s = .next (queueHome s w) := by
  rw [receiveRequest, badHeader_of_ok hok (by simp [hk]), if_neg Bool.false_ne_true, if_neg (by simp [hd]),
    if_neg (by simp [hk, isRequest]), hq]
  exact if_neg (by simp [hw])

theorem takeRequest_read (h : p.kind = .read) : takeRequest s p = takeRead s p := by rw [takeRequest, h]
theorem takeRequest_write (h : p.kind = .write) : takeRequest s p = takeWrite s p := by rw [takeRequest, h]
theorem takeRequest_atomic (h : p.kind = .atomic) : takeRequest s p = takeAtomic s p := by rw [takeRequest, h]
theorem takeRequest_reduction (h : p.kind = .reduction) : takeRequest s p = takeReduction s p := by rw [takeRequest, h]

/-! ## Answers -/

theorem receiveAnswer_bad (h : badHeader p = true) : receiveAnswer p s = .next (incReplay s 1) := by rw [receiveAnswer, if_pos h]

theorem receiveAnswer_passes (h : badHeader p = false) (hd : p.dst ≠ nodeNo s) : receiveAnswer p s = .next (sendPkts s [p]) := by
  rw [receiveAnswer, if_neg (by simp [h]), if_pos (by simpa using hd)]

theorem receiveAnswer_takes (hok : p.ok = true) (hd : p.dst = nodeNo s)
    (hk : p.kind = .readData ∨ p.kind = .ack ∨ p.kind = .nack ∨ p.kind = .error) : receiveAnswer p s = .next (takeAnswer s p) := by
  have hu : p.kind ≠ .unsent := by rintro e; simp [e] at hk
  rw [receiveAnswer, badHeader_of_ok hok hu, if_neg Bool.false_ne_true, if_neg (by simp [hd])]
  obtain h | h | h | h := hk <;> rw [h]

/-- An answer whose request is gone. -/
theorem takeAnswer_gone (h : ∀ r ∈ s.net.reqs, r.rid ≠ p.rid) :
    takeAnswer s p = if p.kind = .error ∧ p.rid = 0 then cutPurge s p else s := by
  have hn : s.net.reqs.find? (fun r => r.rid == p.rid) = none := List.find?_eq_none.2 (fun r hr => by simpa using h r hr)
  rw [takeAnswer, hn]
  simp only [Bool.and_eq_true, beq_iff_eq]

/-! ## The remote-fault log -/

theorem exec_logEntryReplayed_none {n : Nat} (h2 : logWord s n 1 % 4 = 2) (h : smFind s.net.logRid n = none) :
    exec (.logEntryReplayed n) s = .next (freeEntry s n) := by
  show execLogEntryReplayed n s = _
  rw [execLogEntryReplayed, if_neg (by simp [h2]), h]

theorem exec_logEntryReplayed_some {n : Nat} {r : Nat × Nat} (h2 : logWord s n 1 % 4 = 2) (h : smFind s.net.logRid n = some r) :
    exec (.logEntryReplayed n) s = .next (if ∃ e ∈ (freeEntry s n).net.logRid, e.2 = r then freeEntry s n
      else faultReply (freeEntry s n) (owedPacket s n r) .ack) := by
  show execLogEntryReplayed n s = _
  rw [execLogEntryReplayed, if_neg (by simp [h2]), h]
  simp only [List.any_eq_true, beq_iff_eq]

/-- The machine with an entry abandoned, and what other entries of its write owed. -/
def abandoned (s : State) (n : Nat) (r : Nat × Nat) : State :=
  modNet (freeEntry s n) (fun m => { m with logRid := m.logRid.filter (fun e => e.2 != r) })

theorem exec_logEntryAbandoned {n : Nat} {r : Nat × Nat} (h3 : logWord s n 1 % 4 = 3) (h : smFind s.net.logRid n = some r) :
    exec (.logEntryAbandoned n) s = .next (faultReply (abandoned s n r) (owedPacket s n r) .nack) := by
  show execLogEntryAbandoned n s = _
  rw [execLogEntryAbandoned, if_neg (by simp [h3]), h]
  rfl

/-! ## Link FIFO words -/

theorem exec_fifoDepart {cl l : Nat} {f : FifoWord} {rest : List FifoWord} (hs : sendFifo s cl l = f :: rest)
    (hl : (getLink s l).health = .up) (hp : pushReady s f = true) : exec (.fifoWordArrive (.depart cl l)) s =
      .next (pushDone (modNet (modCl s cl (fun c => { c with sendF := smSet c.sendF l rest [] }))
        (fun n => { n with out := n.out ++ [{ pkt := wordPacket s cl l f, sent := some l }] })) f) := by
  show execFifoWordArrive (.depart cl l) s = _
  unfold execFifoWordArrive
  dsimp only
  rw [hs]
  exact if_neg (by simp [hl, hp])

theorem exec_fifoArrive {cl l : Nat} {w : Word} (h : (recvFifo s cl l).length < 64) : exec (.fifoWordArrive (.arrive cl l w)) s =
    .next (modCl s cl (fun c => { c with recvF := smSet c.recvF l (recvFifo s cl l ++ [w]) [] })) := by
  show execFifoWordArrive (.arrive cl l w) s = _
  unfold execFifoWordArrive
  exact if_neg (Nat.not_le.2 h)

end

/-- Settles O49: what a port makes of a packet, an entry of the log or a FIFO word. -/
theorem portSteps : Obligations.PortSteps := by
  unfold Obligations.PortSteps
  intro p s u
  rw [exec_packetReceive, exec_responseReceive]
  have hreq : p.kind = .read ∨ p.kind = .write ∨ p.kind = .atomic ∨ p.kind = .reduction → isRequest p.kind = true := by
    rintro (h | h | h | h) <;> rw [h] <;> rfl
  refine ⟨fun h => ?_, fun hd hu hok => ?_, fun hok hd hf hq hh => ?_, fun w => receiveRequest_queued,
    fun hok hd hf hq hk => receiveRequest_fatal hok hd (hreq hk) hq hf, fun hok hd hk => ?_,
    fun n h2 => ⟨exec_logEntryReplayed_none h2, fun r => exec_logEntryReplayed_some h2⟩, fun n r h3 h => ?_,
    fun cl l f rest => exec_fifoDepart, fun cl l w => exec_fifoArrive⟩
  · have hb := badHeader_iff.2 h
    exact ⟨receiveRequest_bad hb, receiveAnswer_bad hb⟩
  · have hb := badHeader_of_ok hok hu
    exact ⟨receiveRequest_passes hb hd, receiveAnswer_passes hb hd⟩
  · have ht := fun hk => receiveRequest_takes hok hd (hreq hk) hq hf hh
    exact ⟨fun h => (ht (by simp [h])).trans (by rw [takeRequest_read h]), fun h => (ht (by simp [h])).trans (by rw [takeRequest_write h]),
      fun h => (ht (by simp [h])).trans (by rw [takeRequest_atomic h]),
      fun h => (ht (by simp [h])).trans (by rw [takeRequest_reduction h])⟩
  · have ha := receiveAnswer_takes hok hd hk
    exact ⟨ha, fun h => by rw [ha, takeAnswer_gone h]⟩
  · refine ⟨abandoned s n r, exec_logEntryAbandoned h3 h, fun e he => ?_, rfl⟩
    simpa using (List.mem_filter.1 he).2

end Sys2Proof.Machine
end

section
/-!
Links and their health, collectives at their target and the scale-out ports (11 R362 to R367, R372 to R378).
-/
namespace Sys2Proof.Machine

section
variable {s : State}

/-! ## Link health -/

theorem exec_flitReplay {l : Nat} {o : OutPkt} (hu : s.pkg.units.getLsbD l = true) (hh : (getLink s l).health = .up)
    (ho : o ∈ s.net.out) (hs : o.sent = some l) (ht : o.pkt.tc ≠ 2) : exec (.flitReplay l) s = .next (incReplay s 1) := by
  have hr : replays s l = true := List.any_eq_true.2 ⟨o, ho, by simp [hs, ht]⟩
  show execFlitReplay l s = _
  rw [execFlitReplay, if_pos (by simp [hu, hh, hr])]

/-- The machine with a link that has begun to retrain. -/
def retrained (s : State) (l : Nat) : State :=
  modNet (setHealth s l .retraining) (fun n => { n with out := n.out.filter (fun o => !(o.sent == some l && o.pkt.tc == 2)) })

theorem exec_linkRetrain {l : Nat} (hu : s.pkg.units.getLsbD l = true) (hh : (getLink s l).health = .up) :
    exec (.linkRetrain l) s = .next (retrained s l) := by
  show execLinkRetrain l s = _
  rw [execLinkRetrain, if_pos (by simp [hu, hh])]
  rfl

theorem getLink_retrained (s : State) (l : Nat) : getLink (retrained s l) l = { health := .retraining, since := s.cyc } :=
  (getLink_setHealth s l l .retraining).trans (if_pos rfl)

theorem mem_retrained_out (s : State) (l : Nat) (o : OutPkt) :
    o ∈ (retrained s l).net.out ↔ o ∈ s.net.out ∧ ¬ (o.sent = some l ∧ o.pkt.tc = 2) := by
  show o ∈ s.net.out.filter _ ↔ _
  rw [List.mem_filter]
  simp [imp_iff_not_or]

theorem exec_linkRestored_retraining {l : Nat} (hh : (getLink s l).health = .retraining) (ht : s.cyc < (getLink s l).since + retrainBound) :
    exec (.linkRestored l) s = .next (putLink (incReplay s (replayFlits s l)) l { health := .up, since := s.cyc }) := by
  show execLinkRestored l s = _
  unfold execLinkRestored
  dsimp only
  rw [hh]
  exact if_neg (Nat.not_le.2 ht)

theorem exec_linkRestored_down {l : Nat} (hh : (getLink s l).health = .down) : exec (.linkRestored l) s =
    .next (postNotice (putLink s l { health := .up, since := s.cyc }) 8 0 (l + 256)) := by
  show execLinkRestored l s = _
  unfold execLinkRestored
  dsimp only
  rw [hh]
  rfl

theorem exec_linkDown {l : Nat} (hh : (getLink s l).health = .retraining) (ht : (getLink s l).since + retrainBound ≤ s.cyc) :
    exec (.linkDown l) s = .next (dropCutAcks (failCut (backFrom l
      (incReplay (postNotice (putLink s l { health := .down, since := s.cyc }) 8 0 l) (replayFlits s l))))) := by
  show execLinkDown l s = _
  unfold execLinkDown
  dsimp only
  rw [if_pos (by simp [hh, ht]), linkNotice, Bool.toNat_false, Nat.zero_mul, Nat.add_zero]
  rfl

/-- A replay buffer is emptied when its packets wait again. -/
theorem backFrom_sent (s : State) (l : Nat) : ∀ o ∈ (backFrom l s).net.out, o.sent ≠ some l := by
  intro o ho
  obtain ⟨q, -, rfl⟩ := List.mem_map.1 ho
  by_cases h : q.sent = some l
  · simp [h]
  · simp [h]

theorem backFrom_packets (s : State) (l : Nat) : (backFrom l s).net.out.map (·.pkt) =
    (s.net.out.filter (fun o => !(o.sent == some l && o.pkt.kind == .fifoWord))).map (fun o =>
      if o.sent = some l then { o.pkt with vc := o.came } else o.pkt) := by
  show (List.map _ (List.filter _ s.net.out)).map _ = _
  rw [List.map_map]
  apply List.map_congr_left
  intro o _
  by_cases h : o.sent = some l <;> simp [h]

/-! ## The deadlock timer -/

/-- The first element that a test selects, where one does. -/
theorem onFirst_split {α : Type} (f : α → Bool) (g : α → Option α) {l : List α} (h : l.any f = true) :
    ∃ l1 a l2, l = l1 ++ a :: l2 ∧ f a = true ∧ onFirst f g l = l1 ++ ((g a).toList ++ l2) := by
  induction l with
  | nil => exact absurd h (by simp)
  | cons a l ih =>
    by_cases ha : f a = true
    · refine ⟨[], a, l, rfl, ha, ?_⟩
      rw [onFirst, if_pos ha]
      cases g a <;> rfl
    · obtain ⟨l1, b, l2, hl, hb, he⟩ := ih (by simpa [ha] using h)
      refine ⟨a :: l1, b, l2, by rw [hl]; rfl, hb, ?_⟩
      rw [onFirst, if_neg ha, he]
      rfl

/-- What becomes of a packet whose timer expires in a virtual channel: the escape channel, or at its head a drop (11 R365). -/
def expired (vc : Nat) (o : OutPkt) : Option OutPkt :=
  if vc = 2 then none else some { o with head := none, pkt := { o.pkt with esc := true } }

theorem exec_deadlockTimer {l vc since : Nat} {o : OutPkt} (ho : o ∈ s.net.out) (hs : standsIn s l vc o = true) (hh : o.head = some since)
    (ht : since + deadlockCycles ≤ s.ran) (hv : vc = 2 → o.pkt.tc = 2) :
    ∃ t, exec (.deadlockTimer l vc) s = .next t ∧ (vc = 2 → t.net.out.length + 1 = s.net.out.length) ∧
      (vc ≠ 2 → t.net.out.map (fun q => { q.pkt with esc := false }) = s.net.out.map (fun q => { q.pkt with esc := false }) ∧
        ∃ q ∈ s.net.out, timerDue s l vc q = true ∧ { q with head := none, pkt := { q.pkt with esc := true } } ∈ t.net.out) := by
  have hdue : timerDue s l vc o = true := by
    have hc : (vc != 2 || o.pkt.tc == 2) = true := by
      by_cases e : vc = 2
      · simp [hv e]
      · simp [e]
    rw [timerDue, hs, hh, hc]
    simpa using ht
  have hany : s.net.out.any (timerDue s l vc) = true := List.any_eq_true.2 ⟨o, ho, hdue⟩
  obtain ⟨l1, a, l2, hl, ha, he⟩ := onFirst_split (timerDue s l vc) (expired vc) hany
  refine ⟨modNet s (fun n => { n with out := onFirst (timerDue s l vc) (expired vc) n.out }), ?_, fun e => ?_, fun e => ?_⟩
  · show execDeadlockTimer l vc s = _
    unfold execDeadlockTimer
    rw [hany]
    rfl
  · show (onFirst (timerDue s l vc) (expired vc) s.net.out).length + 1 = _
    rw [he, hl, expired, if_pos e]
    simp
    omega
  · refine ⟨?_, a, by rw [hl]; simp, ha, ?_⟩
    · show (onFirst (timerDue s l vc) (expired vc) s.net.out).map _ = _
      rw [he, hl, expired, if_neg e]
      simp
    · show _ ∈ onFirst (timerDue s l vc) (expired vc) s.net.out
      rw [he, expired, if_neg e]
      simp

/-! ## Collectives at their target -/

variable {p : Packet}

theorem landed_mem (s : State) (p : Packet) : (landed s p).mem = s.mem := by
  unfold landed
  split <;> rfl

theorem landed_early (s : State) (p : Packet) : (landed s p).net.early = s.net.early := by
  unfold landed
  split <;> rfl

/-- The machine that has taken an open packet's early blocks out of their places. -/
def earlyTaken (s : State) (p : Packet) : State :=
  modNet s (fun n => { n with early := n.early.filter (fun e => !(e.src == p.src && e.rid == p.rid)) })

theorem receiveOpen_noGang (hok : p.ok = true) (hf : s.dev.fatal = false) (hd : p.dst = nodeNo s) (hk : p.kind = .collOpen)
    (hg : collGang s (specOfWords (wordsOfBytes p.ext)) = none) : receiveOpen p s = .next (noGang (earlyTaken s p) p .nack) := by
  have hg' : collGang (earlyTaken s p) (specOfWords (wordsOfBytes p.ext)) = none := hg
  unfold receiveOpen
  rw [badHeader_of_ok hok (by simp [hk]), if_neg Bool.false_ne_true, if_neg (by simp [hk]), if_neg (by simp [hd]), if_neg (by simp [hf])]
  dsimp only
  rw [show collGang (modNet s _) _ = none from hg']
  rfl

theorem receiveOpen_opens {g : Nat × Nat × Nat} (hok : p.ok = true) (hf : s.dev.fatal = false) (hd : p.dst = nodeNo s)
    (hk : p.kind = .collOpen) (he : ∀ e ∈ s.net.early, ¬ (e.src = p.src ∧ e.rid = p.rid))
    (hg : collGang s (specOfWords (wordsOfBytes p.ext)) = some g) :
    receiveOpen p s = .next (putColl (earlyTaken s p) (newColl p p.rid (specOfWords (wordsOfBytes p.ext)))) := by
  have hg' : collGang (earlyTaken s p) (specOfWords (wordsOfBytes p.ext)) = some g := hg
  have hm : s.net.early.filter (fun e => e.src == p.src && e.rid == p.rid) = [] :=
    List.filter_eq_nil_iff.2 (fun e h => by simpa using he e h)
  unfold receiveOpen
  rw [badHeader_of_ok hok (by simp [hk]), if_neg Bool.false_ne_true, if_neg (by simp [hk]), if_neg (by simp [hd]), if_neg (by simp [hf])]
  dsimp only
  rw [show collGang (modNet s _) _ = some g from hg', hm]
  rfl

theorem findColl_putColl (s : State) (c : CollRx) : findColl (putColl s c) c.src c.rid = some c := by
  unfold findColl putColl modNet
  simp

theorem receiveBlock_reliable (hok : p.ok = true) (hf : s.dev.fatal = false) (hd : p.dst = nodeNo s) (hk : p.kind = .collBlock)
    (ht : p.tc ≠ 2) (hl : lanesPass s (specOfWords (wordsOfBytes p.ext)) (blockOf p true) = true) :
    receiveBlock p true s = .next (reliableBlock s p) := by
  rw [receiveBlock, badHeader_of_ok hok (by simp [hk]), if_neg Bool.false_ne_true, if_neg (by simp [hk]), if_neg (by simp [hd]),
    if_pos (by simp [ht]), if_neg (by simp [hf]), if_pos (by simp [hl])]

/-- A lossy block for this node outside FATAL. -/
theorem receiveBlock_lossy {ok : Bool} (hok : p.ok = true) (hf : s.dev.fatal = false) (hd : p.dst = nodeNo s) (hk : p.kind = .collBlock)
    (ht : p.tc = 2) (ho : p.src = nodeNo s → ok = true) {c : CollRx} (hc : findColl s p.src p.rid = some c) :
    receiveBlock p ok s = .next (lossyBlock s c p ok (devNs s)) := by
  rw [receiveBlock, badHeader_of_ok hok (by simp [hk]), if_neg Bool.false_ne_true, if_neg (by simp [hk]), if_neg (by simp [hd]),
    if_neg (by simp [ht]), if_neg (by simp [hf]), if_neg (by simpa using ho), hc]

theorem receiveBlock_fatal {ok : Bool} (hok : p.ok = true) (hf : s.dev.fatal = true) (hd : p.dst = nodeNo s) (hk : p.kind = .collBlock)
    (ht : p.tc = 2) : receiveBlock p ok s = .next s := by
  rw [receiveBlock, badHeader_of_ok hok (by simp [hk]), if_neg Bool.false_ne_true, if_neg (by simp [hk]), if_neg (by simp [hd]),
    if_neg (by simp [ht]), if_pos hf]

theorem receiveBlock_late {ok : Bool} (hok : p.ok = true) (hd : p.dst = nodeNo s) (hs : p.src ≠ p.dst) (hk : p.kind = .collBlock)
    (ht : p.tc = 2) (hc : findColl s p.src p.rid = none) (hp : pastClose s p = true) : receiveBlock p ok s = .next s := by
  rw [receiveBlock, badHeader_of_ok hok (by simp [hk]), if_neg Bool.false_ne_true, if_neg (by simp [hk]), if_neg (by simp [hd]),
    if_neg (by simp [ht])]
  by_cases hf : s.dev.fatal = true
  · rw [if_pos hf]
  · rw [if_neg hf, if_neg (by rw [← hd]; simp [hs]), hc]
    exact if_pos hp

theorem exec_lossyClose {c : CollRx} (hf : s.dev.fatal = false)
    (hc : s.net.colls.find? (fun k => k.lossy && decide (closeAt s k ≤ devNs s)) = some c) :
    exec .lossyClose s = .next (closeColl s c) := by
  show execLossyClose s = _
  rw [execLossyClose, if_neg (by simp [hf]), hc]

theorem receiveClose_takes (hok : p.ok = true) (hd : p.dst = nodeNo s) (hk : p.kind = .collClose) :
    receiveClose p s = .next (takeAnswer s p) := by
  rw [receiveClose, badHeader_of_ok hok (by simp [hk]), if_neg Bool.false_ne_true, if_neg (by simp [hk]), if_neg (by simp [hd])]

/-! ## Scale-out ports -/

section
variable {port qp psn va len : Nat} {part : RdmaPart} {rkey : BitVec 32} {bs : List Byte}

theorem exec_rdmaReceive (port : Nat) (op : RdmaOp) (s : State) : exec (.rdmaReceive port op) s = execRdmaReceive port op s := rfl

/-- A packet of a write that has come before. -/
theorem exec_rdmaWrite_again (hq : qpReceives s port qp = true) (hf : s.dev.fatal = false) (hb : seenBefore s qp psn = true) :
    exec (.rdmaReceive port (.write part qp psn va rkey len bs)) s =
      .next (if part = .only ∨ part = .last then rdmaOut s port qp 2 va rkey.toNat psn [] else s) := by
  rw [exec_rdmaReceive]
  unfold execRdmaReceive
  dsimp only
  rw [if_neg (by simp [hq]), if_neg (by simp [hf]), if_pos hb]
  simp only [Bool.or_eq_true, decide_eq_true_eq]

/-- One out of its sequence. -/
theorem exec_rdmaWrite_outOfOrder (hq : qpReceives s port qp = true) (hf : s.dev.fatal = false) (hb : seenBefore s qp psn = false)
    (hp : psn ≠ qpExpected s qp) : exec (.rdmaReceive port (.write part qp psn va rkey len bs)) s =
      .next (rdmaOut s port qp 3 va rkey.toNat psn []) := by
  rw [exec_rdmaReceive]
  unfold execRdmaReceive
  dsimp only
  rw [if_neg (by simp [hq]), if_neg (by simp [hf]), if_neg (by simp [hb]), if_pos (by simpa using hp)]

theorem exec_rdmaWrite_refused (hq : qpReceives s port qp = true) (hf : s.dev.fatal = false) (hb : seenBefore s qp psn = false)
    (hp : psn = qpExpected s qp) (hw : writeSpot s part qp va rkey.toNat len bs.length = none) :
    exec (.rdmaReceive port (.write part qp psn va rkey len bs)) s = .next (rdmaNak s port qp va rkey.toNat psn) := by
  rw [exec_rdmaReceive]
  unfold execRdmaReceive
  dsimp only
  rw [if_neg (by simp [hq]), if_neg (by simp [hf]), if_neg (by simp [hb]), if_neg (by simp [hp]), hw]

theorem exec_rdmaWrite_takes {x : RdmaRx} (hq : qpReceives s port qp = true) (hf : s.dev.fatal = false) (hb : seenBefore s qp psn = false)
    (hp : psn = qpExpected s qp) (hw : writeSpot s part qp va rkey.toNat len bs.length = some x)
    (hz : frozenMeets s [(x.va, bs.length)] = false) :
    exec (.rdmaReceive port (.write part qp psn va rkey len bs)) s = .next (compared (rdmaWrite s port qp rkey.toNat psn x bs) 3) := by
  rw [exec_rdmaReceive]
  unfold execRdmaReceive
  dsimp only
  rw [if_neg (by simp [hq]), if_neg (by simp [hf]), if_neg (by simp [hb]), if_neg (by simp [hp]), hw]
  exact if_neg (by simp [hz])

theorem exec_rdmaRead_outOfOrder (hq : qpReceives s port qp = true) (hf : s.dev.fatal = false) (hb : seenBefore s qp psn = false)
    (hp : psn ≠ qpExpected s qp) : exec (.rdmaReceive port (.read qp psn va rkey len)) s =
      .next (rdmaOut s port qp 3 va rkey.toNat psn []) := by
  rw [exec_rdmaReceive]
  unfold execRdmaReceive
  dsimp only
  rw [if_neg (by simp [hq]), if_neg (by simp [hf]), if_pos (by simp [hb, hp])]

theorem exec_rdmaRead_takes (hq : qpReceives s port qp = true) (hf : s.dev.fatal = false)
    (hb : seenBefore s qp psn = true ∨ psn = qpExpected s qp) (hz : frozenMeets s [(va, len)] = false) :
    exec (.rdmaReceive port (.read qp psn va rkey len)) s = .next (compared (rdmaRead s port qp va rkey.toNat psn len) 3) := by
  have hn : (!seenBefore s qp psn && psn != qpExpected s qp) = false := by
    obtain h | h := hb
    · simp [h]
    · simp [h]
  rw [exec_rdmaReceive]
  unfold execRdmaReceive
  dsimp only
  rw [if_neg (by simp [hq]), if_neg (by simp [hf]), hn, hz]
  rfl

/-- An acknowledgement of no operation under way. -/
theorem exec_rdmaAck_dropped {c : CtxId} {q : Nat} (h : ∀ r ∈ s.net.rdma, ¬ (r.ctx = c ∧ r.seq = q)) :
    exec (.rdmaReceive port (.ack c q)) s = .next (modNet s (fun n => { n with dropped := n.dropped + 1 })) := by
  have hn : findRdma s c q = none := List.find?_eq_none.2 (fun r hr => by simpa using h r hr)
  rw [exec_rdmaReceive]
  unfold execRdmaReceive
  dsimp only
  rw [hn]

end

/-- The machine with an operation sent again. -/
def sentAgain (s : State) (r : RdmaWait) : State :=
  modNet (rdmaSend s (rdmaParts s r.msg)) (fun n => { n with
    rdma := n.rdma.map (fun q => if q.ctx == r.ctx && q.seq == r.seq && q.iter == r.iter then { q with since := s.ran, tries := q.tries + 1 } else q) })

theorem exec_rdmaAckTimeout_again {r : RdmaWait} (hr : s.net.rdma.find? (fun w => decide (w.since + ackTimeout s w.msg.qp ≤ s.ran)) = some r)
    (ht : r.tries < bits (qpWord s r.msg.qp 1) 50 48) : exec .rdmaAckTimeout s = .next (sentAgain s r) := by
  show execRdmaAckTimeout s = _
  rw [execRdmaAckTimeout, hr]
  exact if_pos ht

theorem exec_rdmaAckTimeout_fails {r : RdmaWait} (hr : s.net.rdma.find? (fun w => decide (w.since + ackTimeout s w.msg.qp ≤ s.ran)) = some r)
    (ht : bits (qpWord s r.msg.qp 1) 50 48 ≤ r.tries) : exec .rdmaAckTimeout s =
      .next (rdmaFails (setQpWord s r.msg.qp 0 (qpWord s r.msg.qp 0 / 8 * 8 + 4)) r) := by
  show execRdmaAckTimeout s = _
  rw [execRdmaAckTimeout, hr]
  exact if_neg (Nat.not_lt.2 ht)

end

/-- Settles O50: the events of a link, the packets of a collective and those of a scale-out port. -/
theorem linkAndCollectiveSteps : Obligations.LinkAndCollectiveSteps := by
  unfold Obligations.LinkAndCollectiveSteps
  intro s flits u
  refine ⟨fun l hu hh => ⟨fun o => exec_flitReplay hu hh, _, exec_linkRetrain hu hh, getLink_retrained s l, rfl, mem_retrained_out s l⟩,
    fun l => exec_linkRestored_retraining, fun l => exec_linkRestored_down, fun l => exec_linkDown, backFrom_sent s,
    backFrom_packets s, fun l vc o since => exec_deadlockTimer, ?_, ?_, ?_, ?_, ?_, ?_, fun c => exec_lossyClose,
    ?_, ?_, ?_, fun port c q => exec_rdmaAck_dropped, ?_⟩
  · intro p hok hf hd hk hg
    exact ⟨_, receiveOpen_noGang hok hf hd hk hg, landed_mem s p⟩
  · intro p g hok hf hd hk he hg
    exact ⟨_, receiveOpen_opens hok hf hd hk (by rw [landed_early]; exact he) hg, findColl_putColl _ _, landed_mem s p⟩
  · intro p q hok hf hd hk ht hq hl
    exact receiveBlock_reliable hok hf hd hk ht (hq ▸ hl)
  · intro p c ok hok hf hd hk ht hc ho
    exact receiveBlock_lossy hok hf hd hk ht ho hc
  · intro p ok hok hd hs hk ht hc hp
    exact receiveBlock_late hok hd hs hk ht hc hp
  · intro p ok hok hd hk ht hf
    exact receiveBlock_fatal hok hf hd hk ht
  · intro p hok hd hk
    exact receiveClose_takes hok hd hk
  · intro port part qp psn va rkey len bs hq hf step
    exact ⟨exec_rdmaWrite_again hq hf, exec_rdmaWrite_outOfOrder hq hf,
      fun hb hp => ⟨exec_rdmaWrite_refused hq hf hb hp, fun x => exec_rdmaWrite_takes hq hf hb hp⟩⟩
  · intro port qp psn va rkey n hq hf step
    exact ⟨exec_rdmaRead_outOfOrder hq hf, exec_rdmaRead_takes hq hf⟩
  · intro r hr
    exact ⟨fun ht => ⟨_, exec_rdmaAckTimeout_again hr ht, rfl, rfl, rfl⟩, exec_rdmaAckTimeout_fails hr⟩

end Sys2Proof.Machine
end

section
/-!
The register-only operations (03 R84, R94): what their issue leaves unchanged.
-/
namespace Sys2Proof.Machine

/-- A slot operation whose effect is register results and flags, or one result that lands later, with no stream and nothing done
before its issue, as its hold begins or after its bundle. -/
structure RegOp (so : SlotOp) : Prop where
  stream : so.stream = none
  illReg : so.illReg = fun _ _ _ => none
  early : so.early = fun _ s _ => s
  begins : so.begins = fun _ s _ => s
  post : so.post = fun _ _ s => .ok s
  run : ∀ is x s, (∃ ws fl, so.run is x s = .ok s ws fl ∧ ∀ w ∈ ws, w.1 ∈ so.writes) ∨
    ∃ l fl, so.run is x s = .ok (addLanding s x l) [] fl

/-- An operation that computes its results from its context alone. -/
theorem regOp_pure {reads : Ctx → List RegId} {writes : List RegId} {weight : Nat} {f : Ctx → List (RegId × Nat) × Flg}
    (h : ∀ x, ∀ w ∈ (f x).1, w.1 ∈ writes) : RegOp (pureOp reads writes weight f) :=
  ⟨rfl, rfl, rfl, rfl, rfl, fun _ x _ => .inl ⟨(f x).1, (f x).2, rfl, h x⟩⟩

theorem fst_mem_of_mem_single {r : RegId} {v : Nat} : ∀ w ∈ [(r, v)], w.1 ∈ [r] := by
  intro w hw
  rw [List.mem_singleton.1 hw]
  exact List.mem_singleton_self r

/-- One with one result. -/
theorem regOp_one (reads : Ctx → List RegId) (r : RegId) (weight : Nat) (v : Ctx → Nat) (fl : Ctx → Flg) :
    RegOp (pureOp reads [r] weight (fun x => ([(r, v x)], fl x))) := regOp_pure (fun _ => fst_mem_of_mem_single)

/-- One whose result lands later. -/
theorem regOp_late (reads : Ctx → List RegId) (ws : List RegId) (weight : Nat) (l : Ctx → Landing) (fl : Ctx → Flg) :
    RegOp (plainOp reads ws weight (fun _ x s => .ok (addLanding s x (l x)) [] (fl x))) :=
  ⟨rfl, rfl, rfl, rfl, rfl, fun _ x _ => .inr ⟨l x, fl x, rfl⟩⟩

/-- A move writes the registers that its form names. -/
theorem movWrites_mem (o : SR) (v : Nat) : ∀ w ∈ movWrites o v, w.1 ∈ movDst o := by
  intro w hw
  unfold movWrites at hw
  unfold movDst
  split at hw
  · exact fst_mem_of_mem_single w hw
  · exact fst_mem_of_mem_single w hw
  · exact fst_mem_of_mem_single w hw
  · obtain ⟨r, hr, rfl⟩ := List.mem_map.1 hw
    cases r <;> exact hr

theorem regOp_mov (o : SR) : RegOp (opMov o) := regOp_pure (fun x => movWrites_mem o (movVal o x))

theorem regOp_fcvt (o : SR) : RegOp (opFcvt o) := by
  refine regOp_pure (fun x => ?_)
  dsimp only
  split <;> exact fst_mem_of_mem_single

/-- Every register-only operation is one of these: a move, a conversion, an operation with one result, or one whose result lands. -/
theorem regOp_of (i : Instr) (h : registerOnly i = true) : RegOp (opOf i) := by
  cases i with
  | mov o => exact regOp_mov o
  | fcvt o => exact regOp_fcvt o
  | _ => first
    | exact Bool.noConfusion (show false = true from h)
    | exact regOp_one _ _ _ _ _
    | exact regOp_late _ _ _ _ _

theorem registerOnly_slot (i : Instr) (h : registerOnly i = true) : slotOpOf i = some (opOf i) ∧ ∃ t, slotOf i = some t ∧ t ≠ .br := by
  cases i <;> first
    | exact Bool.noConfusion (show false = true from h)
    | exact ⟨rfl, _, rfl, by decide⟩

section
variable {i : Instr} {s s1 : State} {x x1 : Ctx}

/-- At U no group is saved: the issue settles what is due and no more. -/
theorem issues_settled (h : Issues i s x s1 x1) (he : (opOf i).early = fun _ s _ => s) (hl : x.lvl = 0) : s1 = s ∧ x1 = settled x := by
  have hs := h.settles
  rw [earlyOf, he] at hs
  unfold settle at hs
  rw [saveGroups_of_saved (.inl hl)] at hs
  obtain ⟨rfl, rfl⟩ := Prod.mk.inj (Option.some.inj hs)
  exact ⟨rfl, rfl⟩

theorem exceptIssue_of_exceptFlight {x y : Ctx} (h : exceptFlight x = exceptFlight y) : exceptIssue x = exceptIssue y := by
  have e := congrArg exceptIssue h
  exact e

theorem fpflags_settled (x : Ctx) : (settled x).fpflags = x.fpflags := by
  have e := congrArg Ctx.fpflags (exceptFlight_settled x)
  exact e

/-- A register that no write names reads as before. -/
theorem regAfter_other {ws : List (RegId × Nat)} {x : Ctx} {r : RegId} (h : ∀ w ∈ ws, w.1 ≠ r) : regAfter ws x r = rdReg x r := by
  have hn : ws.reverse.find? (fun w => w.1 == r) = none :=
    List.find?_eq_none.2 (fun w hw => by simpa using h w (List.mem_reverse.1 hw))
  rw [regAfter, hn]

/-- The machine as the issue leaves it before its writes: the part, and every other context, as in s. -/
structure OnlyCtx (s s3 : State) : Prop where
  parts : (s3.mem, s3.pkg, s3.dev, s3.net, s3.spring, s3.ghosts) = (s.mem, s.pkg, s.dev, s.net, s.spring, s.ghosts)
  others : ∀ c, ctxKey c ≠ ctxKey s.cur → getCtx s3 c = getCtx s c

theorem onlyCtx_putCtx {y : Ctx} (hy : y.id = s.cur) : OnlyCtx s (putCtx s y) :=
  ⟨rfl, fun c hc => by rw [getCtx_putCtx, if_neg (by rw [hy]; exact hc)]⟩

theorem onlyCtx_landing {y : Ctx} (hy : y.id = s.cur) (l : Landing) : OnlyCtx s (addLanding (putCtx s y) y l) := by
  have e : addLanding (putCtx s y) y l = putCtx (putCtx s y) { y with land := y.land ++ [l] } := by
    rw [addLanding, modCtx, getCtx_putCtx_self]
  rw [e]
  refine ⟨rfl, fun c hc => ?_⟩
  have hk : ctxKey c ≠ ctxKey y.id := by rw [hy]; exact hc
  rw [getCtx_putCtx, if_neg hk, getCtx_putCtx, if_neg hk]

/-- The frame of an issue that writes ws and raises flags, from a context that reads as the settled one. -/
theorem frame_of_wrote {s3 t : State} {y3 : Ctx} {ws : List (RegId × Nat)} {fl : Flg} {W : List RegId} (hw : Wrote i s s3 y3 ws fl t)
    (ho : OnlyCtx s s3) (hws : ∀ w ∈ ws, w.1 ∈ W) (he : exceptFlight y3 = exceptFlight x) (hr : ∀ r, rdReg y3 r = rdReg (settled x) r) :
    t.mem = s.mem ∧ t.pkg = s.pkg ∧ t.dev = s.dev ∧ t.net = s.net ∧ t.spring = s.spring ∧ t.ghosts = s.ghosts ∧
    (∀ c, ctxKey c ≠ ctxKey s.cur → getCtx t c = getCtx s c) ∧
    ∃ y, getCtx t s.cur = some y ∧ exceptIssue y = exceptIssue x ∧ x.fpflags ||| y.fpflags = y.fpflags ∧
      ∀ r, r ∉ W → rdReg y r = rdReg (settled x) r := by
  have hparts : (t.mem, t.pkg, t.dev, t.net, t.spring, t.ghosts) = (s.mem, s.pkg, s.dev, s.net, s.spring, s.ghosts) := by
    have e := congrArg (fun u : State => (u.mem, u.pkg, u.dev, u.net, u.spring, u.ghosts)) hw.rest
    exact Eq.trans e ho.parts
  simp only [Prod.mk.injEq] at hparts
  obtain ⟨h1, h2, h3, h4, h5, h6⟩ := hparts
  obtain ⟨y, hy, hregs, hfl, -, -, -, -, -, -, hex⟩ := hw.ctx
  have hfx : y3.fpflags = x.fpflags := by
    have e := congrArg Ctx.fpflags he
    exact e
  refine ⟨h1, h2, h3, h4, h5, h6, fun c hc => (hw.others c hc).trans (ho.others c hc), y, hy,
    hex.trans (exceptIssue_of_exceptFlight he), ?_, fun r hn => ?_⟩
  · rw [hfl, hfx, ← BitVec.or_assoc, BitVec.or_self]
  · rw [hregs r, regAfter_other (fun w hm (e : w.1 = r) => hn (e ▸ hws w hm)), hr]

end

/-- Settles O55: the issue settles what is due, writes its destinations or adds a landing, and touches nothing else. -/
theorem registerOperationFrame : Obligations.RegisterOperationFrame := by
  unfold Obligations.RegisterOperationFrame
  intro i s s1 t x x1 hreg hI hl hex
  have hop := regOp_of i hreg
  obtain ⟨hso, sl, hslot, hbr⟩ := registerOnly_slot i hreg
  obtain ⟨rfl, rfl⟩ := issues_settled hI hop.early hl
  have hid : (settled x).id = s1.cur := (settle_id hI.settles).trans hI.itsId
  have hlvl : (settled x).lvl = 0 := by
    have e := congrArg Ctx.lvl (exceptFlight_settled x)
    exact e.trans hl
  have hdone : ∀ s2 ws fl, (opOf i).run (issAt i s1) (settled x) (putCtx s1 (settled x)) = .ok s2 ws fl → Completes i s1 s2 ws fl :=
    fun s2 ws fl => completes (exec_slot i s1 (by rw [hso]; rfl)) hso (slotFor_lt hslot _) (slotFor_ne hslot hbr _)
      (by rw [hop.stream]; intro j h; exact absurd h (by simp)) hI
  obtain ⟨ws, fl, hrun, hws⟩ | ⟨l, fl, hrun⟩ := hop.run (issAt i s1) (settled x) (putCtx s1 (settled x))
  · obtain ⟨t', ht', hw⟩ := hdone _ _ _ hrun (settled x) _ _ (by rw [← hid]; exact getCtx_putCtx_self _ _) hid
      (saveGroups_of_saved (.inl hlvl))
    obtain rfl : t' = t := Host.Outcome.next.inj (ht'.symm.trans hex)
    exact frame_of_wrote hw (onlyCtx_putCtx hid) hws (exceptFlight_settled x) (fun _ => rfl)
  · have hget : getCtx (addLanding (putCtx s1 (settled x)) (settled x) l) s1.cur =
        some { settled x with land := (settled x).land ++ [l] } := by
      rw [← hid]
      exact getCtx_modCtx _ _ (getCtx_putCtx_self s1 (settled x)) rfl
    obtain ⟨t', ht', hw⟩ := hdone _ _ _ hrun _ _ _ hget hid (saveGroups_of_saved (.inl hlvl))
    obtain rfl : t' = t := Host.Outcome.next.inj (ht'.symm.trans hex)
    exact frame_of_wrote hw (onlyCtx_landing hid l) (by simp) (exceptFlight_settled x) (fun r => by cases r <;> rfl)

end Sys2Proof.Machine
end

section
/-!
OPERATION_PERFORMED (08 R255 to R258, R271): what a store and an atomic leave of memory and of their context.
-/
namespace Sys2Proof.Machine

section
variable {s : State} {x : Ctx} {o : MemOp}

/-! ## The event -/

theorem exec_operationPerformed {c : CtxId} {seq : Nat} {t : State} (hx : findOwner s c seq = some x) (ho : findOp x seq = some o)
    (ha : o.awaiting = []) (hp : o.done.isSome = true ∨ o.started = true ∨
      (mayPerform x o = true ∧ (reachesHome o = true → behindReleased s x o.phys = false)))
    (h : performKind s x o = some t) : exec (.operationPerformed c seq) s = .next t := by
  have hgo : (o.done.isNone && !o.started && (!mayPerform x o || (reachesHome o && behindReleased s x o.phys))) = false := by
    obtain h | h | ⟨h, h2⟩ := hp
    · obtain ⟨d, hd⟩ := Option.isSome_iff_exists.1 h
      simp [hd]
    · simp [h]
    · cases hr : reachesHome o
      · simp [h]
      · simp [h, h2 hr]
  have hq : performOp s c seq = some t := by
    unfold performOp
    rw [hx]
    dsimp only
    rw [ho]
    dsimp only
    rw [ha, hgo]
    exact h
  show execOperationPerformed c seq s = _
  rw [execOperationPerformed, hq]

/-! ## Places in Mere -/

theorem opAccess_mere {a : Nat} {p : Place} {g : Gran} (hm : inMere a = true)
    (hp : merePlace s x.id.cl x.env.iter x.env.gang a = some (p, g)) (r : AccReq) : opAccess s x o a r = (s, .ok p) := by
  rw [opAccess, objAccess, if_pos hm, hp]

theorem merePlace_space {cl iter gang a : Nat} {p : Place} {g : Gran} (h : merePlace s cl iter gang a = some (p, g)) :
    p.space = .mere := by
  unfold merePlace at h
  dsimp only at h
  split at h
  · exact absurd h (by simp)
  · obtain ⟨rfl, -⟩ := Prod.mk.inj (Option.some.inj h)
    rfl

/-- A write into Mere touches no table. -/
theorem homeWrite_mere {p : Place} (h : p.space = .mere) (bs : List Byte) : homeWrite s p bs = writePlace s p bs := by
  have hs : hostSettled s none p bs.length = s := if_neg (by rw [h]; decide)
  rw [homeWrite, hs, entriesIn_mere _ _ _ _ h, entriesIn_mere _ _ _ _ h]
  rfl

theorem homeTouch_mere {p : Place} (h : p.space = .mere) (va : Nat) : homeTouch s va p = s := if_neg (by rw [h]; decide)

/-- t is s with bytes of Mere written at a place, and no other byte of the part's memories. -/
structure MerePut (s t : State) (p : Place) (bs : List Byte) : Prop where
  hbm : t.mem.hbm = s.mem.hbm
  carved : t.mem.carved = s.mem.carved
  mere : ∀ b, cellGet t.mem.mere b = if p.addr ≤ b ∧ b < p.addr + bs.length then bs.getD (b - p.addr) 0 else cellGet s.mem.mere b

theorem merePut_writePlace {p : Place} (h : p.space = .mere) (bs : List Byte) : MerePut s (writePlace s p bs) p bs where
  hbm := (writePlace_cells s p bs .hbm (by decide) (by rw [h]; decide)).trans (if_neg (by rw [h]; decide))
  carved := (writePlace_cells s p bs .carved (by decide) (by rw [h]; decide)).trans (if_neg (by rw [h]; decide))
  mere b := by
    have e := (writePlace_cells s p bs .mere (by decide) (by rw [h]; decide)).trans (if_pos h.symm)
    have e' : (writePlace s p bs).mem.mere = cellsPut s.mem.mere p.addr bs := e
    rw [e', cellGet_put]

/-- The home of a write keeps its bytes. -/
theorem merePut_homeStored {t : State} {p q : Place} {bs : List Byte} (h : MerePut s t p bs) (hq : q.space = .mere) (va : Nat) :
    MerePut s (homeStored t va q) p bs := by
  rw [homeStored, homeTouch_mere hq]
  exact ⟨(markDirty_cells t q 1 .hbm).trans h.hbm, (markDirty_cells t q 1 .carved).trans h.carved,
    fun b => (congrArg (cellGet · b) (markDirty_cells t q 1 .mere)).trans (h.mere b)⟩

theorem merePut_of_mem {t u : State} {p : Place} {bs : List Byte} (h : MerePut s t p bs) (hm : u.mem = t.mem) : MerePut s u p bs :=
  ⟨by rw [hm]; exact h.hbm, by rw [hm]; exact h.carved, fun b => by rw [hm]; exact h.mere b⟩

theorem merePut_from {s' t : State} {p : Place} {bs : List Byte} (h : MerePut s' t p bs) (hb : SameBytes s s') : MerePut s t p bs :=
  ⟨h.hbm.trans (hb .hbm (by decide)), h.carved.trans (hb .carved (by decide)), fun b => by
    rw [h.mere b]
    exact congrArg (fun c => ite _ _ (cellGet c b)) (hb .mere (by decide))⟩

/-! ## Owners -/

theorem again_mem (s : State) (x : Ctx) (f : Ctx → Ctx) : (again s x f).mem = s.mem := by
  unfold again
  split
  · rfl
  · exact putOwner_mem _ _

theorem getOwner_congr {s t : State} (hc : t.ctxs = s.ctxs) (hg : t.ghosts = s.ghosts) (c : CtxId) (i : Nat) : getOwner t c i = getOwner s c i := by
  have e : getCtx t c = getCtx s c := congrArg (smFind · (ctxKey c)) hc
  rw [getOwner, getOwner, e, hg]

/-- An owner is the resident context at its position or one of the retired ones. -/
theorem getOwner_cases {c : CtxId} {i : Nat} (h : getOwner s c i = some x) :
    (getCtx s c = some x ∧ x.env.iter = i) ∨
      ((∀ z, getCtx s c = some z → (z.env.iter == i) = false) ∧ s.ghosts.find? (fun g => g.id == c && g.env.iter == i) = some x) := by
  unfold getOwner at h
  cases hz : getCtx s c with
  | none =>
    rw [hz] at h
    exact .inr ⟨fun z h => absurd h (by simp), h⟩
  | some z =>
    rw [hz] at h
    dsimp only at h
    split at h
    · next hi =>
      obtain rfl := Option.some.inj h
      exact .inl ⟨rfl, by simpa using hi⟩
    · next hi =>
      exact .inr ⟨fun w hw => by
        obtain rfl := Option.some.inj hw
        simpa using hi, h⟩

theorem find?_map_replaced {α : Type} (p : α → Bool) (y : α) (hy : p y = true) (l : List α) (x : α) (h : l.find? p = some x) :
    (l.map (fun g => if p g then y else g)).find? p = some y := by
  induction l with
  | nil => exact absurd h (by simp)
  | cons g l ih =>
    rw [List.map_cons]
    cases hg : p g with
    | true => simp [hy]
    | false =>
      rw [List.find?_cons, hg] at h
      simpa [hg] using ih h

/-- An operation's own context after its update, resident or retired. -/
theorem getOwner_putOwner {x y : Ctx} (h : getOwner s x.id x.env.iter = some x) (hid : y.id = x.id) (hit : y.env.iter = x.env.iter) :
    getOwner (putOwner s y) x.id x.env.iter = some y := by
  obtain ⟨hc, -⟩ | ⟨hc, hf⟩ := getOwner_cases h
  · have hr : isResident s y = true := by simp [isResident, hid, hit, hc]
    have e : getCtx (putCtx s y) x.id = some y := by rw [← hid, getCtx_putCtx_self]
    rw [putOwner, if_pos hr, getOwner, e]
    simp [hit]
  · have hr : isResident s y = false := by
      unfold isResident
      rw [hid, hit]
      cases hz : getCtx s x.id with
      | none => rfl
      | some z => exact hc z hz
    have hm : (s.ghosts.map (fun g => if g.id == y.id && g.env.iter == y.env.iter then y else g)).find?
        (fun g => g.id == x.id && g.env.iter == x.env.iter) = some y := by
      rw [hid, hit]
      exact find?_map_replaced (fun g : Ctx => g.id == x.id && g.env.iter == x.env.iter) y (by simp [hid, hit]) _ _ hf
    rw [putOwner, if_neg (by rw [hr]; decide)]
    unfold getOwner
    cases hz : getCtx s x.id with
    | none =>
      have e : getCtx { s with ghosts := s.ghosts.map (fun g => if g.id == y.id && g.env.iter == y.env.iter then y else g) } x.id = none := hz
      rw [e]
      exact hm
    | some z =>
      have e : getCtx { s with ghosts := s.ghosts.map (fun g => if g.id == y.id && g.env.iter == y.env.iter then y else g) } x.id = some z := hz
      rw [e]
      dsimp only
      rw [hc z hz]
      exact hm

/-- What a release leaves of an operation (08 R271). -/
def markedReleased (pm : BitVec 16) (o : MemOp) : MemOp := if isBuffered o && pm.getLsbD o.ss then { o with released := true } else o

theorem markedReleased_of_released {pm : BitVec 16} (h : (isBuffered o && pm.getLsbD o.ss && !o.released) = false) :
    markedReleased pm o = o := by
  unfold markedReleased
  split
  · next hb =>
    have hr : o.released = true := by simpa [hb] using h
    cases o
    simp_all
  · rfl

@[simp] theorem markedReleased_seq (pm : BitVec 16) (o : MemOp) : (markedReleased pm o).seq = o.seq := by
  unfold markedReleased
  split <;> rfl

theorem publish_mem (s : State) (c : CtxId) (i : Nat) (pm : BitVec 16) : (publish s c i pm).mem = s.mem := by
  have h1 : (if s.net.hostq.isEmpty then s else modNet s (fun n => { n with hostq := n.hostq.map (publishPosted c i pm) })).mem = s.mem := by
    split <;> rfl
  unfold publish
  dsimp only
  split
  · exact h1
  · split
    · exact (putOwner_mem _ _).trans h1
    · exact h1

/-- A release marks what its context has on the way home. -/
theorem getOwner_publish (pm : BitVec 16) (h : getOwner s x.id x.env.iter = some x) :
    getOwner (publish s x.id x.env.iter pm) x.id x.env.iter = some { x with ops := x.ops.map (markedReleased pm) } := by
  have h1 : getOwner (if s.net.hostq.isEmpty then s else
      modNet s (fun n => { n with hostq := n.hostq.map (publishPosted x.id x.env.iter pm) })) x.id x.env.iter = some x := by
    split
    · exact h
    · exact h
  unfold publish
  dsimp only
  rw [h1]
  dsimp only
  split
  · exact getOwner_putOwner (y := { x with ops := x.ops.map (markedReleased pm) }) h1 rfl rfl
  · next hn =>
    rw [h1]
    have hm : x.ops.map (markedReleased pm) = x.ops := by
      refine (List.map_congr_left fun q hq => ?_).trans (List.map_id _)
      exact markedReleased_of_released (by
        have := List.any_eq_false.1 (by simpa using hn : x.ops.any (fun o => isBuffered o && pm.getLsbD o.ss && !o.released) = false) q hq
        simpa using this)
    rw [hm]

/-! ## Stores -/

/-- One run at its place; nothing of it goes to another package. -/
theorem storePlaces_one {a : Nat} {bs : List Byte} {s1 : State} {p : Place} (h : opAccess s x o a accWrite = (s1, .ok p))
    (hp : p.space ≠ .peer) : storePlaces s x o [(a, bs)] = (s1, .inl [(a, p, bs)]) := by
  have hc : (decide (p.space = .peer) && !reachable s1 p.node) = false := by simp [hp]
  rw [storePlaces, h]
  dsimp only
  rw [hc]
  rfl

theorem placeWrite_home {p : Place} (hp : p.space ≠ .host) (ss : Nat) (bs : List Byte) : placeWrite s x ss p bs = homeWrite s p bs :=
  if_neg hp

/-- A store that no buffer keeps writes its one run at its home. -/
theorem putStore_home {a : Nat} {bs : List Byte} {s1 : State} {p : Place} (h : opAccess s x o a accWrite = (s1, .ok p))
    (hp : p.space ≠ .peer) (hh : p.space ≠ .host) (hk : o.scope ≤ 2 → p.space ≠ .hbm ∧ p.space ≠ .carved) :
    putStore s x o false [(a, bs)] = again (homeStored (homeWrite s1 p bs) a p) x (fun y => opOut y o) := by
  have hc : (decide (o.scope ≤ 2) && (p.space == .hbm || p.space == .carved)) = false := by
    by_cases hs : o.scope ≤ 2
    · obtain ⟨h1, h2⟩ := hk hs
      simp [h1, h2]
    · simp [hs]
  unfold putStore
  rw [storePlaces_one h hp]
  have hf : [(a, p, bs)].filter (fun w : Nat × Place × List Byte => w.2.1.space == .peer) = [] := by simp [hp]
  have hn : [(a, p, bs)].filter (fun w : Nat × Place × List Byte => w.2.1.space != .peer) = [(a, p, bs)] := by simp [hp]
  dsimp only
  rw [hf, hn]
  rw [if_neg (by simpa using hc), List.foldl_cons, List.foldl_nil, putHome, placeWrite_home hh, sendWrites, if_pos rfl]

/-- A store of cluster scope or narrower to the package's memory is held, with memory as it was. -/
theorem putStore_held {a : Nat} {bs : List Byte} {s1 : State} {p : Place} (h : opAccess s x o a accWrite = (s1, .ok p))
    (hp : p.space = .hbm ∨ p.space = .carved) (hs : o.scope ≤ 2) : (putStore s x o false [(a, bs)]).mem = s1.mem := by
  have hne : p.space ≠ .peer := by rcases hp with h | h <;> rw [h] <;> decide
  unfold putStore
  rw [storePlaces_one h hne]
  have hf : [(a, p, bs)].filter (fun w : Nat × Place × List Byte => w.2.1.space == .peer) = [] := by simp [hne]
  have hn : [(a, p, bs)].filter (fun w : Nat × Place × List Byte => w.2.1.space != .peer) = [(a, p, bs)] := by simp [hne]
  dsimp only
  rw [hf, hn, if_pos (by simpa [hs] using hp)]
  exact again_mem _ _ _

theorem performStore_one {a : Nat} {bs : List Byte} (hk : o.kind = .store false [(a, bs)]) (hd : o.done = none)
    (hc : inContain a = false) : performKind s x o = some (putStore s x o false [(a, bs)]) := by
  unfold performKind
  rw [hk]
  dsimp only
  rw [performStore, hd, if_neg (by decide)]
  rw [hc]
  rfl

theorem performStore_mere {a : Nat} {bs : List Byte} {p : Place} {g : Gran} (hm : inMere a = true)
    (hp : merePlace s x.id.cl x.env.iter x.env.gang a = some (p, g)) : MerePut s (putStore s x o false [(a, bs)]) p bs := by
  have hsp := merePlace_space hp
  rw [putStore_home (opAccess_mere hm hp accWrite) (by rw [hsp]; decide) (by rw [hsp]; decide) (fun _ => by rw [hsp]; decide),
    homeWrite_mere hsp]
  exact merePut_of_mem (merePut_homeStored (merePut_writePlace hsp bs) hsp a) (again_mem _ _ _)

/-! ## Atomics -/

/-- An atomic on sound bytes of Mere: the bytes of its new value, its old value, and the contexts as they were. -/
theorem rmwAt_mere {va n : Nat} {p : Place} {f : Nat → Option Nat} {v : Nat} (hp : p.space = .mere)
    (hn : isPoisoned (probeRange s p n) p n = false) (hf : f (leNat (cellsGet s.mem.mere p.addr n)) = some v) :
    ∃ t, rmwAt s va p n f = (t, some (leNat (cellsGet s.mem.mere p.addr n))) ∧ MerePut s t p (natLe n v) ∧
      t.ctxs = s.ctxs ∧ t.ghosts = s.ghosts := by
  have hs : (if p.space = .host then hostUpTo s (fun _ => true) else s) = s := if_neg (by rw [hp]; decide)
  have hb := probeRange_bytes s p n
  have hr : readPlace (probeRange s p n) p n = cellsGet s.mem.mere p.addr n := by
    have e : spaceCells (probeRange s p n) .mere = s.mem.mere := hb .mere (by decide)
    rw [readPlace, hp, e]
  have st : MemStep s (homeStored (homeWrite (probeRange s p n) p (natLe n v)) va p) := by
    rw [homeStored, homeTouch_mere hp, homeWrite_mere hp]
    exact (MemStep.probeRange s p n).trans ((MemStep.writePlace _ p _).trans (MemStep.markDirty _ p 1))
  refine ⟨homeStored (homeWrite (probeRange s p n) p (natLe n v)) va p, ?_, ?_, st.ctxs, ?_⟩
  · unfold rmwAt
    rw [hs]
    dsimp only
    rw [hn, if_neg (by decide), hr, hf]
    rfl
  · rw [homeWrite_mere hp]
    exact merePut_homeStored (merePut_from (merePut_writePlace hp _) hb) hp va
  · have e := congrArg State.ghosts st.rest
    exact e

/-- An atomic that answers: its memory, and its context with the result, the release's marks and the operation gone. -/
theorem performRmw_mere {a n pkt : Nat} {data : List Byte} {f : Nat → Option Nat} {v : Nat} {fin : Ctx → Nat → Ctx} {p : Place} {g : Gran}
    (hm : inMere a = true) (hp : merePlace s x.id.cl x.env.iter x.env.gang a = some (p, g))
    (hn : isPoisoned (probeRange s p n) p n = false) (hf : f (leNat (cellsGet s.mem.mere p.addr n)) = some v)
    (hfin : ∀ y w, (fin y w).id = y.id ∧ (fin y w).env = y.env) :
    MerePut s (performRmw s x o a n pkt false data f fin) p (natLe n v) ∧
      (getOwner s x.id x.env.iter = some x →
        getOwner (performRmw s x o a n pkt false data f fin) x.id x.env.iter =
          some (opOut (fin { x with ops := x.ops.map (markedReleased o.pm) } (leNat (cellsGet s.mem.mere p.addr n))) o)) := by
  have hsp := merePlace_space hp
  obtain ⟨t, ht, hmem, hc, hg⟩ := rmwAt_mere (va := a) hsp hn hf
  have e : performRmw s x o a n pkt false data f fin = again (publish t x.id x.env.iter o.pm) x
      (fun y => opOut (fin y (leNat (cellsGet s.mem.mere p.addr n))) o) := by
    unfold performRmw
    rw [opAccess_mere hm hp]
    dsimp only
    rw [if_neg (by rw [hsp]; decide), ht]
    dsimp only
    rw [hf]
    rfl
  rw [e]
  refine ⟨merePut_of_mem hmem ((again_mem _ _ _).trans (publish_mem _ _ _ _)), fun h => ?_⟩
  have ho : getOwner t x.id x.env.iter = some x := (getOwner_congr hc hg _ _).trans h
  have hpub := getOwner_publish o.pm ho
  obtain ⟨hi, he⟩ := hfin { x with ops := x.ops.map (markedReleased o.pm) } (leNat (cellsGet s.mem.mere p.addr n))
  rw [again, hpub]
  have out_id : ∀ y : Ctx, (opOut y o).id = y.id ∧ (opOut y o).env = y.env := fun y => by
    unfold opOut
    dsimp only
    split <;> exact ⟨rfl, rfl⟩
  obtain ⟨oi, oe⟩ := out_id (fin { x with ops := x.ops.map (markedReleased o.pm) } (leNat (cellsGet s.mem.mere p.addr n)))
  exact getOwner_putOwner (x := { x with ops := x.ops.map (markedReleased o.pm) }) hpub (oi.trans hi)
    ((congrArg Env.iter oe).trans (congrArg Env.iter he))

theorem opOut_ops (y : Ctx) (o : MemOp) : (opOut y o).ops = y.ops.filter (fun q => q.seq != o.seq) := by
  unfold opOut
  dsimp only
  split <;> rfl

theorem opOut_pend (y : Ctx) (o : MemOp) : (opOut y o).pend = y.pend := by
  unfold opOut
  dsimp only
  split <;> rfl

end

/-! ## What performing an operation changes (08 R255, R256, R268, R271) -/

/-- Settles O48: a store or an atomic on the gang's Mere changes the bytes of its own place; a store to the package's memory
is held by its holder, or reaches its home. -/
theorem operationPerformed : Obligations.OperationPerformed := by
  unfold Obligations.OperationPerformed
  intro c seq s x o hx ho ha hready
  have run : ∀ {t : State}, performKind s x o = some t → exec (.operationPerformed c seq) s = .next t :=
    exec_operationPerformed hx ho ha hready
  refine ⟨fun _ => run, ?_, ?_, ?_⟩
  · intro a bs p g hk hd hm hc hp
    have put := performStore_mere (o := o) (bs := bs) hm hp
    exact ⟨_, run (performStore_one hk hd hc), put.hbm, put.carved, put.mere⟩
  · intro d e a n u sx p g hk hm hp hn
    obtain ⟨put, own⟩ := performRmw_mere (o := o) (pkt := e + 16 * sizeCode n) (data := natLe n u)
      (f := fun t => some (amoNew e (8 * n) t u)) (fin := fun y t => opResult y o.seq (.s d) (extTo sx (8 * n) t)) hm hp hn rfl
      (fun _ _ => ⟨rfl, rfl⟩)
    have hrun := run (t := performRmw s x o a n (e + 16 * sizeCode n) false (natLe n u) (fun t => some (amoNew e (8 * n) t u))
      (fun y t => opResult y o.seq (.s d) (extTo sx (8 * n) t))) (by unfold performKind; rw [hk]; rfl)
    refine ⟨_, hrun, put.hbm, put.carved, fun b => ?_, fun h => ⟨_, own h, ?_, ?_⟩⟩
    · rw [put.mere b, natLe_length]
    · rw [opOut_pend]
      refine List.map_congr_left fun q _ => ?_
      simp
    · rw [opOut_ops]
      have hcomm : ∀ l : List MemOp, (l.map (markedReleased o.pm)).filter (fun q => q.seq != o.seq)
          = (l.filter (fun q => q.seq != o.seq)).map (markedReleased o.pm) := fun l => by
        rw [List.filter_map]
        congr 2
        funext q
        simp
      refine (hcomm x.ops).trans (List.map_congr_left fun q _ => ?_)
      simp [markedReleased]
  · intro a bs s1 p hk hd hc hacc hp
    refine ⟨fun hs => ⟨_, run (performStore_one hk hd hc), putStore_held hacc hp hs⟩, fun hs => ?_⟩
    rw [run (performStore_one hk hd hc), putStore_home hacc ?_ ?_ (fun h => absurd h (by omega))]
    · rcases hp with h | h <;> rw [h] <;> decide
    · rcases hp with h | h <;> rw [h] <;> decide

end Sys2Proof.Machine
end

section
/-!
Every memory stays in its canonical form (log 4): what the updates of the state, accesses, translations, purges and exceptions leave.
Each lemma names the operations that the one it is about is made of; the memory itself is changed by `modMem` alone.
-/
namespace Sys2Proof.Machine

/-! ## The canonical form of a state -/

/-- Every memory of a state is in its canonical form (log 4). -/
def Formed (s : State) : Prop := s.mem.wf = true

theorem formed_of_mem {s t : State} (e : t.mem = s.mem) (h : Formed s) : Formed t := by
  unfold Formed
  rwa [e]

/-- A fold keeps the form where each of its steps does. -/
theorem foldl_formed {α : Type} {f : State → α → State} {l : List α} {s : State} (hf : ∀ t a, Formed t → Formed (f t a)) (h : Formed s) :
    Formed (l.foldl f s) := foldl_keeps Formed f hf l s h

theorem foldl_fst_formed {α β : Type} {f : State × β → α → State × β} {l : List α} {r : State × β}
    (hf : ∀ r a, Formed r.1 → Formed (f r a).1) (h : Formed r.1) : Formed (l.foldl f r).1 :=
  foldl_keeps (fun r => Formed r.1) f hf l r h

/-! ## Accessors, memory, translation, tables, purges and exceptions -/

theorem putCtx_formed {s : State} {x : Ctx} (h : Formed s) : Formed (putCtx s x) := h

theorem dropCtx_formed {s : State} {c : CtxId} (h : Formed s) : Formed (dropCtx s c) := h

theorem modCtx_formed {s : State} {c : CtxId} {f : Ctx → Ctx} (h : Formed s) : Formed (modCtx s c f) := by
  unfold modCtx
  grind [putCtx_formed]

theorem putCl_formed {s : State} {cl : Nat} {x : Cluster} (h : Formed s) : Formed (putCl s cl x) := h

theorem modCl_formed {s : State} {cl : Nat} {f : Cluster → Cluster} (h : Formed s) : Formed (modCl s cl f) := by
  unfold modCl
  grind [putCl_formed]

theorem putCore_formed {s : State} {cl core : Nat} {y : Core} (h : Formed s) : Formed (putCore s cl core y) := by
  unfold putCore
  grind [modCl_formed]

theorem modCore_formed {s : State} {cl core : Nat} {f : Core → Core} (h : Formed s) : Formed (modCore s cl core f) :=
  (PurgeStep.modCore _ _ _ _).wf h

theorem modPair_formed {s : State} {cl p : Nat} {f : Pair → Pair} (h : Formed s) : Formed (modPair s cl p f) := by
  unfold modPair
  grind [modCl_formed]

theorem putBank_formed {s : State} {cl b : Nat} {y : Bank} (h : Formed s) : Formed (putBank s cl b y) := by
  unfold putBank
  grind [modCl_formed]

theorem modPkg_formed {s : State} {f : Pkg → Pkg} (h : Formed s) : Formed (modPkg s f) := h

theorem modDev_formed {s : State} {f : Dev → Dev} (h : Formed s) : Formed (modDev s f) := h

theorem modNet_formed {s : State} {f : Net → Net} (h : Formed s) : Formed (modNet s f) := (PurgeStep.modNet _ _).wf h

theorem modMem_formed {s : State} {f : Mem → Mem} (hf : s.mem.wf = true → (f s.mem).wf = true) (h : Formed s) : Formed (modMem s f) := hf h

theorem modSpring_formed {s : State} {f : Spring → Spring} (h : Formed s) : Formed (modSpring s f) := (PurgeStep.modSpring _ _).wf h

theorem putOwner_formed {s : State} {x : Ctx} (h : Formed s) : Formed (putOwner s x) := (PurgeStep.putOwner _ _).wf h

theorem setSpaceCells_formed {s : State} {p : Space} {m : List Host.Cell} (hm : cellsWf m = true) (h : Formed s) :
    Formed (setSpaceCells s p m) := setSpaceCells_wf s p m h hm

theorem setPoisonList_formed {s : State} {p : Space} {l : List Nat} (h : Formed s) : Formed (setPoisonList s p l) :=
  (MemStep.setPoisonList _ _ _).wf h

theorem sendPkts_formed {s : State} {l : List Packet} (h : Formed s) : Formed (sendPkts s l) := h

theorem postNotice_formed {s : State} {kind tag data : Nat} (h : Formed s) : Formed (postNotice s kind tag data) :=
  (MemStep.postNotice _ _ _ _).wf h

theorem goFatal_formed {s : State} {n : Nat} (h : Formed s) : Formed (goFatal s n) := (MemStep.goFatal _ _).wf h

theorem compared_formed {s : State} {n : Nat} (h : Formed s) : Formed (compared s n) := (MemStep.compared _ _).wf h

theorem makeRecord_formed {s : State} {p : Space} {u : Nat} (h : Formed s) : Formed (makeRecord s p u) := (MemStep.makeRecord _ _ _).wf h

theorem poisonUnit_formed {s : State} {p : Space} {u : Nat} (h : Formed s) : Formed (poisonUnit s p u) := (MemStep.poisonUnit _ _ _).wf h

theorem clearFlips_formed {s : State} {p : Space} {u : Nat} (h : Formed s) : Formed (clearFlips s p u) := (MemStep.clearFlips _ _ _).wf h

theorem countCorrected_formed {s : State} (h : Formed s) : Formed (countCorrected s) := h

theorem probeUnit_formed {s : State} {p : Space} {u : Nat} (h : Formed s) : Formed (probeUnit s p u) := (MemStep.probeUnit _ _ _).wf h

theorem probeRange_formed {s : State} {pl : Place} {n : Nat} (h : Formed s) : Formed (probeRange s pl n) := (MemStep.probeRange _ _ _).wf h

theorem writeUnit_formed {s : State} {pl : Place} {n u : Nat} (h : Formed s) : Formed (writeUnit s pl n u) :=
  (MemStep.writeUnit _ _ _ _).wf h

theorem rawSectors_formed {s : State} {pl : Place} {n : Nat} (h : Formed s) : Formed (rawSectors s pl n) := (MemStep.rawSectors _ _ _).wf h

theorem markDirty_formed {s : State} {pl : Place} {n : Nat} (h : Formed s) : Formed (markDirty s pl n) := (MemStep.markDirty _ _ _).wf h

theorem writePlace_formed {s : State} {pl : Place} {bs : List Byte} (h : Formed s) : Formed (writePlace s pl bs) :=
  (MemStep.writePlace _ _ _).wf h

theorem hostTake_formed {s : State} {w : Posted} (h : Formed s) : Formed (hostTake s w) := hostTake_wf s w h

theorem hostUpTo_formed {s : State} {sel : Posted → Bool} (h : Formed s) : Formed (hostUpTo s sel) := (PurgeStep.hostUpTo _ _).wf h

theorem hostSettled_formed {s : State} {who : Option (CtxId × Nat)} {p : Place} {n : Nat}
    (h : Formed s) : Formed (hostSettled s who p n) :=
  (PurgeStep.hostSettled _ _ _ _).wf h

theorem hostPass_formed {cyc : Nat} {r : State × List Posted} {w : Posted × Nat} (h : Formed r.1) : Formed (hostPass cyc r w).1 := by
  unfold hostPass
  grind [hostTake_formed]

theorem notePosted_formed {s : State} {k i : Nat} (h : Formed s) : Formed (notePosted s k i) := h

theorem hostSees_formed {s : State} {c : CtxId} {iter : Nat} {p : Place} {bs : List Byte}
    (h : Formed s) : Formed (hostSees s c iter p bs).1 := by
  unfold hostSees
  grind [notePosted_formed]

theorem publishIter_formed {s : State} {uid : Nat} (h : Formed s) : Formed (publishIter s uid) := by
  unfold publishIter
  grind [modNet_formed]

theorem hostPasses_formed {s : State} (h : Formed s) : Formed (hostPasses s) := (TimeStep.hostPasses _).wf h

theorem readPte_formed {s : State} {pa : Nat} (h : Formed s) : Formed (readPte s pa).1 := (MemStep.readPte _ _).wf h

theorem walkFrom_formed {s : State} {va n m : Nat} (h : Formed s) : Formed (walkFrom s va n m).1 := (MemStep.walkFrom _ _ _ _).wf h

theorem walkFrom_leafAt_formed {s : State} {va n l m : Nat} (h : Formed s) : Formed (walkFrom.leafAt s va n l m).1 := by
  unfold walkFrom.leafAt
  grind [!readPte_formed]

theorem walk_formed {s : State} {va root : Nat} (h : Formed s) : Formed (walk s va root).1 := (MemStep.walk _ _ _).wf h

theorem lookupLeaf_formed {s : State} {cl asn root va : Nat} (h : Formed s) : Formed (lookupLeaf s cl asn root va).1 :=
  (MemStep.lookupLeaf _ _ _ _ _).wf h

theorem lookupShared_formed {s : State} {asn root va : Nat} (h : Formed s) : Formed (lookupShared s asn root va).1 :=
  (MemStep.lookupShared _ _ _ _).wf h

theorem translate_formed {s : State} {cl asn root lvl va : Nat} {k : AccReq}
    (h : Formed s) : Formed (translate s cl asn root lvl va k).1 :=
  (MemStep.translate _ _ _ _ _ _ _).wf h

theorem translateShared_formed {s : State} {asn root va : Nat} {k : AccReq} (h : Formed s) : Formed (translateShared s asn root va k).1 :=
  (MemStep.translateShared _ _ _ _ _).wf h

theorem sharedRead_formed {s : State} {asn root va n : Nat} (h : Formed s) : Formed (sharedRead s asn root va n).1 :=
  (PurgeStep.sharedRead _ _ _ _ _).wf h

theorem sharedWrite_formed {s : State} {asn root va w : Nat} (h : Formed s) : Formed (sharedWrite s asn root va w) :=
  (PurgeStep.sharedWrite _ _ _ _ _).wf h

theorem setOwners_formed {s : State} {who cl iter gang first n : Nat} {engine : Bool}
    (h : Formed s) : Formed (setOwners s who cl iter gang first n engine) := by
  unfold setOwners
  grind [modCl_formed]

theorem ctxAccess_formed {s : State} {x : Ctx} {va n : Nat} {k : AccReq} (h : Formed s) : Formed (ctxAccess s x va n k).1 :=
  (MemStep.ctxAccess _ _ _ _ _).wf h

theorem objAccess_formed {s : State} {cl iter gang asn root lvl va : Nat} {k : AccReq}
    (h : Formed s) : Formed (objAccess s cl iter gang asn root lvl va k).1 :=
  (MemStep.objAccess _ _ _ _ _ _ _ _ _).wf h

theorem fetchWord_formed {s : State} {x : Ctx} {va : Nat} (h : Formed s) : Formed (fetchWord s x va).1 := by
  unfold fetchWord
  grind [!lookupLeaf_formed, compared_formed, probeRange_formed]

theorem fetchWords_formed {s : State} {x : Ctx} {va n : Nat} (h : Formed s) : Formed (fetchWords s x va n).1 := by
  induction n generalizing s va with
  | zero => exact h
  | succ n ih =>
    unfold fetchWords
    grind [!fetchWord_formed]

theorem writeBarrier_formed {s : State} {p : Place} {b : Barrier} (h : Formed s) : Formed (writeBarrier s p b) := by
  unfold writeBarrier
  grind [writePlace_formed]

theorem putPh_formed {s : State} {n : Nat} {p : Phaser} (h : Formed s) : Formed (putPh s n p) := h

theorem phDropAll_formed {s : State} {c : CtxId} {iter : Nat} {later : Nat → Bool} (h : Formed s) : Formed (phDropAll s c iter later) :=
  (PurgeStep.phDropAll _ _ _ _).wf h

theorem postEvent_formed {s : State} {c : CtxId} {iter : Nat} {k : BitVec 128} (h : Formed s) : Formed (postEvent s c iter k) := by
  unfold postEvent
  grind [modCtx_formed]

theorem incCorr_formed {s : State} {n : Nat} (h : Formed s) : Formed (incCorr s n) := h

theorem incRowret_formed {s : State} (h : Formed s) : Formed (incRowret s) := h

theorem incReplay_formed {s : State} {n : Nat} (h : Formed s) : Formed (incReplay s n) := h

theorem incLossy_formed {s : State} {n : Nat} (h : Formed s) : Formed (incLossy s n) := h

theorem incPair_formed {s : State} (h : Formed s) : Formed (incPair s) := h

theorem reachBarrier_formed {s : State} {a : Agent} {va : Nat} {write : Bool} (h : Formed s) : Formed (reachBarrier s a va write).1 := by
  unfold reachBarrier
  grind [!objAccess_formed, probeRange_formed]

theorem waitTest_formed {s : State} {a : Agent} {o : Word} (h : Formed s) : Formed (waitTest s a o).1 := by
  unfold waitTest
  grind [!reachBarrier_formed]

theorem signalArrive_formed {s : State} {a : Agent} {o : Word} {credit : Nat} {failed : Bool}
    (h : Formed s) : Formed (signalArrive s a o credit failed).1 := by
  unfold signalArrive
  grind [putPh_formed, !reachBarrier_formed, writeBarrier_formed]

theorem setRes_formed {s : State} {i res : Nat} (h : Formed s) : Formed (setRes s i res) := (PurgeStep.setRes _ _ _).wf h

theorem setLaunchWord_formed {s : State} {n w v : Nat} (h : Formed s) : Formed (setLaunchWord s n w v) := by
  unfold setLaunchWord
  grind [writePlace_formed]

theorem setCtl_formed {s : State} {n b : Nat} {v : Bool} (h : Formed s) : Formed (setCtl s n b v) := (PurgeStep.setCtl _ _ _ _).wf h

theorem becomesArmed_formed {s : State} {n : Nat} (h : Formed s) : Formed (becomesArmed s n) := (PurgeStep.becomesArmed _ _).wf h

theorem becomesDisarmed_formed {s : State} {n : Nat} (h : Formed s) : Formed (becomesDisarmed s n) := (PurgeStep.becomesDisarmed _ _).wf h

theorem setArm_formed {s : State} {n : Nat} {on : Bool} (h : Formed s) : Formed (setArm s n on) := by
  unfold setArm
  grind [setCtl_formed, becomesArmed_formed, becomesDisarmed_formed]

theorem keepRes_formed {old s : State} {i : Nat} (h : Formed s) : Formed (keepRes old s i) := (PurgeStep.keepRes old s i).wf h

theorem keepCtl_formed {old s : State} {e : Nat} (h : Formed s) : Formed (keepCtl old s e) := (PurgeStep.keepCtl old s e).wf h

theorem homeWrite_formed {s : State} {p : Place} {bs : List Byte} (h : Formed s) : Formed (homeWrite s p bs) :=
  (PurgeStep.homeWrite _ _ _).wf h

theorem placeWrite_formed {s : State} {x : Ctx} {ss : Nat} {p : Place} {bs : List Byte} (h : Formed s) : Formed (placeWrite s x ss p bs) := by
  unfold placeWrite
  grind [modNet_formed, hostSettled_formed, homeWrite_formed]

theorem probeEntry_formed {s : State} {i : Nat} (h : Formed s) : Formed (probeEntry s i) := (PurgeStep.probeEntry _ _).wf h

theorem probeTable_formed {s : State} (h : Formed s) : Formed (probeTable s) := (PurgeStep.probeTable _).wf h

theorem dropLines_formed {s : State} {i : Nat} (h : Formed s) : Formed (dropLines s i) := h

theorem evictTensor_formed {s : State} {i : Nat} (h : Formed s) : Formed (evictTensor s i) := by
  unfold evictTensor
  grind [setRes_formed, dropLines_formed]

theorem looseLines_formed {s : State} (h : Formed s) : Formed (looseLines s) := by
  unfold looseLines
  grind [foldl_formed, probeEntry_formed, modPkg_formed]

theorem evictOnce_formed {s : State} {line n : Nat} (h : Formed s) : Formed (evictOnce s line n) := by
  unfold evictOnce
  grind [looseLines_formed, modPkg_formed, evictTensor_formed]

theorem cleanLine_formed {s : State} {line : Nat} (h : Formed s) : Formed (cleanLine s line) := by
  unfold cleanLine
  split
  · exact h
  · exact h

theorem allocLine_formed {s : State} {line i : Nat} (h : Formed s) : Formed (allocLine s line i) := by
  have hc : Formed (cleanLine s line) := cleanLine_formed h
  unfold allocLine
  dsimp only
  split
  · exact evictOnce_formed (modPkg_formed hc)
  · exact modPkg_formed hc

theorem loadLines_formed {s : State} {i : Nat} {tr : State → Nat → State × Acc} {va n : Nat} (htr : ∀ s va, Formed s → Formed (tr s va).1)
    (h : Formed s) : Formed (loadLines i tr va s n).1 := by
  induction n generalizing s va with
  | zero => exact h
  | succ n ih =>
    unfold loadLines
    grind [allocLine_formed]

theorem loadTensor_formed {s : State} {i : Nat} {tr : State → Nat → State × Acc} {e : HEntry} (htr : ∀ s va, Formed s → Formed (tr s va).1)
    (h : Formed s) : Formed (loadTensor s i tr e).1 := by
  unfold loadTensor
  grind [!loadLines_formed]

theorem homeTouch_formed {s : State} {va : Nat} {p : Place} (h : Formed s) : Formed (homeTouch s va p) := by
  have hp : Formed (probeTable s) := probeTable_formed h
  unfold homeTouch
  dsimp only
  split
  · split
    · exact allocLine_formed hp
    · split
      · exact allocLine_formed hp
      · split
        · split
          · exact allocLine_formed hp
          · exact hp
        · refine allocLine_formed ?_
          split
          · exact setRes_formed hp
          · exact hp
  · exact h

theorem homeStored_formed {s : State} {va : Nat} {p : Place} (h : Formed s) : Formed (homeStored s va p) := by
  unfold homeStored
  grind [markDirty_formed, homeTouch_formed]

theorem refOut_formed {s : State} {k : CmdRef} (h : Formed s) : Formed (refOut s k) := (PurgeStep.refOut _ _).wf h

theorem endFlush_formed {s : State} {cl core : Nat} {f : Flush} (h : Formed s) : Formed (endFlush cl core s f) :=
  (PurgeStep.endFlush _ _ _ _).wf h

theorem endFlushes_formed {s : State} (h : Formed s) : Formed (endFlushes s) := (PurgeStep.endFlushes _).wf h

theorem freeIter_formed {s : State} {iter : Nat} (h : Formed s) : Formed (freeIter s iter) := (PurgeStep.freeIter _ _).wf h

theorem drainWrites_formed {s : State} {ws : List (Nat × List Byte)} (h : Formed s) : Formed (drainWrites s ws) :=
  (PurgeStep.drainWrites _ _).wf h

theorem bufferHome_formed {s : State} {b : Buffered} (h : Formed s) : Formed (bufferHome s b) := (PurgeStep.bufferHome _ _).wf h

theorem drainAccepted_formed {s : State} {x : Ctx} (h : Formed s) : Formed (drainAccepted s x) := (PurgeStep.drainAccepted _ _).wf h

theorem setJcbState_formed {s : State} {i : Inst} {jcb st : Nat} (h : Formed s) : Formed (setJcbState s i jcb st) :=
  (PurgeStep.setJcbState _ _ _ _).wf h

theorem purgeTasks_formed {s : State} {i : Inst} {sel : Task → Bool} (h : Formed s) : Formed (purgeTasks s i sel) :=
  (PurgeStep.purgeTasks _ _ _).wf h

theorem purgeInst_formed {s : State} {k : BitVec 16} {i : Inst} (h : Formed s) : Formed (purgeInst k s i) :=
  (PurgeStep.purgeInst _ _ _).wf h

theorem giveUpMigration_formed {s : State} {m : Migration} {f : Ctx → MemOp → Ctx} (h : Formed s) : Formed (giveUpMigration s m f) :=
  (PurgeStep.giveUpMigration _ _ _).wf h

theorem abandonMigration_formed {s : State} {m : Migration} {cause addr : Nat} (h : Formed s) : Formed (abandonMigration s m cause addr) := by
  unfold abandonMigration
  grind [giveUpMigration_formed]

theorem purgeHandles_formed {s : State} {k : BitVec 16} (h : Formed s) : Formed (purgeHandles s k) := (PurgeStep.purgeHandles _ _).wf h

theorem purgeLog_formed {s : State} {k : BitVec 16} (h : Formed s) : Formed (purgeLog s k) := (PurgeStep.purgeLog _ _).wf h

theorem purgeContexts_formed {s : State} {k : Target} (h : Formed s) : Formed (purgeContexts s k) := (PurgeStep.purgeContexts _ _).wf h

theorem purgeIters_formed {s : State} {k : Target} (h : Formed s) : Formed (purgeIters s k) := (PurgeStep.purgeIters _ _).wf h

theorem purgeLocal_formed {s : State} {k : Target} (h : Formed s) : Formed (purgeLocal s k) := (PurgeStep.purgeLocal _ _).wf h

theorem putLink_formed {s : State} {l : Nat} {k : Link} (h : Formed s) : Formed (putLink s l k) := h

theorem cutPurge_formed {s : State} {p : Packet} (h : Formed s) : Formed (cutPurge s p) := (TimeStep.cutPurge _ _).wf h

theorem startPurge_formed {s : State} {tag : BitVec 16} {cause : Nat} (h : Formed s) : Formed (startPurge s tag cause) :=
  (PurgeStep.startPurge _ _ _).wf h

theorem purgeWork_formed {s : State} {tag : BitVec 16} {iter cause : Nat} (h : Formed s) : Formed (purgeWork s tag iter cause) :=
  (PurgeStep.purgeWork _ _ _ _).wf h

theorem markUnit_formed {s : State} {place u : Nat} {tag : BitVec 16} (h : Formed s) : Formed (markUnit s place u tag) := by
  unfold markUnit
  grind [modPkg_formed, compared_formed]

theorem markConsumed_formed {s : State} {p : Space} {u : Nat} {tag : BitVec 16} (h : Formed s) : Formed (markConsumed s p u tag) := by
  unfold markConsumed
  grind [markUnit_formed]

theorem areaWrite_formed {s t : State} {x : Ctx} {va : Nat} {bs : List Byte} {n : Nat} (h : Formed s) (e : areaWrite s x va bs n = some t) :
    Formed t := (MemStep.areaWrite e).wf h

theorem areaRead_formed {s : State} {x : Ctx} {lvl va n m : Nat} (h : Formed s) : Formed (areaRead s x lvl va n m).1 :=
  (MemStep.areaRead _ _ _ _ _ _).wf h

theorem saveGroup_formed {s : State} {x : Ctx} {g : Nat} {r : State × Ctx} (h : Formed s) (e : saveGroup s x g = some r) : Formed r.1 :=
  (MemStep.saveGroup e).wf h

theorem saveGroups_formed {s : State} {x : Ctx} {l : List Nat} {r : State × Ctx} (h : Formed s) (e : saveGroups s x l = some r) :
    Formed r.1 := (MemStep.saveGroups e).wf h

theorem flushSaved_formed {s : State} {x : Ctx} {r : State × Ctx} (h : Formed s) (e : flushSaved s x = some r) : Formed r.1 := by
  obtain ⟨p, hp, rfl⟩ := Option.map_eq_some_iff.1 e
  exact (saveGroups_formed h hp : Formed p.1)

theorem stopAndPurge_formed {s : State} {x : Ctx} (h : Formed s) : Formed (stopAndPurge s x) := by
  unfold stopAndPurge
  grind [purgeWork_formed]

theorem takeTrap_formed {s : State} {c : CtxId} {k : TrapT} {pc : BitVec 48} (h : Formed s) : Formed (takeTrap s c k pc) := by
  unfold takeTrap
  split
  · exact h
  · split
    · exact stopAndPurge_formed h
    · split
      · exact stopAndPurge_formed h
      · next hf =>
        dsimp only
        split
        · exact stopAndPurge_formed h
        · next hw => exact putCtx_formed (areaWrite_formed (flushSaved_formed h hf) hw)

theorem takePoison_formed {s : State} {c : CtxId} {us : List (Nat × Nat)} {k : TrapT} {pc : BitVec 48}
    (h : Formed s) : Formed (takePoison s c us k pc) := by
  unfold takePoison
  grind [foldl_formed, markUnit_formed, takeTrap_formed, startPurge_formed]

theorem takeFailure_formed {s : State} {c : CtxId} {f : Failure} (h : Formed s) : Formed (takeFailure s c f) := by
  unfold takeFailure
  grind [putCtx_formed, takePoison_formed, takeTrap_formed]

theorem reloadGroups_formed {s : State} {x : Ctx} {fa : Nat} (h : Formed s) : Formed (reloadGroups s x fa).1 := by
  unfold reloadGroups
  refine foldl_fst_formed (fun r g hr => ?_) h
  grind [!areaRead_formed]

end Sys2Proof.Machine
end

section
/-!
Every memory stays in its canonical form (log 4): the issue of a bundle, where its operations keep the form, and what starting an operation leaves.
-/
namespace Sys2Proof.Machine

/-! ## Operations of an issue -/

/-- The state with an operation's effects is in its canonical form. -/
def OpRes.Kept : OpRes → Prop
  | .ok s _ _ => Formed s
  | .trap _ => True
  | .wait _ => True

/-- The state after what follows a bundle is in its canonical form. -/
def PostRes.Kept : PostRes → Prop
  | .ok s => Formed s
  | .trap _ => True

/-- What an operation of an issue does leaves every memory in its canonical form. -/
structure KeepsForm (so : SlotOp) : Prop where
  illReg : ∀ i s x r, Formed s → so.illReg i s x = some r → Formed r.1
  early : ∀ i s x, Formed s → Formed (so.early i s x)
  begins : ∀ i s x, Formed s → Formed (so.begins i s x)
  run : ∀ i x s, Formed s → (so.run i x s).Kept
  post : ∀ i x s, Formed s → (so.post i x s).Kept

/-- The state in which a presentation ends. -/
def Present.state : Present → State
  | .hold s => s
  | .freeze s => s
  | .blocked s _ => s
  | .act s => s

@[simp] theorem Present.state_act (s : State) : (Present.act s).state = s := rfl

theorem noteWeight_formed {s : State} {x : Ctx} {w : Nat} (h : Formed s) : Formed (noteWeight s x w) := by
  unfold noteWeight
  grind [modCore_formed]

theorem settle_formed {s : State} {x : Ctx} {r : State × Ctx} (h : Formed s) (e : settle s x = some r) : Formed r.1 := (MemStep.settle e).wf h

theorem earlyStep_formed {s : State} {b : Issue} {x : Ctx} {o : IssOp} (hk : KeepsForm o.so) (h : Formed s) : Formed (earlyStep b x s o) := by
  unfold earlyStep
  split
  · exact h
  · exact hk.early _ _ _ h

theorem regBad_formed {s : State} {x : Ctx} {len : Nat} {o : IssOp} {r : State × TrapT} (hk : KeepsForm o.so) (h : Formed s)
    (e : regBad s x len o = some r) : Formed r.1 := by
  unfold regBad at e
  split at e
  · exact absurd e (by simp)
  · obtain ⟨q, hq, rfl⟩ := Option.map_eq_some_iff.1 e
    exact hk.illReg _ _ _ q h hq

theorem beginHold_formed {s : State} {b : Issue} {x : Ctx} {o : IssOp} (hk : KeepsForm o.so) (h : Formed s) :
    Formed (beginHold b x s o) := hk.begins _ _ _ h

theorem firstSeen_formed {s : State} {x : Ctx} {b : Issue} (h : Formed s) : Formed (firstSeen s x b).1 := by
  unfold firstSeen
  grind [modCtx_formed]

theorem countFreeze_formed {s : State} {x : Ctx} (h : Formed s) : Formed (countFreeze s x) := by
  unfold countFreeze
  grind [modCore_formed]

theorem giveUp_formed {s : State} {x : Ctx} (h : Formed s) : Formed (giveUp s x) := by
  unfold giveUp
  grind [modCore_formed]

theorem presented_formed {x : Ctx} {p : Present} (h : Formed p.state) : Formed (presented x p) := by
  cases p with
  | hold s => exact h
  | freeze s => exact countFreeze_formed h
  | blocked s w => exact giveUp_formed (modCtx_formed h)
  | act s => exact h

theorem trapNow_formed {s : State} {x : Ctx} {k : TrapT} (h : Formed s) : Formed (trapNow s x k).state := by
  unfold trapNow
  split
  · exact h
  · rw [Present.state_act]
    exact takeTrap_formed h

theorem runOne_formed {s t : State} {x : Ctx} {l : List IssOp} {len : Nat} {o : IssOp} {ws : List (RegId × Nat)} {fl : Flg}
    (hk : KeepsForm o.so) (h : Formed s) (e : runOne x l len o s = .ok t ws fl) : Formed t := by
  unfold runOne at e
  split at e
  · exact absurd e (by simp)
  · split at e
    · exact absurd e (by simp)
    · next s1 ws1 fl1 hr _ =>
      have e1 : s1 = t := (OpRes.ok.inj e).1
      have hs := hk.run (issOf o len) x s h
      rw [hr] at hs
      exact e1 ▸ hs
    · exact absurd e (by simp)
    · exact absurd e (by simp)
    · split at e
      · exact absurd e (by simp)
      · exact absurd e (by simp)

theorem runAll_formed {x : Ctx} {all : List IssOp} {len : Nat} {l : List IssOp} (hk : ∀ o ∈ l, KeepsForm o.so) :
    ∀ {s t : State} {ws ws' : List (RegId × Nat)} {fl fl' : Flg}, Formed s → runAll x all len l s ws fl = .ok t ws' fl' → Formed t := by
  induction l with
  | nil =>
    intro s t ws ws' fl fl' h e
    obtain ⟨rfl, -, -⟩ := RunRes.ok.inj e
    exact h
  | cons o l ih =>
    intro s t ws ws' fl fl' h e
    unfold runAll at e
    split at e
    · exact absurd e (by simp)
    · exact absurd e (by simp)
    · next hr =>
      exact ih (fun p hp => hk p (List.mem_cons_of_mem _ hp)) (runOne_formed (hk o List.mem_cons_self) h hr) e

theorem finish_formed {s t : State} {c : CtxId} {x : Ctx} {b : Issue} (hk : ∀ o ∈ b.exec, KeepsForm o.so) (h : Formed s)
    (e : finish s c x b = .ok t) : Formed t := by
  unfold finish at e
  split at e
  · obtain rfl := PostRes.ok.inj e
    exact h
  · split at e
    · next o ho =>
      have hp := (hk o (List.mem_of_find?_eq_some ho)).post (issOf o b.len) x s h
      rw [e] at hp
      exact hp
    · split at e
      · obtain rfl := PostRes.ok.inj e
        exact modCtx_formed h
      · obtain rfl := PostRes.ok.inj e
        exact h

theorem issue_formed {s : State} {x : Ctx} {b : Issue} (hk : ∀ o ∈ b.exec, KeepsForm o.so) (h : Formed s) : Formed (issue s x b).state := by
  unfold issue
  split
  · exact stopAndPurge_formed h
  · next s1 x1 hs =>
    have h1 : Formed (putCtx s1 x1) := putCtx_formed (settle_formed h hs)
    split
    · exact trapNow_formed h
    · exact h
    · exact h
    · next s2 ws fl hr =>
      have h2 := runAll_formed hk h1 hr
      split
      · exact h2
      · split
        · exact stopAndPurge_formed h
        · next s3 y3 hg =>
          have h3 := noteWeight_formed (x := x) (w := issueWeight b.exec)
            (putCtx_formed (x := afterIssue (commitRegs y3 ws) b fl) (saveGroups_formed h2 hg))
          dsimp only
          split
          · next hf => exact finish_formed hk h3 hf
          · exact trapNow_formed h

theorem firstSome_mem {α β : Type} {f : α → Option β} {l : List α} {b : β} (h : firstSome f l = some b) : ∃ a ∈ l, f a = some b := by
  induction l with
  | nil => exact absurd h (by simp [firstSome])
  | cons a l ih =>
    unfold firstSome at h
    split at h
    · next hb => exact ⟨a, List.mem_cons_self, hb.trans h⟩
    · obtain ⟨c, hc, hf⟩ := ih h
      exact ⟨c, List.mem_cons_of_mem _ hc, hf⟩

/-- A fold over the operations of an issue, each of which keeps the form. -/
theorem foldl_ops_formed {f : State → IssOp → State} {l : List IssOp} (hk : ∀ o ∈ l, KeepsForm o.so)
    (hf : ∀ t o, KeepsForm o.so → Formed t → Formed (f t o)) {s : State} (h : Formed s) : Formed (l.foldl f s) := by
  induction l generalizing s with
  | nil => exact h
  | cons o l ih => exact ih (fun p hp => hk p (List.mem_cons_of_mem _ hp)) (hf s o (hk o List.mem_cons_self) h)

theorem presentNoted_formed {s : State} {x : Ctx} {b : Issue} (hk : ∀ o ∈ b.exec, KeepsForm o.so) (h : Formed s) :
    Formed (presentNoted s x b).state := by
  have he : Formed (b.exec.foldl (earlyStep b (settled x)) s) := foldl_ops_formed hk (fun _ _ => earlyStep_formed) h
  unfold presentNoted
  split
  · next hr =>
    obtain ⟨o, ho, hr⟩ := firstSome_mem hr
    exact trapNow_formed (regBad_formed (hk o (List.mem_of_mem_filter ho)) h hr)
  · split
    · exact trapNow_formed h
    · split
      · exact trapNow_formed h
      · split
        · exact trapNow_formed h
        · split
          · exact trapNow_formed h
          · split
            · exact h
            · split
              · split
                · exact h
                · exact takePoison_formed (putCtx_formed h)
              · split
                · split
                  · exact h
                  · exact takeFailure_formed h
                · dsimp only
                  split
                  · exact he
                  · split
                    · exact foldl_ops_formed hk (fun _ _ => beginHold_formed) he
                    · split
                      · exact he
                      · exact issue_formed hk he

theorem present_formed {s : State} {x : Ctx} {b : Issue} (hk : ∀ o ∈ b.exec, KeepsForm o.so) (h : Formed s) :
    Formed (present s x b).state := presentNoted_formed hk (firstSeen_formed h)

theorem issueAlone_formed {s t : State} {i : Instr} {so : SlotOp} (hk : KeepsForm so) (h : Formed s) (e : issueAlone i so s = .next t) :
    Formed t := by
  unfold issueAlone at e
  split at e
  · exact absurd e (by simp)
  · obtain rfl := Host.Outcome.next.inj e
    exact presented_formed (present_formed (fun o ho => by
      obtain rfl := List.mem_singleton.1 ho
      exact hk) h)

theorem addLanding_formed {s : State} {x : Ctx} {l : Landing} (h : Formed s) : Formed (addLanding s x l) := by
  unfold addLanding
  grind [modCtx_formed]

theorem checkAll_formed {s : State} {x : Ctx} {n : Nat} {k : AccReq} {l : List Nat} (h : Formed s) : Formed (checkAll s x n k l).1 :=
  (MemStep.checkAll _ _ _ _ _).wf h

theorem startOp_formed {s : State} {x : Ctx} {i : Iss} {ss : Nat} {pm : BitVec 16} {scope : Nat} {k : OpKind}
    (h : Formed s) : Formed (startOp s x i ss pm scope k) := by
  unfold startOp
  grind [modCtx_formed]

theorem passOp_formed {s : State} {x : Ctx} {ss : Nat} (h : Formed s) : Formed (passOp s x ss) := by
  unfold passOp
  grind [modCtx_formed]

theorem awaitReg_formed {s : State} {x : Ctx} {k : RegId} {seq : Nat} (h : Formed s) : Formed (awaitReg s x k seq) := by
  unfold awaitReg
  grind [modCtx_formed]

theorem startLoad_formed {s : State} {x : Ctx} {i : Iss} {ss : Nat} {pm : BitVec 16} {scope : Nat} {k : OpKind} {q : RegId}
    (h : Formed s) : Formed (startLoad s x i ss pm scope k q) := by
  unfold startLoad
  grind [awaitReg_formed, startOp_formed]

theorem keepOld_formed {s : State} {x : Ctx} {q d : Nat} (h : Formed s) : Formed (keepOld s x q d) := by
  unfold keepOld
  grind [modCtx_formed]

theorem startVec_formed {s : State} {x : Ctx} {i : Iss} {ss : Nat} {pm : BitVec 16} {scope : Nat} {k : OpKind} {d : Nat}
    (h : Formed s) : Formed (startVec s x i ss pm scope k d) := by
  unfold startVec
  grind [keepOld_formed, startLoad_formed]

theorem kmCheck_formed {s : State} {x : Ctx} {a : Nat} {write : Bool} (h : Formed s) : Formed (kmCheck s x a write).1 := by
  unfold kmCheck
  grind [!ctxAccess_formed, !translate_formed]

theorem noteSeen_formed {s : State} {c : CtxId} {iter m : Nat} {p : Place} {n : Nat} (h : Formed s) : Formed (noteSeen s c iter m p n) := by
  unfold noteSeen
  grind [foldl_formed, putOwner_formed]

theorem publish_formed {s : State} {c : CtxId} {iter : Nat} {pm : BitVec 16} (h : Formed s) : Formed (publish s c iter pm) := by
  unfold publish
  grind [modNet_formed, putOwner_formed]

theorem sendReq_formed {s : State} {g : Origin} {node tc : Nat} {kind : PktKind} {op addr va len spec : Nat} {data : List Byte} {lane : Nat} {ext : List Byte}
    (h : Formed s) : Formed (sendReq s g node tc kind op addr va len spec data lane ext).1 := by
  unfold sendReq
  grind [modNet_formed, sendPkts_formed]

theorem keepPackets_formed {s : State} {rids : List Nat} (h : Formed s) : Formed (keepPackets s rids) := h

end Sys2Proof.Machine
end

section
/-!
Every memory stays in its canonical form (log 4): performing a memory operation (08 R255 to R257).
-/
namespace Sys2Proof.Machine

theorem opAccess_formed {s : State} {x : Ctx} {o : MemOp} {va : Nat} {k : AccReq} (h : Formed s) : Formed (opAccess s x o va k).1 := by
  unfold opAccess
  grind [!objAccess_formed]

theorem opBad_formed {s : State} {x : Ctx} {o : MemOp} {cause addr : Nat} (h : Formed s) : Formed (opBad s x o cause addr) :=
  (TimeStep.opBad _ _ _ _ _).wf h

theorem again_formed {s : State} {x : Ctx} {f : Ctx → Ctx} (h : Formed s) : Formed (again s x f) := (TimeStep.again _ _ _).wf h

theorem meetDamage_formed {s : State} {o : Nat} (h : Formed s) : Formed (meetDamage s o) := by
  unfold meetDamage
  grind [compared_formed]

theorem takePiece_formed {s : State} {x : Ctx} {o : MemOp} {key va n : Nat} (h : Formed s) : Formed (takePiece s x o key va n).1 := by
  unfold takePiece
  grind [meetDamage_formed, !opAccess_formed, !sendReq_formed, probeRange_formed, hostSettled_formed, !hostSees_formed, noteSeen_formed, homeTouch_formed]

theorem takePieces_formed {s : State} {x : Ctx} {o : MemOp} {l : List (Nat × Nat × Nat)} {k : Taken} (h : Formed s) :
    Formed (takePieces s x o l k).1 := by
  induction l generalizing s k with
  | nil => exact h
  | cons p l ih =>
    obtain ⟨i, va, n⟩ := p
    unfold takePieces
    grind [!takePiece_formed]

theorem askLanes_formed {s : State} {x : Ctx} {o : MemOp} {l : List (Nat × Nat × Place)} (h : Formed s) : Formed (askLanes s x o l).1 := by
  unfold askLanes
  grind [!foldl_fst_formed, !sendReq_formed, modNet_formed]

theorem loadFails_formed {s : State} {x : Ctx} {o : MemOp} {cause addr : Nat} (h : Formed s) : Formed (loadFails s x o cause addr) :=
  (TimeStep.loadFails _ _ _ _ _).wf h

theorem pieceLoad_formed {s t : State} {x : Ctx} {o : MemOp} (h : Formed s) (e : pieceLoad s x o = some t) : Formed t := by
  unfold pieceLoad at e
  grind [!takePieces_formed, loadFails_formed, !askLanes_formed, again_formed]

theorem performLoad_formed {s t : State} {x : Ctx} {o : MemOp} (h : Formed s) (e : performLoad s x o = some t) : Formed t := by
  unfold performLoad at e
  grind [pieceLoad_formed, loadFails_formed, !sendReq_formed, again_formed]

theorem containPut_formed {s : State} {a w : Nat} (h : Formed s) : Formed (containPut s a w) := by
  unfold containPut
  dsimp only
  split
  · split
    · exact modPkg_formed h
    · exact h
  · exact modPkg_formed h

theorem storePlaces_formed {s : State} {x : Ctx} {o : MemOp} {l : List (Nat × List Byte)} (h : Formed s) :
    Formed (storePlaces s x o l).1 := by
  induction l generalizing s with
  | nil => exact h
  | cons w l ih =>
    unfold storePlaces
    grind [!opAccess_formed]

theorem putHome_formed {s : State} {x : Ctx} {ss : Nat} {w : Nat × Place × List Byte} (h : Formed s) : Formed (putHome x ss s w) := by
  unfold putHome
  grind [homeStored_formed, placeWrite_formed]

theorem sendWrites_formed {s : State} {x : Ctx} {o : MemOp} {line : Bool} {l : List (Nat × Place × List Byte)}
    (h : Formed s) : Formed (sendWrites s x o line l).1 := by
  unfold sendWrites
  grind [!foldl_fst_formed, !sendReq_formed]

theorem moveOn_formed {s t : State} {x : Ctx} {o : MemOp} (h : Formed s) (e : moveOn s x o = some t) : Formed t := by
  unfold moveOn at e
  grind [foldl_formed, modPkg_formed, again_formed, homeStored_formed, drainWrites_formed]

theorem putStore_formed {s : State} {x : Ctx} {o : MemOp} {line : Bool} {ws : List (Nat × List Byte)}
    (h : Formed s) : Formed (putStore s x o line ws) := by
  unfold putStore
  grind [foldl_formed, !storePlaces_formed, opBad_formed, modPkg_formed, again_formed, putHome_formed, !sendWrites_formed, keepPackets_formed]

theorem performStore_formed {s t : State} {x : Ctx} {o : MemOp} {line : Bool} {ws : List (Nat × List Byte)}
    (h : Formed s) (e : performStore s x o line ws = some t) : Formed t := by
  unfold performStore at e
  grind [moveOn_formed, again_formed, containPut_formed, putStore_formed]

theorem rmwAt_formed {s : State} {va : Nat} {p : Place} {n : Nat} {f : Nat → Option Nat} (h : Formed s) : Formed (rmwAt s va p n f).1 := by
  unfold rmwAt
  grind [probeRange_formed, hostUpTo_formed, rawSectors_formed, homeWrite_formed, homeStored_formed, homeTouch_formed]

theorem rmwReleases_formed {s : State} {x : Ctx} {o : MemOp} {red wrote : Bool} (h : Formed s) : Formed (rmwReleases s x o red wrote) := by
  unfold rmwReleases
  grind [publish_formed]

theorem performRmw_formed {s : State} {x : Ctx} {o : MemOp} {va n pkt : Nat} {red : Bool} {data : List Byte} {f : Nat → Option Nat} {fin : Ctx → Nat → Ctx}
    (h : Formed s) : Formed (performRmw s x o va n pkt red data f fin) := by
  unfold performRmw
  grind [!opAccess_formed, opBad_formed, !sendReq_formed, rmwReleases_formed, again_formed, !rmwAt_formed]

theorem vredmAt_formed {s : State} {va : Nat} {p : Place} {f : Fmt} {op : Nat} {lanes : List (Nat × Nat)}
    (h : Formed s) : Formed (vredmAt s va p f op lanes).1 := by
  unfold vredmAt
  grind [!foldl_fst_formed, !rmwAt_formed]

theorem performVredm_formed {s : State} {x : Ctx} {o : MemOp} {va f op : Nat} {lanes : List (Nat × Nat)}
    (h : Formed s) : Formed (performVredm s x o va f op lanes) := by
  unfold performVredm
  grind [!opAccess_formed, opBad_formed, !sendReq_formed, again_formed, !vredmAt_formed]

theorem doPref_formed {s : State} {x : Ctx} {o : MemOp} {kind a : Nat} (h : Formed s) : Formed (doPref s x o kind a) := by
  unfold doPref
  grind [foldl_formed, !opAccess_formed, homeTouch_formed]

theorem performBarrier_formed {s : State} {x : Ctx} {o : MemOp} {va : Nat} {f : Barrier → Barrier} {fin : Ctx → Barrier → Ctx}
    (h : Formed s) : Formed (performBarrier s x o va f fin) := by
  unfold performBarrier
  grind [!reachBarrier_formed, opBad_formed, again_formed, writeBarrier_formed]

theorem performJraise_formed {s : State} {x : Ctx} {o : MemOp} {a amount : Nat} (h : Formed s) : Formed (performJraise s x o a amount) := by
  unfold performJraise
  grind [again_formed, !sharedRead_formed, opBad_formed, sharedWrite_formed, postNotice_formed]

theorem handleAction_formed {s : State} {code x i : Nat} {op1 : Word} {k : HEntry} {tr : State → Nat → State × Acc}
    (htr : ∀ s va, Formed s → Formed (tr s va).1) (h : Formed s) : Formed (handleAction s code x i op1 k tr).1 := by
  unfold handleAction
  grind [modPkg_formed, setRes_formed, writePlace_formed, evictTensor_formed, !loadTensor_formed]

theorem liveEntry_formed {s : State} {i : Nat} (h : Formed s) : Formed (liveEntry s i).1 := by
  unfold liveEntry
  grind [probeEntry_formed]

theorem startMigration_formed {s : State} {x : Ctx} {o : MemOp} {i : Nat} {k : HEntry} {op1 op2 : Word}
    (h : Formed s) : Formed (startMigration s x o i k op1 op2) := by
  unfold startMigration
  grind [writePlace_formed, setRes_formed, modPkg_formed, again_formed]

theorem statusOf_formed {s : State} {x : Ctx} {o : MemOp} {d v : Nat} (h : Formed s) : Formed (statusOf s x o d v) := by
  unfold statusOf
  grind [again_formed]

theorem performHandle_formed {s t : State} {x : Ctx} {o : MemOp} {d code x0 i : Nat} {op1 op2 : Word} (h : Formed s)
    (e : performHandle s x o d code x0 i op1 op2 = some t) : Formed t := by
  have htr : ∀ t va, Formed t → Formed (opAccess t x o va accRead).1 := fun _ _ => opAccess_formed
  unfold performHandle at e
  grind [!liveEntry_formed, statusOf_formed, startMigration_formed, probeTable_formed, opBad_formed, !handleAction_formed]

theorem performPurge_formed {s t : State} {x : Ctx} {o : MemOp} {d tag : Nat}
    (h : Formed s) (e : performPurge s x o d tag = some t) : Formed t := by
  unfold performPurge at e
  grind [statusOf_formed, again_formed, startPurge_formed, compared_formed]

theorem performArrival_formed {s : State} {x : Ctx} {n : Nat} (h : Formed s) : Formed (performArrival s x n) := by
  unfold performArrival
  grind [putPh_formed, phDropAll_formed]

theorem performKind_formed {s t : State} {x : Ctx} {o : MemOp} (h : Formed s) (e : performKind s x o = some t) : Formed t := by
  unfold performKind at e
  grind [performLoad_formed, performStore_formed, performRmw_formed, performVredm_formed, again_formed, doPref_formed, modPkg_formed, performBarrier_formed, publish_formed, statusOf_formed, performArrival_formed, setArm_formed, performJraise_formed, performHandle_formed, performPurge_formed]

theorem performOp_formed {s t : State} {c : CtxId} {seq : Nat} (h : Formed s) (e : performOp s c seq = some t) : Formed t := by
  unfold performOp at e
  grind [performKind_formed]

theorem forceOps_formed {s : State} {c : CtxId} {sel : MemOp → Bool} {n : Nat} (h : Formed s) : Formed (forceOps s c sel n) := by
  induction n generalizing s with
  | zero => exact h
  | succ n ih =>
    unfold forceOps
    grind [performOp_formed]

theorem lowerDone_formed {s t : State} {c : CtxId} {sel : MemOp → Bool} (h : Formed s) (e : lowerDone s c sel = some t) : Formed t := by
  unfold lowerDone at e
  grind [forceOps_formed]

theorem execOperationPerformed_formed {s t : State} {c : CtxId} {seq : Nat}
    (h : Formed s) (e : execOperationPerformed c seq s = .next t) : Formed t := by
  unfold execOperationPerformed at e
  grind [performOp_formed]

theorem setPc_formed {s : State} {x : Ctx} {pc : BitVec 48} (h : Formed s) : Formed (setPc s x pc) := by
  unfold setPc
  grind [modCtx_formed]

theorem softTrap_formed {s : State} {x : Ctx} {imm : Nat} {pc : BitVec 48} (h : Formed s) : Formed (softTrap s x imm pc) := by
  unfold softTrap
  grind [putCtx_formed, takeTrap_formed]

theorem retire_formed {s : State} {c : CtxId} (h : Formed s) : Formed (retire s c) := by
  unfold retire
  grind [Formed, phDropAll_formed, dropCtx_formed, giveUp_formed]

end Sys2Proof.Machine
end

section
/-!
Every memory stays in its canonical form (log 4): what the matrix and copy slots do at their issue, engine accesses, array commands and
the application of collective blocks.
-/
namespace Sys2Proof.Machine

theorem seeEntry_formed {s : State} {x : Ctx} {i : Nat} (h : Formed s) : Formed (seeEntry s x i).1 := by
  unfold seeEntry
  grind [!liveEntry_formed]

theorem fillEntry_formed {s : State} {x : Ctx} {i : Nat} (h : Formed s) : Formed (fillEntry s x i) := by
  unfold fillEntry
  grind [modCore_formed]

theorem handleIll_formed {s : State} {x : Ctx} {n : Nat} {r : State × TrapC} (h : Formed s) (e : handleIll s x n = some r) : Formed r.1 := by
  unfold handleIll at e
  grind [!seeEntry_formed]

theorem enqueue_formed {s : State} {x : Ctx} {i : Iss} {ss : BitVec 4} {pm : BitVec 16} {scope : Nat} {ranges : List (Nat × Nat)} {isCp : Bool} {c : Cmd}
    (h : Formed s) : Formed (enqueue s x i ss pm scope ranges isCp c) := by
  unfold enqueue
  grind [startOp_formed, modPkg_formed, modCore_formed]

theorem leaseFresh_formed {s : State} {cl : Nat} (h : Formed s) : Formed (leaseFresh s cl) := by
  unfold leaseFresh
  grind [modCl_formed]

theorem leaseUse_formed {s : State} {cl : Nat} (h : Formed s) : Formed (leaseUse s cl) := by
  unfold leaseUse
  grind [leaseFresh_formed, modCl_formed]

theorem leaseGive_formed {s : State} {cl core : Nat} (h : Formed s) : Formed (leaseGive s cl core) := by
  unfold leaseGive
  grind [modCl_formed, leaseFresh_formed]

theorem bindBank_formed {s : State} {x : Ctx} {b : Nat} (h : Formed s) : Formed (bindBank s x b) := by
  unfold bindBank
  grind [putBank_formed, modCl_formed]

theorem objIll_formed {s : State} {x : Ctx} {sg : BitVec 6} {r : State × TrapC} (h : Formed s) (e : objIll s x sg = some r) : Formed r.1 := by
  unfold objIll at e
  grind

theorem operandIll_formed {s : State} {x : Ctx} {k : BitVec 1} {q : BitVec 6} {f : BitVec 5} {r : State × TrapC} (h : Formed s)
    (e : operandIll s x k q f = some r) : Formed r.1 := by
  unfold operandIll at e
  grind [Option.or_eq_some_iff, handleIll_formed]

theorem pairIll_formed {s : State} {o : MM} {x : Ctx} {r : State × TrapC} (h : Formed s) (e : pairIll o s x = some r) : Formed r.1 := by
  unfold pairIll at e
  grind [Option.or_eq_some_iff, operandIll_formed]

theorem destIll_formed {s : State} {x : Ctx} {k : BitVec 6} {r : State × TrapC} (h : Formed s) (e : destIll s x k = some r) : Formed r.1 := by
  unfold destIll at e
  grind

theorem badDesc_formed {s : State} {b : Option Nat} {r : State × TrapC} (h : Formed s) (e : badDesc s b = some r) : Formed r.1 := by
  obtain ⟨n, -, rfl⟩ := Option.map_eq_some_iff.1 e
  exact h

theorem handleOpt_formed {s : State} {x : Ctx} {k : Option Nat} {r : State × TrapC}
    (h : Formed s) (e : handleOpt s x k = some r) : Formed r.1 := by
  unfold handleOpt at e
  grind [handleIll_formed]

theorem mapCmd_formed {s : State} {k : CmdRef} {f : Cmd → Option Cmd} (h : Formed s) : Formed (mapCmd s k f) := by
  unfold mapCmd
  grind [modCore_formed]

theorem putCmd_formed {s : State} {c : Cmd} (h : Formed s) : Formed (putCmd s c) := (TimeStep.putCmd _ _).wf h

theorem dropCmd_formed {s : State} {c : Cmd} (h : Formed s) : Formed (dropCmd s c) := by
  unfold dropCmd
  grind [mapCmd_formed]

theorem ownLoc_formed {s : State} {x : Ctx} {c : Cmd} {va : Nat} {write : Bool} (h : Formed s) : Formed (ownLoc s x c va write).1 := by
  unfold ownLoc
  grind [!lookupLeaf_formed, compared_formed]

theorem wordLoc_formed {s : State} {x : Ctx} {c : Cmd} {w a : Nat} {write : Bool} (h : Formed s) : Formed (wordLoc s x c w a write).1 := by
  unfold wordLoc
  grind [!ownLoc_formed]

theorem nibbleIn_formed {s : State} {p : Option Place} {k : Nat} (h : Formed s) : Formed (nibbleIn s p k).1 := by
  unfold nibbleIn
  grind [probeRange_formed]

theorem nibblePlace_formed {s : State} {x : Ctx} {va : Nat} (h : Formed s) : Formed (nibblePlace s x va).1 := by
  unfold nibblePlace
  grind [probeTable_formed, !lookupLeaf_formed, !nibbleIn_formed]

theorem nibblePut_formed {s : State} {n : Option (Place × Bool)} {v : Nat} (h : Formed s) : Formed (nibblePut s n v) := by
  unfold nibblePut
  grind [writePlace_formed]

theorem poisonSector_formed {s : State} {q : Place} (h : Formed s) : Formed (poisonSector s q) := by
  unfold poisonSector
  grind [foldl_formed, poisonUnit_formed]

theorem rawSector_formed {s : State} {p : Place} {nb : Option (Place × Bool)} (h : Formed s) : Formed (rawSector s p nb) := by
  unfold rawSector
  grind [probeRange_formed, nibblePut_formed, writePlace_formed, poisonSector_formed]

theorem rawRead_formed {s : State} {p : Place} {va n : Nat} (h : Formed s) : Formed (rawRead s p va n).1 := by
  unfold rawRead
  grind [probeRange_formed]

theorem readSector_formed {s : State} {p : Place} {nb : Option (Place × Bool)} {va n : Nat}
    (h : Formed s) : Formed (readSector s p nb va n).1 := by
  unfold readSector
  grind [!rawRead_formed, poisonUnit_formed]

theorem readPiece_formed {s : State} {x : Ctx} {c : Cmd} {w a n : Nat} (h : Formed s) : Formed (readPiece s x c w a n).1 := by
  unfold readPiece
  grind [!wordLoc_formed, !nibblePlace_formed, hostSettled_formed, !readSector_formed, homeTouch_formed]

theorem readGo_formed {s : State} {x : Ctx} {c : Cmd} {w : Nat} {l : List (Nat × Nat)} {k : Got} (h : Formed s) :
    Formed (readGo s x c w l k).1 := by
  induction l generalizing s k with
  | nil => exact h
  | cons p l ih =>
    obtain ⟨a, n⟩ := p
    unfold readGo
    grind [!readPiece_formed]

theorem readRange_formed {s : State} {x : Ctx} {c : Cmd} {w a n : Nat} (h : Formed s) : Formed (readRange s x c w a n).1 := by
  unfold readRange
  grind [!readGo_formed]

theorem writeComp_formed {s : State} {x : Ctx} {p : Place} {a : Nat} {bs : List Byte} (h : Formed s) : Formed (writeComp s x p a bs) := by
  unfold writeComp
  grind [!nibblePlace_formed, homeWrite_formed, rawSector_formed]

theorem writeLoc_formed {s : State} {x : Ctx} {c : Cmd} {w a : Nat} (h : Formed s) : Formed (writeLoc s x c w a).1 := by
  unfold writeLoc
  grind [!wordLoc_formed]

theorem writePiece_formed {s : State} {x : Ctx} {c : Cmd} {w a : Nat} {bs : List Byte}
    (h : Formed s) : Formed (writePiece s x c w a bs).1 := by
  unfold writePiece
  grind [!wordLoc_formed, homeStored_formed, writeComp_formed, placeWrite_formed, !writeLoc_formed]

theorem sendAsks_formed {s : State} {c : Cmd} {w : Nat} {l : List Ask} (h : Formed s) : Formed (sendAsks s c w l).1 := by
  unfold sendAsks
  grind [!foldl_fst_formed, !sendReq_formed]

theorem sendPut_formed {s : State} {c : Cmd} {a node : Nat} {role : Option (Nat × Nat)} {n : Nat} {bs : List Byte}
    (h : Formed s) : Formed (sendPut s c a node role n bs).1 := by
  unfold sendPut
  grind [!sendReq_formed, keepPackets_formed]

theorem writeGo_formed {s : State} {x : Ctx} {c : Cmd} {w : Nat} {l : List (Nat × Nat)} {q : List Byte} {k : Put} (h : Formed s) :
    Formed (writeGo s x c w l q k).1 := by
  induction l generalizing s q k with
  | nil => exact h
  | cons p l ih =>
    obtain ⟨a, n⟩ := p
    unfold writeGo
    grind [!writePiece_formed, !sendPut_formed]

theorem writeRange_formed {s : State} {x : Ctx} {c : Cmd} {w a : Nat} {bs : List Byte}
    (h : Formed s) : Formed (writeRange s x c w a bs).1 := by
  unfold writeRange
  grind [!writeGo_formed]

theorem postRec_formed {s : State} {c : Cmd} {eng kind data : Nat} (h : Formed s) : Formed (postRec s c eng kind data) := by
  unfold postRec
  grind [postEvent_formed]

theorem postRecs_formed {s : State} {c : Cmd} {eng : Nat} {l : List (Nat × Nat)} (h : Formed s) : Formed (postRecs s c eng l) := by
  unfold postRecs
  grind [foldl_formed, postRec_formed]

theorem flushLeave_formed {s : State} {c : Cmd} (h : Formed s) : Formed (flushLeave s c) := by
  unfold flushLeave
  grind [postRec_formed, modCl_formed, dropCmd_formed, modCore_formed, refOut_formed]

theorem finishCmd_formed {s : State} {c : Cmd} {fail : Option (Nat × Nat)} (h : Formed s) : Formed (finishCmd s c fail) := by
  unfold finishCmd
  grind [dropCmd_formed, !signalArrive_formed, publish_formed, again_formed]

theorem execLeaseGrant_formed {s t : State} {cl : Nat} (h : Formed s) (e : execLeaseGrant cl s = .next t) : Formed t := by
  unfold execLeaseGrant at e
  grind [modCl_formed]

theorem execLeaseEnd_formed {s t : State} {cl : Nat} (h : Formed s) (e : execLeaseEnd cl s = .next t) : Formed t := by
  unfold execLeaseEnd at e
  grind [modCl_formed]

theorem execMxQueueTransfer_formed {s t : State} {cl : Nat} (h : Formed s) (e : execMxQueueTransfer cl s = .next t) : Formed t := by
  unfold execMxQueueTransfer at e
  grind [modCl_formed, putCmd_formed]

/-! ## Array commands -/

/-- The state in which a command at the array ends, stops or asks is in its canonical form. -/
def ArrRes.Kept : ArrRes → Prop
  | .wait => True
  | .pend s _ => Formed s
  | .ok s => Formed s
  | .fail s _ _ => Formed s

/-- The state after a block is in its canonical form. -/
def Applied.Kept : Applied → Prop
  | .done s _ _ _ => Formed s
  | .nack => True

theorem opndSpec_formed {s : State} {x : Ctx} {kind : BitVec 1} {v idx : Nat} (h : Formed s) : Formed (opndSpec s x kind v idx).1 := by
  unfold opndSpec
  grind [!seeEntry_formed]

theorem readOpnd_formed {s : State} {x : Ctx} {c : Cmd} {kind : BitVec 1} {v idx : Nat}
    (h : Formed s) : Formed (readOpnd s x c kind v idx).1 := by
  unfold readOpnd
  grind [!opndSpec_formed, !readGo_formed]

theorem readList_formed {s : State} {x : Ctx} {c : Cmd} {a : Nat} (h : Formed s) : Formed (readList s x c a).1 := by
  unfold readList
  grind [!readRange_formed]

theorem bankPoison_formed {s : State} {cl b : Nat} (h : Formed s) : Formed (bankPoison s cl b) := by
  unfold bankPoison
  grind [putBank_formed]

theorem chkFail_formed {s : State} {c : Cmd} {data : Nat} (h : Formed s) : (chkFail s c data).Kept := by
  unfold chkFail
  grind [ArrRes.Kept, postRec_formed]

theorem accFail_formed {s : State} {cl b cause addr : Nat} (h : Formed s) : (accFail s cl b cause addr).Kept := by
  unfold accFail
  grind [ArrRes.Kept, bankPoison_formed]

theorem askTiles_formed {s : State} {c : Cmd} {l : List Ask} (h : Formed s) : (askTiles s c l).Kept := by
  unfold askTiles
  grind [ArrRes.Kept, !sendAsks_formed]

theorem mmaProduct_formed {s : State} {x : Ctx} {c : Cmd} {bn : Nat} {oa ob : OpndRead} {os : List Outlier}
    (h : Formed s) : (mmaProduct s x c bn oa ob os).Kept := by
  unfold mmaProduct
  grind [ArrRes.Kept, !askTiles_formed, !accFail_formed, !chkFail_formed, putBank_formed]

theorem runMma_formed {s : State} {x : Ctx} {c : Cmd} {o : MM} {list : Bool} (h : Formed s) : (runMma s x c o list).Kept := by
  unfold runMma
  grind [ArrRes.Kept, !readOpnd_formed, !readList_formed, !chkFail_formed, !accFail_formed, !mmaProduct_formed]

theorem runMzero_formed {s : State} {x : Ctx} {bn : Nat} (h : Formed s) : (runMzero s x bn).Kept := by
  unfold runMzero
  grind [ArrRes.Kept, putBank_formed]

theorem runMload_formed {s : State} {x : Ctx} {c : Cmd} {bn : Nat} (h : Formed s) : (runMload s x c bn).Kept := by
  unfold runMload
  grind [ArrRes.Kept, !readRange_formed, !accFail_formed, putBank_formed, !chkFail_formed]

theorem locate_formed {s : State} {cl p : Nat} {k : CmdRef} (h : Formed s) : Formed (locate s cl p k) := by
  unfold locate
  grind [modCl_formed]

theorem checkBank_formed {s : State} {x : Ctx} {c : Cmd} {bn : Nat} (h : Formed s) : Formed (checkBank s x c bn).1 := by
  unfold checkBank
  grind [postRecs_formed, incCorr_formed, locate_formed, putBank_formed]

theorem runMchk_formed {s : State} {x : Ctx} {c : Cmd} {bn : Nat} (h : Formed s) : (runMchk s x c bn).Kept := by
  unfold runMchk
  grind [ArrRes.Kept, !checkBank_formed]

theorem setSectors_formed {s : State} {x : Ctx} {va : Nat} {bs : List Byte} {n : Nat} (h : Formed s) :
    Formed (setSectors s x va bs n) := by
  induction n generalizing s va bs with
  | zero => exact h
  | succ n ih =>
    unfold setSectors
    grind [modCl_formed]

theorem runMdrain_formed {s : State} {x : Ctx} {c : Cmd} {o : MC} (h : Formed s) : (runMdrain s x c o).Kept := by
  unfold runMdrain
  grind [ArrRes.Kept, !readRange_formed, !checkBank_formed, !accFail_formed, !writeRange_formed, setSectors_formed, postRecs_formed]

theorem runMrel_formed {s : State} {x : Ctx} {c : Cmd} {o : MC} (h : Formed s) : (runMrel s x c o).Kept := by
  unfold runMrel
  grind [foldl_formed, ArrRes.Kept, putBank_formed]

theorem narrowList_formed {s : State} {x : Ctx} {c : Cmd} (h : Formed s) : Formed (narrowList s x c) := by
  unfold narrowList
  grind [putOwner_formed]

theorem rowRecord_formed {s : State} {k : CmdRef} {data : Nat} (h : Formed s) : Formed (rowRecord s k data) := by
  unfold rowRecord
  grind [postEvent_formed]

theorem tellMap_formed {s : State} {cl : Nat} (h : Formed s) : Formed (tellMap s cl) := by
  unfold tellMap
  grind [postNotice_formed]

theorem retireRow_formed {s t : State} {cl p : Nat} {k : CmdRef} (h : Formed s) (e : retireRow s cl p k = some t) : Formed t := by
  unfold retireRow at e
  grind [modCl_formed, tellMap_formed, rowRecord_formed, incRowret_formed]

theorem execArrayCommandStart_formed {s t : State} {cl : Nat} (h : Formed s) (e : execArrayCommandStart cl s = .next t) : Formed t := by
  unfold execArrayCommandStart at e
  dsimp only at e
  split at e
  · split at e
    · obtain rfl := Host.Outcome.next.inj e
      exact modCl_formed h
    · split at e
      · exact absurd e (by simp)
      · split at e
        · exact absurd e (by simp)
        · split at e
          · exact absurd e (by simp)
          · obtain rfl := Host.Outcome.next.inj e
            exact finishCmd_formed (modCl_formed h)
          · obtain rfl := Host.Outcome.next.inj e
            exact compared_formed (compared_formed (modCl_formed (putCmd_formed (narrowList_formed h))))
  · exact absurd e (by simp)

theorem runArray_formed {s : State} {x : Ctx} {c : Cmd} (h : Formed s) : (runArray s x c).Kept := by
  unfold runArray
  grind [ArrRes.Kept, !runMma_formed, !runMzero_formed, !runMload_formed, !runMchk_formed, !runMdrain_formed, !runMrel_formed]

theorem goArray_formed {s : State} {x : Ctx} {c : Cmd} (h : Formed s) : (goArray s x c).Kept := by
  unfold goArray
  grind [ArrRes.Kept, !runArray_formed]

theorem execArrayCommandComplete_formed {s t : State} {cl : Nat} (h : Formed s) (e : execArrayCommandComplete cl s = .next t) : Formed t := by
  unfold execArrayCommandComplete at e
  dsimp only at e
  split at e
  · exact absurd e (by simp)
  · split at e
    · obtain rfl := Host.Outcome.next.inj e
      exact modCl_formed h
    · split at e
      · obtain rfl := Host.Outcome.next.inj e
        exact modCl_formed (dropCmd_formed h)
      · next x _ =>
        have hk : ∀ c, (goArray s x c).Kept := fun c => goArray_formed h
        split at e
        · exact absurd e (by simp)
        · split at e
          · next hg =>
            have hk := hg ▸ hk _
            obtain rfl := Host.Outcome.next.inj e
            exact putCmd_formed hk
          · exact absurd e (by simp)
          · next hg =>
            have hk := hg ▸ hk _
            obtain rfl := Host.Outcome.next.inj e
            exact modCl_formed (finishCmd_formed hk)
          · next hg =>
            have hk := hg ▸ hk _
            obtain rfl := Host.Outcome.next.inj e
            exact modCl_formed (finishCmd_formed hk)

theorem execRowRetire_formed {s t : State} {cl : Nat} (h : Formed s) (e : execRowRetire cl s = .next t) : Formed t := by
  unfold execRowRetire at e
  grind [retireRow_formed, compared_formed]

theorem finishBlock_formed {s : State} {q : CollSpec} {p : Place} {st : Option Place} {z : Option (List Nat)} {nvd : Nat} {vd : Bool}
    (h : Formed s) : Formed (finishBlock s q p st z nvd vd) := by
  unfold finishBlock
  grind [writePlace_formed]

theorem applyBlock_formed {s : State} {g : Nat × Nat × Nat} {q : CollSpec} {k : Block} (h : Formed s) : (applyBlock s g q k).Kept := by
  unfold applyBlock
  grind [Applied.Kept, probeRange_formed, finishBlock_formed]

theorem collSignal_formed {s : State} {g : Nat × Nat × Nat} {q : CollSpec} (h : Formed s) : Formed (collSignal s g q) := by
  unfold collSignal
  grind [!signalArrive_formed]

end Sys2Proof.Machine
end

section
/-!
Every memory stays in its canonical form (log 4): the commands of the copy engine.
-/
namespace Sys2Proof.Machine

theorem execCpCommandStart_formed {s t : State} {cl : Nat} (h : Formed s) (e : execCpCommandStart cl s = .next t) : Formed t := by
  unfold execCpCommandStart at e
  grind [modCl_formed, finishCmd_formed, compared_formed, putCmd_formed]

/-! ## Copy commands -/

/-- The state in which a step of a copy command ends is in its canonical form. -/
def CpRes.Kept : CpRes → Prop
  | .stop s _ _ _ _ => Formed s
  | .pend s _ _ _ => Formed s
  | .ok s => Formed s
  | .fail s _ _ _ => Formed s

/-- The state in which a search for a format ends is in its canonical form. -/
def Found.Kept : Found → Prop
  | .fmt _ => True
  | .none => True
  | .stop r => r.Kept

/-- The state after the check of a tile is in its canonical form. -/
def Checked.Kept : Checked → Prop
  | .ok s _ _ => Formed s
  | .bad r => r.Kept

theorem withRead_formed {s : State} {x : Ctx} {c : Cmd} {w a n : Nat} {k : State → List Byte → CpRes}
    (hk : ∀ t bs, Formed t → (k t bs).Kept) (h : Formed s) : (withRead s x c w a n k).Kept := by
  unfold withRead
  grind [CpRes.Kept, !readRange_formed, !sendAsks_formed]

theorem withWrite_formed {s : State} {x : Ctx} {c : Cmd} {w a : Nat} {bs : List Byte} {k : State → State}
    (hk : ∀ t, Formed t → Formed (k t)) (h : Formed s) : (withWrite s x c w a bs k).Kept := by
  unfold withWrite
  grind [CpRes.Kept, !writeRange_formed]

theorem cpChkFail_formed {s : State} {c : Cmd} {pre : List (Nat × Nat)} {data : Nat} (h : Formed s) : (cpChkFail s c pre data).Kept := by
  unfold cpChkFail
  grind [CpRes.Kept, postRecs_formed]

theorem dropPieces_formed {s : State} {x : Ctx} {c : Cmd} {ks : List Nat} (h : Formed s) : Formed (dropPieces s x c ks).1 := by
  unfold dropPieces
  grind [again_formed]

theorem cpyReads_formed {c : Cmd} {d : Nat} {x : Ctx} {n i : Nat} {s : State} {l : List Ask} (h : Formed s) :
    Formed (cpyReads c d x n i s l).1 := by
  induction n generalizing i s l with
  | zero => exact h
  | succ n ih =>
    unfold cpyReads
    grind [!readPiece_formed]

theorem cpyPuts_formed {c : Cmd} {d : Nat} {x : Ctx} {sent : List Nat} {n i : Nat} {s : State} (h : Formed s) :
    Formed (cpyPuts c d x sent n i s).1 := by
  induction n generalizing i s with
  | zero => exact h
  | succ n ih =>
    unfold cpyPuts
    grind [!writeLoc_formed]

theorem cpyBytes_formed {s : State} {x : Ctx} {c : Cmd} {d i : Nat} {far : List FarElem}
    (h : Formed s) : Formed (cpyBytes s x c d i far).1 := by
  unfold cpyBytes
  grind [!wordLoc_formed, !readPiece_formed]

theorem cpyMoves_formed {c : Cmd} {d : Nat} {x : Ctx} {n i : Nat} {s : State} {far : List FarElem} (h : Formed s) :
    Formed (cpyMoves c d x n i s far).1 := by
  induction n generalizing i s far with
  | zero => exact h
  | succ n ih =>
    unfold cpyMoves
    grind [!writePiece_formed, !cpyBytes_formed]

/-- The writes to other packages that a sector has gathered. -/
theorem sendPuts_formed {c : Cmd} {l : List FarElem} {r : State × List Nat} (h : Formed r.1) :
    Formed (l.foldl (fun u q => let v := sendPut u.1 c q.va q.node q.role q.addr q.bs; (v.1, u.2 ++ [v.2])) r).1 :=
  foldl_fst_formed (fun _ _ => sendPut_formed) h

theorem cpyGo_formed {c : Cmd} {d total n i : Nat} {s : State} {x : Ctx} {sent : List Nat} (h : Formed s) :
    (cpyGo c d total n i s x sent).Kept := by
  induction n generalizing i s x sent with
  | zero =>
    unfold cpyGo
    grind [CpRes.Kept]
  | succ n ih =>
    unfold cpyGo
    dsimp only
    split
    · split
      · exact h
      · exact h
    · have hr := cpyReads_formed (c := c) (d := d) (x := x) (n := min total ((i / cpyPer d + 1) * cpyPer d) - i) (i := i) (l := []) h
      split
      · split
        · exact sendAsks_formed hr
        · exact hr
      · split
        · exact hr
        · next s2 k put hs =>
          have hp : Formed s2 := (congrArg (fun r => Formed r.1) hs).mp (cpyPuts_formed hr)
          have ht := fun y (ks : List Nat) m => sendPuts_formed (c := c) (l := m) (r := ((dropPieces _ y c ks).1, sent))
            (dropPieces_formed (cpyMoves_formed (c := c) (d := d) (x := x) (n := k - i) (i := i) (far := []) hp))
          split
          · exact ht _ _ _
          · exact ht _ _ _
          · exact ht _ _ _
          · exact ht _ _ _
          · exact ih (ht _ _ _)

theorem runCpy_formed {s : State} {x : Ctx} {c : Cmd} (h : Formed s) : (runCpy s x c).Kept := by
  unfold runCpy
  grind [CpRes.Kept, !cpyGo_formed]

theorem cpzGo_formed {x : Ctx} {c : Cmd} {d n i : Nat} {s : State} {sent : List Nat} (h : Formed s) : (cpzGo x c d n i s sent).Kept := by
  induction n generalizing i s sent with
  | zero =>
    unfold cpzGo
    grind [CpRes.Kept]
  | succ n ih =>
    unfold cpzGo
    grind [CpRes.Kept, !writePiece_formed, !sendPut_formed]

theorem runCpz_formed {s : State} {x : Ctx} {c : Cmd} (h : Formed s) : (runCpz s x c).Kept := by
  unfold runCpz
  grind [CpRes.Kept, !cpzGo_formed]

theorem findFmt_formed {s : State} {x : Ctx} {c : Cmd} {w a : Nat} {l : List (Nat × List Nat)} (h : Formed s) :
    Formed (findFmt s x c w a l).1 ∧ (findFmt s x c w a l).2.Kept := by
  induction l generalizing s with
  | nil => exact ⟨h, trivial⟩
  | cons p l ih =>
    obtain ⟨off, codes⟩ := p
    unfold findFmt
    grind [Found.Kept, CpRes.Kept, !readRange_formed, !sendAsks_formed]

theorem cpCheck_formed {s : State} {c : Cmd} {f : Fmt} {bs : List Byte} {check : Bool} (h : Formed s) : (cpCheck s c f bs check).Kept := by
  unfold cpCheck
  grind [CpRes.Kept, Checked.Kept, !cpChkFail_formed, incCorr_formed, postRecs_formed]

theorem putTile_formed {s : State} {x : Ctx} {c : Cmd} {f : Fmt} {k : Tile} {recs : List (Nat × Nat)}
    (h : Formed s) : (putTile s x c f k recs).Kept := by
  unfold putTile
  grind [CpRes.Kept, !withWrite_formed, postRecs_formed]

theorem convertTile_formed {s : State} {x : Ctx} {c : Cmd} {fs : Fmt} {regen : Bool} {k : Tile} {recs : List (Nat × Nat)} (h : Formed s) :
    (convertTile s x c fs regen k recs).Kept := by
  have hp : ∀ f u l, (putTile s x c f u l).Kept := fun _ _ _ => putTile_formed h
  unfold convertTile
  extract_lets d fd
  split
  · exact hp _ _ _
  · exact hp _ _ _

theorem uncounted_formed {s : State} {r : CpRes} (hr : r.Kept) (h : Formed s) : (uncounted s r).Kept := by
  unfold uncounted
  grind [CpRes.Kept]

theorem withRecs_formed {c : Cmd} {recs : List (Nat × Nat)} {r : CpRes} (h : r.Kept) : (withRecs c recs r).Kept := by
  unfold withRecs
  grind [CpRes.Kept, postRecs_formed]

theorem cpytSource_formed {s : State} {x : Ctx} {c : Cmd} {o : CD} {fs : Fmt} {bs : List Byte}
    (h : Formed s) : (cpytSource s x c o fs bs).Kept := by
  unfold cpytSource
  grind [CpRes.Kept, Checked.Kept, !cpCheck_formed, !uncounted_formed, !withRecs_formed, !convertTile_formed]

theorem withTile_formed {s : State} {x : Ctx} {c : Cmd} {w a n : Nat} {k : State → List Byte → CpRes}
    (hk : ∀ t bs, Formed t → (k t bs).Kept) (h : Formed s) : (withTile s x c w a n k).Kept := by
  have hw := withRead_formed (x := x) (c := c) (w := w) (a := a) (n := n) hk h
  unfold withTile
  grind [CpRes.Kept, !readRange_formed]

theorem runCpyt_formed {s : State} {x : Ctx} {c : Cmd} {o : CD} (h : Formed s) : (runCpyt s x c o).Kept := by
  have hs := seeEntry_formed (x := x) (i := c.hidx) h
  unfold runCpyt
  dsimp only
  split
  · exact h
  · split
    · obtain ⟨hf, hr⟩ := findFmt_formed (x := x) (c := c) (w := bits c.desc.toNat 191 128) (a := bits c.desc.toNat 183 128) (l := probes) h
      split
      · exact h
      · split
        · next e =>
          rw [e] at hr
          exact hr
        · next e =>
          rw [e] at hf
          exact cpChkFail_formed hf
        · next e =>
          rw [e] at hf
          exact withTile_formed (fun t bs ht => cpytSource_formed ht) hf
    · split
      · next e =>
        rw [e] at hs
        exact hs
      · next e =>
        rw [e] at hs
        split
        · exact putTile_formed hs
        · exact withRead_formed (fun t bs ht => cpytSource_formed ht) hs

theorem runCpzTile_formed {s : State} {x : Ctx} {c : Cmd} {o : CD} (h : Formed s) : (runCpzTile s x c o).Kept := by
  unfold runCpzTile
  grind [CpRes.Kept, !putTile_formed]

theorem writeSectors_formed {s : State} {x : Ctx} {c : Cmd} {a n : Nat} {bs : List Byte} (h : Formed s) :
    Formed (writeSectors s x c a bs n).1 := by
  induction n generalizing s a bs with
  | zero => exact h
  | succ n ih =>
    unfold writeSectors
    grind [!ownLoc_formed, writePlace_formed, !nibblePlace_formed, homeStored_formed, nibblePut_formed]

theorem amaxWord_formed {s : State} {x : Ctx} {c : Cmd} {va a : Nat} (h : Formed s) : Formed (amaxWord s x c va a).1 := by
  unfold amaxWord
  grind [!ownLoc_formed, !nibblePlace_formed, !rmwAt_formed, rawSector_formed]

theorem cpstEnd_formed {s : State} {x : Ctx} {c : Cmd} {a above : Nat} {checked made : List (Nat × Nat)}
    (h : Formed s) : (cpstEnd s x c a above checked made).Kept := by
  unfold cpstEnd
  grind [CpRes.Kept, postRecs_formed, !amaxWord_formed]

theorem cpstPut_formed {s : State} {x : Ctx} {c : Cmd} {e : HEntry} {bs : List Byte} {checked : List (Nat × Nat)} {fin : State → CpRes}
    (hk : ∀ t, Formed t → (fin t).Kept) (h : Formed s) : (cpstPut s x c e bs checked fin).Kept := by
  unfold cpstPut
  grind [CpRes.Kept, !writeSectors_formed, !writeRange_formed, !withRecs_formed]

theorem cpstTile_formed {s : State} {x : Ctx} {c : Cmd} {o : CD} {k : HEntry} {fs : Fmt} {bs : List Byte}
    (h : Formed s) : (cpstTile s x c o k fs bs).Kept := by
  unfold cpstTile
  grind [CpRes.Kept, Checked.Kept, !cpCheck_formed, !uncounted_formed, !cpstPut_formed, !cpstEnd_formed]

theorem runCpst_formed {s : State} {x : Ctx} {c : Cmd} {o : CD} (h : Formed s) : (runCpst s x c o).Kept := by
  have hs := seeEntry_formed (x := x) (i := c.hidx) h
  unfold runCpst
  dsimp only
  split
  · exact h
  · split
    · next e =>
      rw [e] at hs
      exact hs
    · next e =>
      rw [e] at hs
      split
      · exact hs
      · obtain ⟨hf, hr⟩ := findFmt_formed (x := x) (c := c) (w := 0) (a := bits c.desc.toNat 55 0) (l := probes) hs
        split
        · next e =>
          rw [e] at hr
          exact hr
        · next e =>
          rw [e] at hf
          exact cpChkFail_formed hf
        · next e =>
          rw [e] at hf
          exact withTile_formed (fun t bs ht => cpstTile_formed ht) hf

theorem runCpxOut_formed {s : State} {x : Ctx} {c : Cmd} (h : Formed s) : (runCpxOut s x c).Kept := by
  unfold runCpxOut
  grind [CpRes.Kept, !seeEntry_formed, !withRead_formed, !withWrite_formed]

theorem runCpxIn_formed {s : State} {x : Ctx} {c : Cmd} (h : Formed s) : (runCpxIn s x c).Kept := by
  unfold runCpxIn
  grind [CpRes.Kept, !seeEntry_formed, !withRead_formed, !withWrite_formed]

theorem setQpWord_formed {s : State} {qp i v : Nat} (h : Formed s) : Formed (setQpWord s qp i v) := by
  unfold setQpWord
  grind [writePlace_formed]

theorem qpAdvance_formed {s : State} {qp n : Nat} (h : Formed s) : Formed (qpAdvance s qp n) := by
  unfold qpAdvance
  grind [setQpWord_formed]

theorem rdmaSend_formed {s : State} {l : List RdmaMsg} (h : Formed s) : Formed (rdmaSend s l) := h

theorem sendRdma_formed {s : State} {c : Cmd} {m0 : RdmaMsg} (h : Formed s) : Formed (sendRdma s c m0) := by
  unfold sendRdma
  grind [modNet_formed, rdmaSend_formed, qpAdvance_formed]

theorem runCpn_formed {s : State} {x : Ctx} {c : Cmd} {rd : Bool} (h : Formed s) : (runCpn s x c rd).Kept := by
  unfold runCpn
  grind [CpRes.Kept, !withWrite_formed, sendRdma_formed, !withRead_formed]

theorem nearBlocks_formed {g : Nat × Nat × Nat} {q : CollSpec} {l : List Block} {r : Near} (h : Formed r.s) :
    Formed (nearBlocks g q l r).s := by
  induction l generalizing r with
  | nil => exact h
  | cons k l ih =>
    unfold nearBlocks
    grind [Applied.Kept, !applyBlock_formed]

theorem collNear_formed {s : State} {c : Cmd} {g : Nat × Nat × Nat} {q : CollSpec} {ks : List Block}
    (h : Formed s) : (collNear s c g q ks).Kept := by
  unfold collNear
  grind [CpRes.Kept, !nearBlocks_formed, postRecs_formed, collSignal_formed]

theorem sendReliable_formed {s : State} {c : Cmd} {node : Nat} {q : CollSpec} {ks : List Block}
    (h : Formed s) : Formed (sendReliable s c node q ks).1 := by
  unfold sendReliable
  grind [!foldl_fst_formed, !sendReq_formed]

theorem sendLossy_formed {s : State} {c : Cmd} {node : Nat} {q : CollSpec} {ks : List Block}
    (h : Formed s) : Formed (sendLossy s c node q ks).1 := by
  unfold sendLossy
  grind [!sendReq_formed, sendPkts_formed]

theorem collHere_formed {s : State} {c : Cmd} {g : Nat × Nat × Nat} {src st : List Byte} (h : Formed s) : (collHere s c g src st).Kept := by
  unfold collHere
  grind [CpRes.Kept, !sendLossy_formed, !collNear_formed]

theorem collSend_formed {s : State} {x : Ctx} {c : Cmd} {src st : List Byte} (h : Formed s) : (collSend s x c src st).Kept := by
  unfold collSend
  grind [CpRes.Kept, !collHere_formed, !sendLossy_formed, !sendReliable_formed]

theorem runColl_formed {s : State} {x : Ctx} {c : Cmd} (h : Formed s) : (runColl s x c).Kept := by
  unfold runColl
  grind [CpRes.Kept, postRecs_formed, !withRead_formed, !collSend_formed]

theorem runCp_formed {s : State} {x : Ctx} {c : Cmd} (h : Formed s) : (runCp s x c).Kept := by
  unfold runCp
  grind [CpRes.Kept, !runCpy_formed, !runCpyt_formed, !runCpst_formed, !runCpz_formed, !runCpzTile_formed, !runCpxOut_formed, !runCpxIn_formed, !runCpn_formed, !runColl_formed]

theorem farFailure_formed {s : State} {x : Ctx} {c : Cmd} {k a : Nat} (h : Formed s) : (farFailure s x c k a).Kept := by
  unfold farFailure
  grind [CpRes.Kept, !findFmt_formed, !cpChkFail_formed]

theorem advanceCp_formed {s : State} {x : Ctx} {c : Cmd} (h : Formed s) : (advanceCp s x c).Kept := by
  unfold advanceCp
  grind [CpRes.Kept, !farFailure_formed, !runCp_formed]

theorem narrowOp_formed {s : State} {c : Cmd} (h : Formed s) : Formed (narrowOp s c) := by
  unfold narrowOp
  grind [putOwner_formed]

theorem settleCp_formed {c : Cmd} {r : CpRes} (h : r.Kept) : Formed (settleCp c r) := by
  unfold settleCp
  grind [CpRes.Kept, putCmd_formed, narrowOp_formed, finishCmd_formed]

theorem execCpCommandComplete_formed {s t : State} {id : CtxId} {seq : Nat}
    (h : Formed s) (e : execCpCommandComplete id seq s = .next t) : Formed t := by
  unfold execCpCommandComplete at e
  grind [CpRes.Kept, flushLeave_formed, settleCp_formed, !advanceCp_formed]

theorem execEngineAccessResume_formed {s t : State} {id : CtxId} {seq : Nat}
    (h : Formed s) (e : execEngineAccessResume id seq s = .next t) : Formed t := by
  unfold execEngineAccessResume at e
  grind [putCmd_formed]

end Sys2Proof.Machine
end

section
/-!
Every memory stays in its canonical form (log 4): jobs, phasers, barriers, control registers and handles at their issue, and what the loads,
stores, atomics and returns of the slots do.
-/
namespace Sys2Proof.Machine

theorem markComplete_formed {s : State} {entry task : Nat} (h : Formed s) : Formed (markComplete s entry task) := h

theorem jobArrive_formed {s : State} {j : JobRef} {o : Word} (h : Formed s) : Formed (jobArrive s j o) := by
  unfold jobArrive
  grind [postNotice_formed, putPh_formed, !reachBarrier_formed, writeBarrier_formed]

theorem completeJob_formed {s : State} {j : JobRef} {img : List Byte} (h : Formed s) : Formed (completeJob s j img) := by
  unfold completeJob
  grind [sharedWrite_formed, jobArrive_formed, postNotice_formed, markComplete_formed]

theorem postJob_formed {s : State} {j : JobRef} (h : Formed s) : Formed (postJob s j) := by
  unfold postJob
  grind [!sharedRead_formed, sharedWrite_formed, completeJob_formed]

theorem markPosted_formed {s : State} {uid : Nat} (h : Formed s) : Formed (markPosted s uid) := h

theorem markDue_formed {s : State} {uid : Nat} {c : CtxId} {q : Nat} (h : Formed s) : Formed (markDue s uid c q) := h

theorem illWhen_formed {s : State} {b : State → Ctx → Bool} {k : Iss} {x : Ctx} {r : State × TrapC}
    (h : Formed s) (e : illWhen b k s x = some r) : Formed r.1 := by
  unfold illWhen at e
  grind

theorem phIll_formed {s : State} {o : YF} {k : Iss} {q : Ctx} {r : State × TrapC}
    (h : Formed s) (e : phIll o k s q = some r) : Formed r.1 := by
  unfold phIll at e
  grind [illWhen_formed]

theorem phawArrive_formed {s : State} {o : YF} {x : Ctx} (h : Formed s) : Formed (phawArrive o s x) := by
  unfold phawArrive
  grind [putPh_formed, publish_formed]

theorem tbCheck_formed {s : State} {x : Ctx} {a : Nat} {write : Bool} (h : Formed s) : Formed (tbCheck s x a write).1 := by
  unfold tbCheck
  grind [!objAccess_formed]

theorem flushBegin_formed {s : State} {x : Ctx} {core : Nat} {mx : Bool} (h : Formed s) : Formed (flushBegin s x core mx) := by
  unfold flushBegin
  grind [foldl_formed, modCore_formed, flushLeave_formed]

theorem flushEnd_formed {s : State} {x : Ctx} {core : Nat} {mx : Bool} (h : Formed s) : Formed (flushEnd s x core mx).1 := by
  unfold flushEnd
  grind [endFlush_formed]

theorem setPairmode_formed {s : State} {cl v : Nat} {w1c : Bool} (h : Formed s) : Formed (setPairmode s cl v w1c) := by
  unfold setPairmode
  grind [foldl_formed, modPair_formed]

theorem stepTime_formed {s : State} {v : Nat} (h : Formed s) : Formed (stepTime s v) := h

theorem setRegister_formed {s : State} {x : Ctx} {n v : Nat} {w1c : Bool} (h : Formed s) : Formed (setRegister s x n v w1c) := by
  unfold setRegister
  grind [modCtx_formed, modCore_formed, setPairmode_formed, modCl_formed, stepTime_formed, modPkg_formed]

theorem asOfIssue_formed {s : State} {x : Ctx} (h : Formed s) : Formed (asOfIssue s x) := by
  unfold asOfIssue
  grind [modCore_formed]

/-! ## What the operations of the slots do -/

/-- The state after the return of an `eret` is in its canonical form. -/
def EretRes.Kept : EretRes → Prop
  | .ok s => Formed s
  | .trap _ => True

theorem returnTrap_formed {s : State} {x : Ctx} (h : Formed s) : (returnTrap s x).Kept := by
  unfold returnTrap
  grind [EretRes.Kept, !areaRead_formed, !reloadGroups_formed, putCtx_formed]

theorem runNone_formed {s : State} {k : Iss} {q : Ctx} (h : Formed s) : (runNone k q s).Kept := h

theorem runKld_formed {s : State} {o : KM} {i : Iss} {x : Ctx} (h : Formed s) : (runKld o i x s).Kept := by
  unfold runKld
  grind [OpRes.Kept, !kmCheck_formed, addLanding_formed, startOp_formed]

theorem runKst_formed {s : State} {o : KM} {i : Iss} {x : Ctx} (h : Formed s) : (runKst o i x s).Kept := by
  unfold runKst
  grind [OpRes.Kept, !kmCheck_formed, startOp_formed]

theorem runLd_formed {s : State} {o : LM} {i : Iss} {x : Ctx} (h : Formed s) : (runLd o i x s).Kept := by
  unfold runLd
  grind [OpRes.Kept, modCl_formed, passOp_formed, startLoad_formed, !ctxAccess_formed]

theorem runSt_formed {s : State} {o : LM} {i : Iss} {x : Ctx} (h : Formed s) : (runSt o i x s).Kept := by
  unfold runSt
  grind [OpRes.Kept, startOp_formed, modCl_formed, !ctxAccess_formed]

theorem runVld_formed {s : State} {o : LM} {i : Iss} {x : Ctx} (h : Formed s) : (runVld o i x s).Kept := by
  unfold runVld
  grind [OpRes.Kept, passOp_formed, !ctxAccess_formed, startVec_formed]

theorem runVst_formed {s : State} {o : LM} {i : Iss} {x : Ctx} (h : Formed s) : (runVst o i x s).Kept := by
  unfold runVst
  grind [OpRes.Kept, passOp_formed, !ctxAccess_formed, startOp_formed]

theorem runVlds_formed {s : State} {o : LM} {i : Iss} {x : Ctx} (h : Formed s) : (runVlds o i x s).Kept := by
  unfold runVlds
  grind [OpRes.Kept, !checkAll_formed, startVec_formed]

theorem runVgth_formed {s : State} {o : LG} {i : Iss} {x : Ctx} (h : Formed s) : (runVgth o i x s).Kept := by
  unfold runVgth
  grind [OpRes.Kept, passOp_formed, !checkAll_formed, startVec_formed]

theorem runVsct_formed {s : State} {o : LG} {i : Iss} {x : Ctx} (h : Formed s) : (runVsct o i x s).Kept := by
  unfold runVsct
  grind [OpRes.Kept, passOp_formed, !checkAll_formed, startOp_formed]

theorem runAmo_formed {s : State} {o : LA} {i : Iss} {x : Ctx} (h : Formed s) : (runAmo o i x s).Kept := by
  unfold runAmo
  grind [OpRes.Kept, !ctxAccess_formed, startLoad_formed]

theorem runCas_formed {s : State} {o : LA} {i : Iss} {x : Ctx} (h : Formed s) : (runCas o i x s).Kept := by
  unfold runCas
  grind [OpRes.Kept, !ctxAccess_formed, startLoad_formed]

theorem runRed_formed {s : State} {o : LA} {i : Iss} {x : Ctx} (h : Formed s) : (runRed o i x s).Kept := by
  unfold runRed
  grind [OpRes.Kept, !ctxAccess_formed, startOp_formed]

theorem runVredm_formed {s : State} {o : LG} {i : Iss} {x : Ctx} (h : Formed s) : (runVredm o i x s).Kept := by
  unfold runVredm
  grind [OpRes.Kept, passOp_formed, postEvent_formed, !ctxAccess_formed, startOp_formed]

theorem runPref_formed {s : State} {o : LM} {i : Iss} {x : Ctx} (h : Formed s) : (runPref o i x s).Kept := by
  unfold runPref
  grind [OpRes.Kept, startOp_formed]

theorem phTrap_formed {sub : Nat} : (phTrap sub).Kept := by
  unfold phTrap
  grind [OpRes.Kept]

theorem startSy_formed {s : State} {o : YF} {i : Iss} {x : Ctx} {k : OpKind} (h : Formed s) : (startSy o i x s k).Kept := by
  unfold startSy
  grind [OpRes.Kept, startLoad_formed]

theorem tbPoison_formed {s : State} {o : YF} {i : Iss} {x : Ctx} {a : Nat} (h : Formed s) : (tbPoison o i x s a).Kept := by
  unfold tbPoison
  grind [OpRes.Kept, startLoad_formed, modCtx_formed]

end Sys2Proof.Machine
end

section
/-!
Every memory stays in its canonical form (log 4): the operations of the slots.
-/
namespace Sys2Proof.Machine

/-! ## Forms of operations -/

/-- An operation that does nothing before its issue, as its hold begins or after its bundle, and is never ill-formed by a register. -/
theorem KeepsForm.ofRun {so : SlotOp} (hi : so.illReg = fun _ _ _ => none) (he : so.early = fun _ s _ => s)
    (hb : so.begins = fun _ s _ => s) (hp : so.post = fun _ _ s => .ok s) (hr : ∀ i x s, Formed s → (so.run i x s).Kept) : KeepsForm so where
  illReg i s x r _ e := by
    rw [hi] at e
    exact absurd e (by simp)
  early i s x h := by
    rw [he]
    exact h
  begins i s x h := by
    rw [hb]
    exact h
  run := hr
  post i x s h := by
    rw [hp]
    exact h

/-- One that its registers may make ill-formed. -/
theorem KeepsForm.ofIll {so : SlotOp} (hi : ∀ i s x r, Formed s → so.illReg i s x = some r → Formed r.1) (he : so.early = fun _ s _ => s)
    (hb : so.begins = fun _ s _ => s) (hp : so.post = fun _ _ s => .ok s) (hr : ∀ i x s, Formed s → (so.run i x s).Kept) : KeepsForm so where
  illReg := hi
  early i s x h := by
    rw [he]
    exact h
  begins i s x h := by
    rw [hb]
    exact h
  run := hr
  post i x s h := by
    rw [hp]
    exact h

/-- One that the form of its operands may make ill-formed. -/
theorem KeepsForm.ofWhen {so : SlotOp} {b : State → Ctx → Bool} (hi : so.illReg = illWhen b)
    (he : ∀ i s x, Formed s → Formed (so.early i s x)) (hb : ∀ i s x, Formed s → Formed (so.begins i s x))
    (hp : so.post = fun _ _ s => .ok s) (hr : ∀ i x s, Formed s → (so.run i x s).Kept) : KeepsForm so where
  illReg i s x r h e := by
    rw [hi] at e
    exact illWhen_formed h e
  early := he
  begins := hb
  run := hr
  post i x s h := by
    rw [hp]
    exact h

/-- One of BR: it acts after its bundle. -/
theorem KeepsForm.ofPost {so : SlotOp} (hi : so.illReg = fun _ _ _ => none) (he : so.early = fun _ s _ => s)
    (hb : so.begins = fun _ s _ => s) (hr : ∀ i x s, Formed s → (so.run i x s).Kept) (hp : ∀ i x s, Formed s → (so.post i x s).Kept) :
    KeepsForm so where
  illReg i s x r _ e := by
    rw [hi] at e
    exact absurd e (by simp)
  early i s x h := by
    rw [he]
    exact h
  begins i s x h := by
    rw [hb]
    exact h
  run := hr
  post := hp

theorem RegOp.keepsForm {so : SlotOp} (h : RegOp so) : KeepsForm so :=
  .ofRun h.illReg h.early h.begins h.post fun i x s hs => by
    obtain ⟨ws, fl, e, -⟩ | ⟨l, fl, e⟩ := h.run i x s
    · rw [e]
      exact hs
    · rw [e]
      exact addLanding_formed hs

theorem or_formed {a b : Option (State × TrapC)} {r : State × TrapC} (ha : a = some r → Formed r.1) (hb : b = some r → Formed r.1)
    (e : a.or b = some r) : Formed r.1 := by
  obtain h | ⟨-, h⟩ := Option.or_eq_some_iff.1 e
  · exact ha h
  · exact hb h

/-! ## BR -/

theorem jumpReg_keeps (r : Nat) (link : Bool) : KeepsForm (jumpReg r link) := by
  refine .ofPost rfl rfl rfl (fun i x s h => ?_) (fun i x s h => setPc_formed h)
  show OpRes.Kept (match badTarget (rdS x r) with
      | some t => .trap t
      | none => .ok s (if link then [(.s 63, (nextPc x i.len).toNat)] else []) 0)
  split
  · trivial
  · exact h

theorem opTree_keeps (o : BT) : KeepsForm (opTree o) := by
  refine .ofPost rfl rfl rfl (fun _ _ _ h => h) (fun i x s h => ?_)
  refine setPc_formed ?_
  split
  · exact modCtx_formed h
  · exact h

theorem opTreeAt_keeps (o : BT) (leaf : Nat) : KeepsForm (opTreeAt o leaf) :=
  .ofPost rfl rfl rfl (fun _ _ _ h => h) fun _ _ _ h => setPc_formed h

theorem opEret_keeps : KeepsForm opEret := by
  refine .ofPost rfl rfl rfl (fun _ _ _ h => h) (fun i x s h => ?_)
  have h1 : Formed ((eretAreas x).foldl (fun u r => forceOps u x.id (fun e => rangesMeet [r] (opRanges e.kind)) 8) s) :=
    foldl_formed (fun _ _ => forceOps_formed) h
  unfold opEret brOp
  dsimp only
  split
  · exact h1
  · next y _ =>
    split
    · exact putCtx_formed h1
    · have hr := returnTrap_formed (x := y) h1
      split
      · next e =>
        rw [e] at hr
        exact hr
      · trivial

/-! ## Loads and stores -/

theorem memOp_keeps {ss : BitVec 4} {reads : Ctx → List RegId} {writes : List RegId} {weight : Nat} {run : Iss → Ctx → State → OpRes}
    (hr : ∀ i x s, Formed s → (run i x s).Kept) : KeepsForm (memOp ss reads writes weight run) := .ofRun rfl rfl rfl rfl hr

/-! ## MX and CP -/

theorem mxOp_keeps {w : Word} {ss : BitVec 4} {pm : BitVec 16} {acc : Nat} {sg : BitVec 6} {reads : Ctx → List RegId}
    {ill : State → Ctx → Option (State × TrapC)} {entries : Nat} {traps : State → Ctx → List TrapC}
    {cap : State → Ctx → Cmd → State × Cmd × List (Nat × Nat)} (hi : ∀ s x r, Formed s → ill s x = some r → Formed r.1)
    (hc : ∀ s x c, Formed s → Formed (cap s x c).1) : KeepsForm (mxOp w ss pm acc sg reads ill entries traps cap) := by
  refine .ofIll (fun i s x r h => or_formed (hi s x r h) (objIll_formed h)) rfl rfl rfl (fun i x s h => ?_)
  unfold mxOp plainOp
  dsimp only
  split
  · trivial
  · exact leaseUse_formed (enqueue_formed (bindBank_formed (hc s x _ h)))

theorem mmOp_keeps (o : MM) (w : Word) (list : Bool) : KeepsForm (mmOp o w list) := by
  unfold mmOp
  refine mxOp_keeps (fun _ _ _ => pairIll_formed) ?_
  intro s x c h
  have h1 : ∀ i, Formed (if o.ka = 0 then s else fillEntry s x i) := fun i => by
    split
    · exact h
    · exact fillEntry_formed h
  dsimp only
  split
  · exact h1 _
  · exact fillEntry_formed (h1 _)

theorem mcOp_keeps (o : MC) (w : Word) : KeepsForm (mcOp o w) := mxOp_keeps (fun _ _ _ _ e => absurd e (by simp)) fun _ _ _ h => h

theorem opMload_keeps (o : MC) : KeepsForm (opMload o) := mxOp_keeps (fun _ _ _ h => destIll_formed h) fun _ _ _ h => h

theorem opMdrain_keeps (o : MC) : KeepsForm (opMdrain o) := by
  refine mxOp_keeps (fun s x r h => or_formed (destIll_formed h) fun e => ?_) (fun _ _ _ h => h)
  obtain ⟨-, e⟩ := Option.ite_none_right_eq_some.1 e
  obtain rfl := Option.some.inj e
  exact h

theorem opMrel_keeps (o : MC) : KeepsForm (opMrel o) := by
  refine .ofIll (fun i s x r h => objIll_formed h) rfl rfl rfl (fun i x s h => enqueue_formed ?_)
  split
  · exact leaseGive_formed h
  · exact h

theorem cpOp_keeps (o : CD) (w : Word) (reads : List RegId) (entries : Nat) (bad : State → Ctx → Nat → Option Nat)
    (handle : Option Nat) (absent : State → Ctx → Nat → Option TrapC) (stepD : Int → State → Ctx → Nat → Nat)
    (traps : State → Ctx → Nat → List TrapC) (ranges : Int → State → Ctx → Nat → List (Nat × Nat)) (scope : State → Ctx → Nat → Nat)
    (extra : Int → Word) : KeepsForm (cpOp o w reads entries bad handle absent stepD traps ranges scope extra) := by
  refine .ofIll (fun i s x r h => or_formed (or_formed (fun e => ?_) (handleOpt_formed h)) (objIll_formed h)) rfl rfl rfl (fun i x s h => ?_)
  · obtain ⟨-, e⟩ := Option.ite_none_left_eq_some.1 e
    exact badDesc_formed h e
  · unfold cpOp plainOp
    dsimp only
    split
    · trivial
    · refine enqueue_formed ?_
      split
      · exact fillEntry_formed h
      · exact h

theorem opCpy_keeps (o : CD) : KeepsForm (opCpy o) := by
  unfold opCpy
  exact cpOp_keeps _ _ _ _ _ _ _ _ _ _ _ _

theorem opCpyt_keeps (o : CD) : KeepsForm (opCpyt o) := by
  unfold opCpyt
  exact cpOp_keeps _ _ _ _ _ _ _ _ _ _ _ _

theorem opCpst_keeps (o : CD) : KeepsForm (opCpst o) := by
  unfold opCpst
  exact cpOp_keeps _ _ _ _ _ _ _ _ _ _ _ _

theorem opCpz_keeps (o : CD) : KeepsForm (opCpz o) := by
  unfold opCpz
  exact cpOp_keeps _ _ _ _ _ _ _ _ _ _ _ _

theorem opCpzTile_keeps (o : CD) : KeepsForm (opCpzTile o) := by
  unfold opCpzTile
  exact cpOp_keeps _ _ _ _ _ _ _ _ _ _ _ _

theorem opColl_keeps (o : CD) : KeepsForm (opColl o) := by
  unfold opColl
  exact cpOp_keeps _ _ _ _ _ _ _ _ _ _ _ _

theorem cpxOp_keeps (o : CD) (w : Word) : KeepsForm (cpxOp o w) := by
  unfold cpxOp
  exact cpOp_keeps _ _ _ _ _ _ _ _ _ _ _ _

theorem cpnOp_keeps (o : CD) (w : Word) : KeepsForm (cpnOp o w) := by
  unfold cpnOp
  exact cpOp_keeps _ _ _ _ _ _ _ _ _ _ _ _

/-! ## SY -/

theorem tbAtIssue_formed {s : State} {o : YF} {i : Iss} {x : Ctx} {write : Bool} {why : Option BlockWhy}
    {act : State → Place → Barrier → OpRes} (ha : ∀ t p b, Formed t → (act t p b).Kept) (h : Formed s) :
    (tbAtIssue o i x s write why act).Kept := by
  unfold tbAtIssue
  grind [OpRes.Kept, lowerDone_formed, !tbCheck_formed, !reachBarrier_formed, !tbPoison_formed]

theorem opGive_keeps (o : YF) : KeepsForm (opGive o) := by
  refine .ofRun rfl rfl rfl rfl (fun i x s h => ?_)
  unfold opGive syMem memOp plainOp
  dsimp only
  grind [OpRes.Kept, startOp_formed, setOwners_formed]

theorem opTake_keeps (o : YF) : KeepsForm (opTake o) := by
  refine .ofRun rfl rfl rfl rfl (fun i x s h => ?_)
  unfold opTake syMem memOp plainOp
  dsimp only
  grind [OpRes.Kept, lowerDone_formed, setOwners_formed, passOp_formed]

theorem opWaits_keeps (o : YF) : KeepsForm (opWaits o) := .ofRun rfl rfl rfl rfl fun _ _ _ h => h

theorem opSleep_keeps (o : YF) : KeepsForm (opSleep o) := .ofRun rfl rfl rfl rfl fun _ _ _ h => h

theorem opRdtime_keeps (o : YF) : KeepsForm (opRdtime o) := .ofRun rfl rfl rfl rfl fun _ _ _ h => h

theorem opPhreg_keeps (o : YF) : KeepsForm (opPhreg o) := by
  refine .ofWhen rfl (fun _ _ _ h => h) (fun _ _ _ h => h) rfl (fun i x s h => ?_)
  unfold opPhreg syOp plainOp
  dsimp only
  grind [OpRes.Kept, !phTrap_formed, putPh_formed]

theorem opPhdrop_keeps (o : YF) : KeepsForm (opPhdrop o) := by
  refine .ofWhen rfl (fun _ _ _ h => h) (fun _ _ _ h => h) rfl (fun i x s h => ?_)
  unfold opPhdrop syOp plainOp
  dsimp only
  grind [OpRes.Kept, !phTrap_formed, putPh_formed]

theorem opPharr_keeps (o : YF) : KeepsForm (opPharr o) := by
  refine .ofWhen rfl (fun _ _ _ h => h) (fun _ _ _ h => h) rfl (fun i x s h => ?_)
  unfold opPharr syMem memOp plainOp
  dsimp only
  grind [OpRes.Kept, !phTrap_formed, putPh_formed, !startSy_formed]

theorem opPhwait_keeps (o : YF) : KeepsForm (opPhwait o) := by
  refine .ofWhen rfl (fun _ _ _ h => h) (fun _ _ _ h => h) rfl (fun i x s h => ?_)
  unfold opPhwait syMem memOp plainOp
  dsimp only
  grind [OpRes.Kept, !phTrap_formed, lowerDone_formed, passOp_formed]

theorem opPhaw_keeps (o : YF) : KeepsForm (opPhaw o) := by
  refine .ofWhen rfl (fun _ _ _ h => phawArrive_formed h) (fun _ _ _ h => h) rfl (fun i x s h => ?_)
  unfold opPhaw syMem memOp plainOp
  dsimp only
  grind [OpRes.Kept, !phTrap_formed, putPh_formed, passOp_formed]

theorem opTbinit_keeps (o : YF) : KeepsForm (opTbinit o) := by
  refine .ofWhen rfl (fun _ _ _ h => h) (fun _ _ _ h => h) rfl (fun i x s h => ?_)
  unfold opTbinit syMem memOp plainOp
  dsimp only
  grind [OpRes.Kept, !tbCheck_formed, startOp_formed]

theorem opTbarr_keeps (o : YF) : KeepsForm (opTbarr o) := by
  refine .ofRun rfl rfl rfl rfl (fun i x s h => ?_)
  unfold opTbarr syMem memOp plainOp
  dsimp only
  grind [OpRes.Kept, !tbCheck_formed, !startSy_formed]

theorem opTbexp_keeps (o : YF) : KeepsForm (opTbexp o) := by
  refine .ofWhen rfl (fun _ _ _ h => h) (fun _ _ _ h => h) rfl (fun i x s h => ?_)
  unfold opTbexp syMem memOp plainOp
  dsimp only
  refine tbAtIssue_formed (fun t p b ht => ?_) h
  grind [OpRes.Kept, passOp_formed, writeBarrier_formed, publish_formed]

theorem opTbwait_keeps (o : YF) : KeepsForm (opTbwait o) := by
  refine .ofWhen rfl (fun _ _ _ h => h) (fun _ _ _ h => h) rfl (fun i x s h => ?_)
  unfold opTbwait syMem memOp plainOp
  dsimp only
  exact tbAtIssue_formed (fun t p b ht => passOp_formed (s := t) ht) h

theorem opDone_keeps (o : YF) : KeepsForm (opDone o) := by
  refine .ofRun rfl rfl rfl rfl (fun i x s h => ?_)
  unfold opDone syOp plainOp
  dsimp only
  grind [OpRes.Kept, postJob_formed, publishIter_formed, markPosted_formed, markDue_formed]

theorem opJraise_keeps (o : YF) : KeepsForm (opJraise o) := by
  refine .ofWhen rfl (fun _ _ _ h => h) (fun _ _ _ h => h) rfl (fun i x s h => ?_)
  unfold opJraise syMem memOp plainOp
  dsimp only
  grind [OpRes.Kept, startOp_formed]

theorem launchOp_keeps (o : YF) (on : Bool) : KeepsForm (launchOp o on) :=
  .ofWhen rfl (fun _ _ _ h => h) (fun _ _ _ h => h) rfl fun _ _ _ h => startSy_formed h

theorem opPurge_keeps (o : YF) : KeepsForm (opPurge o) :=
  .ofWhen rfl (fun _ _ _ h => h) (fun _ _ _ h => h) rfl fun _ _ _ h => startSy_formed h

theorem opEvrd_keeps (o : YF) : KeepsForm (opEvrd o) := by
  refine .ofRun rfl rfl rfl rfl (fun i x s h => ?_)
  unfold opEvrd syOp plainOp
  dsimp only
  grind [OpRes.Kept, modCtx_formed]

theorem opCsrr_keeps (o : YF) : KeepsForm (opCsrr o) := .ofRun rfl rfl rfl rfl fun _ _ _ h => h

theorem csrWriteOp_keeps (o : YF) (w1c : Bool) (f : Nat → Nat → Nat) : KeepsForm (csrWriteOp o w1c f) :=
  .ofRun rfl rfl rfl rfl fun _ _ _ h => setRegister_formed h

theorem opCsrw_keeps (o : YF) : KeepsForm (opCsrw o) := by
  unfold opCsrw
  exact csrWriteOp_keeps _ _ _

theorem opCsrs_keeps (o : YF) : KeepsForm (opCsrs o) := by
  unfold opCsrs
  exact csrWriteOp_keeps _ _ _

theorem opCsrc_keeps (o : YF) : KeepsForm (opCsrc o) := by
  unfold opCsrc
  exact csrWriteOp_keeps _ _ _

theorem handleOp_keeps (o : YF) (code : Nat) (reads : List RegId) (op1 op2 : Ctx → Word) (extra : State → Ctx → Option TrapC) :
    KeepsForm (handleOp o code reads op1 op2 extra) := by
  refine .ofRun rfl rfl rfl rfl (fun i x s h => ?_)
  unfold handleOp syMem memOp plainOp
  grind [OpRes.Kept, !startSy_formed]

theorem opHpri_keeps (o : YF) : KeepsForm (opHpri o) :=
  .ofWhen rfl (fun _ _ _ h => h) (fun _ _ _ h => h) rfl
    (handleOp_keeps o 0x16 [.s o.b.toNat] (fun x => rdS x o.b.toNat) noOperand noTrap).run

theorem qflushOp_keeps (o : YF) (mx : Bool) : KeepsForm (qflushOp o mx) :=
  .ofWhen rfl (fun _ _ _ h => h) (fun _ _ _ h => flushBegin_formed h) rfl fun _ _ _ h => flushEnd_formed h

theorem opVredRsum_keeps (o : VX) : KeepsForm (opVredRsum o) := by
  refine .ofRun rfl rfl rfl rfl (fun i x s h => ?_)
  unfold opVredRsum plainOp
  dsimp only
  split
  · exact postEvent_formed h
  · exact h

/-! ## Every operation -/

theorem opNop_keeps : KeepsForm opNop := .ofPost rfl rfl rfl (fun _ _ _ h => h) fun _ _ _ h => setPc_formed h

theorem KeepsForm.ofSlot {i : Instr} {so : SlotOp} (hi : slotOpOf i = some so) (h : KeepsForm so) : KeepsForm (opOf i) := by
  rw [opOf, hi]
  exact h

/-- The operations that do more than compute register results. -/
theorem opOf_keeps_of_not_registerOnly (i : Instr) (hi : registerOnly i = false) : KeepsForm (opOf i) := by
  cases i with
  | jmp o => exact .ofPost rfl rfl rfl (fun _ _ _ h => h) fun _ _ _ h => setPc_formed h
  | jmpr o => exact jumpReg_keeps _ _
  | callr o => exact jumpReg_keeps _ _
  | tree o => exact opTree_keeps o
  | call o => exact .ofPost rfl rfl rfl (fun _ _ _ h => h) fun _ _ _ h => setPc_formed h
  | trap o => exact .ofPost rfl rfl rfl (fun _ _ _ h => h) fun _ _ _ h => softTrap_formed h
  | ret => exact jumpReg_keeps _ _
  | eret => exact opEret_keeps
  | halt => exact .ofPost rfl rfl rfl (fun _ _ _ h => h) fun _ _ _ h => retire_formed h
  | yield => exact .ofPost rfl rfl rfl (fun _ _ _ h => h) fun _ _ _ h => giveUp_formed (setPc_formed h)
  | kld o => exact .ofRun rfl rfl rfl rfl fun _ _ _ => runKld_formed
  | kst o => exact .ofRun rfl rfl rfl rfl fun _ _ _ => runKst_formed
  | vld o => exact .ofRun rfl rfl rfl rfl fun _ _ _ => runVld_formed
  | vst o => exact .ofRun rfl rfl rfl rfl fun _ _ _ => runVst_formed
  | vlds o => exact .ofRun rfl rfl rfl rfl fun _ _ _ => runVlds_formed
  | vgth o => exact .ofRun rfl rfl rfl rfl fun _ _ _ => runVgth_formed
  | vsct o => exact .ofRun rfl rfl rfl rfl fun _ _ _ => runVsct_formed
  | amo o => exact .ofRun rfl rfl rfl rfl fun _ _ _ => runAmo_formed
  | cas o => exact .ofRun rfl rfl rfl rfl fun _ _ _ => runCas_formed
  | red o => exact .ofRun rfl rfl rfl rfl fun _ _ _ => runRed_formed
  | vredm o => exact .ofRun rfl rfl rfl rfl fun _ _ _ => runVredm_formed
  | pref o => exact .ofRun rfl rfl rfl rfl fun _ _ _ => runPref_formed
  | ld o => exact .ofRun rfl rfl rfl rfl fun _ _ _ => runLd_formed
  | st o => exact .ofRun rfl rfl rfl rfl fun _ _ _ => runSt_formed
  | mma o => exact mmOp_keeps _ _ _
  | mmao o => exact mmOp_keeps _ _ _
  | mzero o => exact mcOp_keeps _ _
  | mchk o => exact mcOp_keeps _ _
  | mload o => exact opMload_keeps o
  | mdrain o => exact opMdrain_keeps o
  | mrel o => exact opMrel_keeps o
  | cpy o => exact .ofSlot rfl (opCpy_keeps o)
  | cpyt o => exact .ofSlot rfl (opCpyt_keeps o)
  | cpst o => exact .ofSlot rfl (opCpst_keeps o)
  | cpz o => exact .ofSlot rfl (opCpz_keeps o)
  | cpzTile o => exact .ofSlot rfl (opCpzTile_keeps o)
  | cpxOut o => exact .ofSlot rfl (cpxOp_keeps _ _)
  | cpxIn o => exact .ofSlot rfl (cpxOp_keeps _ _)
  | cpnWr o => exact .ofSlot rfl (cpnOp_keeps _ _)
  | cpnRd o => exact .ofSlot rfl (cpnOp_keeps _ _)
  | coll o => exact .ofSlot rfl (opColl_keeps o)
  | give o => exact opGive_keeps o
  | take o => exact opTake_keeps o
  | waits o => exact opWaits_keeps o
  | phreg o => exact opPhreg_keeps o
  | phdrop o => exact opPhdrop_keeps o
  | pharr o => exact opPharr_keeps o
  | phwait o => exact opPhwait_keeps o
  | phaw o => exact opPhaw_keeps o
  | tbinit o => exact opTbinit_keeps o
  | tbexp o => exact opTbexp_keeps o
  | tbarr o => exact opTbarr_keeps o
  | tbwait o => exact opTbwait_keeps o
  | done o => exact opDone_keeps o
  | jraise o => exact opJraise_keeps o
  | evrd o => exact opEvrd_keeps o
  | csrr o => exact opCsrr_keeps o
  | hpri o => exact opHpri_keeps o
  | purge o => exact opPurge_keeps o
  | rdtime o => exact opRdtime_keeps o
  | sleep o => exact opSleep_keeps o
  | vredRsum o => exact opVredRsum_keeps o
  | launchOn o => exact launchOp_keeps o _
  | launchOff o => exact launchOp_keeps o _
  | csrw o => exact .ofSlot rfl (opCsrw_keeps o)
  | csrs o => exact .ofSlot rfl (opCsrs_keeps o)
  | csrc o => exact .ofSlot rfl (opCsrc_keeps o)
  | hpinOn o => exact .ofSlot rfl (handleOp_keeps o _ _ _ _ _)
  | hpinOff o => exact .ofSlot rfl (handleOp_keeps o _ _ _ _ _)
  | hdem o => exact .ofSlot rfl (handleOp_keeps o _ _ _ _ _)
  | hevict o => exact .ofSlot rfl (handleOp_keeps o _ _ _ _ _)
  | hmov o => exact .ofSlot rfl (handleOp_keeps o _ _ _ _ _)
  | qflushCp o => exact qflushOp_keeps o _
  | qflushMx o => exact qflushOp_keeps o _
  | _ => first
    | exact opNop_keeps
    | exact Bool.noConfusion (show true = false from hi)

/-- Every operation of a slot leaves every memory in its canonical form. -/
theorem opOf_keeps (i : Instr) : KeepsForm (opOf i) := by
  cases hi : registerOnly i with
  | true => exact (regOp_of i hi).keepsForm
  | false => exact opOf_keeps_of_not_registerOnly i hi

theorem opAt_keeps (leaf : Nat) (i : Instr) : KeepsForm (opAt leaf i) := by
  cases i with
  | tree o => exact opTreeAt_keeps o leaf
  | _ => exact opOf_keeps _

/-- The issue of a slot operation on its own keeps the form. -/
theorem execSlot_formed {s t : State} {i : Instr} (hi : (slotOpOf i).isSome = true) (h : Formed s) (e : exec i s = .next t) : Formed t := by
  rw [exec_slot i s hi] at e
  exact issueAlone_formed (opOf_keeps i) h e

end Sys2Proof.Machine
end

section
/-!
Every memory stays in its canonical form (log 4): the steps of a core.
-/
namespace Sys2Proof.Machine

theorem fetchBundle_formed {s : State} {x : Ctx} (h : Formed s) : Formed (fetchBundle s x).1 := by
  unfold fetchBundle
  grind [!fetchWord_formed, !fetchWords_formed]

theorem runs_formed {s : State} {x : Ctx} (h : Formed s) : Formed (runs s x) := by
  unfold runs
  grind [modCore_formed]

theorem notNow_formed {row : String} {t : State} (e : notNow row = .next t) : Formed t := absurd e (by simp [notNow])

theorem awaitMatch_formed {s : State} {x : Ctx} (h : Formed s) : Formed (awaitMatch s x) := by
  unfold awaitMatch
  grind [modPair_formed]

/-! ## Presentations -/

theorem bySlot_keeps {o : IssOp} (ho : KeepsForm o.so) : ∀ {l : List IssOp}, (∀ p ∈ l, KeepsForm p.so) → ∀ p ∈ bySlot o l, KeepsForm p.so
  | [], _ => by simpa [bySlot] using ho
  | q :: l, hl => by
    have ih := bySlot_keeps ho (fun p hp => hl p (List.mem_cons_of_mem _ hp))
    have hq := hl q List.mem_cons_self
    unfold bySlot
    split
    · exact List.forall_mem_cons.2 ⟨ho, hl⟩
    · exact List.forall_mem_cons.2 ⟨hq, ih⟩

theorem inOrder_keeps : ∀ {l : List IssOp}, (∀ p ∈ l, KeepsForm p.so) → ∀ p ∈ inOrder l, KeepsForm p.so
  | [], _ => fun _ hp => absurd hp List.not_mem_nil
  | o :: _, hl => bySlot_keeps (hl o List.mem_cons_self) (inOrder_keeps fun p hp => hl p (List.mem_cons_of_mem _ hp))

theorem reissue_keeps {b : Bundle} {p : Nat × Sticky} {o : IssOp} (e : reissue b p = .inl o) : KeepsForm o.so := by
  unfold reissue at e
  split at e
  · exact absurd e (by simp)
  · obtain rfl := Sum.inl.inj e
    exact opAt_keeps _ _

/-- The operations of an issue are those of slot words. -/
theorem bundleIssue_keeps (x : Ctx) (d : Decoded) : ∀ o ∈ (bundleIssue x d).exec, KeepsForm o.so := by
  refine inOrder_keeps fun p hp => ?_
  obtain hp | hp := List.mem_append.1 hp
  · obtain ⟨q, -, rfl⟩ := List.mem_map.1 hp
    exact opAt_keeps _ _
  · obtain ⟨r, hr, e⟩ := List.mem_filterMap.1 hp
    obtain ⟨q, -, rfl⟩ := List.mem_map.1 hr
    split at e
    · next he =>
      obtain rfl := Option.some.inj e
      exact reissue_keeps he
    · exact absurd e (by simp)

theorem fetchTrap_formed {s : State} {x : Ctx} {k : TrapT} (h : Formed s) : Formed (fetchTrap s x k).state := by
  unfold fetchTrap
  split
  · exact h
  · split
    · exact takePoison_formed h
    · rw [Present.state_act]
      exact takeTrap_formed h

theorem lateReturn_formed {s : State} {x : Ctx} (h : Formed s) : Formed (lateReturn s x).state := by
  have hr : ∀ y, (returnTrap (putCtx s y) y).Kept := fun _ => returnTrap_formed (putCtx_formed h)
  unfold lateReturn
  split
  · exact h
  · dsimp only
    split
    · next e =>
      have hk := hr { x with eretWait := false }
      rw [e] at hk
      exact hk
    · exact trapNow_formed (putCtx_formed h)

theorem presentation_formed {s : State} {x : Ctx} (h : Formed s) : Formed (presentation s x).state := by
  have hf := fetchBundle_formed (x := x) h
  unfold presentation
  split
  · split
    · exact h
    · rw [Present.state_act]
      exact takeTrap_formed (putCtx_formed h)
  · split
    · exact lateReturn_formed h
    · split
      · next e =>
        rw [e] at hf
        exact fetchTrap_formed hf
      · next e =>
        rw [e] at hf
        dsimp only
        split
        · exact firstSeen_formed hf
        · exact present_formed (bundleIssue_keeps x _) hf

theorem pairPresented_formed {s : State} {x : Ctx} (h : Formed s) : Formed (pairPresented s x) := by
  unfold pairPresented
  dsimp only
  split
  · exact awaitMatch_formed h
  · exact presented_formed (presentation_formed h)

theorem execPresentBundle_formed {s t : State} {cl core : Nat} (h : Formed s) (e : execPresentBundle cl core s = .next t) : Formed t := by
  unfold execPresentBundle at e
  grind [notNow_formed, pairPresented_formed, runs_formed]

theorem wake_formed {s : State} {x : Ctx} (h : Formed s) : Formed (wake s x) := by
  unfold wake
  grind [putCtx_formed]

theorem execBlockClears_formed {s t : State} {c : CtxId} (h : Formed s) (e : execBlockClears c s = .next t) : Formed t := by
  unfold execBlockClears at e
  grind [notNow_formed, wake_formed]

theorem execSleepWake_formed {s t : State} {c : CtxId} (h : Formed s) (e : execSleepWake c s = .next t) : Formed t := by
  unfold execSleepWake at e
  grind [notNow_formed, wake_formed]

theorem timeOut_formed {s : State} {x : Ctx} {k : Nat × Nat × Nat} (h : Formed s) : Formed (timeOut s x k) := by
  unfold timeOut
  grind [takeTrap_formed]

theorem limitTrap_formed {s t : State} {cause : Nat} {row : String} {c : CtxId}
    (h : Formed s) (e : limitTrap cause row c s = .next t) : Formed t := by
  unfold limitTrap at e
  grind [notNow_formed, awaitMatch_formed, timeOut_formed]

theorem execLeaseTimeout_formed {s t : State} {c : CtxId} (h : Formed s) (e : execLeaseTimeout c s = .next t) : Formed t := by
  unfold execLeaseTimeout at e
  grind [limitTrap_formed]

theorem execFifoTimeout_formed {s t : State} {c : CtxId} (h : Formed s) (e : execFifoTimeout c s = .next t) : Formed t := by
  unfold execFifoTimeout at e
  grind [limitTrap_formed]

theorem execWatchdog_formed {s t : State} {c : CtxId} (h : Formed s) (e : execWatchdog c s = .next t) : Formed t := by
  unfold execWatchdog at e
  grind [limitTrap_formed]

theorem execLeaseWaitEvent_formed {s t : State} {c : CtxId} (h : Formed s) (e : execLeaseWaitEvent c s = .next t) : Formed t := by
  unfold execLeaseWaitEvent at e
  grind [notNow_formed, putCtx_formed]

theorem execInterlockedWrite_formed {s t : State} {c : CtxId} (h : Formed s) (e : execInterlockedWrite c s = .next t) : Formed t := by
  unfold execInterlockedWrite at e
  split at e
  · exact notNow_formed e
  · split at e
    · exact notNow_formed e
    · split at e
      · obtain rfl := Host.Outcome.next.inj e
        exact stopAndPurge_formed h
      · next hf =>
        obtain rfl := Host.Outcome.next.inj e
        exact putCtx_formed (flushSaved_formed h hf)

theorem execLanding_formed {s t : State} {c : CtxId} (h : Formed s) (e : execLanding c s = .next t) : Formed t := by
  unfold execLanding at e
  split at e
  · exact notNow_formed e
  · split at e
    · split at e
      · obtain rfl := Host.Outcome.next.inj e
        exact stopAndPurge_formed h
      · next hg =>
        obtain rfl := Host.Outcome.next.inj e
        exact putCtx_formed (saveGroups_formed h hg)
    · exact notNow_formed e

theorem mismatch_formed {s : State} {cl pair : Nat} {x : Ctx} (h : Formed s) : Formed (mismatch s cl pair x) := by
  unfold mismatch
  grind [incPair_formed, modPair_formed, purgeWork_formed]

theorem stayStopped_formed {s : State} {x : Ctx} (h : Formed s) : Formed (stayStopped x s) := by
  unfold stayStopped
  grind [modCtx_formed]

theorem matched_formed {s : State} {x : Ctx} (h : Formed s) : Formed (matched s x) := by
  unfold matched
  split
  · exact timeOut_formed h
  · exact stayStopped_formed (presented_formed (presentation_formed h))

theorem execSignatureMatch_formed {s t : State} {cl pair : Nat} {equal : Bool}
    (h : Formed s) (e : execSignatureMatch cl pair equal s = .next t) : Formed t := by
  unfold execSignatureMatch at e
  grind [notNow_formed, matched_formed, modPair_formed, mismatch_formed]

end Sys2Proof.Machine
end

section
/-!
Every memory stays in its canonical form (log 4): launches, placement, pre-emption and resumption.
-/
namespace Sys2Proof.Machine

theorem modInst_formed {s : State} {n : Nat} {f : Inst → Inst} (h : Formed s) : Formed (modInst s n f) := h

theorem readEntry_formed {s : State} {n : Nat} (h : Formed s) : Formed (readEntry s n).1 := by
  unfold readEntry
  grind [probeRange_formed, makeRecord_formed]

theorem readWords_formed {s : State} {asn root va n : Nat} (h : Formed s) : Formed (readWords s asn root va n).1 := by
  unfold readWords
  grind [!sharedRead_formed]

theorem readTasks_formed {s : State} {ws : List Word} {k n : Nat} (h : Formed s) : Formed (readTasks s ws k n).1 := by
  induction n generalizing s k with
  | zero => exact h
  | succ n ih =>
    unfold readTasks
    grind [!readWords_formed]

theorem readBinding_formed {s : State} {ws l : List Word} (h : Formed s) : Formed (readBinding s ws l).1 := by
  unfold readBinding
  grind [!readWords_formed]

theorem captureTasks_formed {s : State} {ws : List Word} {k : Nat} {l : List (List Word)} (h : Formed s) :
    Formed (captureTasks s ws k l).1 := by
  induction l generalizing s k with
  | nil => exact h
  | cons r l ih => exact ih (readBinding_formed h)

theorem writeJcb_formed {s : State} {i : Inst} {n : Nat} {k : Task} {expected st : Nat}
    (h : Formed s) : Formed (writeJcb s i n k expected st) := by
  unfold writeJcb
  grind [sharedWrite_formed]

theorem rejectLaunch_formed {s : State} {n tag : Nat} (h : Formed s) : Formed (rejectLaunch s n tag) := by
  unfold rejectLaunch
  grind [postNotice_formed, setCtl_formed]

theorem startEntry_formed {s : State} {n : Nat} (h : Formed s) : Formed (startEntry s n) := by
  unfold startEntry
  grind [foldl_formed, !readEntry_formed, rejectLaunch_formed, !readTasks_formed, !captureTasks_formed, setCtl_formed, setLaunchWord_formed, writeJcb_formed, modDev_formed, modSpring_formed]

theorem execLaunchStart_formed {s t : State} (h : Formed s) (e : execLaunchStart s = .next t) : Formed t := by
  unfold execLaunchStart at e
  grind [notNow_formed, compared_formed, startEntry_formed, modSpring_formed]

theorem addOverrun_formed {s : State} {m n : Nat} (h : Formed s) : Formed (addOverrun s m n) := by
  unfold addOverrun
  grind [setLaunchWord_formed]

theorem setNextSlot_formed {s : State} {n k : Nat} (h : Formed s) : Formed (setNextSlot s n k) := by
  unfold setNextSlot
  grind [setLaunchWord_formed]

theorem abortInst_formed {s : State} {i : Inst} (h : Formed s) : Formed (abortInst s i) := by
  unfold abortInst
  grind [foldl_formed, purgeLocal_formed, setCtl_formed, purgeTasks_formed, postNotice_formed, modSpring_formed]

theorem overrun_formed {s : State} {n : Nat} {i : Inst} (h : Formed s) : Formed (overrun s n i) := by
  unfold overrun
  grind [addOverrun_formed, setCtl_formed, modSpring_formed, abortInst_formed, startPurge_formed]

theorem fireSlot_formed {s : State} {n k m : Nat} (h : Formed s) : Formed (fireSlot s n k m) := by
  unfold fireSlot
  grind [setNextSlot_formed, addOverrun_formed, overrun_formed, modSpring_formed, startEntry_formed]

theorem execTimeSlot_formed {s t : State} (h : Formed s) (e : execTimeSlot s = .next t) : Formed t := by
  unfold execTimeSlot at e
  grind [notNow_formed, fireSlot_formed, compared_formed]

theorem placeRank_formed {s : State} {w : Want} {cl gang rank : Nat} {tried l : List (Nat × Bool)} {r : State × CtxId × List (Nat × Bool)}
    (h : Formed s) (e : placeRank s w cl gang rank tried l = some r) : Formed r.1 := by
  induction l generalizing tried with
  | nil => exact absurd e (by simp [placeRank])
  | cons c l ih =>
    unfold placeRank at e
    split at e
    · obtain rfl := Option.some.inj e
      exact putCtx_formed h
    · exact ih e

theorem placeRanks_formed {s : State} {w : Want} {cl gang rank : Nat} {rot : List (Nat × Bool)} {n : Nat} {r : State × List CtxId}
    (h : Formed s) (e : placeRanks s w cl gang rank rot n = some r) : Formed r.1 := by
  induction n generalizing s rank rot r with
  | zero =>
    obtain rfl := Option.some.inj e
    exact h
  | succ n ih =>
    unfold placeRanks at e
    split at e
    · exact absurd e (by simp)
    · next h1 =>
      split at e
      · exact absurd e (by simp)
      · next h2 =>
        obtain rfl := Option.some.inj e
        have w2 := ih (placeRank_formed h h1) h2
        exact w2

theorem takeGranules_formed {s : State} {w : Want} {cl gang : Nat} {ps : List Nat} (h : Formed s) : Formed (takeGranules s w cl gang ps) := by
  unfold takeGranules
  grind [modCl_formed]

theorem placeGang_formed {s : State} {w : Want} {gang cl : Nat} {r : State × GangSlot} (h : Formed s)
    (e : placeGang s w gang cl = some r) : Formed r.1 := by
  unfold placeGang at e
  dsimp only at e
  split at e
  · exact absurd e (by simp)
  · split at e
    · exact absurd e (by simp)
    · next hr =>
      obtain rfl := Option.some.inj e
      exact takeGranules_formed (placeRanks_formed h hr)

theorem placeGangs_formed {s : State} {w : Want} {cls : List Nat} {scan : Option Nat} {gang n : Nat} (h : Formed s) :
    Formed (placeGangs s w cls scan gang n).1 := by
  induction n generalizing s scan gang with
  | zero => exact h
  | succ n ih =>
    unfold placeGangs
    split
    · exact h
    · next hg =>
      obtain ⟨_, _, hc⟩ := List.exists_of_findSome?_eq_some hg
      exact ih (placeGang_formed h hc)

theorem placementOf_formed {s : State} {i : Inst} {n : Nat} {k : Task} (h : Formed s) : Formed (placementOf s i n k).1 := by
  unfold placementOf
  grind [!placeGangs_formed]

theorem emptied_formed {s : State} (h : Formed s) : Formed (emptied s) := h

theorem putTask_formed {s : State} {n m : Nat} {k : Task} (h : Formed s) : Formed (putTask s n m k) := by
  unfold putTask
  grind [modInst_formed]

theorem rejectTask_formed {s : State} {i : Inst} {n : Nat} {k : Task} (h : Formed s) : Formed (rejectTask s i n k) := by
  unfold rejectTask
  grind [modInst_formed, putTask_formed, setJcbState_formed]

theorem releaseOne_formed {s : State} {i : Inst} {n : Nat} {k : Task} (h : Formed s) : Formed (releaseOne s i n k) := by
  unfold releaseOne
  grind [rejectTask_formed, putTask_formed, writeJcb_formed]

theorem releaseAll_formed {s : State} {i : Inst} (h : Formed s) : Formed (releaseAll s i) := by
  unfold releaseAll
  grind [foldl_formed, releaseOne_formed]

theorem execReleaseTask_formed {s t : State} {n m : Nat} (h : Formed s) (e : execReleaseTask n m s = .next t) : Formed t := by
  unfold execReleaseTask at e
  grind [notNow_formed, releaseAll_formed]

theorem modIter_formed {s : State} {uid : Nat} {f : Iter → Iter} (h : Formed s) : Formed (modIter s uid f) := h

theorem addGangs_formed {s : State} {w : Want} {gs : List GangSlot} (h : Formed s) : Formed (addGangs s w gs) := by
  unfold addGangs
  grind [modIter_formed, modSpring_formed]

theorem takeTurn_formed {s : State} {n m : Nat} (h : Formed s) : Formed (takeTurn s n m) := by
  unfold takeTurn
  grind [modSpring_formed, putTask_formed]

theorem placeNext_formed {s : State} {i : Inst} {n : Nat} {k : Task} (h : Formed s) : Formed (placeNext s i n k) := by
  unfold placeNext
  grind [!placementOf_formed, putTask_formed, addGangs_formed, takeTurn_formed]

theorem execPlaceIteration_formed {s t : State} {n m : Nat} (h : Formed s) (e : execPlaceIteration n m s = .next t) : Formed t := by
  unfold execPlaceIteration at e
  grind [notNow_formed, placeNext_formed]

theorem zeroGranule_formed {s : State} {cl p : Nat} (h : Formed s) : Formed (zeroGranule s cl p) := zeroGranule_wf s cl p h

theorem startCtxs_formed {s : State} {uid : Nat} (h : Formed s) : Formed (startCtxs s uid) := h

theorem execPlacementComplete_formed {s t : State} {id : IterId} (h : Formed s) (e : execPlacementComplete id s = .next t) : Formed t := by
  unfold execPlacementComplete at e
  grind [foldl_formed, notNow_formed, zeroGranule_formed, modIter_formed, startCtxs_formed]

theorem dropReserved_formed {s : State} {n m : Nat} (h : Formed s) : Formed (dropReserved s n m) := by
  unfold dropReserved
  grind [purgeLocal_formed]

theorem recheckTasks_formed {s : State} (h : Formed s) : Formed (recheckTasks s) := by
  unfold recheckTasks
  grind [foldl_formed, rejectTask_formed, dropReserved_formed]

theorem execPairModeChange_formed {s t : State} {cl pair : Nat} (h : Formed s) (e : execPairModeChange cl pair s = .next t) : Formed t := by
  unfold execPairModeChange at e
  grind [recheckTasks_formed, modPair_formed, notNow_formed]

theorem execCompletionPost_formed {s t : State} {id : IterId} (h : Formed s) (e : execCompletionPost id s = .next t) : Formed t := by
  unfold execCompletionPost at e
  grind [Formed, notNow_formed, postJob_formed, publishIter_formed, modIter_formed, freeIter_formed, modSpring_formed]

theorem decPending_formed {s : State} {n : Nat} (h : Formed s) : Formed (decPending s n) := by
  unfold decPending
  grind [setLaunchWord_formed]

theorem wakeSuccessors_formed {s : State} {l : List Nat} (h : Formed s) : Formed (wakeSuccessors s l) := by
  unfold wakeSuccessors
  grind [foldl_formed, startEntry_formed, decPending_formed]

theorem startDeferred_formed {s : State} {n : Nat} (h : Formed s) : Formed (startDeferred s n) := by
  unfold startDeferred
  grind [setCtl_formed, modSpring_formed, startEntry_formed]

theorem endInst_formed {s : State} {i : Inst} (h : Formed s) : Formed (endInst s i) := by
  unfold endInst
  grind [foldl_formed, modSpring_formed, setCtl_formed, postNotice_formed, wakeSuccessors_formed, startDeferred_formed]

theorem execInstanceComplete_formed {s t : State} (h : Formed s) (e : execInstanceComplete s = .next t) : Formed t := by
  unfold execInstanceComplete at e
  grind [notNow_formed, endInst_formed]

theorem afterStops_formed {s : State} (h : Formed s) : Formed (afterStops s) := by
  unfold afterStops
  grind [Formed, foldl_formed, freeIter_formed]

theorem stopIter_formed {s : State} {i : Iter} (h : Formed s) : Formed (stopIter s i) := by
  unfold stopIter
  grind [Formed, foldl_formed, putCtx_formed, modIter_formed]

theorem formed_of_fst {α : Type} {p : State × α} {t : State} {a : α} (e : p = (t, a)) (h : Formed p.1) : Formed t := by
  rw [e] at h
  exact h

/-- A fold that may fail keeps the form where each of its steps does. -/
theorem foldOpt_formed {α : Type} {f : State → α → Option State} {l : List α} {s t : State}
    (hf : ∀ u a v, Formed u → f u a = some v → Formed v) (h : Formed s) (e : foldOpt f l s = some t) : Formed t := by
  induction l generalizing s with
  | nil =>
    obtain rfl := Option.some.inj e
    exact h
  | cons a l ih =>
    unfold foldOpt at e
    split at e
    · exact absurd e (by simp)
    · next h1 => exact ih (hf _ _ _ h h1) e

theorem saveCtx_formed {s t : State} {x : Ctx} (h : Formed s) (e : saveCtx s x = some t) : Formed t := by
  unfold saveCtx at e
  split at e
  · exact absurd e (by simp)
  · next hf =>
    dsimp only at e
    split at e
    · exact absurd e (by simp)
    · next hw => exact areaWrite_formed (areaWrite_formed (flushSaved_formed h hf) hw) e

theorem saveGran_formed {s t : State} {i : Iter} {n : Inst} {g : SavedGran} (h : Formed s) (e : saveGran i n s g = some t) : Formed t := by
  unfold saveGran at e
  grind [areaWrite_formed]

theorem saveBank_formed {s t : State} {i : Iter} {n : Inst} {v : SavedBank} (h : Formed s) (e : saveBank i n s v = some t) : Formed t := by
  unfold saveBank at e
  grind [areaWrite_formed]

theorem trapFirst_formed {s : State} {x : Ctx} (h : Formed s) : Formed (trapFirst s x) := by
  unfold trapFirst
  grind [takeTrap_formed, putCtx_formed]

theorem dropCmds_formed {s : State} {uid : Nat} (h : Formed s) : Formed (dropCmds s uid) := h

theorem flushedOut_formed {s : State} {uid : Nat} (h : Formed s) : Formed (flushedOut s uid) := by
  unfold flushedOut
  grind [foldl_formed, refOut_formed]

theorem closeIter_formed {s : State} {i : Iter} (h : Formed s) : Formed (closeIter s i) := by
  have h0 : Formed ((ctxsOf s i.uid).foldl (fun u x => trapFirst u x) (flushedOut s i.uid)) :=
    foldl_formed (fun _ _ => trapFirst_formed) (flushedOut_formed h)
  unfold closeIter
  dsimp only
  split
  · split
    · exact purgeWork_formed h0
    · next h1 =>
      have w1 := foldOpt_formed (fun _ _ _ => saveCtx_formed) h0 h1
      split
      · exact purgeWork_formed w1
      · next h2 =>
        have w2 := foldOpt_formed (fun _ _ _ => saveGran_formed) w1 h2
        split
        · exact purgeWork_formed w2
        · next h3 =>
          have w3 := foldOpt_formed (fun _ _ _ => saveBank_formed) w2 h3
          have w4 : ∀ l : List Ctx, Formed (l.foldl drainAccepted _) := fun l => foldl_formed (fun _ _ => drainAccepted_formed) w3
          exact modIter_formed (modNet_formed (freeIter_formed (iter := i.uid) (dropCmds_formed (uid := i.uid) (w4 _))))
  · exact h0

theorem execPreempt_formed {s t : State} {n m : Nat} (h : Formed s) (e : execPreempt n m s = .next t) : Formed t := by
  unfold execPreempt at e
  grind [closeIter_formed, notNow_formed, stopIter_formed]

theorem execPreemptDrainTimeout_formed {s t : State} {id : IterId}
    (h : Formed s) (e : execPreemptDrainTimeout id s = .next t) : Formed t := by
  unfold execPreemptDrainTimeout at e
  grind [notNow_formed, purgeWork_formed]

theorem requeue_formed {s : State} {cl core : Nat} {l : List Cmd} (h : Formed s) : Formed (requeue s cl core l) := by
  unfold requeue
  grind [modCore_formed]

theorem loadCtx_formed {s t : State} {cs : List Cmd} {x : Ctx} (h : Formed s) (e : loadCtx cs s x = some t) : Formed t := by
  unfold loadCtx at e
  grind [!areaRead_formed, requeue_formed, putCtx_formed]

theorem retiredBack_formed {s : State} {cs : List Cmd} {x : Ctx} (h : Formed s) : Formed (retiredBack cs s x) := by
  unfold retiredBack
  grind [Formed, requeue_formed]

/-- The definition is unfolded as a function: the addresses it computes are then not evaluated. -/
theorem loadGran_formed {s t : State} {i : Iter} {n : Inst} {g : SavedGran} (h : Formed s) (e : loadGran i n s g = some t) : Formed t := by
  obtain ⟨f, hf⟩ : ∃ f, f = loadGran := ⟨_, rfl⟩
  rw [← hf] at e
  delta loadGran at hf
  rw [hf] at e
  beta_reduce at e
  split at e
  · exact absurd e (by simp)
  · next hr =>
    obtain rfl := Option.some.inj e
    refine modCl_formed (modMem_formed (fun hm => ?_) (zeroGranule_formed (formed_of_fst hr (areaRead_formed h))))
    rw [wf_iff] at hm ⊢
    obtain ⟨hh, hc, hm, ho⟩ := hm
    exact ⟨hh, hc, cellsWf_put _ _ hm, ho⟩

/-- As `loadGran_formed`. -/
theorem loadBank_formed {s t : State} {i : Iter} {n : Inst} {v : SavedBank} (h : Formed s) (e : loadBank i n s v = some t) : Formed t := by
  obtain ⟨f, hf⟩ : ∃ f, f = loadBank := ⟨_, rfl⟩
  rw [← hf] at e
  delta loadBank at hf
  rw [hf] at e
  beta_reduce at e
  split at e
  · exact absurd e (by simp)
  · next hr =>
    obtain rfl := Option.some.inj e
    exact putBank_formed (formed_of_fst hr (areaRead_formed h))

theorem queuesAhead_formed {s u : State} {cl core : Nat} (h : Formed u) : Formed (queuesAhead s u cl core) := modCore_formed h

/-- As `loadGran_formed`. -/
theorem resumeIter_formed {s : State} {i : Iter} {n : Inst} (h : Formed s) : Formed (resumeIter s i n) := by
  have hg : ∀ u a v, Formed u → loadGran i n u a = some v → Formed v := fun _ _ _ => loadGran_formed
  have hb : ∀ u a v, Formed u → loadBank i n u a = some v → Formed v := fun _ _ _ => loadBank_formed
  have hc : ∀ u a v, Formed u → loadCtx i.cmds u a = some v → Formed v := fun _ _ _ => loadCtx_formed
  obtain ⟨f, hf⟩ : ∃ f, f = resumeIter := ⟨_, rfl⟩
  rw [← hf]
  delta resumeIter at hf
  rw [hf]
  beta_reduce
  split
  · exact purgeWork_formed h
  · next h1 =>
    have w1 := foldOpt_formed hg h h1
    split
    · exact purgeWork_formed w1
    · next h2 =>
      have w2 := foldOpt_formed hb w1 h2
      split
      · exact purgeWork_formed w2
      · next h3 =>
        have w3 := foldOpt_formed hc w2 h3
        exact takeTurn_formed (modIter_formed (foldl_formed (fun _ _ => queuesAhead_formed) (foldl_formed (fun _ _ => retiredBack_formed) w3)))

theorem execResumeIteration_formed {s t : State} {id : IterId} (h : Formed s) (e : execResumeIteration id s = .next t) : Formed t := by
  unfold execResumeIteration at e
  grind [notNow_formed, resumeIter_formed]

end Sys2Proof.Machine
end

section
/-!
Every memory stays in its canonical form (log 4): the ports, the links, collectives at their target and the scale-out ports.
-/
namespace Sys2Proof.Machine

theorem answerIn_formed {s : State} {p : Packet} {tc : Nat} {k : PktKind} {op spec : Nat} {data : List Byte}
    (h : Formed s) : Formed (answerIn s p tc k op spec data) := by
  unfold answerIn
  grind [sendPkts_formed]

theorem answer_formed {s : State} {p : Packet} {k : PktKind} {op spec : Nat} {data : List Byte}
    (h : Formed s) : Formed (answer s p k op spec data) := by
  unfold answer
  grind [answerIn_formed]

theorem faultReply_formed {s : State} {p : Packet} {k : PktKind} (h : Formed s) : Formed (faultReply s p k) := by
  unfold faultReply
  grind [answerIn_formed]

theorem ackTo_formed {s : State} {p : Packet} (h : Formed s) : Formed (ackTo s p) := by
  unfold ackTo
  grind [answer_formed]

theorem nackTo_formed {s : State} {p : Packet} (h : Formed s) : Formed (nackTo s p) := by
  unfold nackTo
  grind [answer_formed]

theorem noGang_formed {s : State} {p : Packet} {k : PktKind} (h : Formed s) : Formed (noGang s p k) := by
  unfold noGang
  grind [answer_formed]

theorem dataTo_formed {s : State} {p : Packet} {bs : List Byte} (h : Formed s) : Formed (dataTo s p bs) := by
  unfold dataTo
  grind [answer_formed]

theorem errTo_formed {s : State} {p : Packet} {cause : Nat} (h : Formed s) : Formed (errTo s p cause) := by
  unfold errTo
  grind [answer_formed]

theorem portAt_formed {s : State} {i : Option AddrSpace} {va : Nat} {k : AccReq} (h : Formed s) : Formed (portAt s i va k).1 := by
  unfold portAt
  grind [!lookupShared_formed]

theorem portNibble_formed {s : State} {i : Option AddrSpace} {va : Nat} (h : Formed s) : Formed (portNibble s i va).1 := by
  unfold portNibble
  grind [probeTable_formed, !lookupShared_formed, !nibbleIn_formed]

theorem viewPiece_formed {s : State} {i : Option AddrSpace} {p : Place} {va n : Nat} (h : Formed s) : Formed (viewPiece s i p va n).1 := by
  unfold viewPiece
  grind [!portNibble_formed, !readSector_formed]

theorem viewPieces_formed {s : State} {i : Option AddrSpace} {p : Place} {va : Nat} {l : List (Nat × Nat)} (h : Formed s) :
    Formed (viewPieces s i p va l).1 := by
  induction l generalizing s with
  | nil => exact h
  | cons q l ih =>
    obtain ⟨a, n⟩ := q
    unfold viewPieces
    grind [!viewPiece_formed]

theorem viewRead_formed {s : State} {i : Option AddrSpace} {p : Place} {comp : Bool} {va n : Nat}
    (h : Formed s) : Formed (viewRead s i p comp va n).1 := by
  unfold viewRead
  grind [!viewPieces_formed, !rawRead_formed, hostSettled_formed]

theorem viewRaw_formed {s : State} {i : Option AddrSpace} {p : Place} {va a : Nat} (h : Formed s) : Formed (viewRaw i p va s a) := by
  unfold viewRaw
  grind [!portNibble_formed, rawSector_formed]

theorem viewStore_formed {s : State} {i : Option AddrSpace} {p : Place} {expand : Bool} {va : Nat} {bs : List Byte}
    (h : Formed s) : Formed (viewStore s i p expand va bs) := by
  unfold viewStore
  grind [foldl_formed, viewRaw_formed, homeStored_formed, homeWrite_formed]

theorem viewWrite_formed {s : State} {i : Option AddrSpace} {p : Place} {comp : Bool} {va : Nat} {bs : List Byte}
    (h : Formed s) : Formed (viewWrite s i p comp va bs) := by
  unfold viewWrite
  grind [viewStore_formed]

theorem setLogWord_formed {s : State} {i w v : Nat} (h : Formed s) : Formed (setLogWord s i w v) := by
  unfold setLogWord
  grind [writePlace_formed]

theorem logLine_formed {s : State} {p : Packet} {k : TrapC} {ws : List (Nat × List Byte)} {q : Nat × Nat}
    (h : Formed s) : Formed (logLine p k ws s q) := by
  unfold logLine
  grind [writePlace_formed, modNet_formed, putPh_formed]

theorem logWrite_formed {s : State} {p : Packet} {k : TrapC} {ws : List (Nat × List Byte)} (h : Formed s) : Formed (logWrite s p k ws) := by
  unfold logWrite
  grind [foldl_formed, nackTo_formed, logLine_formed]

theorem writeMere_formed {s : State} {p : Packet} (h : Formed s) : Formed (writeMere s p) := by
  unfold writeMere
  grind [noGang_formed, ackTo_formed, writePlace_formed, logWrite_formed, nackTo_formed]

theorem runPlaces_formed {s : State} {i : Option AddrSpace} {l : List (Nat × List Byte)} (h : Formed s) :
    Formed (runPlaces s i l).1 := by
  induction l generalizing s with
  | nil => exact h
  | cons q l ih =>
    obtain ⟨va, bs⟩ := q
    unfold runPlaces
    grind [!portAt_formed]

theorem queueHome_formed {s : State} {w : PortWrite} (h : Formed s) : Formed (queueHome s w) := by
  unfold queueHome
  grind [foldl_formed, modNet_formed, ackTo_formed, viewStore_formed]

theorem takeWrite_formed {s : State} {p : Packet} (h : Formed s) : Formed (takeWrite s p) := by
  unfold takeWrite
  grind [foldl_formed, writeMere_formed, !runPlaces_formed, logWrite_formed, nackTo_formed, modNet_formed, ackTo_formed, viewWrite_formed]

theorem poisonTo_formed {s : State} {p : Packet} {q : Place} {n : Nat} (h : Formed s) : Formed (poisonTo s p q n) := by
  unfold poisonTo
  grind [foldl_formed, errTo_formed, markConsumed_formed]

theorem portRuns_formed {s : State} {i : Option AddrSpace} {port : Nat} {l : List (Nat × Nat)} {q : List (Nat × List Byte)} (h : Formed s) :
    Formed (portRuns s i port l q).1 := by
  induction l generalizing s q with
  | nil => exact h
  | cons r l ih =>
    obtain ⟨va, n⟩ := r
    unfold portRuns
    grind [!portAt_formed, !viewRead_formed, homeTouch_formed]

theorem takeRead_formed {s : State} {p : Packet} (h : Formed s) : Formed (takeRead s p) := by
  unfold takeRead
  grind [noGang_formed, errTo_formed, probeRange_formed, poisonTo_formed, dataTo_formed, !portRuns_formed]

theorem takeAtomic_formed {s : State} {p : Packet} (h : Formed s) : Formed (takeAtomic s p) := by
  unfold takeAtomic
  grind [!portAt_formed, errTo_formed, !rmwAt_formed, poisonTo_formed, dataTo_formed]

theorem takeReduction_formed {s : State} {p : Packet} (h : Formed s) : Formed (takeReduction s p) := by
  unfold takeReduction
  grind [!portAt_formed, errTo_formed, !vredmAt_formed, ackTo_formed, !rmwAt_formed]

theorem takeRequest_formed {s : State} {p : Packet} (h : Formed s) : Formed (takeRequest s p) := by
  unfold takeRequest
  grind [takeRead_formed, takeWrite_formed, takeAtomic_formed, takeReduction_formed]

theorem landed_formed {s : State} {p : Packet} (h : Formed s) : Formed (landed s p) := by
  unfold landed
  grind [modNet_formed]

theorem receiveRequest_formed {s t : State} {p : Packet} (h : Formed s) (e : receiveRequest p s = .next t) : Formed t := by
  unfold receiveRequest at e
  grind [incReplay_formed, sendPkts_formed, notNow_formed, queueHome_formed, errTo_formed, takeRequest_formed, compared_formed]

theorem execPacketReceive_formed {s t : State} {p : Packet} (h : Formed s) (e : execPacketReceive p s = .next t) : Formed t := by
  unfold execPacketReceive at e
  grind [receiveRequest_formed, landed_formed]

theorem answered_formed {s : State} {rid : Nat} (h : Formed s) : Formed (answered s rid) := h

theorem answerOp_formed {s : State} {k : Req} {p : Packet} (h : Formed s) : Formed (answerOp s k p) := (TimeStep.answerOp _ _ _).wf h

theorem keepData_formed {s : State} {k : Req} {bs : List Byte} (h : Formed s) : Formed (keepData s k bs) := (TimeStep.keepData _ _ _).wf h

theorem answerCmd_formed {s : State} {k : Req} {p : Packet} (h : Formed s) : Formed (answerCmd s k p) := (TimeStep.answerCmd _ _ _).wf h

theorem takeAnswer_formed {s : State} {p : Packet} (h : Formed s) : Formed (takeAnswer s p) := (TimeStep.takeAnswer _ _).wf h

theorem receiveAnswer_formed {s t : State} {p : Packet} (h : Formed s) (e : receiveAnswer p s = .next t) : Formed t := by
  unfold receiveAnswer at e
  grind [incReplay_formed, sendPkts_formed, takeAnswer_formed, notNow_formed]

theorem execResponseReceive_formed {s t : State} {p : Packet} (h : Formed s) (e : execResponseReceive p s = .next t) : Formed t := by
  unfold execResponseReceive at e
  grind [receiveAnswer_formed, landed_formed]

theorem freeEntry_formed {s : State} {i : Nat} (h : Formed s) : Formed (freeEntry s i) := by
  unfold freeEntry
  grind [modNet_formed, setLogWord_formed]

theorem execLogEntryReplayed_formed {s t : State} {i : Nat} (h : Formed s) (e : execLogEntryReplayed i s = .next t) : Formed t := by
  unfold execLogEntryReplayed at e
  grind [notNow_formed, freeEntry_formed, faultReply_formed]

theorem execLogEntryAbandoned_formed {s t : State} {i : Nat} (h : Formed s) (e : execLogEntryAbandoned i s = .next t) : Formed t := by
  unfold execLogEntryAbandoned at e
  grind [notNow_formed, freeEntry_formed, modNet_formed, faultReply_formed]

theorem pushDone_formed {s : State} {f : FifoWord} (h : Formed s) : Formed (pushDone s f) := by
  unfold pushDone
  grind [putOwner_formed]

theorem execFifoWordArrive_formed {s t : State} {mv : FifoMove} (h : Formed s) (e : execFifoWordArrive mv s = .next t) : Formed t := by
  unfold execFifoWordArrive at e
  grind [notNow_formed, modCl_formed, pushDone_formed, modNet_formed]

theorem serveLink_formed {s : State} {l : Nat} (h : Formed s) : Formed (serveLink s l) := (TimeStep.serveLink _ _).wf h

theorem serveTimes_formed {s : State} {l n : Nat} (h : Formed s) : Formed (serveTimes l n s) := (TimeStep.serveTimes _ _ _).wf h

theorem ackLink_formed {s : State} {l : Nat} (h : Formed s) : Formed (ackLink s l) := (TimeStep.ackLink _ _).wf h

theorem setHealth_formed {s : State} {l : Nat} {k : LinkHealth} (h : Formed s) : Formed (setHealth s l k) := by
  unfold setHealth
  grind [putLink_formed]

theorem execFlitReplay_formed {s t : State} {l : Nat} (h : Formed s) (e : execFlitReplay l s = .next t) : Formed t := by
  unfold execFlitReplay at e
  grind [incReplay_formed, notNow_formed]

theorem execLinkRetrain_formed {s t : State} {l : Nat} (h : Formed s) (e : execLinkRetrain l s = .next t) : Formed t := by
  unfold execLinkRetrain at e
  grind [modNet_formed, setHealth_formed, notNow_formed]

theorem cutResponse_formed {s : State} {p : Packet} (h : Formed s) : Formed (cutResponse s p) := (TimeStep.cutResponse _ _).wf h

theorem failCut_formed {s : State} (h : Formed s) : Formed (failCut s) := (TimeStep.failCut _).wf h

theorem serveLinks_formed {s : State} {n : Nat} (h : Formed s) : Formed (serveLinks n s) := (TimeStep.serveLinks _ _).wf h

theorem linkNotice_formed {s : State} {l : Nat} {restored : Bool} (h : Formed s) : Formed (linkNotice s l restored) := by
  unfold linkNotice
  grind [postNotice_formed]

theorem dropCutAcks_formed {s : State} (h : Formed s) : Formed (dropCutAcks s) := h

theorem backFrom_formed {s : State} {l : Nat} (h : Formed s) : Formed (backFrom l s) := h

theorem execLinkDown_formed {s t : State} {l : Nat} (h : Formed s) (e : execLinkDown l s = .next t) : Formed t := by
  unfold execLinkDown at e
  grind [dropCutAcks_formed, failCut_formed, backFrom_formed, incReplay_formed, linkNotice_formed, setHealth_formed, notNow_formed]

theorem execLinkRestored_formed {s t : State} {l : Nat} (h : Formed s) (e : execLinkRestored l s = .next t) : Formed t := by
  unfold execLinkRestored at e
  grind [notNow_formed, setHealth_formed, incReplay_formed, linkNotice_formed]

theorem execDeadlockTimer_formed {s t : State} {l vc : Nat} (h : Formed s) (e : execDeadlockTimer l vc s = .next t) : Formed t := by
  unfold execDeadlockTimer at e
  grind [notNow_formed, modNet_formed]

theorem putColl_formed {s : State} {c : CollRx} (h : Formed s) : Formed (putColl s c) := h

theorem dropColl_formed {s : State} {c : CollRx} (h : Formed s) : Formed (dropColl s c) := h

theorem reliableBlock_formed {s : State} {p : Packet} (h : Formed s) : Formed (reliableBlock s p) := by
  unfold reliableBlock
  grind [Applied.Kept, noGang_formed, !applyBlock_formed, nackTo_formed, answer_formed, putColl_formed, dropColl_formed, collSignal_formed]

theorem lossyBlock_formed {s : State} {c : CollRx} {p : Packet} {crcOk : Bool} {at_ : Nat}
    (h : Formed s) : Formed (lossyBlock s c p crcOk at_) := by
  unfold lossyBlock
  grind [Applied.Kept, putColl_formed, !applyBlock_formed]

theorem receiveOpen_formed {s t : State} {p : Packet} (h : Formed s) (e : receiveOpen p s = .next t) : Formed t := by
  unfold receiveOpen at e
  grind [foldl_formed, incReplay_formed, notNow_formed, sendPkts_formed, errTo_formed, modNet_formed, noGang_formed, lossyBlock_formed, putColl_formed]

theorem execCollOpenReceive_formed {s t : State} {p : Packet} (h : Formed s) (e : execCollOpenReceive p s = .next t) : Formed t := by
  unfold execCollOpenReceive at e
  grind [receiveOpen_formed, landed_formed]

theorem receiveBlock_formed {s t : State} {p : Packet} {crcOk : Bool} (h : Formed s) (e : receiveBlock p crcOk s = .next t) : Formed t := by
  unfold receiveBlock at e
  split at e
  · exact Host.Outcome.next.inj e ▸ incReplay_formed h
  · split at e
    · exact notNow_formed e
    · split at e
      · exact Host.Outcome.next.inj e ▸ sendPkts_formed h
      · split at e
        · split at e
          · exact Host.Outcome.next.inj e ▸ errTo_formed h
          · split at e
            · exact Host.Outcome.next.inj e ▸ reliableBlock_formed h
            · exact Host.Outcome.next.inj e ▸ h
        · split at e
          · exact Host.Outcome.next.inj e ▸ h
          · split at e
            · exact notNow_formed e
            · split at e
              · exact Host.Outcome.next.inj e ▸ lossyBlock_formed h
              · split at e
                · exact Host.Outcome.next.inj e ▸ h
                · split at e
                  · exact Host.Outcome.next.inj e ▸ modNet_formed h
                  · exact Host.Outcome.next.inj e ▸ h

theorem execCollBlockReceive_formed {s t : State} {p : Packet} {crcOk : Bool}
    (h : Formed s) (e : execCollBlockReceive p crcOk s = .next t) : Formed t := by
  unfold execCollBlockReceive at e
  grind [receiveBlock_formed, landed_formed]

theorem zeroBlock_formed {g : Nat × Nat × Nat} {q : CollSpec} {r : State × CollRx} {b : Nat} (h : Formed r.1) :
    Formed (zeroBlock g q r b).1 := by
  unfold zeroBlock
  grind [Applied.Kept, !applyBlock_formed, incLossy_formed]

theorem closeColl_formed {s : State} {c : CollRx} (h : Formed s) : Formed (closeColl s c) := by
  unfold closeColl
  grind [!foldl_fst_formed, sendPkts_formed, dropColl_formed, !zeroBlock_formed, collSignal_formed]

theorem execLossyClose_formed {s t : State} (h : Formed s) (e : execLossyClose s = .next t) : Formed t := by
  unfold execLossyClose at e
  grind [notNow_formed, closeColl_formed]

theorem receiveClose_formed {s t : State} {p : Packet} (h : Formed s) (e : receiveClose p s = .next t) : Formed t := by
  unfold receiveClose at e
  grind [incReplay_formed, notNow_formed, sendPkts_formed, takeAnswer_formed]

theorem execCollCloseReceive_formed {s t : State} {p : Packet} (h : Formed s) (e : execCollCloseReceive p s = .next t) : Formed t := by
  unfold execCollCloseReceive at e
  grind [receiveClose_formed, landed_formed]

theorem regionPlaces_formed {s : State} {i : Option AddrSpace} {write : Bool} {l : List (Nat × Nat)} (h : Formed s) :
    Formed (regionPlaces s i write l).1 := by
  induction l generalizing s with
  | nil => exact h
  | cons r l ih =>
    obtain ⟨va, n⟩ := r
    unfold regionPlaces
    grind [!portAt_formed]

theorem rdmaOut_formed {s : State} {port qp kind va rkey psn : Nat} {bs : List Byte}
    (h : Formed s) : Formed (rdmaOut s port qp kind va rkey psn bs) := by
  unfold rdmaOut
  grind [rdmaSend_formed]

theorem qpReceive_formed {s : State} {qp n : Nat} (h : Formed s) : Formed (qpReceive s qp n) := by
  unfold qpReceive
  grind [setQpWord_formed]

theorem setRx_formed {s : State} {qp : Nat} {x : Option RdmaRx} (h : Formed s) : Formed (setRx s qp x) := h

theorem rdmaNak_formed {s : State} {port qp va rkey psn : Nat} (h : Formed s) : Formed (rdmaNak s port qp va rkey psn) := by
  unfold rdmaNak
  grind [rdmaOut_formed, setRx_formed]

theorem rdmaWrite_formed {s : State} {port qp rkey psn : Nat} {x : RdmaRx} {bs : List Byte}
    (h : Formed s) : Formed (rdmaWrite s port qp rkey psn x bs) := by
  unfold rdmaWrite
  grind [foldl_formed, !regionPlaces_formed, rdmaNak_formed, qpReceive_formed, viewWrite_formed, setRx_formed, putPh_formed, rdmaOut_formed]

theorem regionRead_formed {s : State} {i : Option AddrSpace} {l : List (Nat × Place × Bool × Nat)} (h : Formed s) :
    Formed (regionRead s i l).1 := by
  induction l generalizing s with
  | nil => exact h
  | cons r l ih =>
    obtain ⟨va, p, c, n⟩ := r
    unfold regionRead
    grind [!viewRead_formed]

theorem rdmaRead_formed {s : State} {port qp va rkey psn n : Nat} (h : Formed s) : Formed (rdmaRead s port qp va rkey psn n) := by
  unfold rdmaRead
  dsimp only
  split
  · exact rdmaOut_formed h
  · split
    · next hp => exact rdmaOut_formed (formed_of_fst hp (regionPlaces_formed h))
    · next hp =>
      have w1 := formed_of_fst hp (regionPlaces_formed h)
      split
      · next hr => exact rdmaOut_formed (formed_of_fst hr (regionRead_formed w1))
      · next hr =>
        have w2 := formed_of_fst hr (regionRead_formed w1)
        refine rdmaOut_formed ?_
        split
        · exact w2
        · exact qpReceive_formed w2

theorem dropRdma_formed {s : State} {k : RdmaWait} (h : Formed s) : Formed (dropRdma s k) := h

theorem onRdmaCmd_formed {s : State} {k : RdmaWait} {f : Cmd → Cmd} (h : Formed s) : Formed (onRdmaCmd s k f) := by
  unfold onRdmaCmd
  grind [putCmd_formed]

theorem rdmaFails_formed {s : State} {k : RdmaWait} (h : Formed s) : Formed (rdmaFails s k) := by
  unfold rdmaFails
  grind [onRdmaCmd_formed, dropRdma_formed]

theorem rdmaPart_formed {s : State} {k : RdmaWait} {part : RdmaPart} {bs : List Byte} (h : Formed s) : Formed (rdmaPart s k part bs).1 := by
  unfold rdmaPart
  grind [putOwner_formed]

theorem rdmaData_formed {s : State} {k : RdmaWait} {bs : List Byte} (h : Formed s) : Formed (rdmaData_ s k bs) := by
  unfold rdmaData_
  grind [putOwner_formed]

theorem pausePort_formed {s : State} {port : Nat} {on : Bool} (h : Formed s) : Formed (pausePort s port on) := by
  unfold pausePort
  grind [modNet_formed]

/-- A remote access waits for a page that is FROZEN, or is made. -/
theorem rdmaHeld_formed {s u t : State} {l : List (Nat × Nat)} (h : Formed u)
    (e : (if frozenMeets s l then notNow "RDMA_RECEIVE" else .next (compared u 3)) = Host.Outcome.next t) : Formed t := by
  split at e
  · exact notNow_formed e
  · exact Host.Outcome.next.inj e ▸ compared_formed h

theorem execRdmaReceive_formed {s t : State} {port : Nat} {op : RdmaOp} (h : Formed s) (e : execRdmaReceive port op s = .next t) :
    Formed t := by
  have hd : Formed (modNet s (fun n => { n with dropped := n.dropped + 1 })) := modNet_formed h
  unfold execRdmaReceive at e
  dsimp only at e
  split at e
  · split at e
    · exact Host.Outcome.next.inj e ▸ hd
    · split at e
      · exact Host.Outcome.next.inj e ▸ rdmaNak_formed h
      · split at e
        · obtain rfl := Host.Outcome.next.inj e
          split
          · exact rdmaOut_formed h
          · exact h
        · split at e
          · exact Host.Outcome.next.inj e ▸ rdmaOut_formed h
          · split at e
            · exact Host.Outcome.next.inj e ▸ rdmaNak_formed h
            · exact rdmaHeld_formed (rdmaWrite_formed h) e
  · split at e
    · exact Host.Outcome.next.inj e ▸ hd
    · split at e
      · exact Host.Outcome.next.inj e ▸ rdmaNak_formed h
      · split at e
        · exact Host.Outcome.next.inj e ▸ rdmaOut_formed h
        · exact rdmaHeld_formed (rdmaRead_formed h) e
  · split at e
    · split at e
      · exact Host.Outcome.next.inj e ▸ onRdmaCmd_formed (dropRdma_formed h)
      · exact Host.Outcome.next.inj e ▸ hd
    · exact Host.Outcome.next.inj e ▸ hd
  · split at e
    · exact Host.Outcome.next.inj e ▸ rdmaFails_formed h
    · exact Host.Outcome.next.inj e ▸ hd
  · split at e
    · split at e
      · exact Host.Outcome.next.inj e ▸ hd
      · split at e
        · next hp => exact Host.Outcome.next.inj e ▸ formed_of_fst hp (rdmaPart_formed h)
        · next hp =>
          have w1 := formed_of_fst hp (rdmaPart_formed h)
          split at e
          · exact Host.Outcome.next.inj e ▸ rdmaData_formed (dropRdma_formed w1)
          · exact Host.Outcome.next.inj e ▸ hd
    · exact Host.Outcome.next.inj e ▸ hd
  · split at e
    · exact Host.Outcome.next.inj e ▸ rdmaOut_formed h
    · exact Host.Outcome.next.inj e ▸ hd
  · split at e
    · exact Host.Outcome.next.inj e ▸ h
    · exact Host.Outcome.next.inj e ▸ hd
  · exact Host.Outcome.next.inj e ▸ pausePort_formed h
  · exact Host.Outcome.next.inj e ▸ hd

theorem execRdmaAckTimeout_formed {s t : State} (h : Formed s) (e : execRdmaAckTimeout s = .next t) : Formed t := by
  unfold execRdmaAckTimeout at e
  grind [notNow_formed, modNet_formed, rdmaSend_formed, rdmaFails_formed, setQpWord_formed]

end Sys2Proof.Machine
end

section
/-!
Memory stays in canonical form over the steps of containment, boot, resets, the host and management.
-/
namespace Sys2Proof.Machine

theorem execPurgeStart_formed {s t : State} {tag : Nat} {cause : PurgeCause}
    (h : Formed s) (e : execPurgeStart tag cause s = .next t) : Formed t := by
  unfold execPurgeStart at e
  grind [notNow_formed, startPurge_formed]

theorem purgeFor_formed {s : State} {p : Packet} (h : Formed s) : Formed (purgeFor s p) := by
  unfold purgeFor
  grind [postNotice_formed, purgeLocal_formed, sendPkts_formed]

theorem execPurgePacketReceive_formed {s t : State} {p : Packet} (h : Formed s) (e : execPurgePacketReceive p s = .next t) : Formed t := by
  unfold execPurgePacketReceive at e
  grind [incReplay_formed, notNow_formed, sendPkts_formed, errTo_formed, purgeFor_formed]

theorem execPurgeAckReceive_formed {s t : State} {p : Packet} (h : Formed s) (e : execPurgeAckReceive p s = .next t) : Formed t := by
  unfold execPurgeAckReceive at e
  grind [incReplay_formed, notNow_formed, sendPkts_formed, modPkg_formed, compared_formed]

theorem execScrub_formed {s t : State} (h : Formed s) (e : execScrub s = .next t) : Formed t := by
  unfold execScrub at e
  grind [compared_formed]

theorem flipUnit_formed {s : State} {f : Flip} (h : Formed s) : Formed (flipUnit s f) := h

theorem flipBank_formed {s t : State} {cl b : Nat} {f : Bank → Bank} (h : Formed s) (e : flipBank s cl b f = some t) : Formed t := by
  unfold flipBank at e
  grind [putBank_formed]

theorem flipped_formed {s t : State} {f : FlipAt} (h : Formed s) (e : flipped s f = some t) : Formed t := by
  unfold flipped at e
  grind [flipUnit_formed, flipBank_formed, modPkg_formed]

theorem execSoftError_formed {s t : State} {f : FlipAt} (h : Formed s) (e : execSoftError f s = .next t) : Formed t := by
  unfold execSoftError at e
  grind [flipped_formed, notNow_formed]

theorem dropMatches_formed {s : State} {k : InvalKind} (h : Formed s) : Formed (dropMatches s k) := h

theorem invalDone_formed {s : State} {i : Inval} (h : Formed s) : Formed (invalDone s i) := by
  unfold invalDone
  grind [putOwner_formed]

theorem execInvalidationPerformed_formed {s t : State} (h : Formed s) (e : execInvalidationPerformed s = .next t) : Formed t := by
  unfold execInvalidationPerformed at e
  grind [notNow_formed, modPkg_formed, invalDone_formed, dropMatches_formed]

theorem moveBytes_formed {s : State} {m : Migration} {from_ dst u n : Nat} (h : Formed s) : Formed (moveBytes s m from_ dst u n).1 := by
  induction n generalizing s from_ dst with
  | zero => exact h
  | succ n ih =>
    unfold moveBytes
    split
    next s1 _ he => exact formed_of_fst he (translate_formed h)
    next s1 p he =>
      have h1 : Formed s1 := formed_of_fst he (translate_formed h)
      split
      next s2 _ hf => exact formed_of_fst hf (translate_formed h1)
      next s2 q hf =>
        have h3 : Formed (probeRange s2 p u) := probeRange_formed (formed_of_fst hf (translate_formed h1))
        dsimp only
        split
        · exact h3
        · exact ih (writePlace_formed h3)

theorem moveTensor_formed {s : State} {m : Migration} (h : Formed s) : Formed (moveTensor s m) := by
  unfold moveTensor
  grind [!moveBytes_formed, abandonMigration_formed, writePlace_formed, setRes_formed, dropMatches_formed, dropLines_formed, !translate_formed, !loadTensor_formed, modPkg_formed, putOwner_formed]

theorem finishMigration_formed {s : State} {m : Migration} (h : Formed s) : Formed (finishMigration s m) := by
  unfold finishMigration
  grind [probeEntry_formed, giveUpMigration_formed, moveTensor_formed]

theorem execHmovMigrate_formed {s t : State} (h : Formed s) (e : execHmovMigrate s = .next t) : Formed t := by
  unfold execHmovMigrate at e
  grind [notNow_formed, finishMigration_formed]

theorem flashPut_formed {s : State} {a : Nat} {bs : List Byte} (h : Formed s) : Formed (flashPut s a bs) := h

theorem writeStatus_formed {s : State} {failed : Bool} (h : Formed s) : Formed (writeStatus s failed) := by
  unfold writeStatus
  grind [flashPut_formed]

theorem testArray_formed {s : State} {cl : Nat} (h : Formed s) : Formed (testArray s cl).1 := by
  unfold testArray
  grind [tellMap_formed, modPkg_formed, modCl_formed]

theorem selfTestRun_formed {s : State} (h : Formed s) : Formed (selfTestRun s) := by
  have hf : ∀ (r : State × List Byte × Bool) (cl : Nat), Formed r.1 → Formed (testArray r.1 cl).1 := fun r cl hr => testArray_formed hr
  unfold selfTestRun
  dsimp only
  refine writeStatus_formed (postNotice_formed ?_)
  exact foldl_fst_formed (fun r cl hr => hf r cl hr) h

theorem bootFails_formed {s : State} {code : Nat} (h : Formed s) : Formed (bootFails s code) := h

theorem takeConfig_formed {s : State} {cfg : List Byte} (h : Formed s) : Formed (takeConfig s cfg) := h

theorem loadMaps_formed {s : State} (h : Formed s) : Formed (loadMaps s) := h

theorem loadVectors_formed {s : State} {svec : Word} (h : Formed s) : Formed (loadVectors s svec) := h

theorem measure_formed {s : State} {reads : Bool} (h : Formed s) : Formed (measure s reads) := h

theorem romStage_formed {s : State} {code from_ : Nat} (h : Formed s) : Formed (romStage s code from_) := h

theorem boot_formed {s : State} {cold : Bool} (h : Formed s) : Formed (boot s cold) := by
  unfold boot
  grind [romStage_formed, modDev_formed]

theorem bootEnds_formed {s : State} (h : Formed s) : Formed (bootEnds s) := by
  unfold bootEnds
  grind [writePlace_formed, modDev_formed, loadVectors_formed]

theorem romSteps_formed {s : State} {from_ : Nat} (h : Formed s) : Formed (romSteps s from_) := by
  unfold romSteps
  grind [Formed, measure_formed, bootFails_formed, loadMaps_formed, takeConfig_formed, romStage_formed, bootEnds_formed]

theorem romGo_formed {s : State} (h : Formed s) : Formed (romGo s) := by
  unfold romGo
  grind [romSteps_formed, bootEnds_formed, selfTestRun_formed]

theorem flashCut_formed {s : State} (h : Formed s) : Formed (flashCut s) := by
  unfold flashCut
  grind [Formed, flashPut_formed]

theorem powerLost_formed {s : State} (h : Formed s) : Formed (powerLost s) := by
  have h1 : Formed (flashCut (hostUpTo s (fun _ => true))) := flashCut_formed (hostUpTo_formed h)
  unfold powerLost
  obtain ⟨-, -, -, hh⟩ := (wf_iff _).mp h1
  exact (wf_iff _).mpr ⟨rfl, rfl, rfl, hh⟩

theorem powerOn_formed {s : State} (h : Formed s) : Formed (powerOn s) := by
  unfold powerOn
  grind [boot_formed, modDev_formed, powerLost_formed]

theorem loseLines_formed {s : State} (h : Formed s) : Formed (loseLines s) := loseLines_wf s h

theorem flashDone_formed {s : State} (h : Formed s) : Formed (flashDone s) := by
  unfold flashDone
  grind [modDev_formed, flashPut_formed]

theorem warm_formed {s : State} (h : Formed s) : Formed (warm s) := by
  have h1 : Formed (flashDone (loseLines (hostUpTo s (fun _ => true)))) := flashDone_formed (loseLines_formed (hostUpTo_formed h))
  unfold warm
  obtain ⟨hb, -, -, hh⟩ := (wf_iff _).mp h1
  exact boot_formed ((wf_iff _).mpr ⟨hb, rfl, rfl, hh⟩)

theorem hostEnd_formed {s : State} {i : Inst} (h : Formed s) : Formed (hostEnd s i) := (PurgeStep.hostEnd _ _).wf h

theorem functionReset_formed {s : State} (h : Formed s) : Formed (functionReset s) := by
  unfold functionReset
  grind [foldl_formed, warm_formed, modSpring_formed, hostEnd_formed, modDev_formed]

theorem execPowerOnReset_formed {s t : State} (h : Formed s) (e : execPowerOnReset s = .next t) : Formed t := by
  unfold execPowerOnReset at e
  grind [powerOn_formed]

theorem execWarmReset_formed {s t : State} (h : Formed s) (e : execWarmReset s = .next t) : Formed t := by
  unfold execWarmReset at e
  grind [warm_formed]

theorem execFunctionLevelReset_formed {s t : State} (h : Formed s) (e : execFunctionLevelReset s = .next t) : Formed t := by
  unfold execFunctionLevelReset at e
  grind [functionReset_formed]

theorem execResetreqWrite_formed {s t : State} {v : Word} {n : Nat} (h : Formed s) (e : execResetreqWrite v n s = .next t) : Formed t := by
  unfold execResetreqWrite at e
  grind [warm_formed]

theorem execDroopAlarm_formed {s t : State} {region : Nat} (h : Formed s) (e : execDroopAlarm region s = .next t) : Formed t := by
  unfold execDroopAlarm at e
  grind [notNow_formed, modDev_formed]

theorem execDroopAlarmCleared_formed {s t : State} {region : Nat}
    (h : Formed s) (e : execDroopAlarmCleared region s = .next t) : Formed t := by
  unfold execDroopAlarmCleared at e
  grind [notNow_formed, modDev_formed]

theorem execHoldEnter_formed {s t : State} (h : Formed s) (e : execHoldEnter s = .next t) : Formed t := by
  unfold execHoldEnter at e
  grind [postNotice_formed, modDev_formed, notNow_formed]

theorem idleLinks_formed {s : State} {n : Nat} (h : Formed s) : Formed (idleLinks s n) := by
  unfold idleLinks
  grind [foldl_formed, setHealth_formed]

theorem execHoldExit_formed {s t : State} (h : Formed s) (e : execHoldExit s = .next t) : Formed t := by
  unfold execHoldExit at e
  grind [postNotice_formed, idleLinks_formed, modDev_formed, notNow_formed]

theorem execSupplyRetentionLoss_formed {s t : State} (h : Formed s) (e : execSupplyRetentionLoss s = .next t) : Formed t := by
  unfold execSupplyRetentionLoss at e
  grind [powerLost_formed, notNow_formed]

theorem execThrottleEnter_formed {s t : State} (h : Formed s) (e : execThrottleEnter s = .next t) : Formed t := by
  unfold execThrottleEnter at e
  grind [notNow_formed, modDev_formed]

theorem execThrottleExit_formed {s t : State} (h : Formed s) (e : execThrottleExit s = .next t) : Formed t := by
  unfold execThrottleExit at e
  grind [modDev_formed, notNow_formed]

theorem execThermalTrip_formed {s t : State} (h : Formed s) (e : execThermalTrip s = .next t) : Formed t := by
  unfold execThermalTrip at e
  grind [powerLost_formed]

theorem clearDropped_formed {s : State} (h : Formed s) : Formed (clearDropped s) := h

theorem hostReturns_formed {s : State} {bs : List Byte} (h : Formed s) : Formed (hostReturns s bs) := h

theorem hostFails_formed {s : State} (h : Formed s) : Formed (hostFails s) := h

theorem bar0Read_formed {s : State} {o n : Nat} (h : Formed s) : Formed (bar0Read s o n) := by
  unfold bar0Read
  grind [hostReturns_formed, meetDamage_formed, clearDropped_formed]

theorem setMgmtcfg_formed {s : State} {w : Nat} (h : Formed s) : Formed (setMgmtcfg s w) := by
  unfold setMgmtcfg
  grind [modDev_formed]

theorem hostInval_formed {s : State} {w : Word} (h : Formed s) : Formed (hostInval s w) := h

theorem hostPurge_formed {s : State} {w : Word} (h : Formed s) : Formed (hostPurge s w) := by
  unfold hostPurge
  grind [startPurge_formed]

theorem doorbell_formed {s : State} {n : Nat} {v : Word} (h : Formed s) : Formed (doorbell s n v) := by
  unfold doorbell
  grind [setArm_formed]

theorem flashErase_formed {s : State} {w : Word} (h : Formed s) : Formed (flashErase s w) := by
  unfold flashErase
  grind [modDev_formed]

theorem flashProgram_formed {s : State} {o : Nat} {w : Word} (h : Formed s) : Formed (flashProgram s o w) := by
  unfold flashProgram
  grind [Formed, modDev_formed]

theorem putNonce_formed {s : State} {k : Nat} {w : Word} (h : Formed s) : Formed (putNonce s k w) := h

theorem askAttest_formed {s : State} (h : Formed s) : Formed (askAttest s) := by
  unfold askAttest
  grind [modDev_formed]

theorem mirrorWrite_formed {s : State} {o : Nat} {w : Word} (h : Formed s) : Formed (mirrorWrite s o w) := by
  unfold mirrorWrite
  grind [containPut_formed, hostFails_formed]

theorem formed_ite {c : Prop} [Decidable c] {s t : State} (hs : Formed s) (ht : Formed t) : Formed (if c then s else t) := by
  split
  exacts [hs, ht]

theorem bar0Write_formed {s : State} {o : Nat} {w : Word} (h : Formed s) : Formed (bar0Write s o w) := by
  unfold bar0Write
  refine formed_ite (formed_ite (warm_formed h) h) ?_
  refine formed_ite (setMgmtcfg_formed h) ?_
  refine formed_ite h (formed_ite h (formed_ite h ?_))
  refine formed_ite (hostInval_formed h) (formed_ite (hostPurge_formed h) ?_)
  refine formed_ite h (formed_ite h ?_)
  refine formed_ite (flashErase_formed h) (formed_ite (setPairmode_formed h) (formed_ite (doorbell_formed h) ?_))
  refine formed_ite h (formed_ite h (formed_ite h ?_))
  refine formed_ite (putNonce_formed h) (formed_ite (formed_ite (askAttest_formed h) h) ?_)
  exact formed_ite (mirrorWrite_formed h) (formed_ite (flashProgram_formed h) h)

theorem hostRead_formed {s : State} {l : List (Nat × Nat)} (h : Formed s) : Formed (hostRead s l).1 := by
  induction l generalizing s with
  | nil => exact h
  | cons q l ih =>
    obtain ⟨pa, n⟩ := q
    unfold hostRead
    grind [!viewRead_formed, homeTouch_formed]

theorem hostWrite_formed {s : State} {l : List (Nat × Nat)} {q : List Byte} (h : Formed s) : Formed (hostWrite s l q) := by
  induction l generalizing s q with
  | nil => exact h
  | cons r l ih =>
    obtain ⟨pa, n⟩ := r
    exact ih (viewWrite_formed h)

theorem hostAccess_formed {s : State} {pa n : Nat} {f : List Byte → Option (List Byte)} {blind : Bool}
    (h : Formed s) : Formed (hostAccess s pa n f blind) := by
  unfold hostAccess
  grind [foldl_formed, hostReturns_formed, hostWrite_formed, !hostRead_formed, hostFails_formed, markConsumed_formed]

theorem hostDoes_formed {s : State} {a : HostAccess} (h : Formed s) : Formed (hostDoes s a) := by
  unfold hostDoes
  grind [bar0Read_formed, hostAccess_formed]

theorem execHostMemoryAccess_formed {s t : State} {a : HostAccess} (h : Formed s) (e : execHostMemoryAccess a s = .next t) : Formed t := by
  unfold execHostMemoryAccess at e
  grind [notNow_formed, hostDoes_formed, hostFails_formed, compared_formed]

theorem execRegisterWrite_formed {s t : State} {o : Nat} {w : Word} (h : Formed s) (e : execRegisterWrite o w s = .next t) : Formed t := by
  unfold execRegisterWrite at e
  grind [bar0Write_formed, notNow_formed]

theorem execDoorbellArm_formed {s t : State} {n : Nat} {v : Word} (h : Formed s) (e : execDoorbellArm n v s = .next t) : Formed t := by
  unfold execDoorbellArm at e
  grind [doorbell_formed, notNow_formed]

theorem execDoorbellDisarm_formed {s t : State} {n : Nat} {v : Word} (h : Formed s) (e : execDoorbellDisarm n v s = .next t) : Formed t := by
  unfold execDoorbellDisarm at e
  grind [doorbell_formed, notNow_formed]

theorem execHostInvalidate_formed {s t : State} {w : Word} (h : Formed s) (e : execHostInvalidate w s = .next t) : Formed t := by
  unfold execHostInvalidate at e
  grind [hostInval_formed]

theorem execHostPurgeRequest_formed {s t : State} {w : Word} (h : Formed s) (e : execHostPurgeRequest w s = .next t) : Formed t := by
  unfold execHostPurgeRequest at e
  grind [hostPurge_formed]

theorem execMgmtcfgWrite_formed {s t : State} {w : Word} (h : Formed s) (e : execMgmtcfgWrite w s = .next t) : Formed t := by
  unfold execMgmtcfgWrite at e
  grind [setMgmtcfg_formed]

theorem execPairmodeWrite_formed {s t : State} {cl : Nat} {w : Word} (h : Formed s) (e : execPairmodeWrite cl w s = .next t) : Formed t := by
  unfold execPairmodeWrite at e
  grind [setPairmode_formed, notNow_formed]

theorem execDevtimeLWrite_formed {s t : State} {w : Word} (h : Formed s) (e : execDevtimeLWrite w s = .next t) : Formed t := by
  unfold execDevtimeLWrite at e
  grind [stepTime_formed]

theorem execBootFlashErase_formed {s t : State} {w : Word} (h : Formed s) (e : execBootFlashErase w s = .next t) : Formed t := by
  unfold execBootFlashErase at e
  grind [flashErase_formed]

theorem execBootFlashProgram_formed {s t : State} {o : Nat} {w : Word}
    (h : Formed s) (e : execBootFlashProgram o w s = .next t) : Formed t := by
  unfold execBootFlashProgram at e
  grind [flashProgram_formed, notNow_formed]

theorem execBootFlashOperationComplete_formed {s t : State} (h : Formed s) (e : execBootFlashOperationComplete s = .next t) : Formed t := by
  unfold execBootFlashOperationComplete at e
  grind [notNow_formed, flashDone_formed]

theorem execDroppedCountRead_formed {s t : State} (h : Formed s) (e : execDroppedCountRead s = .next t) : Formed t := by
  unfold execDroppedCountRead at e
  grind [bar0Read_formed]

theorem execAttestationRequest_formed {s t : State} (h : Formed s) (e : execAttestationRequest s = .next t) : Formed t := by
  unfold execAttestationRequest at e
  grind [askAttest_formed]

theorem execAttestationReady_formed {s t : State} (h : Formed s) (e : execAttestationReady s = .next t) : Formed t := by
  unfold execAttestationReady at e
  grind [modDev_formed, notNow_formed]

theorem smbusGives_formed {s : State} {bs : List Byte} (h : Formed s) : Formed (smbusGives s bs) := h

theorem execSmbusReadDevstat_formed {s t : State} (h : Formed s) (e : execSmbusReadDevstat s = .next t) : Formed t := by
  unfold execSmbusReadDevstat at e
  grind [smbusGives_formed]

theorem execSmbusReadTemperature_formed {s t : State} {n : Nat} (h : Formed s) (e : execSmbusReadTemperature n s = .next t) : Formed t := by
  unfold execSmbusReadTemperature at e
  grind [Formed, smbusGives_formed]

theorem execSmbusReadPower_formed {s t : State} (h : Formed s) (e : execSmbusReadPower s = .next t) : Formed t := by
  unfold execSmbusReadPower at e
  grind [Formed, smbusGives_formed]

theorem execSmbusReadDropped_formed {s t : State} (h : Formed s) (e : execSmbusReadDropped s = .next t) : Formed t := by
  unfold execSmbusReadDropped at e
  grind [smbusGives_formed]

theorem execSmbusWarmReset_formed {s t : State} {v : Word} (h : Formed s) (e : execSmbusWarmReset v s = .next t) : Formed t := by
  unfold execSmbusWarmReset at e
  grind [warm_formed]

theorem execJtagBypass_formed {s t : State} (h : Formed s) (e : execJtagBypass s = .next t) : Formed t := by
  unfold execJtagBypass at e
  grind [modDev_formed]

theorem execJtagIdcode_formed {s t : State} (h : Formed s) (e : execJtagIdcode s = .next t) : Formed t := by
  unfold execJtagIdcode at e
  grind [modDev_formed]

theorem execJtagSamplePreload_formed {s t : State} {pins : List Bool}
    (h : Formed s) (e : execJtagSamplePreload pins s = .next t) : Formed t := by
  unfold execJtagSamplePreload at e
  grind [Formed, modDev_formed]

theorem execJtagExtest_formed {s t : State} (h : Formed s) (e : execJtagExtest s = .next t) : Formed t := by
  unfold execJtagExtest at e
  grind [Formed, modDev_formed]

end Sys2Proof.Machine
end

section
/-!
The settlement of O59: every step keeps every memory in its canonical form (log 4).
-/
namespace Sys2Proof.Machine

theorem noteWait_formed {s : State} {c : Cmd} (h : Formed s) : Formed (noteWait s c) := (TimeStep.noteWait _ _).wf h

theorem noteWaits_formed {s : State} (h : Formed s) : Formed (noteWaits s) := (TimeStep.noteWaits _).wf h

theorem foreseen_formed {s : State} {c : Cmd} (h : Formed s) : Formed (foreseen s c) := (TimeStep.foreseen _ _).wf h

theorem foreseen_tell_formed {s : State} {c : Cmd} {x y : Ctx} (h : Formed s) : Formed (foreseen.tell s c x y) := by
  unfold foreseen.tell
  grind [putOwner_formed]

theorem foresee_formed {s : State} (h : Formed s) : Formed (foresee s) := (TimeStep.foresee _).wf h

theorem bootOn_formed {s : State} (h : Formed s) : Formed (bootOn s) := by
  unfold bootOn
  grind [romGo_formed]

theorem passTime_formed {s : State} {n : Nat} (h : Formed s) : Formed (passTime n s) := by
  unfold passTime
  grind [Formed, bootOn_formed, modPkg_formed, modSpring_formed, hostPasses_formed, serveLinks_formed, foresee_formed, noteWaits_formed]

/-- An event: what `exec` runs where the instruction is no slot operation. -/
theorem execEvent_formed {s t : State} {i : Instr} (hi : slotOpOf i = none) (h : Formed s) (e : exec i s = .next t) : Formed t := by
  cases i with
  | presentBundle cl core => exact execPresentBundle_formed h e
  | blockClears c => exact execBlockClears_formed h e
  | interlockedWrite c => exact execInterlockedWrite_formed h e
  | landing c => exact execLanding_formed h e
  | operationPerformed c seq => exact execOperationPerformed_formed h e
  | watchdog c => exact execWatchdog_formed h e
  | fifoTimeout c => exact execFifoTimeout_formed h e
  | leaseTimeout c => exact execLeaseTimeout_formed h e
  | leaseWaitEvent c => exact execLeaseWaitEvent_formed h e
  | sleepWake c => exact execSleepWake_formed h e
  | signatureMatch cl pair equal => exact execSignatureMatch_formed h e
  | pairModeChange cl pair => exact execPairModeChange_formed h e
  | launchStart => exact execLaunchStart_formed h e
  | timeSlot => exact execTimeSlot_formed h e
  | releaseTask e t => exact execReleaseTask_formed h e
  | placeIteration e t => exact execPlaceIteration_formed h e
  | placementComplete it => exact execPlacementComplete_formed h e
  | preempt e t => exact execPreempt_formed h e
  | preemptDrainTimeout it => exact execPreemptDrainTimeout_formed h e
  | resumeIteration it => exact execResumeIteration_formed h e
  | completionPost it => exact execCompletionPost_formed h e
  | instanceComplete => exact execInstanceComplete_formed h e
  | leaseGrant cl => exact execLeaseGrant_formed h e
  | leaseEnd cl => exact execLeaseEnd_formed h e
  | mxQueueTransfer cl => exact execMxQueueTransfer_formed h e
  | arrayCommandStart cl => exact execArrayCommandStart_formed h e
  | arrayCommandComplete cl => exact execArrayCommandComplete_formed h e
  | rowRetire cl => exact execRowRetire_formed h e
  | cpCommandStart cl => exact execCpCommandStart_formed h e
  | engineAccessResume c seq => exact execEngineAccessResume_formed h e
  | cpCommandComplete c seq => exact execCpCommandComplete_formed h e
  | packetReceive p => exact execPacketReceive_formed h e
  | responseReceive p => exact execResponseReceive_formed h e
  | logEntryReplayed n => exact execLogEntryReplayed_formed h e
  | logEntryAbandoned n => exact execLogEntryAbandoned_formed h e
  | fifoWordArrive mv => exact execFifoWordArrive_formed h e
  | flitReplay link => exact execFlitReplay_formed h e
  | linkRetrain link => exact execLinkRetrain_formed h e
  | linkDown link => exact execLinkDown_formed h e
  | linkRestored link => exact execLinkRestored_formed h e
  | deadlockTimer link vc => exact execDeadlockTimer_formed h e
  | collOpenReceive p => exact execCollOpenReceive_formed h e
  | collBlockReceive p crcOk => exact execCollBlockReceive_formed h e
  | lossyClose => exact execLossyClose_formed h e
  | collCloseReceive p => exact execCollCloseReceive_formed h e
  | rdmaReceive port op => exact execRdmaReceive_formed h e
  | purgeStart tag cause => exact execPurgeStart_formed h e
  | purgePacketReceive p => exact execPurgePacketReceive_formed h e
  | purgeAckReceive p => exact execPurgeAckReceive_formed h e
  | scrub => exact execScrub_formed h e
  | invalidationPerformed => exact execInvalidationPerformed_formed h e
  | hmovMigrate => exact execHmovMigrate_formed h e
  | droopAlarm region => exact execDroopAlarm_formed h e
  | holdEnter => exact execHoldEnter_formed h e
  | holdExit => exact execHoldExit_formed h e
  | supplyRetentionLoss => exact execSupplyRetentionLoss_formed h e
  | throttleEnter => exact execThrottleEnter_formed h e
  | throttleExit => exact execThrottleExit_formed h e
  | thermalTrip => exact execThermalTrip_formed h e
  | powerOnReset => exact execPowerOnReset_formed h e
  | warmReset => exact execWarmReset_formed h e
  | functionLevelReset => exact execFunctionLevelReset_formed h e
  | resetreqWrite v bytes => exact execResetreqWrite_formed h e
  | doorbellArm e v => exact execDoorbellArm_formed h e
  | doorbellDisarm e v => exact execDoorbellDisarm_formed h e
  | hostInvalidate w => exact execHostInvalidate_formed h e
  | hostPurgeRequest w => exact execHostPurgeRequest_formed h e
  | mgmtcfgWrite w => exact execMgmtcfgWrite_formed h e
  | pairmodeWrite cl w => exact execPairmodeWrite_formed h e
  | devtimeLWrite w => exact execDevtimeLWrite_formed h e
  | bootFlashErase w => exact execBootFlashErase_formed h e
  | bootFlashProgram off w => exact execBootFlashProgram_formed h e
  | droppedCountRead => exact execDroppedCountRead_formed h e
  | attestationRequest => exact execAttestationRequest_formed h e
  | attestationReady => exact execAttestationReady_formed h e
  | hostMemoryAccess a => exact execHostMemoryAccess_formed h e
  | registerWrite off w => exact execRegisterWrite_formed h e
  | smbusReadDevstat => exact execSmbusReadDevstat_formed h e
  | smbusReadTemperature n => exact execSmbusReadTemperature_formed h e
  | smbusReadPower => exact execSmbusReadPower_formed h e
  | smbusReadDropped => exact execSmbusReadDropped_formed h e
  | smbusWarmReset v => exact execSmbusWarmReset_formed h e
  | jtagBypass => exact execJtagBypass_formed h e
  | jtagIdcode => exact execJtagIdcode_formed h e
  | jtagSamplePreload pins => exact execJtagSamplePreload_formed h e
  | jtagExtest => exact execJtagExtest_formed h e
  | droopAlarmCleared region => exact execDroopAlarmCleared_formed h e
  | softError f => exact execSoftError_formed h e
  | rdmaAckTimeout => exact execRdmaAckTimeout_formed h e
  | bootFlashOperationComplete => exact execBootFlashOperationComplete_formed h e
  | _ => exact absurd hi (Option.some_ne_none _)

theorem exec_formed {s t : State} {i : Instr} (h : Formed s) (e : exec i s = .next t) : Formed t := by
  cases hi : slotOpOf i with
  | none => exact execEvent_formed hi h e
  | some o => exact execSlot_formed (by rw [hi]; rfl) h e

theorem runStep_formed {s t : State} {n w : Nat} {i : Instr} (h : Formed s) (e : runStep s n w i = .next t) : Formed t := by
  cases hs : stopped i { passTime n s with which := w } with
  | some f => rw [runStep_fault hs] at e; exact nomatch e
  | none =>
    rw [runStep_runs hs] at e
    exact exec_formed (s := { passTime n s with which := w }) (passTime_formed h) e

theorem awaitRom_formed {s t : State} (h : Formed s) (e : awaitRom s = .next t) : Formed t := by
  unfold awaitRom at e
  split at e
  · exact Host.Outcome.next.inj e ▸ passTime_formed h
  · exact nomatch e

theorem step_formed {s t : State} (h : Formed s) (e : step s = .next t) : Formed t := by
  cases ha : s.agenda with
  | cons p rest =>
    obtain ⟨n, w, i⟩ := p
    rw [step_agenda ha] at e
    exact runStep_formed (s := { s with agenda := rest }) h e
  | nil =>
    cases hp : pick s with
    | none => rw [step_idle ha hp] at e; exact awaitRom_formed h e
    | some i => rw [step_chosen ha hp] at e; exact runStep_formed h e

/-- Settles O59: every function of the model that gives a state keeps `Formed`, so the time that passes and each instruction do. -/
theorem memoryFormKept : Obligations.MemoryFormKept := fun _ _ h e => step_formed h e

end Sys2Proof.Machine
end

section
/-!
The copy engine (10 R312 to R332, 11 R368 to R373): its events, the reading and writing of pieces and ranges, and the step of each
command.
-/
namespace Sys2Proof.Machine

section
variable {s s1 s2 t : State} {x : Ctx} {c : Cmd}

/-! ## The events -/

theorem exec_cpStart_free {cl : Nat} (hr : cpRunning s cl < 8) (hc : cpChoice s cl = some c) (hx : cmdOwner s c = some x)
    (h : startHold s x c = .free) : exec (.cpCommandStart cl) s =
      .next (compared (putCmd (modCl s cl (fun y => { y with lastCp := c.ctx.core })) { c with started := true, waitOk := true }) 3) := by
  show execCpCommandStart cl s = _
  unfold execCpCommandStart
  rw [if_neg (Nat.not_le.mpr hr)]
  simp only [hc, hx, h]

theorem exec_cpStart_fails {cl : Nat} {f : TrapC} (hr : cpRunning s cl < 8) (hc : cpChoice s cl = some c) (hx : cmdOwner s c = some x)
    (h : startHold s x c = .fails f) : exec (.cpCommandStart cl) s =
      .next (finishCmd (modCl s cl (fun y => { y with lastCp := c.ctx.core })) c (some (f.cause, f.addr))) := by
  show execCpCommandStart cl s = _
  unfold execCpCommandStart
  rw [if_neg (Nat.not_le.mpr hr)]
  simp only [hc, hx, h]

theorem exec_cpComplete_flushed {id : CtxId} {seq : Nat} (hc : startedCp s id seq = some c) (hx : cmdOwner s c = some x) (ha : c.awaiting = [])
    (hf : c.flush.isSome = true) (hr : rdmaPending s c = false) : exec (.cpCommandComplete id seq) s = .next (flushLeave s c) := by
  show execCpCommandComplete id seq s = _
  unfold execCpCommandComplete
  simp [hc, hx, ha, hf, hr]

theorem exec_cpComplete_goes {id : CtxId} {seq : Nat} (hc : startedCp s id seq = some c) (hx : cmdOwner s c = some x) (ha : c.awaiting = [])
    (hp : pauses s c = false) (hf : c.flush = none) (hs : c.stop = none) (hr : rdmaPending s c = false) (hq : portPaused s c = false)
    (ho : overlapAt (narrowed s x c) c = none) : exec (.cpCommandComplete id seq) s = .next (settleCp c (advanceCp s x c)) := by
  show execCpCommandComplete id seq s = _
  unfold execCpCommandComplete
  simp [hc, hx, ha, hp, hf, hs, hr, hq, ho]

theorem exec_engineAccessResume {id : CtxId} {seq : Nat} (hc : startedCp s id seq = some c) (hx : cmdOwner s c = some x) (ha : c.awaiting = [])
    (hp : pauses s c = false) (hs : c.stop.isSome = true) (hm : mayResume s x c = true) :
    exec (.engineAccessResume id seq) s = .next (putCmd s { c with stop := none }) := by
  obtain ⟨w, hw⟩ := Option.isSome_iff_exists.mp hs
  show execEngineAccessResume id seq s = _
  unfold execEngineAccessResume
  simp [hc, hx, ha, hp, hw, hm]

/-- A step that no failure came for runs the command. -/
theorem advanceCp_runs (h : c.failed = none) : advanceCp s x c = runCp s x c := by rw [advanceCp, h]

/-- Only commands that read a tile of an unknown format are narrowed. -/
theorem tileRangesNow_none (h : ∀ o, cmdInstr c ≠ some (.cpyt o) ∧ cmdInstr c ≠ some (.cpst o)) : tileRangesNow s x c = none := by
  unfold tileRangesNow
  split
  · next o e => exact absurd e (h o).1
  · next o e => exact absurd e (h o).2
  · rfl

theorem narrowOp_other (h : ∀ o, cmdInstr c ≠ some (.cpyt o) ∧ cmdInstr c ≠ some (.cpst o)) : narrowOp t c = t := by
  unfold narrowOp
  split
  · next o _ e _ => exact absurd e (h o).1
  · next o _ e _ => exact absurd e (h o).2
  · rfl

/-! ## Pieces -/

theorem wordLoc_own {w a : Nat} {p : Place} {g : Gran} (hw : bit w 63 = false) (hm : inMere a = true)
    (hp : merePlace s x.id.cl x.env.iter x.env.gang a = some (p, g)) (ho : ownerSeen s none g = true) (hg : givePending x c.seq g.num = false)
    (wr : Bool) : wordLoc s x c w a wr = (s, .here p false) := by
  simp only [wordLoc, hw, Bool.not_false, if_true, ownLoc, hm, mereLoc, hp, ho, hg, Bool.and_self]

theorem firstPoisoned_none {p : Place} {n : Nat} (h : isPoisoned s p n = false) : firstPoisoned s p n = none := by
  rw [isPoisoned, List.any_eq_false] at h
  exact List.find?_eq_none.mpr h

/-- A sound piece that is read at a place of the part gives the bytes that stand there. -/
theorem readPiece_here {w a n : Nat} {p : Place} (hg : gotPiece x c (pieceKey w a) = none)
    (hl : wordLoc s x c w a false = (s1, .here p false)) (hp : p.space ≠ .host) (hn : isPoisoned (probeRange s1 p n) p n = false) :
    (readPiece s x c w a n).2 = .data (readPlace s1 p n) := by
  have hs : hostSettled s1 (some (x.id, x.env.iter)) p n = s1 := if_neg hp
  have hr : readSector s1 p none a n = (probeRange s1 p n, .inl (readPlace (probeRange s1 p n) p n)) := by
    unfold readSector
    rw [nibbleGet, if_pos rfl, rawRead]
    simp only [firstPoisoned_none hn]
  unfold readPiece
  rw [hg, hl]
  simp only [Bool.false_eq_true, if_false, hs, hr]
  rw [sameBytes_read (probeRange_bytes s1 p n) p n hp]

theorem writePiece_here {w a : Nat} {p : Place} {bs : List Byte} (hl : wordLoc s x c w a true = (s1, .here p false)) :
    writePiece s x c w a bs = (homeStored (placeWrite s1 x (cmdStream x c) p bs) a p, .done) := by
  unfold writePiece
  rw [hl]
  rfl

/-- A piece that is written to Mere changes its own bytes and no other. -/
theorem merePut_writePiece {w a : Nat} {p : Place} {bs : List Byte} (hl : wordLoc s x c w a true = (s1, .here p false)) (hp : p.space = .mere) :
    MerePut s1 (writePiece s x c w a bs).1 p bs := by
  have hw : placeWrite s1 x (cmdStream x c) p bs = writePlace s1 p bs := by
    rw [placeWrite, if_neg (by rw [hp]; decide), homeWrite_mere hp]
  rw [writePiece_here hl, hw]
  exact merePut_homeStored (merePut_writePlace hp bs) hp a

theorem writePiece_far {w a node addr : Nat} {role : Option (Nat × Nat)} {bs : List Byte} (h : wordLoc s x c w a true = (s1, .far node role addr))
    (h1 : wordLoc s1 x c w a true = (s1, .far node role addr)) (hr : reachable s1 node = true) :
    writePiece s x c w a bs = (s1, .send node role addr) := by
  unfold writePiece
  rw [h]
  dsimp only
  rw [writeLoc, h1]
  exact if_pos hr

theorem writeGo_send {w a n node addr : Nat} {role : Option (Nat × Nat)} {bs : List Byte} (rest : List (Nat × Nat)) (r : Put)
    (h : writePiece s x c w a (bs.take n) = (s1, .send node role addr)) :
    writeGo s x c w ((a, n) :: rest) bs r = writeGo (sendPut s1 c a node role addr (bs.take n)).1 x c w rest (bs.drop n)
      { r with sent := r.sent ++ [(sendPut s1 c a node role addr (bs.take n)).2] } := by
  rw [writeGo, h]

theorem writeGo_done {w a n : Nat} {bs : List Byte} (rest : List (Nat × Nat)) (r : Put) (h : writePiece s x c w a (bs.take n) = (s1, .done)) :
    writeGo s x c w ((a, n) :: rest) bs r = writeGo s1 x c w rest (bs.drop n) r := by
  rw [writeGo, h]

/-! ## Ranges -/

/-- A range is read: all its bytes are at hand and the machine then stands at t. -/
def RangeRead (s : State) (x : Ctx) (c : Cmd) (w a n : Nat) (t : State) (bs : List Byte) : Prop :=
  readRange s x c w a n = (t, { Got.none with bs := bs })

/-- A range is written: none of its pieces waits, and the machine then stands at t with nothing sent and nothing failed. -/
def RangeWritten (s : State) (x : Ctx) (c : Cmd) (w a : Nat) (bs : List Byte) (t : State) : Prop :=
  writeWait s x c w a bs.length = none ∧ writeRange s x c w a bs = (t, { sent := [], bad := none })

theorem withRead_of {w a n : Nat} {bs : List Byte} {k : State → List Byte → CpRes} (h : RangeRead s x c w a n t bs) :
    withRead s x c w a n k = k t bs := by
  unfold withRead
  rw [h]
  rfl

theorem withTile_of {w a n : Nat} {bs : List Byte} {k : State → List Byte → CpRes} (hm : inMere a = true) (h : RangeRead s x c w a n t bs) :
    withTile s x c w a n k = k t bs := by
  unfold withTile
  rw [hm, h]
  exact withRead_of h

theorem withWrite_of {w a : Nat} {bs : List Byte} {k : State → State} (h : RangeWritten s x c w a bs t) : withWrite s x c w a bs k = .ok (k t) := by
  obtain ⟨hw, hr⟩ := h
  unfold withWrite
  rw [hw, hr]
  rfl

theorem putTile_of {f : Fmt} {u : Tile} {recs : List (Nat × Nat)}
    (h : RangeWritten s x c (bits c.desc.toNat 63 0) (bits c.desc.toNat 55 0) (tileImage f u) t) :
    putTile s x c f u recs = .ok (postRecs t c 2 recs) := withWrite_of (k := fun u => postRecs u c 2 recs) h

/-! ## `cpz` and `cpy` -/

theorem cpyMoves_done {d n i : Nat} {bs : List Byte} (hr : readPiece s x c (bits d 63 0) (cpySrc d i) (cpyEs d) = (s1, .data bs))
    (hw : writePiece s1 x c (bits d 127 64) (cpyDst d i) bs = (s2, .done)) :
    cpyMoves c d x (n + 1) i s [] = cpyMoves c d x n (i + 1) s2 [] := by
  have hb : cpyBytes s x c d i [] = (s1, bs) := by
    unfold cpyBytes
    split <;> simp only [List.find?_nil, Option.map_none, hr]
  rw [cpyMoves, hb]
  dsimp only
  rw [hw]

theorem cpyMoves_send {d n i node addr : Nat} {role : Option (Nat × Nat)} {far : List FarElem} {bs : List Byte}
    (hb : cpyBytes s x c d i far = (s1, bs)) (hw : writePiece s1 x c (bits d 127 64) (cpyDst d i) bs = (s2, .send node role addr)) :
    cpyMoves c d x (n + 1) i s far = cpyMoves c d x n (i + 1) s2
      (far.filter (fun q => !q.same node role addr) ++ [{ va := cpyDst d i, node := node, role := role, addr := addr, bs := bs }]) := by
  rw [cpyMoves, hb]
  dsimp only
  rw [hw]

theorem cpyGo_ends {d total f i : Nat} {sent : List Nat} (h : total ≤ i) :
    cpyGo c d total (f + 1) i s x sent = if sent = [] then .ok s else .pend s i sent 1 := by
  rw [cpyGo, if_pos h]

/-- A sector whose elements can all be read and written is moved. -/
theorem cpyGo_sector {d total f i : Nat} {sent : List Nat} (h : i < total) {e : Nat} (he : e = min total ((i / cpyPer d + 1) * cpyPer d))
    (hr : cpyReads c d x (e - i) i s [] = (s1, [], e, .data [])) (hp : cpyPuts c d x sent (e - i) i s1 = (s2, e, .done, false)) :
    cpyGo c d total (f + 1) i s x sent =
      (let m := cpyMoves c d x (e - i) i s2 []
       let r := dropPieces m.1 x c ((List.range (e - i)).map (fun k => pieceKey (bits d 63 0) (cpySrc d (i + k))))
       let t := m.2.foldl (fun u q => let v := sendPut u.1 c q.va q.node q.role q.addr q.bs; (v.1, u.2 ++ [v.2])) (r.1, sent)
       cpyGo c d total f e t.1 r.2 t.2) := by
  rw [cpyGo, if_neg (Nat.not_le.mpr h)]
  dsimp only
  rw [← he, hr]
  simp only [bne_self_eq_false, Bool.false_eq_true, if_false, hp, BEq.rfl]

end

end Sys2Proof.Machine
end

section
/-!
The tile, metadata, scale-out and collective commands of the copy engine (10 R325 to R332, 11 R368 to R373), and the settlement of O47.
-/
namespace Sys2Proof.Machine

section
variable {s s1 s2 s3 s4 s5 t : State} {x : Ctx} {c : Cmd} {o : CD}

/-! ## `cpz.tile` and `cpyt` -/

theorem runCpzTile_writes (hp : c.phase ≠ 2) (h : RangeWritten s x c (bits c.desc.toNat 63 0) (bits c.desc.toNat 55 0)
    (tileImage (czFmt o) (zeroTile (czFmt o) (bits c.desc.toNat 95 64))) t) : runCpzTile s x c o = .ok t := by
  rw [runCpzTile, if_neg hp]
  exact putTile_of h

/-- A `cpyt` from a tensor. -/
theorem runCpyt_tensor {e : HEntry} (hp : c.phase ≠ 2) (ho : ctMere o = false) (he : seeEntry s x c.hidx = (s1, some e)) :
    runCpyt s x c o =
      if hTiles e ≤ bits c.desc.toNat 95 64 then
        putTile s1 x c (fmtOfCode (BitVec.ofNat 4 (bits c.desc.toNat 99 96)))
          (zeroTile (fmtOfCode (BitVec.ofNat 4 (bits c.desc.toNat 99 96))) (bits c.desc.toNat 95 64)) []
      else withRead s1 x c 0 (e.base + bits c.desc.toNat 95 64 * tileLen (hFmt e)) (tileBytes (hFmt e))
        (fun s2 bs => cpytSource s2 x c o (hFmt e) bs) := by
  rw [runCpyt, if_neg hp, ho, if_neg (by decide), he]

/-- A `cpyt` from Mere whose tile's format is found. -/
theorem runCpyt_mere {f : Fmt} {bs : List Byte} (hp : c.phase ≠ 2) (ho : ctMere o = true)
    (hl : roleLost s x c (bits c.desc.toNat 191 128) = false) (hm : inMere (bits c.desc.toNat 183 128) = true)
    (hf : findFmt s x c (bits c.desc.toNat 191 128) (bits c.desc.toNat 183 128) probes = (s1, .fmt f))
    (hr : RangeRead s1 x c (bits c.desc.toNat 191 128) (bits c.desc.toNat 183 128) (tileBytes f) s2 bs) :
    runCpyt s x c o = cpytSource s2 x c o f bs := by
  rw [runCpyt, if_neg hp, if_pos ho]
  dsimp only
  rw [hl, if_neg (by decide), hf]
  exact withTile_of hm hr

theorem cpytSource_badHead {f : Fmt} {bs : List Byte} (h : headOk (tileOf f bs).head f = false) :
    cpytSource s x c o f bs = .fail (postRecs s c 2 [(2, badHeadData 0)]) [] 15 (badHeadData 0) := by
  rw [cpytSource, cpCheck, h]
  rfl

/-- A checked tile that keeps its format and its lanes is written as it is. -/
theorem cpytSource_same {f : Fmt} {bs : List Byte} {tile : Tile} {recs : List (Nat × Nat)}
    (hc : cpCheck s c f bs (!ctRegen o) = .ok s1 tile recs) (hf : fmtOfCode (BitVec.ofNat 4 (bits c.desc.toNat 99 96)) = f)
    (hg : ctRegen o = false) (hw : RangeWritten s1 x c (bits c.desc.toNat 63 0) (bits c.desc.toNat 55 0) (tileImage f tile) t) :
    cpytSource s x c o f bs = .ok (postRecs t c 2 recs) := by
  have h : convertTile s1 x c f (ctRegen o) tile recs = .ok (postRecs t c 2 recs) := by
    rw [convertTile]
    dsimp only
    rw [hf, hg, if_pos (by simp)]
    exact putTile_of hw
  rw [cpytSource, hc]
  dsimp only
  rw [h]
  rfl

/-- A checked tile of another format, or whose lanes are made again, is converted and sealed. -/
theorem cpytSource_converted {fs fd : Fmt} {bs : List Byte} {tile : Tile} {recs : List (Nat × Nat)}
    {q : List (List Nat) × List (List Nat) × Nat}
    (hc : cpCheck s c fs bs (!ctRegen o) = .ok s1 tile recs) (hd : fd = fmtOfCode (BitVec.ofNat 4 (bits c.desc.toNat 99 96)))
    (hg : ¬ (fd = fs ∧ ctRegen o = false))
    (hq : q = convertRows fd (cpRm c (bits c.desc.toNat 102 100)) c.sat (bits c.desc.toNat 255 192) (fun _ => none) (tileVals fs tile))
    (hw : RangeWritten s1 x c (bits c.desc.toNat 63 0) (bits c.desc.toNat 55 0)
      (tileImage fd (sealTile fd q.1 q.2.1 (bits c.desc.toNat 95 64))) t) :
    cpytSource s x c o fs bs = .ok (postRecs t c 2
      (recs ++ countRec 3 (nonfinCount fd (sealTile fd q.1 q.2.1 (bits c.desc.toNat 95 64))) ++ countRec 4 q.2.2)) := by
  have h : convertTile s1 x c fs (ctRegen o) tile recs = .ok (postRecs t c 2
      (recs ++ countRec 3 (nonfinCount fd (sealTile fd q.1 q.2.1 (bits c.desc.toNat 95 64))) ++ countRec 4 q.2.2)) := by
    rw [convertTile]
    dsimp only
    rw [← hd, ← hq, if_neg (by simpa using hg)]
    exact putTile_of hw
  rw [cpytSource, hc]
  dsimp only
  rw [h]
  rfl

/-! ## `cpst` -/

theorem runCpst_beyond {e : HEntry} (hp : c.phase ≠ 2) (he : seeEntry s x c.hidx = (s1, some e)) (hi : hTiles e ≤ bits c.desc.toNat 95 64) :
    runCpst s x c o = .ok s1 := by
  rw [runCpst]
  dsimp only
  rw [if_neg hp, he]
  dsimp only
  rw [if_pos hi]

/-- A `cpst` whose source tile is found and read goes on with it. -/
theorem runCpst_found {e : HEntry} {f : Fmt} {bs : List Byte} (hp : c.phase ≠ 2) (he : seeEntry s x c.hidx = (s1, some e))
    (hi : ¬ hTiles e ≤ bits c.desc.toNat 95 64) (hf : findFmt s1 x c 0 (bits c.desc.toNat 55 0) probes = (s2, .fmt f))
    (hm : inMere (cpstAt c f) = true) (hr : RangeRead s2 x c 0 (cpstAt c f) (tileBytes f) s3 bs) :
    runCpst s x c o = cpstTile s3 x c o e f bs := by
  rw [runCpst]
  dsimp only
  rw [if_neg hp, he]
  dsimp only
  rw [if_neg hi, hf]
  exact withTile_of hm hr

/-- The tile of a `cpst` is written: as the bytes of its range, or sector by sector where the tensor is compressed. -/
def TileStored (s : State) (x : Ctx) (c : Cmd) (e : HEntry) (bs : List Byte) (t : State) : Prop :=
  let va := e.base + bits c.desc.toNat 95 64 * tileLen (hFmt e)
  (e.comp = false ∧ RangeWritten s x c 0 va bs t) ∨
    (e.comp = true ∧ writeWait s x c 0 va bs.length = none ∧ writeSectors s x c va bs (bs.length / 512 + 1) = (t, none))

theorem cpstPut_stored {e : HEntry} {bs : List Byte} {checked : List (Nat × Nat)} {fin : State → CpRes} {u : State}
    (ha : amaxWait s x c = none) (h : TileStored s x c e bs t) (hf : fin t = .ok u) : cpstPut s x c e bs checked fin = .ok u := by
  unfold cpstPut
  obtain ⟨hc, hw, hr⟩ | ⟨hc, hw, hr⟩ := h
  · dsimp only
    rw [hw, ha, hc, hr]
    dsimp only
    rw [hf]
    rfl
  · dsimp only
    rw [hw, ha, hc, hr]
    exact hf

/-- The end of a `cpst` that names no amax word, or whose atomic is done. -/
theorem cpstEnd_done {a above : Nat} {checked made : List (Nat × Nat)}
    (h : (bits c.desc.toNat 183 128 = 0 ∧ s = t) ∨ (bits c.desc.toNat 183 128 ≠ 0 ∧ amaxWord s x c (bits c.desc.toNat 183 128) a = (t, none))) :
    cpstEnd s x c a above checked made =
      .ok (postRecs t c 2 (checked ++ made ++ countRec 4 above ++ [(5, a + bits c.desc.toNat 95 64 * 2 ^ 32)])) := by
  unfold cpstEnd
  dsimp only
  obtain ⟨hz, rfl⟩ | ⟨hz, ha⟩ := h
  · rw [if_pos hz]
  · rw [if_neg hz, ha]

/-- The tile that a `cpst` makes of a checked one is its conversion, each value first scaled, sealed. -/
theorem cpstTile_stored {e : HEntry} {f : Fmt} {bs : List Byte} {tile u : Tile} {recs : List (Nat × Nat)} {q : List (List Nat) × List (List Nat) × Nat}
    (hc : cpCheck s c f bs true = .ok s1 tile recs) (ha : amaxWait s1 x c = none)
    (hq : q = convertRows (hFmt e) (cpRm c (o.x.extractLsb' 5 3).toNat) c.sat (bits c.desc.toNat 255 192) (fun _ => none)
      ((tileVals f tile).map (fun r => r.map (fun v => (mulExact v (decodeVal .fp32 (bits c.desc.toNat 127 96))).1))))
    (hu : u = sealTile (hFmt e) q.1 q.2.1 (bits c.desc.toNat 95 64)) (hs : TileStored s1 x c e (tileImage (hFmt e) u) s2)
    (he : (bits c.desc.toNat 183 128 = 0 ∧ s2 = t) ∨
      (bits c.desc.toNat 183 128 ≠ 0 ∧ amaxWord s2 x c (bits c.desc.toNat 183 128) (amaxRows (tileVals f tile)) = (t, none))) :
    cpstTile s x c o e f bs = .ok (postRecs t c 2 (recs ++ countRec 3 (nonfinCount (hFmt e) u) ++ countRec 4 q.2.2
      ++ [(5, amaxRows (tileVals f tile) + bits c.desc.toNat 95 64 * 2 ^ 32)])) := by
  have h := cpstPut_stored (checked := recs)
    (fin := fun s2 => cpstEnd s2 x c (amaxRows (tileVals f tile)) q.2.2 recs (countRec 3 (nonfinCount (hFmt e) u))) ha hs (cpstEnd_done he)
  rw [cpstTile]
  dsimp only
  rw [hc]
  dsimp only
  rw [← hq, ← hu]
  exact congrArg (uncounted s) h

/-! ## `cpx` -/

theorem cpxMeta_comp {e : HEntry} {d : Nat} (h : e.comp = true) : cpxMeta e d = some (e.metaB + bits d 111 64 / 2, bits d 175 128 / 2) := if_pos h

theorem cpxMeta_plain {e : HEntry} {d : Nat} (h : e.comp = false) : cpxMeta e d = none := if_neg (by rw [h]; decide)

theorem runCpxOut_comp {e : HEntry} {bs : List Byte} (hp : c.phase ≠ 2) (he : seeEntry s x c.hidx = (s1, some e)) (hc : e.comp = true)
    (hr : RangeRead s1 x c 0 (e.metaB + bits c.desc.toNat 111 64 / 2) (bits c.desc.toNat 175 128 / 2) s2 bs)
    (hw : RangeWritten s2 x c (bits c.desc.toNat 63 0) (bits c.desc.toNat 55 0) bs t) : runCpxOut s x c = .ok t := by
  rw [runCpxOut]
  rw [if_neg hp, he]
  dsimp only
  rw [cpxMeta_comp hc]
  exact (withRead_of hr).trans (withWrite_of hw)

theorem runCpxOut_plain {e : HEntry} (hp : c.phase ≠ 2) (he : seeEntry s x c.hidx = (s1, some e)) (hc : e.comp = false)
    (hw : RangeWritten s1 x c (bits c.desc.toNat 63 0) (bits c.desc.toNat 55 0) (List.replicate (bits c.desc.toNat 175 128 / 2) 0) t) :
    runCpxOut s x c = .ok t := by
  rw [runCpxOut]
  rw [if_neg hp, he]
  dsimp only
  rw [cpxMeta_plain hc]
  exact withWrite_of hw

/-- A `cpx.in` whose source is read. -/
theorem runCpxIn_read {e : HEntry} {bs : List Byte} (hp : c.phase ≠ 2) (he : seeEntry s x c.hidx = (s1, some e))
    (hr : RangeRead s1 x c (bits c.desc.toNat 63 0) (bits c.desc.toNat 55 0) (bits c.desc.toNat 175 128 / 2) s2 bs) :
    (∀ t, e.comp = true → RangeWritten s2 x c 0 (e.metaB + bits c.desc.toNat 111 64 / 2) bs t → runCpxIn s x c = .ok t) ∧
    (e.comp = false → runCpxIn s x c = .ok s2) := by
  rw [runCpxIn]
  rw [if_neg hp, he]
  dsimp only
  rw [withRead_of hr]
  refine ⟨fun t hc hw => ?_, fun hc => ?_⟩
  · rw [cpxMeta_comp hc]
    exact withWrite_of hw
  · rw [cpxMeta_plain hc]

/-! ## `cpn` -/

/-- A `cpn` that has no data of a read to write sends its message, once its queue pair may be used. -/
theorem runCpn_sends {rd : Bool} (hp : c.phase ≠ 2) (hd : rd = true → rdmaData x c = none) :
    runCpn s x c rd =
      if !qpReady s (bits c.desc.toNat 215 192) (bits c.desc.toNat 219 216) then .fail s [] 17 (bits c.desc.toNat 119 64)
      else if rd then .pend (sendRdma s c (cpnMsg c.desc.toNat true [])) 0 [] 1
      else withRead s x c (bits c.desc.toNat 63 0) (bits c.desc.toNat 55 0) (bits c.desc.toNat 191 160)
        (fun s1 bs => .pend (sendRdma s1 c (cpnMsg c.desc.toNat false bs)) 0 [] 1) := by
  have hn : (if rd then rdmaData x c else none) = none := by
    cases rd
    · rfl
    · exact hd rfl
  rw [runCpn]
  rw [if_neg hp, hn]

theorem runCpn_data {bs : List Byte} (hp : c.phase ≠ 2) (hd : rdmaData x c = some bs)
    (hw : RangeWritten s x c (bits c.desc.toNat 63 0) (bits c.desc.toNat 55 0) bs t) : runCpn s x c true = .ok t := by
  rw [runCpn]
  rw [if_neg hp, if_pos rfl, hd]
  exact withWrite_of hw

/-! ## `coll` -/

theorem runColl_read {src : List Byte} (hp : c.phase ≠ 2) (hr : RangeRead s x c 0 (bits c.desc.toNat 55 0) (256 * collNb c.desc.toNat) s1 src) :
    runColl s x c = if bits c.desc.toNat 191 128 = 0 then collSend s1 x c src []
      else withRead s1 x c (bits c.desc.toNat 191 128) (bits c.desc.toNat 183 128) (4 * collNb c.desc.toNat)
        (fun s2 st => collSend s2 x c src st) := by
  rw [runColl]
  rw [if_neg hp]
  exact withRead_of hr

theorem collHere_reliable {src st : List Byte} {g : Nat × Nat × Nat} (hl : collLossy c.desc.toNat = false) :
    collHere s c g src st = collNear s c g { collSpecOf s c g.1 0 with near := g.2.1 + 1 }
      (collBlocks { collSpecOf s c g.1 0 with near := g.2.1 + 1 } src st) :=
  if_neg (by rw [show ({ collSpecOf s c g.1 0 with near := g.2.1 + 1 } : CollSpec).lossy = false from hl]; decide)

/-- A collective of the reliable class to a gang of the package is applied here. -/
theorem collSend_near {src st : List Byte} {r : Word} {g : Nat} (hr : roleOf x (bits c.desc.toNat 127 64) = some r) (h1 : bits r.toNat 1 0 ≤ 1)
    (hg : (findIter s c.iter).bind (fun i => gangOn i (bits r.toNat 8 2)) = some g) (hl : collLossy c.desc.toNat = false)
    {q : CollSpec} (hq : q = { collSpecOf s c (bits r.toNat 8 2) 0 with near := c.iter + 1 }) :
    collSend s x c src st = collNear s c (bits r.toNat 8 2, c.iter, g) q (collBlocks q src st) := by
  rw [collSend]
  dsimp only
  rw [hr]
  dsimp only
  rw [if_pos h1, hg, hq]
  exact collHere_reliable hl

theorem collNear_bad {g : Nat × Nat × Nat} {q : CollSpec} {ks : List Block} {u : Near}
    (hu : u = nearBlocks g q ks { s := s, nonfin := 0, novalid := 0, firstNv := 0, bad := none }) {b : Nat} (hb : u.bad = some b) :
    collNear s c g q ks = .fail u.s [] 17 (q.dst + 256 * b) := by
  rw [collNear]
  rw [← hu, hb]

theorem collNear_ok {g : Nat × Nat × Nat} {q : CollSpec} {ks : List Block} {u : Near}
    (hu : u = nearBlocks g q ks { s := s, nonfin := 0, novalid := 0, firstNv := 0, bad := none }) (hb : u.bad = none) :
    collNear s c g q ks =
      .ok (postRecs (if q.tsig = 0 then u.s else collSignal u.s g q) c 2 (collRecs u.nonfin u.novalid u.firstNv)) := by
  rw [collNear]
  rw [← hu, hb]

/-- A collective to a role of another package is sent there. -/
theorem collSend_far {src st : List Byte} {r : Word} (hr : roleOf x (bits c.desc.toNat 127 64) = some r) (h3 : bits r.toNat 1 0 = 3)
    (hn : bits r.toNat 13 2 ≠ nodeNo s) (hc : reachable s (bits r.toNat 13 2) = true) {q : CollSpec} {t : State × List Nat}
    (hq : q = collSpecOf s c (bits r.toNat 20 14) (if bits r.toNat 36 21 = 0 then c.tag.toNat else bits r.toNat 36 21))
    (ht : t = if q.lossy then sendLossy s c (bits r.toNat 13 2) q (collBlocks q src st)
      else sendReliable s c (bits r.toNat 13 2) q (collBlocks q src st)) : collSend s x c src st = .pend t.1 0 t.2 2 := by
  subst ht hq
  rw [collSend]
  dsimp only
  rw [hr]
  dsimp only
  rw [if_neg (by omega), if_pos h3, if_neg hn, if_pos hc]

end

/-- Settles O47, command by command: each is unfolded to the readings and writings that its clause supposes. -/
theorem copyEngineSteps : Obligations.CopyEngineSteps := by
  unfold Obligations.CopyEngineSteps
  refine ⟨fun s => ⟨fun cl c x hr hc hx => ⟨exec_cpStart_free hr hc hx, fun t => exec_cpStart_fails hr hc hx⟩, fun id seq c x hc hx ha hp =>
      ⟨exec_cpComplete_flushed hc hx ha, exec_cpComplete_goes hc hx ha hp, exec_engineAccessResume hc hx ha hp⟩⟩, ?_, ?_, ?_, ?_, ?_⟩
  · intro s t x c
    refine ⟨fun hf o => ?_, rfl, fun k a => rfl, fun p rids w a => rfl, fun p rids n => rfl, fun h => ⟨narrowOp_other h, ?_⟩⟩
    · rw [advanceCp_runs hf]
      refine ⟨?_, ?_, ?_, ?_, ?_, ?_, ?_, ?_, ?_, ?_⟩ <;> intro h <;> rw [runCp, h]
    · rw [narrowed, tileRangesNow_none h]
  · intro s s1 x c w a n wr p bs
    refine ⟨fun g hw hm hp ho hg => wordLoc_own hw hm hp ho hg wr, fun hg hl hp hn => readPiece_here hg hl ?_ hn,
      fun hl => ⟨writePiece_here hl, fun hp => ?_⟩, fun node role t => writePiece_far, fun rest r => ⟨fun node role t => writeGo_send rest r,
        writeGo_done rest r⟩⟩
    · rintro e
      rw [e] at hp
      exact absurd hp (by decide)
    · obtain ⟨hh, hk, hb⟩ := merePut_writePiece (bs := bs) hl hp
      exact ⟨hh, hk, hb⟩
  · intro s t x c d f i sent
    refine ⟨rfl, rfl, fun h => ?_, fun y z h => ?_, fun k a h => ?_, fun node role a h hu => ?_⟩
    · rw [cpzGo]; dsimp only; rw [h]
    · rw [cpzGo]; dsimp only; rw [h]
    · rw [cpzGo]; dsimp only; rw [h]
    · rw [cpzGo]; dsimp only; rw [h]; dsimp only; rw [hu]; rfl
  · intro s s1 s2 x c d total f i n sent far bs
    exact ⟨rfl, rfl, rfl, cpyMoves_done, fun node role t => cpyMoves_send, cpyGo_ends, fun h hr hp => cpyGo_sector h rfl hr hp⟩
  · intro s x c o hp d reads writes idx fd drop
    refine ⟨fun t => runCpzTile_writes hp, fun s1 e ho he => ?_, fun s1 g s2 bs ho hl hm hf hr => runCpyt_mere hp ho hl hm hf hr,
      fun fs bs => cpytSource_badHead, fun fs bs s1 t tile recs hc => ⟨fun hf hg hw => ?_, fun hg => ?_⟩, fun s1 e he => ⟨?_, ?_⟩,
      fun s1 e he => ⟨?_, ?_, ?_⟩, ?_, ?_, fun m0 => rfl, ?_, ?_⟩
    · rw [runCpyt_tensor hp ho he]
      refine ⟨fun hi t hw => ?_, fun hi s2 bs hr => ?_⟩
      · rw [if_pos hi]
        exact putTile_of hw
      · rw [if_neg hi]
        exact withRead_of hr
    · subst hf
      exact cpytSource_same hc rfl hg hw
    · intro q u hw
      exact cpytSource_converted hc rfl hg rfl hw
    · exact runCpst_beyond hp he
    · intro s2 f s3 bs s4 tile recs hi hf a hm hr hc rows q u va posted ha s5 hs
      have hgo := runCpst_found (o := o) hp he hi hf hm hr
      refine ⟨fun hz => hgo.trans ?_, fun s6 hz hw => hgo.trans ?_⟩
      · exact cpstTile_stored (q := q) (u := u) hc ha rfl rfl hs (.inl ⟨hz, rfl⟩)
      · exact cpstTile_stored (q := q) (u := u) hc ha rfl rfl hs (.inr ⟨hz, hw⟩)
    · exact fun s2 bs t hc hr hw => runCpxOut_comp hp he hc hr hw
    · exact fun t hc hw => runCpxOut_plain hp he hc hw
    · exact fun s2 bs t hr => ⟨(runCpxIn_read hp he hr).1 t, (runCpxIn_read hp he hr).2⟩
    · intro rd ready hd
      rw [runCpn_sends hp hd]
      refine ⟨fun h => ?_, fun h hr => ?_, fun s1 bs h hr hb => ?_⟩
      · rw [show qpReady s _ _ = false from h]; rfl
      · subst hr
        rw [show qpReady s _ _ = true from h]; rfl
      · subst hr
        rw [show qpReady s _ _ = true from h, if_neg (by decide), if_neg (by decide)]
        exact withRead_of hb
    · exact fun bs t hd hw => runCpn_data hp hd hw
    · intro s1 src hr
      rw [runColl_read hp hr]
      refine ⟨fun hz => if_pos hz, fun s2 st hz hb => ?_⟩
      rw [if_neg hz]
      exact withRead_of hb
    · intro r src st g hr
      refine ⟨fun h1 hg hl => ?_, fun h3 hn hc => collSend_far hr h3 hn hc rfl rfl⟩
      intro q u
      rw [collSend_near hr h1 hg hl rfl]
      exact ⟨fun b => collNear_bad rfl, collNear_ok rfl⟩

end Sys2Proof.Machine
end

section
/-!
A core that is listed again. `relist p s` is s with the core at p written to its cluster map as it reads: the maps may list it
otherwise, every reading of the machine is the same. The control registers read the machine without the commands of the issue in
progress (03 R84); where there are none, that is the machine with the reading core listed again.
-/
namespace Sys2Proof.Machine

theorem smPut_smPut {α : Type} (m : SMap α) (k : Nat) (v w : α) : smPut (smPut m k v) k w = smPut m k w := by
  induction m with
  | nil => simp [smPut]
  | cons e m ih =>
    obtain ⟨j, u⟩ := e
    simp only [smPut]
    split
    · simp [smPut, *]
    · split
      · simp [smPut]
      · simp [smPut, *]

theorem smPut_comm {α : Type} (m : SMap α) {k j : Nat} (h : k ≠ j) (v w : α) : smPut (smPut m k v) j w = smPut (smPut m j w) k v := by
  induction m with
  | nil => grind [smPut]
  | cons e m ih =>
    obtain ⟨i, u⟩ := e
    grind [smPut]

/-- A cluster with a core listed again. -/
def relistCl (j : Nat) (c : Cluster) : Cluster := { c with cores := smPut c.cores j (coreOf c j) }

/-- The machine with a core, by cluster and number, listed again. -/
def relist (p : Nat × Nat) (s : State) : State := modCore s p.1 p.2 (fun y => y)

section
variable {p : Nat × Nat} {s : State}

theorem relist_eq : relist p s = modCl s p.1 (relistCl p.2) := rfl

@[simp] theorem relist_cyc : (relist p s).cyc = s.cyc := rfl
@[simp] theorem relist_ran : (relist p s).ran = s.ran := rfl
@[simp] theorem relist_ctxs : (relist p s).ctxs = s.ctxs := rfl
@[simp] theorem relist_ghosts : (relist p s).ghosts = s.ghosts := rfl
@[simp] theorem relist_mem : (relist p s).mem = s.mem := rfl
@[simp] theorem relist_pkg : (relist p s).pkg = s.pkg := rfl
@[simp] theorem relist_net : (relist p s).net = s.net := rfl
@[simp] theorem relist_dev : (relist p s).dev = s.dev := rfl
@[simp] theorem relist_spring : (relist p s).spring = s.spring := rfl
@[simp] theorem relist_draws : (relist p s).draws = s.draws := rfl
@[simp] theorem relist_cur : (relist p s).cur = s.cur := rfl

theorem coreOf_relistCl (j k : Nat) (c : Cluster) : coreOf (relistCl j c) k = coreOf c k := by
  unfold relistCl coreOf
  dsimp only
  rw [smGet_put]
  split
  · next h => rw [h]
  · rfl

theorem getCl_relist (k : Nat) : getCl (relist p s) k = if k = p.1 then relistCl p.2 (getCl s k) else getCl s k := by
  unfold relist modCore putCore modCl putCl getCl
  dsimp only
  rw [smGet_put]
  split
  · next h => rw [h]; rfl
  · rfl

/-- A field of a cluster that holds no core reads as before. -/
theorem getCl_relist_field {α : Type} (f : Cluster → α) (hf : ∀ j c, f (relistCl j c) = f c) (k : Nat) :
    f (getCl (relist p s) k) = f (getCl s k) := by
  rw [getCl_relist]
  split
  · exact hf _ _
  · rfl

@[simp] theorem getCore_relist (k j : Nat) : getCore (relist p s) k j = getCore s k j :=
  getCl_relist_field (coreOf · j) (fun i c => coreOf_relistCl i j c) k

@[simp] theorem getPair_relist (k j : Nat) : getPair (relist p s) k j = getPair s k j :=
  getCl_relist_field (pairOf · j) (fun _ _ => rfl) k

@[simp] theorem grans_relist (k : Nat) : (getCl (relist p s) k).grans = (getCl s k).grans := getCl_relist_field Cluster.grans (fun _ _ => rfl) k
@[simp] theorem tlb_relist (k : Nat) : (getCl (relist p s) k).tlb = (getCl s k).tlb := getCl_relist_field Cluster.tlb (fun _ _ => rfl) k
@[simp] theorem sectors_relist (k : Nat) : (getCl (relist p s) k).sectors = (getCl s k).sectors :=
  getCl_relist_field Cluster.sectors (fun _ _ => rfl) k
@[simp] theorem arrq_relist (k : Nat) : (getCl (relist p s) k).arrq = (getCl s k).arrq := getCl_relist_field Cluster.arrq (fun _ _ => rfl) k
@[simp] theorem leaseMax_relist (k : Nat) : (getCl (relist p s) k).leaseMax = (getCl s k).leaseMax :=
  getCl_relist_field Cluster.leaseMax (fun _ _ => rfl) k

/-- What changes no core may be done before or after. -/
theorem modCl_relist {f : Cluster → Cluster} (hf : ∀ j c, f (relistCl j c) = relistCl j (f c)) (k : Nat) :
    modCl (relist p s) k f = relist p (modCl s k f) := by
  have hg := getCl_relist (p := p) (s := s) k
  by_cases h : k = p.1
  · rw [if_pos h] at hg
    unfold modCl
    rw [hg, hf, relist_eq, relist_eq, h]
    show ({ s with clusters := smPut (smPut _ _ _) _ _ } : State) = { s with clusters := smPut (smPut _ _ _) _ _ }
    rw [smPut_smPut, smPut_smPut]
    simp only [getCl, putCl, smGet_put, if_pos]
  · rw [if_neg h] at hg
    unfold modCl
    rw [hg, relist_eq, relist_eq]
    show ({ s with clusters := smPut (smPut _ _ _) _ _ } : State) = { s with clusters := smPut (smPut _ _ _) _ _ }
    rw [smPut_comm _ (Ne.symm h)]
    simp only [getCl, putCl, smGet_put, if_neg (Ne.symm h)]

theorem foldl_relist {α : Type} {f g : State → α → State} (hf : ∀ t a, f (relist p t) a = relist p (g t a)) (l : List α) :
    l.foldl f (relist p s) = relist p (l.foldl g s) := by
  induction l generalizing s with
  | nil => rfl
  | cons a l ih => rw [List.foldl_cons, hf, ih, List.foldl_cons]

/-- The same for a fold that carries a value beside the machine. -/
theorem foldl_pair_relist {α β : Type} {f : State × β → α → State × β} (hf : ∀ t a, f (relist p t.1, t.2) a = (relist p (f t a).1, (f t a).2))
    (l : List α) {r : State × β} : l.foldl f (relist p r.1, r.2) = (relist p (l.foldl f r).1, (l.foldl f r).2) := by
  induction l generalizing r with
  | nil => rfl
  | cons a l ih => rw [List.foldl_cons, hf, ih, List.foldl_cons]

end

end Sys2Proof.Machine
end

section
/-!
What the machine reads and does where a core is listed again: memory, translation, granules, phasers and barriers, tables and lines.
-/
namespace Sys2Proof.Machine

section
variable {p : Nat × Nat} {s t : State}

@[simp] theorem getCtx_relist {c : CtxId} : getCtx (relist p s) c = getCtx s c := rfl

@[simp] theorem putCtx_relist {x : Ctx} : putCtx (relist p s) x = relist p (putCtx s x) := rfl

@[simp] theorem modCtx_relist {c : CtxId} {f : Ctx → Ctx} : modCtx (relist p s) c f = relist p (modCtx s c f) := by
  unfold modCtx
  grind [putCtx_relist, getCtx_relist]

@[simp] theorem modPkg_relist {f : Pkg → Pkg} : modPkg (relist p s) f = relist p (modPkg s f) := rfl

@[simp] theorem modDev_relist {f : Dev → Dev} : modDev (relist p s) f = relist p (modDev s f) := rfl

@[simp] theorem modNet_relist {f : Net → Net} : modNet (relist p s) f = relist p (modNet s f) := rfl

@[simp] theorem modMem_relist {f : Mem → Mem} : modMem (relist p s) f = relist p (modMem s f) := rfl

@[simp] theorem modSpring_relist {f : Spring → Spring} : modSpring (relist p s) f = relist p (modSpring s f) := rfl

@[simp] theorem allCtxs_relist : allCtxs (relist p s) = allCtxs s := rfl

@[simp] theorem isResident_relist {x : Ctx} : isResident (relist p s) x = isResident s x := rfl

@[simp] theorem putOwner_relist {x : Ctx} : putOwner (relist p s) x = relist p (putOwner s x) := by
  unfold putOwner
  rw [isResident_relist]
  split <;> rfl

@[simp] theorem getOwner_relist {c : CtxId} {iter : Nat} : getOwner (relist p s) c iter = getOwner s c iter := rfl

@[simp] theorem spaceCells_relist {q : Space} : spaceCells (relist p s) q = spaceCells s q := rfl

@[simp] theorem setSpaceCells_relist {q : Space} {m : List Host.Cell} :
    setSpaceCells (relist p s) q m = relist p (setSpaceCells s q m) := by
  unfold setSpaceCells
  grind [modMem_relist]

@[simp] theorem poisonList_relist {q : Space} : poisonList (relist p s) q = poisonList s q := rfl

@[simp] theorem setPoisonList_relist {q : Space} {l : List Nat} : setPoisonList (relist p s) q l = relist p (setPoisonList s q l) := by
  unfold setPoisonList
  grind [modMem_relist]

@[simp] theorem devNs_relist : devNs (relist p s) = devNs s := rfl

@[simp] theorem nodeNo_relist : nodeNo (relist p s) = nodeNo s := rfl

@[simp] theorem sendPkts_relist {l : List Packet} : sendPkts (relist p s) l = relist p (sendPkts s l) := rfl

@[simp] theorem ringRecords_relist : ringRecords (relist p s) = ringRecords s := rfl

@[simp] theorem noticeBytes_relist {kind tag data : Nat} : noticeBytes (relist p s) kind tag data = noticeBytes s kind tag data := by
  simp [noticeBytes]

@[simp] theorem postNotice_relist {kind tag data : Nat} :
    postNotice (relist p s) kind tag data = relist p (postNotice s kind tag data) := by
  unfold postNotice
  simp only [relist_dev]
  grind [noticeBytes_relist, modDev_relist, modMem_relist, ringRecords_relist]

@[simp] theorem goFatal_relist {t : Nat} : goFatal (relist p s) t = relist p (goFatal s t) := by
  unfold goFatal
  simp only [relist_dev]
  grind [modDev_relist, postNotice_relist]

@[simp] theorem tableBad_relist {t : Nat} : tableBad (relist p s) t = tableBad s t := rfl

@[simp] theorem compared_relist {t : Nat} : compared (relist p s) t = relist p (compared s t) := by
  unfold compared
  simp only [relist_pkg]
  grind [tableBad_relist, goFatal_relist, modPkg_relist]

@[simp] theorem recordOf_relist {q : Space} {u : Nat} : recordOf (relist p s) q u = recordOf s q u := rfl

@[simp] theorem hasRecord_relist {q : Space} {u : Nat} : hasRecord (relist p s) q u = hasRecord s q u := rfl

@[simp] theorem makeRecord_relist {q : Space} {u : Nat} : makeRecord (relist p s) q u = relist p (makeRecord s q u) := by
  unfold makeRecord
  simp only [compared_relist, hasRecord_relist, relist_pkg, modPkg_relist, postNotice_relist, recordOf_relist, devNs_relist]
  split
  · rfl
  · cases lowestFree (compared s 1).pkg.poisonRecs 512 <;> rfl

@[simp] theorem poisonUnit_relist {q : Space} {u : Nat} : poisonUnit (relist p s) q u = relist p (poisonUnit s q u) := by
  unfold poisonUnit
  grind [poisonList_relist, setPoisonList_relist, makeRecord_relist]

@[simp] theorem flipsAt_relist {q : Space} {u : Nat} : flipsAt (relist p s) q u = flipsAt s q u := rfl

@[simp] theorem clearFlips_relist {q : Space} {u : Nat} : clearFlips (relist p s) q u = relist p (clearFlips s q u) := rfl

@[simp] theorem countCorrected_relist : countCorrected (relist p s) = relist p (countCorrected s) := rfl

@[simp] theorem probeUnit_relist {q : Space} {u : Nat} : probeUnit (relist p s) q u = relist p (probeUnit s q u) := by
  unfold probeUnit
  grind [poisonUnit_relist, flipsAt_relist, clearFlips_relist, countCorrected_relist]

@[simp] theorem probeRange_relist {pl : Place} {n : Nat} : probeRange (relist p s) pl n = relist p (probeRange s pl n) :=
  foldl_relist (fun _ _ => probeUnit_relist) _

@[simp] theorem isPoisoned_relist {pl : Place} {n : Nat} : isPoisoned (relist p s) pl n = isPoisoned s pl n := rfl

@[simp] theorem firstPoisoned_relist {pl : Place} {n : Nat} : firstPoisoned (relist p s) pl n = firstPoisoned s pl n := rfl

@[simp] theorem readPlace_relist {pl : Place} {n : Nat} : readPlace (relist p s) pl n = readPlace s pl n := rfl

@[simp] theorem writeUnit_relist {pl : Place} {n u : Nat} : writeUnit (relist p s) pl n u = relist p (writeUnit s pl n u) := by
  unfold writeUnit
  grind [poisonList_relist, setPoisonList_relist, clearFlips_relist, probeUnit_relist]

@[simp] theorem rawSectors_relist {pl : Place} {n : Nat} : rawSectors (relist p s) pl n = relist p (rawSectors s pl n) := by
  unfold rawSectors
  split
  · exact modCl_relist (fun _ _ => rfl) _
  · rfl

@[simp] theorem markDirty_relist {pl : Place} {n : Nat} : markDirty (relist p s) pl n = relist p (markDirty s pl n) := by
  unfold markDirty
  simp only [relist_pkg]
  grind [modMem_relist]

@[simp] theorem writePlace_relist {pl : Place} {bs : List Byte} : writePlace (relist p s) pl bs = relist p (writePlace s pl bs) := by
  unfold writePlace
  dsimp only
  rw [foldl_relist (g := fun t u => writeUnit t pl bs.length u) (fun _ _ => writeUnit_relist), rawSectors_relist, spaceCells_relist,
    setSpaceCells_relist, markDirty_relist]

@[simp] theorem hostTake_relist {w : Posted} : hostTake (relist p s) w = relist p (hostTake s w) := rfl

@[simp] theorem hostUpTo_relist {sel : Posted → Bool} : hostUpTo (relist p s) sel = relist p (hostUpTo s sel) := by
  unfold hostUpTo
  dsimp only
  rw [relist_net, modNet_relist]
  exact foldl_relist (fun _ _ => hostTake_relist) _

@[simp] theorem hostSettled_relist {who : Option (CtxId × Nat)} {q : Place} {n : Nat} :
    hostSettled (relist p s) who q n = relist p (hostSettled s who q n) := by
  unfold hostSettled
  grind [hostUpTo_relist]

@[simp] theorem tarnLines_relist : tarnLines (relist p s) = tarnLines s := rfl

@[simp] theorem readPte_relist {pa : Nat} : readPte (relist p s) pa = (relist p (readPte s pa).1, (readPte s pa).2) := by
  unfold readPte
  grind [firstPoisoned_relist, probeRange_relist, makeRecord_relist, readPlace_relist]

@[simp] theorem walkFrom_leafAt_relist {va a l e : Nat} :
    walkFrom.leafAt (relist p s) va a l e = (relist p (walkFrom.leafAt s va a l e).1, (walkFrom.leafAt s va a l e).2) := by
  unfold walkFrom.leafAt
  grind [readPte_relist]

@[simp] theorem walkFrom_relist {va a b : Nat} : walkFrom (relist p s) va a b = (relist p (walkFrom s va a b).1, (walkFrom s va a b).2) := by
  induction b generalizing s a with
  | zero =>
    unfold walkFrom
    grind [readPte_relist, walkFrom_leafAt_relist]
  | succ b ih =>
    unfold walkFrom
    grind [readPte_relist, walkFrom_leafAt_relist]

@[simp] theorem walk_relist {va root : Nat} : walk (relist p s) va root = (relist p (walk s va root).1, (walk s va root).2) := by
  simp [walk]

theorem tlbAdd_relist (k : Nat) (e : TlbEntry) : modCl (relist p s) k (fun x => { x with tlb := tlbAdd x.tlb e 1024 }) =
    relist p (modCl s k (fun x => { x with tlb := tlbAdd x.tlb e 1024 })) := modCl_relist (fun _ _ => rfl) k

@[simp] theorem lookupLeaf_relist {cl asn root va : Nat} :
    lookupLeaf (relist p s) cl asn root va = (relist p (lookupLeaf s cl asn root va).1, (lookupLeaf s cl asn root va).2) := by
  unfold lookupLeaf
  simp only [tlb_relist, relist_pkg, walk_relist, tlbAdd_relist]
  split
  · rfl
  · split
    · rfl
    · obtain ⟨s1, r⟩ := walk s va root
      cases r with
      | none => rfl
      | some f => simp only [tlbAdd_relist, modPkg_relist]

@[simp] theorem leafPlace_relist {leaf va : Nat} : leafPlace (relist p s) leaf va = leafPlace s leaf va := rfl

@[simp] theorem inFrozen_relist {va : Nat} : inFrozen (relist p s) va = inFrozen s va := rfl

@[simp] theorem leafCheck_relist {leaf va lvl : Nat} {r : AccReq} : leafCheck (relist p s) leaf va lvl r = leafCheck s leaf va lvl r := rfl

@[simp] theorem leafAcc_relist {leaf va lvl : Nat} {r : AccReq} : leafAcc (relist p s) leaf va lvl r = leafAcc s leaf va lvl r := by
  simp [leafAcc]

@[simp] theorem translate_relist {cl asn root lvl va : Nat} {r : AccReq} :
    translate (relist p s) cl asn root lvl va r = (relist p (translate s cl asn root lvl va r).1, (translate s cl asn root lvl va r).2) := by
  unfold translate
  grind [leafAcc_relist, lookupLeaf_relist]

@[simp] theorem granOf_relist {cl iter gang num : Nat} : granOf (relist p s) cl iter gang num = granOf s cl iter gang num := by
  simp [granOf]

@[simp] theorem granCount_relist {cl iter gang : Nat} : granCount (relist p s) cl iter gang = granCount s cl iter gang := by
  simp [granCount]

@[simp] theorem merePlace_relist {cl iter gang va : Nat} : merePlace (relist p s) cl iter gang va = merePlace s cl iter gang va := by
  simp [merePlace]

@[simp] theorem ownerSeen_relist {who : Option Nat} {g : Gran} : ownerSeen (relist p s) who g = ownerSeen s who g := rfl

@[simp] theorem objAccess_relist {cl iter gang asn root lvl va : Nat} {r : AccReq} :
    objAccess (relist p s) cl iter gang asn root lvl va r = (relist p (objAccess s cl iter gang asn root lvl va r).1, (objAccess s cl iter gang asn root lvl va r).2) := by
  unfold objAccess
  grind [translate_relist, merePlace_relist]

@[simp] theorem readBarrier_relist {q : Place} : readBarrier (relist p s) q = readBarrier s q := rfl

@[simp] theorem writeBarrier_relist {q : Place} {b : Barrier} : writeBarrier (relist p s) q b = relist p (writeBarrier s q b) := by
  simp [writeBarrier]

@[simp] theorem getPh_relist {n : Nat} : getPh (relist p s) n = getPh s n := rfl

@[simp] theorem putPh_relist {n : Nat} {q : Phaser} : putPh (relist p s) n q = relist p (putPh s n q) := rfl

@[simp] theorem postEvent_relist {c : CtxId} {iter : Nat} {r : BitVec 128} :
    postEvent (relist p s) c iter r = relist p (postEvent s c iter r) := by
  simp [postEvent]

@[simp] theorem incCorr_relist {n : Nat} : incCorr (relist p s) n = relist p (incCorr s n) := rfl

@[simp] theorem reachBarrier_relist {a : Agent} {va : Nat} {write : Bool} :
    reachBarrier (relist p s) a va write = (relist p (reachBarrier s a va write).1, (reachBarrier s a va write).2) := by
  unfold reachBarrier
  grind [isPoisoned_relist, probeRange_relist, objAccess_relist]

@[simp] theorem waitTest_relist {a : Agent} {o : Word} : waitTest (relist p s) a o = (relist p (waitTest s a o).1, (waitTest s a o).2) := by
  unfold waitTest
  simp only [getPh_relist, reachBarrier_relist]
  split
  · rfl
  split
  · rfl
  obtain ⟨s1, r⟩ := reachBarrier s a (objBarrier o) false
  cases r <;> rfl

@[simp] theorem signalArrive_relist {a : Agent} {o : Word} {credit : Nat} {failed : Bool} :
    signalArrive (relist p s) a o credit failed = (relist p (signalArrive s a o credit failed).1, (signalArrive s a o credit failed).2) := by
  unfold signalArrive
  grind [writeBarrier_relist, getPh_relist, putPh_relist, reachBarrier_relist, readBarrier_relist]

@[simp] theorem entryPlace_relist {i : Nat} : entryPlace (relist p s) i = entryPlace s i := rfl

@[simp] theorem entryWords_relist {i : Nat} : entryWords (relist p s) i = entryWords s i := rfl

@[simp] theorem setRes_relist {i res : Nat} : setRes (relist p s) i res = relist p (setRes s i res) := by
  simp [setRes]

@[simp] theorem launchPlace_relist {e w : Nat} : launchPlace (relist p s) e w = launchPlace s e w := rfl

@[simp] theorem launchWord_relist {e w : Nat} : launchWord (relist p s) e w = launchWord s e w := by
  simp [launchWord]

@[simp] theorem setLaunchWord_relist {e w v : Nat} : setLaunchWord (relist p s) e w v = relist p (setLaunchWord s e w v) := by
  simp [setLaunchWord]

@[simp] theorem setCtl_relist {e b : Nat} {v : Bool} : setCtl (relist p s) e b v = relist p (setCtl s e b v) := by
  simp [setCtl]

@[simp] theorem firstSlot_relist {e : Nat} : firstSlot (relist p s) e = firstSlot s e := rfl

@[simp] theorem becomesArmed_relist {e : Nat} : becomesArmed (relist p s) e = relist p (becomesArmed s e) := by
  simp [becomesArmed]

@[simp] theorem becomesDisarmed_relist {e : Nat} : becomesDisarmed (relist p s) e = relist p (becomesDisarmed s e) := by
  simp [becomesDisarmed]

@[simp] theorem keepRes_relist {i : Nat} : keepRes (relist p s) (relist p t) i = relist p (keepRes s t i) := by
  unfold keepRes
  grind [entryPlace_relist, modPkg_relist, setRes_relist, readPlace_relist]

@[simp] theorem keepCtl_relist {e : Nat} : keepCtl (relist p s) (relist p t) e = relist p (keepCtl s t e) := by
  unfold keepCtl
  grind [launchWord_relist, setCtl_relist, becomesArmed_relist, becomesDisarmed_relist]

@[simp] theorem homeWrite_relist {q : Place} {bs : List Byte} : homeWrite (relist p s) q bs = relist p (homeWrite s q bs) := by
  unfold homeWrite
  dsimp only
  rw [hostSettled_relist, writePlace_relist, foldl_relist (fun _ _ => keepRes_relist), foldl_relist (fun _ _ => keepCtl_relist)]
  rfl

@[simp] theorem placeWrite_relist {x : Ctx} {ss : Nat} {q : Place} {bs : List Byte} :
    placeWrite (relist p s) x ss q bs = relist p (placeWrite s x ss q bs) := by
  unfold placeWrite
  grind [modNet_relist, hostSettled_relist, homeWrite_relist]

@[simp] theorem entryPoisoned_relist {i : Nat} : entryPoisoned (relist p s) i = entryPoisoned s i := by
  simp [entryPoisoned]

@[simp] theorem probeEntry_relist {i : Nat} : probeEntry (relist p s) i = relist p (probeEntry s i) := by
  unfold probeEntry
  grind [firstPoisoned_relist, probeRange_relist, entryPlace_relist, makeRecord_relist]

@[simp] theorem setEntries_relist : setEntries (relist p s) = setEntries s := rfl

@[simp] theorem validEntries_relist : validEntries (relist p s) = validEntries s := by
  simp [validEntries]

@[simp] theorem probeTable_relist : probeTable (relist p s) = relist p (probeTable s) := by
  unfold probeTable
  simp only [relist_mem, entryPlace_relist, poisonList_relist, setEntries_relist, foldl_relist (g := probeEntry) (fun _ _ => probeEntry_relist),
    apply_ite (relist p)]

@[simp] theorem handleOf_relist {va : Nat} : handleOf (relist p s) va = handleOf s va := by
  unfold handleOf
  simp only [validEntries_relist, entryWords_relist]
  rfl

@[simp] theorem resOf_relist {i : Nat} : resOf (relist p s) i = resOf s i := by
  simp [resOf]

@[simp] theorem prioOf_relist {i : Nat} : prioOf (relist p s) i = prioOf s i := by
  simp [prioOf]

@[simp] theorem dropLines_relist {i : Nat} : dropLines (relist p s) i = relist p (dropLines s i) := rfl

@[simp] theorem evictTensor_relist {i : Nat} : evictTensor (relist p s) i = relist p (evictTensor s i) := by
  simp [evictTensor]

@[simp] theorem heldHandles_relist : heldHandles (relist p s) = heldHandles s := rfl

@[simp] theorem evictChoice_relist {res keep : Nat} : evictChoice (relist p s) res keep = evictChoice s res keep := by
  simp [evictChoice]

@[simp] theorem looseLines_relist : looseLines (relist p s) = relist p (looseLines s) := by
  unfold looseLines
  simp only [relist_mem, entryPlace_relist, poisonList_relist, heldHandles_relist, foldl_relist (g := probeEntry) (fun _ _ => probeEntry_relist),
    entryPoisoned_relist, modPkg_relist, apply_ite (relist p)]

@[simp] theorem evictOnce_relist {line h : Nat} : evictOnce (relist p s) line h = relist p (evictOnce s line h) := by
  unfold evictOnce
  simp only [looseLines_relist, relist_pkg, modPkg_relist, evictChoice_relist, evictTensor_relist]
  cases (looseLines s).pkg.lines.find? (fun l => l.2 == 0 && l.1 != line) with
  | some l => rfl
  | none => cases (evictChoice (looseLines s) 3 h).or (evictChoice (looseLines s) 1 h) <;> rfl

@[simp] theorem cleanLine_relist {line : Nat} : cleanLine (relist p s) line = relist p (cleanLine s line) := by
  unfold cleanLine
  simp only [relist_pkg]
  grind [modMem_relist]

@[simp] theorem allocLine_relist {line h : Nat} : allocLine (relist p s) line h = relist p (allocLine s line h) := by
  unfold allocLine
  dsimp only
  rw [cleanLine_relist, modPkg_relist, tarnLines_relist, relist_pkg, evictOnce_relist]
  exact (apply_ite (relist p) _ _ _).symm

@[simp] theorem homeTouch_relist {va : Nat} {q : Place} : homeTouch (relist p s) va q = relist p (homeTouch s va q) := by
  unfold homeTouch
  simp only [probeTable_relist, handleOf_relist, entryWords_relist, tarnLines_relist, relist_pkg, setRes_relist, allocLine_relist,
    ← apply_ite (relist p)]
  split
  · cases handleOf (probeTable s) va <;> rfl
  · rfl

end

end Sys2Proof.Machine
end

section
/-!
What the engines read, write and wait for where a core is listed again.
-/
namespace Sys2Proof.Machine

section
variable {p : Nat × Nat} {s t : State}

@[simp] theorem homeStored_relist {va : Nat} {q : Place} : homeStored (relist p s) va q = relist p (homeStored s va q) := by
  simp [homeStored]

@[simp] theorem buffered_relist {cl : Nat} : buffered (relist p s) cl = buffered s cl := rfl

@[simp] theorem findInst_relist {e : Nat} : findInst (relist p s) e = findInst s e := rfl

@[simp] theorem getLink_relist {l : Nat} : getLink (relist p s) l = getLink s l := rfl

@[simp] theorem dimDown_relist {d : Nat} : dimDown (relist p s) d = dimDown s d := rfl

@[simp] theorem reachable_relist {n : Nat} : reachable (relist p s) n = reachable s n := rfl

@[simp] theorem limitOf_relist {y : Core} : limitOf (relist p s) y = limitOf s y := rfl

@[simp] theorem behindReleased_relist {x : Ctx} {l : List (Nat × Nat)} : behindReleased (relist p s) x l = behindReleased s x l := rfl

@[simp] theorem originStream_relist {g : Origin} : originStream (relist p s) g = originStream s g := rfl

@[simp] theorem sendReq_relist {g : Origin} {node tc : Nat} {kind : PktKind} {op addr va len spec : Nat} {data : List Byte} {lane : Nat} {ext : List Byte} :
    sendReq (relist p s) g node tc kind op addr va len spec data lane ext = (relist p (sendReq s g node tc kind op addr va len spec data lane ext).1, (sendReq s g node tc kind op addr va len spec data lane ext).2) := by
  simp [sendReq]

@[simp] theorem keepPackets_relist {rids : List Nat} : keepPackets (relist p s) rids = relist p (keepPackets s rids) := by
  simp [keepPackets]

@[simp] theorem again_relist {x : Ctx} {f : Ctx → Ctx} : again (relist p s) x f = relist p (again s x f) := by
  unfold again
  grind [getOwner_relist, putOwner_relist]

@[simp] theorem rmwAt_relist {va : Nat} {q : Place} {n : Nat} {f : Nat → Option Nat} :
    rmwAt (relist p s) va q n f = (relist p (rmwAt s va q n f).1, (rmwAt s va q n f).2) := by
  unfold rmwAt
  grind [isPoisoned_relist, rawSectors_relist, probeRange_relist, homeStored_relist, homeTouch_relist, homeWrite_relist, readPlace_relist, hostUpTo_relist]

@[simp] theorem liveEntry_relist {i : Nat} : liveEntry (relist p s) i = (relist p (liveEntry s i).1, (liveEntry s i).2) := by
  simp [liveEntry]

@[simp] theorem cachedWords_relist {x : Ctx} {i : Nat} : cachedWords (relist p s) x i = cachedWords s x i := by
  simp [cachedWords]

@[simp] theorem seeEntry_relist {x : Ctx} {i : Nat} : seeEntry (relist p s) x i = (relist p (seeEntry s x i).1, (seeEntry s x i).2) := by
  unfold seeEntry
  grind [cachedWords_relist, liveEntry_relist]

@[simp] theorem entryAddr_relist {i : Nat} : entryAddr (relist p s) i = entryAddr s i := rfl

@[simp] theorem mereInside_relist {x : Ctx} {a n : Nat} : mereInside (relist p s) x a n = mereInside s x a n := by
  unfold mereInside
  simp only [granCount_relist]

@[simp] theorem findIter_relist {uid : Nat} : findIter (relist p s) uid = findIter s uid := rfl

@[simp] theorem taggedGang_relist {cl tag : Nat} : taggedGang (relist p s) cl tag = taggedGang s cl tag := rfl

@[simp] theorem findCmd_relist {r : CmdRef} : findCmd (relist p s) r = findCmd s r := by
  simp [findCmd]

@[simp] theorem cmdOwner_relist {c : Cmd} : cmdOwner (relist p s) c = cmdOwner s c := rfl

@[simp] theorem frozenAt_relist {va : Nat} : frozenAt (relist p s) va = frozenAt s va := rfl

@[simp] theorem mereLoc_relist {cl iter gang va : Nat} {pending : Nat → Bool} {miss : Nat} :
    mereLoc (relist p s) cl iter gang va pending miss = mereLoc s cl iter gang va pending miss := by
  simp [mereLoc]

@[simp] theorem ownLoc_relist {x : Ctx} {c : Cmd} {va : Nat} {write : Bool} :
    ownLoc (relist p s) x c va write = (relist p (ownLoc s x c va write).1, (ownLoc s x c va write).2) := by
  unfold ownLoc
  simp only [mereLoc_relist, compared_relist, lookupLeaf_relist]
  split
  · rfl
  split
  · rfl
  split
  · rfl
  obtain ⟨s1, r⟩ := lookupLeaf (compared s 3) x.id.cl x.env.asn x.env.root va
  cases r with
  | none => rfl
  | some leaf =>
    simp only [leafAcc_relist, frozenAt_relist]
    cases leafAcc s1 leaf va c.lvl { write := write, noHost := false, noPeer := false, noComp := false, frozen := false } with
    | bad t => rfl
    | ok q => cases frozenAt s1 va <;> rfl

@[simp] theorem wordLoc_relist {x : Ctx} {c : Cmd} {w a : Nat} {write : Bool} :
    wordLoc (relist p s) x c w a write = (relist p (wordLoc s x c w a write).1, (wordLoc s x c w a write).2) := by
  unfold wordLoc
  simp only [ownLoc_relist, findIter_relist, mereLoc_relist, nodeNo_relist, taggedGang_relist]
  split
  · rfl
  cases roleOf x w with
  | none => rfl
  | some r =>
    dsimp only
    split
    · cases (findIter s c.iter).bind (fun i => gangOn i (bits r.toNat 8 2)) <;> rfl
    split
    · split
      · cases taggedGang s (bits r.toNat 20 14) (if bits r.toNat 36 21 = 0 then c.tag.toNat else bits r.toNat 36 21) <;> rfl
      · rfl
    · rfl

@[simp] theorem roleLost_relist {x : Ctx} {c : Cmd} {w : Nat} : roleLost (relist p s) x c w = roleLost s x c w := rfl

@[simp] theorem nibbleIn_relist {q : Option Place} {k : Nat} :
    nibbleIn (relist p s) q k = (relist p (nibbleIn s q k).1, (nibbleIn s q k).2) := by
  unfold nibbleIn
  grind [probeRange_relist]

@[simp] theorem nibblePlace_relist {x : Ctx} {va : Nat} :
    nibblePlace (relist p s) x va = (relist p (nibblePlace s x va).1, (nibblePlace s x va).2) := by
  unfold nibblePlace
  grind [handleOf_relist, probeTable_relist, entryWords_relist, lookupLeaf_relist, nibbleIn_relist, leafPlace_relist]

@[simp] theorem nibbleGet_relist {n : Option (Place × Bool)} : nibbleGet (relist p s) n = nibbleGet s n := by
  unfold nibbleGet
  simp
  rfl

@[simp] theorem nibblePut_relist {n : Option (Place × Bool)} {v : Nat} : nibblePut (relist p s) n v = relist p (nibblePut s n v) := by
  unfold nibblePut
  grind [writePlace_relist, readPlace_relist]

@[simp] theorem poisonSector_relist {q : Place} : poisonSector (relist p s) q = relist p (poisonSector s q) :=
  foldl_relist (fun _ _ => poisonUnit_relist) _

@[simp] theorem rawSector_relist {q : Place} {nb : Option (Place × Bool)} : rawSector (relist p s) q nb = relist p (rawSector s q nb) := by
  unfold rawSector
  simp only [nibbleGet_relist, probeRange_relist, isPoisoned_relist, readPlace_relist, nibblePut_relist, writePlace_relist, poisonSector_relist]
  split
  · rfl
  generalize isPoisoned (probeRange s (sectorPlace q) (storedLen (nibbleGet s nb))) (sectorPlace q) (storedLen (nibbleGet s nb)) = b
  generalize expandSector (nibbleGet s nb) (readPlace (probeRange s (sectorPlace q) (storedLen (nibbleGet s nb))) (sectorPlace q) 512) = o
  cases b <;> cases o <;> rfl

@[simp] theorem rawRead_relist {q : Place} {va n : Nat} :
    rawRead (relist p s) q va n = (relist p (rawRead s q va n).1, (rawRead s q va n).2) := by
  unfold rawRead
  grind [firstPoisoned_relist, probeRange_relist, readPlace_relist]

@[simp] theorem readSector_relist {q : Place} {nb : Option (Place × Bool)} {va n : Nat} :
    readSector (relist p s) q nb va n = (relist p (readSector s q nb va n).1, (readSector s q nb va n).2) := by
  unfold readSector
  grind [poisonUnit_relist, rawRead_relist, nibbleGet_relist, readPlace_relist]

@[simp] theorem readPiece_relist {x : Ctx} {c : Cmd} {w a n : Nat} :
    readPiece (relist p s) x c w a n = (relist p (readPiece s x c w a n).1, (readPiece s x c w a n).2) := by
  unfold readPiece
  grind [readSector_relist, wordLoc_relist, hostSettled_relist, homeTouch_relist, reachable_relist, nibblePlace_relist]

@[simp] theorem readGo_relist {x : Ctx} {c : Cmd} {w : Nat} {l : List (Nat × Nat)} {g : Got} :
    readGo (relist p s) x c w l g = (relist p (readGo s x c w l g).1, (readGo s x c w l g).2) := by
  induction l generalizing s g with
  | nil => rfl
  | cons e l ih =>
    obtain ⟨a, n⟩ := e
    unfold readGo
    simp only [readPiece_relist]
    obtain ⟨s1, r⟩ := readPiece s x c w a n
    cases r <;> exact ih

@[simp] theorem readRange_relist {x : Ctx} {c : Cmd} {w a n : Nat} :
    readRange (relist p s) x c w a n = (relist p (readRange s x c w a n).1, (readRange s x c w a n).2) := by
  simp [readRange]

@[simp] theorem writeComp_relist {x : Ctx} {q : Place} {a : Nat} {bs : List Byte} :
    writeComp (relist p s) x q a bs = relist p (writeComp s x q a bs) := by
  simp [writeComp]

@[simp] theorem writeLoc_relist {x : Ctx} {c : Cmd} {w a : Nat} :
    writeLoc (relist p s) x c w a = (relist p (writeLoc s x c w a).1, (writeLoc s x c w a).2) := by
  unfold writeLoc
  grind [wordLoc_relist, reachable_relist]

@[simp] theorem writePiece_relist {x : Ctx} {c : Cmd} {w a : Nat} {bs : List Byte} :
    writePiece (relist p s) x c w a bs = (relist p (writePiece s x c w a bs).1, (writePiece s x c w a bs).2) := by
  unfold writePiece
  grind [writeLoc_relist, wordLoc_relist, writeComp_relist, homeStored_relist, placeWrite_relist]

@[simp] theorem writeWait_relist {x : Ctx} {c : Cmd} {w a n : Nat} : writeWait (relist p s) x c w a n = writeWait s x c w a n := by
  simp [writeWait]

@[simp] theorem sendAsks_relist {c : Cmd} {w : Nat} {l : List Ask} :
    sendAsks (relist p s) c w l = (relist p (sendAsks s c w l).1, (sendAsks s c w l).2) := by
  exact foldl_pair_relist (r := (s, [])) (fun t q => by dsimp only; rw [sendReq_relist]) l

@[simp] theorem unanswered_relist {sent : List Nat} {node t n : Nat} :
    unanswered (relist p s) sent node t n = unanswered s sent node t n := rfl

@[simp] theorem sendPut_relist {c : Cmd} {a node : Nat} {role : Option (Nat × Nat)} {t : Nat} {bs : List Byte} :
    sendPut (relist p s) c a node role t bs = (relist p (sendPut s c a node role t bs).1, (sendPut s c a node role t bs).2) := by
  simp [sendPut]

@[simp] theorem writeGo_relist {x : Ctx} {c : Cmd} {w : Nat} {l : List (Nat × Nat)} {bs : List Byte} {r : Put} :
    writeGo (relist p s) x c w l bs r = (relist p (writeGo s x c w l bs r).1, (writeGo s x c w l bs r).2) := by
  induction l generalizing s bs r with
  | nil => rfl
  | cons e l ih =>
    obtain ⟨a, n⟩ := e
    unfold writeGo
    simp only [writePiece_relist]
    obtain ⟨s1, q⟩ := writePiece s x c w a (bs.take n)
    cases q with
    | done => exact ih
    | send node role t =>
      simp only [sendPut_relist]
      exact ih
    | wait y z => rfl
    | bad k t => rfl

@[simp] theorem writeRange_relist {x : Ctx} {c : Cmd} {w a : Nat} {bs : List Byte} :
    writeRange (relist p s) x c w a bs = (relist p (writeRange s x c w a bs).1, (writeRange s x c w a bs).2) := by
  simp [writeRange]

@[simp] theorem frozenHandle_relist {c : Cmd} : frozenHandle (relist p s) c = frozenHandle s c := rfl

@[simp] theorem startHold_relist {x : Ctx} {c : Cmd} : startHold (relist p s) x c = startHold s x c := by
  unfold startHold
  simp only [waitTest_relist, frozenHandle_relist]
  rfl

@[simp] theorem postRec_relist {c : Cmd} {eng kind data : Nat} :
    postRec (relist p s) c eng kind data = relist p (postRec s c eng kind data) := by
  simp [postRec]

@[simp] theorem postRecs_relist {c : Cmd} {eng : Nat} {l : List (Nat × Nat)} : postRecs (relist p s) c eng l = relist p (postRecs s c eng l) :=
  foldl_relist (fun _ _ => postRec_relist) _

@[simp] theorem arrEntries_relist {cl : Nat} : arrEntries (relist p s) cl = arrEntries s cl := by
  simp [arrEntries]

@[simp] theorem insideGang_relist {x : Ctx} {a n : Nat} : insideGang (relist p s) x a n = insideGang s x a n := by
  unfold insideGang
  rw [mereInside_relist]

@[simp] theorem listRange_relist {x : Ctx} {c : Cmd} : listRange (relist p s) x c = listRange s x c := by
  unfold listRange
  grind [insideGang_relist, ownLoc_relist, readPlace_relist]

@[simp] theorem arrayNeeds_relist {x : Ctx} {c : Cmd} : arrayNeeds (relist p s) x c = arrayNeeds s x c := by
  simp [arrayNeeds]

@[simp] theorem ownerWait_relist {x : Ctx} {c : Cmd} {rs : List (Nat × Nat)} : ownerWait (relist p s) x c rs = ownerWait s x c rs := by
  simp [ownerWait]

@[simp] theorem arrayHold_relist {x : Ctx} {c : Cmd} : arrayHold (relist p s) x c = arrayHold s x c := by
  simp [arrayHold]

end

end Sys2Proof.Machine
end

section
/-!
What a step of the copy engine gives, and what the control registers read, where a core is listed again.
-/
namespace Sys2Proof.Machine

section
variable {p : Nat × Nat} {s t : State}

/-- What a block's application gives, with the core listed again. -/
def Applied.relist (p : Nat × Nat) : Applied → Applied
  | .done s a b c => .done (Machine.relist p s) a b c
  | .nack => .nack

/-- What a step of a copy command gives, with the core listed again. -/
def CpRes.relist (p : Nat × Nat) : CpRes → CpRes
  | .stop s n l y z => .stop (Machine.relist p s) n l y z
  | .pend s n l k => .pend (Machine.relist p s) n l k
  | .ok s => .ok (Machine.relist p s)
  | .fail s l k a => .fail (Machine.relist p s) l k a

/-- What a probe finds, with the core listed again. -/
def Found.relist (p : Nat × Nat) : Found → Found
  | .stop r => .stop (r.relist p)
  | .none => .none
  | .fmt f => .fmt f

/-- What a tile's check gives, with the core listed again. -/
def Checked.relist (p : Nat × Nat) : Checked → Checked
  | .ok s t l => .ok (Machine.relist p s) t l
  | .bad r => .bad (r.relist p)

@[simp] theorem blockCheck_relist {fmt : Nat} {l : List Nat} {sl al : Nat} :
    blockCheck (relist p s) fmt l sl al = blockCheck s fmt l sl al := rfl

@[simp] theorem gangPlace_relist {g : Nat × Nat × Nat} {va : Nat} : gangPlace (relist p s) g va = gangPlace s g va := by
  simp [gangPlace]

@[simp] theorem collSum_relist {fmt : Nat} {xs ys : List Nat} {sl al : Nat} :
    collSum (relist p s) fmt xs ys sl al = collSum s fmt xs ys sl al := rfl

@[simp] theorem finishBlock_relist {q : CollSpec} {q' : Place} {st : Option Place} {z : Option (List Nat)} {nvd : Nat} {vd : Bool} :
    finishBlock (relist p s) q q' st z nvd vd = relist p (finishBlock s q q' st z nvd vd) := by
  unfold finishBlock
  grind [writePlace_relist]

@[simp] theorem applyBlock_relist {g : Nat × Nat × Nat} {q : CollSpec} {k : Block} :
    applyBlock (relist p s) g q k = (applyBlock s g q k).relist p := by
  unfold applyBlock
  simp only [gangPlace_relist, probeRange_relist]
  generalize gangPlace s g (q.dst + 256 * k.b) = d
  generalize (if q.dstSt = 0 then some none else (gangPlace s g (q.dstSt + 4 * k.b)).map some) = st
  cases d with
  | none => rfl
  | some d =>
    cases st with
    | none => rfl
    | some st =>
      cases st with
      | none =>
        simp only [isPoisoned_relist, readPlace_relist, blockCheck_relist, collSum_relist, finishBlock_relist]
        split
        · rfl
        · split <;> rfl
      | some w =>
        simp only [isPoisoned_relist, readPlace_relist, blockCheck_relist, collSum_relist, finishBlock_relist]
        split
        · rfl
        · split <;> rfl

@[simp] theorem gangAgent_relist {g : Nat × Nat × Nat} : gangAgent (relist p s) g = gangAgent s g := by
  simp [gangAgent]

@[simp] theorem collSignal_relist {g : Nat × Nat × Nat} {q : CollSpec} : collSignal (relist p s) g q = relist p (collSignal s g q) := by
  unfold collSignal
  grind [signalArrive_relist, gangAgent_relist]

theorem withRead_relist {x : Ctx} {c : Cmd} {w a n : Nat} {k : State → List Byte → CpRes} (hk : ∀ t bs, k (relist p t) bs = (k t bs).relist p) :
    withRead (relist p s) x c w a n k = (withRead s x c w a n k).relist p := by
  unfold withRead
  simp only [readRange_relist]
  obtain ⟨s1, g⟩ := readRange s x c w a n
  generalize g.wait = y
  generalize g.bad = b
  cases y with
  | some y => rfl
  | none =>
    cases b with
    | some b => rfl
    | none =>
      simp only [sendAsks_relist]
      split
      · exact hk s1 g.bs
      · rfl

theorem withWrite_relist {x : Ctx} {c : Cmd} {w a : Nat} {bs : List Byte} {k : State → State} (hk : ∀ t, k (relist p t) = relist p (k t)) :
    withWrite (relist p s) x c w a bs k = (withWrite s x c w a bs k).relist p := by
  unfold withWrite
  simp only [writeWait_relist, writeRange_relist]
  cases writeWait s x c w a bs.length with
  | some y => rfl
  | none =>
    obtain ⟨s1, r⟩ := writeRange s x c w a bs
    dsimp only
    cases r.bad with
    | some b => rfl
    | none =>
      dsimp only
      rw [hk]
      split <;> rfl

@[simp] theorem cpChkFail_relist {c : Cmd} {pre : List (Nat × Nat)} {data : Nat} :
    cpChkFail (relist p s) c pre data = (cpChkFail s c pre data).relist p := by
  simp [cpChkFail, CpRes.relist]

@[simp] theorem dropPieces_relist {x : Ctx} {c : Cmd} {ks : List Nat} :
    dropPieces (relist p s) x c ks = (relist p (dropPieces s x c ks).1, (dropPieces s x c ks).2) := by
  unfold dropPieces
  grind [again_relist]

@[simp] theorem cpyReads_relist {c : Cmd} {d : Nat} {x : Ctx} {n i : Nat} {l : List Ask} :
    cpyReads c d x n i (relist p s) l = (relist p (cpyReads c d x n i s l).1, (cpyReads c d x n i s l).2) := by
  induction n generalizing s i l with
  | zero => rfl
  | succ n ih =>
    unfold cpyReads
    simp only [readPiece_relist]
    obtain ⟨s1, r⟩ := readPiece s x c (bits d 63 0) (cpySrc d i) (cpyEs d)
    cases r with
    | data bs => exact ih
    | ask node role t => exact ih
    | wait y z => rfl
    | bad k t => rfl

@[simp] theorem cpyPuts_relist {c : Cmd} {d : Nat} {x : Ctx} {sent : List Nat} {n i : Nat} :
    cpyPuts c d x sent n i (relist p s) = (relist p (cpyPuts c d x sent n i s).1, (cpyPuts c d x sent n i s).2) := by
  induction n generalizing s i with
  | zero => rfl
  | succ n ih =>
    unfold cpyPuts
    simp only [writeLoc_relist]
    obtain ⟨s1, r⟩ := writeLoc s x c (bits d 127 64) (cpyDst d i)
    cases r with
    | done => exact ih
    | send node role t =>
      simp only [unanswered_relist, ih]
      split <;> rfl
    | wait y z => rfl
    | bad k t => rfl

@[simp] theorem cpyBytes_relist {x : Ctx} {c : Cmd} {d i : Nat} {far : List FarElem} :
    cpyBytes (relist p s) x c d i far = (relist p (cpyBytes s x c d i far).1, (cpyBytes s x c d i far).2) := by
  unfold cpyBytes
  grind [wordLoc_relist, readPiece_relist]

@[simp] theorem cpyMoves_relist {c : Cmd} {d : Nat} {x : Ctx} {n i : Nat} {far : List FarElem} :
    cpyMoves c d x n i (relist p s) far = (relist p (cpyMoves c d x n i s far).1, (cpyMoves c d x n i s far).2) := by
  induction n generalizing s i far with
  | zero => rfl
  | succ n ih =>
    unfold cpyMoves
    simp only [cpyBytes_relist, writePiece_relist]
    obtain ⟨s1, r⟩ := writePiece (cpyBytes s x c d i far).1 x c (bits d 127 64) (cpyDst d i) (cpyBytes s x c d i far).2
    cases r <;> exact ih

theorem foldl_puts_relist {c : Cmd} (l : List FarElem) (sent : List Nat) :
    l.foldl (fun u q => let v := sendPut u.1 c q.va q.node q.role q.addr q.bs; (v.1, u.2 ++ [v.2])) (relist p s, sent) =
      (relist p (l.foldl (fun u q => let v := sendPut u.1 c q.va q.node q.role q.addr q.bs; (v.1, u.2 ++ [v.2])) (s, sent)).1,
       (l.foldl (fun u q => let v := sendPut u.1 c q.va q.node q.role q.addr q.bs; (v.1, u.2 ++ [v.2])) (s, sent)).2) :=
  foldl_pair_relist (r := (s, sent)) (fun t q => by dsimp only; rw [sendPut_relist]) l

@[simp] theorem cpyGo_relist {c : Cmd} {d total f i : Nat} {x : Ctx} {sent : List Nat} :
    cpyGo c d total f i (relist p s) x sent = (cpyGo c d total f i s x sent).relist p := by
  induction f generalizing s i x sent with
  | zero =>
    unfold cpyGo
    split <;> rfl
  | succ f ih =>
    unfold cpyGo
    simp only [cpyReads_relist]
    split
    · split <;> rfl
    obtain ⟨s1, asks, j, why⟩ := cpyReads c d x (min total ((i / cpyPer d + 1) * cpyPer d) - i) i s []
    dsimp only
    split
    · simp only [sendAsks_relist]
      split <;> rfl
    simp only [cpyPuts_relist]
    obtain ⟨s2, k, put, b⟩ := cpyPuts c d x sent (j - i) i s1
    cases b with
    | true => rfl
    | false =>
      simp only [cpyMoves_relist, dropPieces_relist, foldl_puts_relist]
      cases k == j with
      | false =>
        cases put with
        | done => exact ih
        | send node role t => exact ih
        | wait y z => rfl
        | bad a b => rfl
      | true =>
        cases why with
        | data bs => cases put <;> exact ih
        | ask node role t => cases put <;> exact ih
        | wait y z => cases put <;> rfl
        | bad a b => cases put <;> rfl

@[simp] theorem runCpy_relist {x : Ctx} {c : Cmd} : runCpy (relist p s) x c = (runCpy s x c).relist p := by
  simp [runCpy, CpRes.relist]

@[simp] theorem cpzGo_relist {x : Ctx} {c : Cmd} {d f i : Nat} {sent : List Nat} :
    cpzGo x c d f i (relist p s) sent = (cpzGo x c d f i s sent).relist p := by
  induction f generalizing s i sent with
  | zero =>
    unfold cpzGo
    split <;> rfl
  | succ f ih =>
    unfold cpzGo
    simp only [writePiece_relist]
    obtain ⟨s1, r⟩ := writePiece s x c (bits d 63 0) ((bits d 55 0 + 8 * i) % 2 ^ 56) (natLe 8 (bits d 191 128))
    cases r with
    | done => exact ih
    | send node role t =>
      simp only [unanswered_relist, sendPut_relist]
      split
      · rfl
      · exact ih
    | wait y z => rfl
    | bad k t => rfl

@[simp] theorem runCpz_relist {x : Ctx} {c : Cmd} : runCpz (relist p s) x c = (runCpz s x c).relist p := by
  simp [runCpz, CpRes.relist]

@[simp] theorem findFmt_relist {x : Ctx} {c : Cmd} {w a : Nat} {l : List (Nat × List Nat)} :
    findFmt (relist p s) x c w a l = (relist p (findFmt s x c w a l).1, (findFmt s x c w a l).2.relist p) := by
  induction l generalizing s with
  | nil => rfl
  | cons e l ih =>
    obtain ⟨off, codes⟩ := e
    unfold findFmt
    simp only [readRange_relist]
    obtain ⟨s1, g⟩ := readRange s x c w (a + off) 1024
    generalize g.wait = y
    generalize g.bad = b
    cases y with
    | some y => rfl
    | none =>
      cases b with
      | some b =>
        dsimp only
        split <;> rfl
      | none =>
        simp only [sendAsks_relist]
        split
        · rfl
        split
        · rfl
        · exact ih

@[simp] theorem cpCheck_relist {c : Cmd} {f : Fmt} {bs : List Byte} {check : Bool} :
    cpCheck (relist p s) c f bs check = (cpCheck s c f bs check).relist p := by
  unfold cpCheck
  simp only [cpChkFail_relist, relist_pkg, incCorr_relist, postRecs_relist]
  split
  · rfl
  split
  · rfl
  generalize checkTile f _ _ _ = r
  cases r with
  | ok t d n => cases d <;> rfl
  | failed t d n => rfl

@[simp] theorem putTile_relist {x : Ctx} {c : Cmd} {f : Fmt} {u : Tile} {recs : List (Nat × Nat)} :
    putTile (relist p s) x c f u recs = (putTile s x c f u recs).relist p :=
  withWrite_relist (k := fun t => postRecs t c 2 recs) (fun _ => postRecs_relist)

@[simp] theorem convertTile_relist {x : Ctx} {c : Cmd} {fs : Fmt} {regen : Bool} {t : Tile} {recs : List (Nat × Nat)} :
    convertTile (relist p s) x c fs regen t recs = (convertTile s x c fs regen t recs).relist p := by
  unfold convertTile
  simp only [putTile_relist, ← apply_ite (CpRes.relist p)]

@[simp] theorem uncounted_relist {r : CpRes} : uncounted (relist p s) (r.relist p) = (uncounted s r).relist p := by
  cases r <;> rfl

theorem withRecs_relist {c : Cmd} {recs : List (Nat × Nat)} {r : CpRes} : withRecs c recs (r.relist p) = (withRecs c recs r).relist p := by
  cases r with
  | fail s l k a => exact congrArg (fun t => CpRes.fail t l k a) postRecs_relist
  | stop s n l y z => rfl
  | pend s n l k => rfl
  | ok s => rfl

@[simp] theorem cpytSource_relist {x : Ctx} {c : Cmd} {o : CD} {fs : Fmt} {bs : List Byte} :
    cpytSource (relist p s) x c o fs bs = (cpytSource s x c o fs bs).relist p := by
  unfold cpytSource
  simp only [cpCheck_relist]
  cases cpCheck s c fs bs (!ctRegen o) with
  | bad r => rfl
  | ok s1 u recs =>
    simp only [Checked.relist, convertTile_relist, withRecs_relist, uncounted_relist]

theorem withTile_relist {x : Ctx} {c : Cmd} {w a n : Nat} {k : State → List Byte → CpRes} (hk : ∀ t bs, k (relist p t) bs = (k t bs).relist p) :
    withTile (relist p s) x c w a n k = (withTile s x c w a n k).relist p := by
  unfold withTile
  simp only [readRange_relist, withRead_relist hk]
  split
  · rfl
  · cases (readRange s x c w a n).2.bads.find? (fun q => q.1 != 10) <;> rfl

@[simp] theorem runCpyt_relist {x : Ctx} {c : Cmd} {o : CD} : runCpyt (relist p s) x c o = (runCpyt s x c o).relist p := by
  unfold runCpyt
  simp only [roleLost_relist, findFmt_relist, seeEntry_relist]
  split
  · rfl
  split
  · split
    · rfl
    obtain ⟨s1, r⟩ := findFmt s x c (bits c.desc.toNat 191 128) (bits c.desc.toNat 183 128) probes
    cases r with
    | stop r => rfl
    | none => exact cpChkFail_relist
    | fmt f => exact withTile_relist (fun _ _ => cpytSource_relist)
  · obtain ⟨s1, e⟩ := seeEntry s x c.hidx
    cases e with
    | none => simp only [entryAddr_relist]; rfl
    | some e =>
      dsimp only
      split
      · exact putTile_relist
      · exact withRead_relist (fun _ _ => cpytSource_relist)

@[simp] theorem runCpzTile_relist {x : Ctx} {c : Cmd} {o : CD} : runCpzTile (relist p s) x c o = (runCpzTile s x c o).relist p := by
  unfold runCpzTile
  grind [CpRes.relist, putTile_relist]

@[simp] theorem writeSectors_relist {x : Ctx} {c : Cmd} {a : Nat} {bs : List Byte} {f : Nat} :
    writeSectors (relist p s) x c a bs f = (relist p (writeSectors s x c a bs f).1, (writeSectors s x c a bs f).2) := by
  induction f generalizing s a bs with
  | zero => rfl
  | succ f ih =>
    unfold writeSectors
    simp only [ownLoc_relist]
    split
    · rfl
    obtain ⟨s1, l⟩ := ownLoc s x c a true
    cases l with
    | here q comp =>
      simp only [writePlace_relist, ← apply_ite (relist p), nibblePlace_relist, nibblePut_relist, homeStored_relist]
      exact ih
    | far n r b => rfl
    | wait y z => rfl
    | bad k b => rfl

@[simp] theorem amaxWord_relist {x : Ctx} {c : Cmd} {va a : Nat} :
    amaxWord (relist p s) x c va a = (relist p (amaxWord s x c va a).1, (amaxWord s x c va a).2) := by
  unfold amaxWord
  grind [rmwAt_relist, ownLoc_relist, nibblePlace_relist, rawSector_relist]

@[simp] theorem cpstEnd_relist {x : Ctx} {c : Cmd} {a above : Nat} {checked made : List (Nat × Nat)} :
    cpstEnd (relist p s) x c a above checked made = (cpstEnd s x c a above checked made).relist p := by
  unfold cpstEnd
  grind [CpRes.relist, postRecs_relist, amaxWord_relist]

@[simp] theorem amaxWait_relist {x : Ctx} {c : Cmd} : amaxWait (relist p s) x c = amaxWait s x c := by
  simp [amaxWait]

theorem cpstPut_relist {x : Ctx} {c : Cmd} {e : HEntry} {bs : List Byte} {checked : List (Nat × Nat)} {fin : State → CpRes}
    (hf : ∀ t, fin (relist p t) = (fin t).relist p) :
    cpstPut (relist p s) x c e bs checked fin = (cpstPut s x c e bs checked fin).relist p := by
  unfold cpstPut
  simp only [writeWait_relist, amaxWait_relist, writeSectors_relist, writeRange_relist]
  generalize (writeWait s x c 0 (e.base + bits c.desc.toNat 95 64 * tileLen (hFmt e)) bs.length).or (amaxWait s x c) = y
  cases y with
  | some y => rfl
  | none =>
    dsimp only
    split
    · obtain ⟨s1, r⟩ := writeSectors s x c (e.base + bits c.desc.toNat 95 64 * tileLen (hFmt e)) bs (bs.length / 512 + 1)
      cases r with
      | none => exact hf s1
      | some r => exact withRecs_relist (r := .fail s1 [] r.1 r.2)
    · obtain ⟨s1, r⟩ := writeRange s x c 0 (e.base + bits c.desc.toNat 95 64 * tileLen (hFmt e)) bs
      dsimp only
      generalize r.sent = l
      cases r.bad with
      | some b => exact withRecs_relist (r := .fail s1 l b.1 b.2)
      | none =>
        dsimp only
        rw [hf]
        cases fin s1 with
        | ok u => cases l <;> rfl
        | stop u n l' y z => rfl
        | pend u n l' k => rfl
        | fail u l' k a => rfl

@[simp] theorem cpstTile_relist {x : Ctx} {c : Cmd} {o : CD} {e : HEntry} {fs : Fmt} {bs : List Byte} :
    cpstTile (relist p s) x c o e fs bs = (cpstTile s x c o e fs bs).relist p := by
  unfold cpstTile
  simp only [cpCheck_relist]
  cases cpCheck s c fs bs true with
  | bad r => rfl
  | ok s1 u recs =>
    simp only [Checked.relist]
    rw [cpstPut_relist (fun _ => cpstEnd_relist), uncounted_relist]

@[simp] theorem runCpst_relist {x : Ctx} {c : Cmd} {o : CD} : runCpst (relist p s) x c o = (runCpst s x c o).relist p := by
  unfold runCpst
  simp only [seeEntry_relist]
  split
  · rfl
  obtain ⟨s1, e⟩ := seeEntry s x c.hidx
  cases e with
  | none => simp only [entryAddr_relist]; rfl
  | some e =>
    simp only [findFmt_relist]
    split
    · rfl
    obtain ⟨s2, r⟩ := findFmt s1 x c 0 (bits c.desc.toNat 55 0) probes
    cases r with
    | stop r => rfl
    | none => exact cpChkFail_relist
    | fmt f => exact withTile_relist (fun _ _ => cpstTile_relist)

@[simp] theorem runCpxOut_relist {x : Ctx} {c : Cmd} : runCpxOut (relist p s) x c = (runCpxOut s x c).relist p := by
  unfold runCpxOut
  simp only [seeEntry_relist]
  split
  · rfl
  obtain ⟨s1, e⟩ := seeEntry s x c.hidx
  cases e with
  | none => simp only [entryAddr_relist]; rfl
  | some e =>
    dsimp only
    cases cpxMeta e c.desc.toNat with
    | none => exact withWrite_relist (fun _ => rfl)
    | some m => exact withRead_relist (fun _ _ => withWrite_relist (fun _ => rfl))

@[simp] theorem runCpxIn_relist {x : Ctx} {c : Cmd} : runCpxIn (relist p s) x c = (runCpxIn s x c).relist p := by
  unfold runCpxIn
  simp only [seeEntry_relist]
  split
  · rfl
  obtain ⟨s1, e⟩ := seeEntry s x c.hidx
  cases e with
  | none => simp only [entryAddr_relist]; rfl
  | some e =>
    refine withRead_relist (fun t bs => ?_)
    cases cpxMeta e c.desc.toNat with
    | none => rfl
    | some m => exact withWrite_relist (fun _ => rfl)

@[simp] theorem qpPlace_relist {qp off : Nat} : qpPlace (relist p s) qp off = qpPlace s qp off := rfl

@[simp] theorem qpWord_relist {qp i : Nat} : qpWord (relist p s) qp i = qpWord s qp i := by
  simp [qpWord]

@[simp] theorem setQpWord_relist {qp i v : Nat} : setQpWord (relist p s) qp i v = relist p (setQpWord s qp i v) := by
  simp [setQpWord]

@[simp] theorem qpReady_relist {qp port : Nat} : qpReady (relist p s) qp port = qpReady s qp port := rfl

@[simp] theorem qpAdvance_relist {qp n : Nat} : qpAdvance (relist p s) qp n = relist p (qpAdvance s qp n) := by
  simp [qpAdvance]

@[simp] theorem rdmaParts_relist {m : RdmaMsg} : rdmaParts (relist p s) m = rdmaParts s m := rfl

@[simp] theorem rdmaSend_relist {l : List RdmaMsg} : rdmaSend (relist p s) l = relist p (rdmaSend s l) := rfl

@[simp] theorem sendRdma_relist {c : Cmd} {m0 : RdmaMsg} : sendRdma (relist p s) c m0 = relist p (sendRdma s c m0) := by
  simp [sendRdma]

@[simp] theorem runCpn_relist {x : Ctx} {c : Cmd} {rd : Bool} : runCpn (relist p s) x c rd = (runCpn s x c rd).relist p := by
  unfold runCpn
  simp only [qpReady_relist, sendRdma_relist]
  split
  · rfl
  generalize (if rd then rdmaData x c else none) = o
  cases o with
  | some bs => exact withWrite_relist (fun _ => rfl)
  | none =>
    dsimp only
    split
    · rfl
    split
    · rfl
    · exact withRead_relist (fun t bs => by simp only [sendRdma_relist]; rfl)

@[simp] theorem collSpecOf_relist {c : Cmd} {cl tag : Nat} : collSpecOf (relist p s) c cl tag = collSpecOf s c cl tag := rfl

def Near.relist (p : Nat × Nat) (r : Near) : Near := { r with s := Machine.relist p r.s }

theorem nearBlocks_relist {g : Nat × Nat × Nat} {q : CollSpec} {l : List Block} {r : Near} :
    nearBlocks g q l (r.relist p) = (nearBlocks g q l r).relist p := by
  induction l generalizing r with
  | nil => rfl
  | cons k l ih =>
    unfold nearBlocks
    rw [show (r.relist p).s = relist p r.s from rfl, applyBlock_relist]
    cases applyBlock r.s g q k with
    | nack => rfl
    | done s1 a b c => exact ih (r := { r with s := s1, nonfin := r.nonfin + b.toNat, novalid := r.novalid + c.toNat, firstNv := if c && r.novalid = 0 then k.b else r.firstNv })

@[simp] theorem collNear_relist {c : Cmd} {g : Nat × Nat × Nat} {q : CollSpec} {ks : List Block} :
    collNear (relist p s) c g q ks = (collNear s c g q ks).relist p := by
  unfold collNear
  rw [show ({ s := relist p s, nonfin := 0, novalid := 0, firstNv := 0, bad := none } : Near) =
    ({ s := s, nonfin := 0, novalid := 0, firstNv := 0, bad := none } : Near).relist p from rfl, nearBlocks_relist]
  dsimp only
  generalize nearBlocks g q ks { s := s, nonfin := 0, novalid := 0, firstNv := 0, bad := none } = r
  obtain ⟨t, n, m, k, b⟩ := r
  cases b with
  | some b => rfl
  | none =>
    simp only [Near.relist, collSignal_relist, ← apply_ite (relist p), postRecs_relist]
    rfl

@[simp] theorem sendReliable_relist {c : Cmd} {node : Nat} {q : CollSpec} {ks : List Block} :
    sendReliable (relist p s) c node q ks = (relist p (sendReliable s c node q ks).1, (sendReliable s c node q ks).2) :=
  foldl_pair_relist (r := (s, [])) (fun t q => by dsimp only; rw [sendReq_relist]) ks

@[simp] theorem sendLossy_relist {c : Cmd} {node : Nat} {q : CollSpec} {ks : List Block} :
    sendLossy (relist p s) c node q ks = (relist p (sendLossy s c node q ks).1, (sendLossy s c node q ks).2) := by
  simp [sendLossy]

@[simp] theorem collHere_relist {c : Cmd} {g : Nat × Nat × Nat} {src st : List Byte} :
    collHere (relist p s) c g src st = (collHere s c g src st).relist p := by
  unfold collHere
  grind [CpRes.relist, nodeNo_relist, sendLossy_relist, collSpecOf_relist, collNear_relist]

@[simp] theorem collSend_relist {x : Ctx} {c : Cmd} {src st : List Byte} :
    collSend (relist p s) x c src st = (collSend s x c src st).relist p := by
  unfold collSend
  grind [CpRes.relist, taggedGang_relist, sendReliable_relist, collHere_relist, nodeNo_relist, sendLossy_relist, collSpecOf_relist, findIter_relist, reachable_relist]

@[simp] theorem runColl_relist {x : Ctx} {c : Cmd} : runColl (relist p s) x c = (runColl s x c).relist p := by
  unfold runColl
  simp only [postRecs_relist]
  split
  · rfl
  refine withRead_relist (fun t bs => ?_)
  split
  · exact collSend_relist
  · exact withRead_relist (fun _ _ => collSend_relist)

@[simp] theorem runCp_relist {x : Ctx} {c : Cmd} : runCp (relist p s) x c = (runCp s x c).relist p := by
  unfold runCp
  grind [CpRes.relist, runCpst_relist, runCpxOut_relist, runCpn_relist, runCpz_relist, runCpxIn_relist, runColl_relist, runCpyt_relist, runCpzTile_relist, runCpy_relist]

@[simp] theorem farFailure_relist {x : Ctx} {c : Cmd} {k a : Nat} : farFailure (relist p s) x c k a = (farFailure s x c k a).relist p := by
  unfold farFailure
  simp [CpRes.relist, Found.relist]
  grind [CpRes.relist, Found.relist, cpChkFail_relist, findFmt_relist]

@[simp] theorem advanceCp_relist {x : Ctx} {c : Cmd} : advanceCp (relist p s) x c = (advanceCp s x c).relist p := by
  unfold advanceCp
  grind [CpRes.relist, runCp_relist, farFailure_relist]

@[simp] theorem cpWaits_relist {c : Cmd} : cpWaits (relist p s) c = cpWaits s c := by
  unfold cpWaits
  simp only [cmdOwner_relist, startHold_relist, advanceCp_relist]
  cases cmdOwner s c with
  | none => rfl
  | some x =>
    dsimp only
    cases advanceCp s x c <;> rfl

@[simp] theorem waitstateCp_relist {cl core : Nat} : waitstateCp (relist p s) cl core = waitstateCp s cl core := by
  unfold waitstateCp
  rw [getCore_relist, show cpWaits (relist p s) = cpWaits s from funext (fun _ => cpWaits_relist)]

@[simp] theorem waitstateArr_relist {cl : Nat} : waitstateArr (relist p s) cl = waitstateArr s cl := by
  simp [waitstateArr]

@[simp] theorem arrWhat_relist {cl : Nat} : arrWhat (relist p s) cl = arrWhat s cl := by
  simp [arrWhat]

@[simp] theorem waitstateMx_relist {cl core : Nat} : waitstateMx (relist p s) cl core = waitstateMx s cl core := by
  simp [waitstateMx]

@[simp] theorem ctxidOf_relist {x : Ctx} : ctxidOf (relist p s) x = ctxidOf s x := rfl

@[simp] theorem pairmodeOf_relist {cl : Nat} : pairmodeOf (relist p s) cl = pairmodeOf s cl := by
  simp [pairmodeOf]

@[simp] theorem devtimeL_relist : devtimeL (relist p s) = devtimeL s := rfl

@[simp] theorem devtimeH_relist : devtimeH (relist p s) = devtimeH s := rfl

@[simp] theorem registerOf_relist {x : Ctx} {n : Nat} : registerOf (relist p s) x n = registerOf s x n := by
  simp [registerOf]

end

end Sys2Proof.Machine
end

section
/-!
Control registers (06 R187, R188) and the settlement of O28.
-/
namespace Sys2Proof.Machine

section
variable {s : State} {x : Ctx}

/-! ## The machine at the start of an issue -/

/-- Whether a command was queued before the issue in progress. -/
def queuedBefore (x : Ctx) (c : Cmd) : Bool := !(c.ctx == x.id && c.iter == x.env.iter && decide (x.issueSeq.toNat ≤ c.seq))

/-- The reading core without the commands of the issue in progress. -/
def coreBefore (x : Ctx) (y : Core) : Core := { y with mxq := y.mxq.filter (queuedBefore x), cpq := y.cpq.filter (queuedBefore x) }

theorem asOfIssue_eq : asOfIssue s x = modCore s x.id.cl x.id.core (coreBefore x) := rfl

/-- Where the issue in progress has queued nothing, the machine is read as it stands. -/
theorem asOfIssue_relist (h : ∀ c ∈ (getCore s x.id.cl x.id.core).mxq ++ (getCore s x.id.cl x.id.core).cpq,
    c.ctx = x.id → c.iter = x.env.iter → c.seq < x.issueSeq.toNat) : asOfIssue s x = relist (x.id.cl, x.id.core) s := by
  have hq : ∀ c ∈ (getCore s x.id.cl x.id.core).mxq ++ (getCore s x.id.cl x.id.core).cpq, queuedBefore x c = true := by
    intro c hc
    have := h c hc
    simp only [queuedBefore, Bool.not_eq_true', Bool.and_eq_false_iff, beq_eq_false_iff_ne, decide_eq_false_iff_not]
    by_cases h1 : c.ctx = x.id
    · by_cases h2 : c.iter = x.env.iter
      · exact .inr (Nat.not_le.mpr (this h1 h2))
      · exact .inl (.inr h2)
    · exact .inl (.inl h1)
  have hy : coreBefore x (getCore s x.id.cl x.id.core) = getCore s x.id.cl x.id.core := by
    unfold coreBefore
    rw [List.filter_eq_self.mpr (fun c hc => hq c (List.mem_append_left _ hc)),
      List.filter_eq_self.mpr (fun c hc => hq c (List.mem_append_right _ hc))]
  rw [asOfIssue_eq, modCore, hy]
  rfl

theorem getCore_asOfIssue : getCore (asOfIssue s x) x.id.cl x.id.core = coreBefore x (getCore s x.id.cl x.id.core) :=
  getCore_modCore_self s x.id.cl x.id.core (coreBefore x)

theorem getPair_asOfIssue (j : Nat) : getPair (asOfIssue s x) x.id.cl j = getPair s x.id.cl j := by
  unfold getPair
  rw [asOfIssue_eq, modCore, putCore, getCl_modCl_self]
  rfl

theorem leaseMax_asOfIssue : (getCl (asOfIssue s x) x.id.cl).leaseMax = (getCl s x.id.cl).leaseMax := by
  rw [asOfIssue_eq, modCore, putCore, getCl_modCl_self]

theorem pairmodeOf_asOfIssue : pairmodeOf (asOfIssue s x) x.id.cl = pairmodeOf s x.id.cl := by
  simp only [pairmodeOf, getPair_asOfIssue]

/-- Every register but the wait states reads as the machine stands. -/
theorem registerOf_asOfIssue {n : Nat} (h : n ∉ [0x040, 0x041, 0x042]) : registerOf (asOfIssue s x) x n = registerOf s x n := by
  simp only [List.mem_cons, List.not_mem_nil, or_false, not_or] at h
  obtain ⟨h1, h2, h3⟩ := h
  unfold registerOf
  simp only [getCore_asOfIssue, pairmodeOf_asOfIssue, leaseMax_asOfIssue]
  split
  case h_21 | h_22 | h_23 => contradiction
  all_goals rfl

end

/-! ## The instructions -/

section
variable (o : YF)

/-- What a control register reads as at the start of the issue. -/
def csrOld (x : Ctx) (s : State) : Nat := registerOf (asOfIssue s x) x (yCsr o)

theorem yieldsIf_csrr : YieldsIf (.csrr o) (fun _ _ _ => True) (fun _ _ s => s) (fun x s => [(.s o.d.toNat, csrOld o x s)]) :=
  yieldsIf_of (so := opCsrr o) (t := .sy) (fun _ => rfl) rfl rfl (by decide) (fun _ hj => nomatch hj) (fun _ _ _ _ => rfl)

theorem yieldsIf_csrw : YieldsIf (.csrw o) (fun _ _ _ => True) (fun _ x s => setRegister s x (yCsr o) (rdS x o.a.toNat).toNat true)
    (fun x s => [(.s o.d.toNat, csrOld o x s)]) :=
  yieldsIf_of (so := opCsrw o) (t := .sy) (fun _ => rfl) rfl rfl (by decide) (fun _ hj => nomatch hj) (fun _ _ _ _ => rfl)

theorem yieldsIf_csrs : YieldsIf (.csrs o) (fun _ _ _ => True)
    (fun _ x s => setRegister s x (yCsr o) (csrOld o x s ||| (rdS x o.a.toNat).toNat) false) (fun x s => [(.s o.d.toNat, csrOld o x s)]) :=
  yieldsIf_of (so := opCsrs o) (t := .sy) (fun _ => rfl) rfl rfl (by decide) (fun _ hj => nomatch hj) (fun _ _ _ _ => rfl)

theorem yieldsIf_csrc : YieldsIf (.csrc o) (fun _ _ _ => True)
    (fun _ x s => setRegister s x (yCsr o) (csrOld o x s &&& (2 ^ 64 - 1 - (rdS x o.a.toNat).toNat)) false)
    (fun x s => [(.s o.d.toNat, csrOld o x s)]) := by
  refine yieldsIf_of (so := opCsrc o) (t := .sy) (fun _ => rfl) rfl rfl (by decide) (fun _ hj => nomatch hj) ?_
  intro is x s _
  have hv : sa o x % 2 ^ 64 = (rdS x o.a.toNat).toNat := Nat.mod_eq_of_lt (rdS x o.a.toNat).isLt
  show OpRes.ok (setRegister s x (yCsr o) (csrOld o x s &&& (2 ^ 64 - 1 - sa o x % 2 ^ 64)) false) _ 0 = _
  rw [hv]
  rfl

end

/-- Settles O28: the wait states read the machine alike where a core is listed again, every other register by its own part. -/
theorem controlRegisterAccess : Obligations.ControlRegisterAccess := by
  refine ⟨fun o => ⟨yieldsIf_csrr o, yieldsIf_csrw o, yieldsIf_csrs o, yieldsIf_csrc o⟩, fun s x n h => ?_⟩
  obtain h | h := h
  · exact registerOf_asOfIssue h
  · rw [asOfIssue_relist h, registerOf_relist]

end Sys2Proof.Machine
end
